-- ==== Sys2Proof/Word.lean ====
section
/-! DEFINITION. Words, bit ranges and finite maps: the plainest data of the model. -/

namespace Sys2Proof

/-- One byte of any array or memory (R3). -/
abbrev Byte := BitVec 8
/-- One 16-bit element. -/
abbrev Half := BitVec 16
/-- One vector register word (R92). -/
abbrev Word := BitVec 32
/-- One 64-bit control register or register pair (R92, R377). -/
abbrev Dword := BitVec 64
/-- A set of lanes of one group; bit l is lane l (R60). -/
abbrev LaneSet := BitVec 32

/-- `bits(x, h, l)` of R32: bits h down to l, as an unsigned integer. -/
def bits (x h l : Nat) : Nat := (x >>> l) % 2 ^ (h + 1 - l)

/-- `sext(x, n)` of R32: the low n bits of x read as signed. -/
def sext (x n : Nat) : Int :=
  let y := x % 2 ^ n
  if 2 * y < 2 ^ n then (y : Int) else (y : Int) - 2 ^ n

/-- An integer wrapped to n bits (R40). -/
def wrap (n : Nat) (x : Int) : Nat := (x % (2 ^ n : Int)).toNat

/-- The smallest multiple of u that is at least x. -/
def roundUp (x u : Nat) : Nat := (x + u - 1) / u * u

/-- ceil(x / y). -/
def ceilDiv (x y : Nat) : Nat := (x + y - 1) / y

/-- Bit test. -/
def hasBit (x i : Nat) : Bool := (x >>> i) % 2 == 1

/-- The lanes of a group in ascending order (R60). -/
def allLanes : List Nat := List.range 32

/-- Membership of a lane in a lane set. -/
def LaneSet.has (m : LaneSet) (l : Nat) : Bool := m.getLsbD l

/-- The lanes of a set in ascending order. -/
def LaneSet.lanes (m : LaneSet) : List Nat := allLanes.filter (fun l => m.getLsbD l)

/-- The set with the given lanes. -/
def LaneSet.ofList (ls : List Nat) : LaneSet :=
  ls.foldl (fun m l => m ||| ((1#32) <<< l)) 0#32

/-- Lanes of a predicate on lanes. -/
def LaneSet.filter (m : LaneSet) (p : Nat → Bool) : LaneSet :=
  LaneSet.ofList ((LaneSet.lanes m).filter p)

/-- A finite map from numbers, kept with rising keys and one entry a key. -/
abbrev Map (α : Type) := List (Nat × α)

namespace Map
variable {α : Type}

/-- The entry of a key. -/
def get? : Map α → Nat → Option α
  | [], _ => none
  | (k, v) :: m, n => if n = k then some v else get? m n

/-- The entry of a key, or the value that an absent key stands for. -/
def get (m : Map α) (n : Nat) (d : α) : α := (get? m n).getD d

/-- Insert or replace the entry of a key. -/
def put : Map α → Nat → α → Map α
  | [], n, v => [(n, v)]
  | (k, w) :: m, n, v =>
    if n < k then (n, v) :: (k, w) :: m
    else if n = k then (n, v) :: m
    else (k, w) :: put m n v

/-- Remove the entry of a key. -/
def del : Map α → Nat → Map α
  | [], _ => []
  | (k, w) :: m, n => if n = k then del m n else (k, w) :: del m n

/-- Values at rising keys from a. -/
def run (a : Nat) : List α → Map α
  | [] => []
  | v :: vs => (a, v) :: run (a + 1) vs

/-- The entries below a, those of another map, and those from b on. -/
def splice (m : Map α) (a b : Nat) (mid : Map α) : Map α :=
  m.filter (fun kv => kv.1 < a) ++ mid ++ m.filter (fun kv => b ≤ kv.1)

/-- Rising keys. -/
def sorted : Map α → Bool
  | [] => true
  | [_] => true
  | (k, _) :: (k', w) :: m => k < k' && sorted ((k', w) :: m)

/-- Change every value. -/
def mapVals {β : Type} (f : Nat → α → β) (m : Map α) : Map β := m.map (fun kv => (kv.1, f kv.1 kv.2))

end Map

/-- Change the first element that satisfies a test. -/
def modifyFirst {α : Type} (p : α → Bool) (f : α → α) : List α → List α
  | [] => []
  | x :: xs => if p x then f x :: xs else x :: modifyFirst p f xs

/-- Change every element that satisfies a test. -/
def modifyAll {α : Type} (p : α → Bool) (f : α → α) (xs : List α) : List α :=
  xs.map (fun x => if p x then f x else x)

/-- The little-endian bytes of a number, n of them (R3). -/
def leBytes (x n : Nat) : List Byte := (List.range n).map (fun i => BitVec.ofNat 8 (x >>> (8 * i)))

/-- The number that little-endian bytes stand for (R3). -/
def ofLeBytes : List Byte → Nat
  | [] => 0
  | b :: bs => b.toNat + 256 * ofLeBytes bs

/-- The number that big-endian bytes stand for (R460, R463). -/
def ofBeBytes (bs : List Byte) : Nat := bs.foldl (fun x b => 256 * x + b.toNat) 0

end Sys2Proof
end

