-- ==== Sys2Proof/Config.lean ====
section
/-! DEFINITION. The values that the manual leaves open: opaque constants of which nothing is known. -/

namespace Sys2Proof.Config

/-- A byte of an array whose contents the manual calls undefined (R115, R154, R459): of the array filled under a
nonce, at an address (log entry 5). -/
opaque freeByte (nonce address : Nat) : Byte

/-- What a byte of a protected page reads as once the key that it was written under has been zeroised: undefined ciphertext
(R415; log entry 16): the key it was written under, the key of the view, its physical address. -/
opaque cipherByte (written view address : Nat) : Byte

/-- A byte of an SPDM response that the manual does not give: certificate, signature, nonce or capability bytes (R413,
R466; log entry 15): the nonce of the response and the byte's place. -/
opaque spdmByte (nonce place : Nat) : Byte

/-- The rest of an SPDM response whose contents the manual does not give (R413; log entry 15): the nonce of the
response. -/
opaque spdmBody (nonce : Nat) : List Byte

/-- Whether the boost envelope of the device holds a lease (R394): the power that the device draws is not part of the
manual (log entry 28): a nonce. -/
opaque envelopeHolds (nonce : Nat) : Bool

/-- Which entry of a full cache, of a full set of the L2 or of a full set of an instruction cache is replaced (R184, R186,
R230, R374; log entry 92): a nonce. -/
opaque victim (nonce : Nat) : Nat

/-- The ticks that the change of a cluster's voltage takes before its clock stops (R395; log entry 88): a nonce, the
cluster. -/
opaque voltageTicks (nonce cluster : Nat) : Nat

/-- The number that GETID gives a team that drains on a core or a cluster out of use (R1; log entry 89): a nonce, the
selector. -/
opaque unitNumber (nonce selector : Nat) : Nat

/-- How many entries of a ready queue the device keeps on chip (R234; log entry 18). -/
opaque queueOnChip : Nat

/-- The fabric device number of this device (R308, R310; log entry 99). -/
opaque deviceNumber : Nat

/-- The fabric ports of this device that lie on a minimal route to a device (R403; log entry 99). -/
opaque minimalPorts (dest : Nat) : List Nat

/-- The fabric port of this device on the escape channel's route to a device (R403; log entry 99). -/
opaque escapePort (dest : Nat) : Nat

/-- Cycles of the router clock in a number of ticks (R403; log entry 99): the manual gives its frequency nowhere. -/
opaque routerCycles (ticks : Nat) : Nat

/-- The fleet's observed mean hours between device failures, and the number of devices of a partition's job, which the fleet
manager tells Gritus (R407; log entry 100): a nonce. -/
opaque fleetHours (nonce : Nat) : Nat

/-- The number of devices of a partition's job (R407; log entry 100): a nonce, the partition. -/
opaque jobDevices (nonce part : Nat) : Nat

/-- A byte of an in-flight block, of the engine command area or of a gate frame, of a layout that only the device
reads (R252, R316, R363; log entry 19). -/
opaque privateByte (nonce address : Nat) : Byte

/-- The rounded value of a special function at an argument where the model's interval evaluation does not separate
two neighbours (R144): function code, format code, argument bits (log entry 21). -/
opaque functionBits (function format argument : Nat) : Nat

end Sys2Proof.Config
end

