-- ==== Sys2Proof/Machine/Float.lean ====
section
/-! DEFINITION. Floating-point formats and exact arithmetic with one rounding (R41–R56): decoding, rounding, overflow,
NaN rules, the operations of the vector pipes, and the special functions by interval evaluation. -/

namespace Sys2Proof.Machine

/-! ## Formats -/

/-- A floating-point format (R41): exponent bits, mantissa bits, bias, and what the top exponent means: 0 infinity and
NaN, 1 the .e4m3 rule, 2 finite. -/
structure Fmt where
  code : Nat
  e : Nat
  m : Nat
  bias : Nat
  kind : Nat
deriving DecidableEq, Repr

/-- The format of a type code of R24, .f64 to .e2m1. -/
def fmtOf (code : Nat) : Fmt :=
  if code = 13 then ⟨13, 11, 52, 1023, 0⟩ else if code = 14 then ⟨14, 8, 23, 127, 0⟩
  else if code = 15 then ⟨15, 5, 10, 15, 0⟩ else if code = 16 then ⟨16, 8, 7, 127, 0⟩
  else if code = 17 then ⟨17, 4, 3, 7, 1⟩ else if code = 18 then ⟨18, 5, 2, 15, 0⟩
  else if code = 19 then ⟨19, 3, 2, 3, 2⟩ else if code = 20 then ⟨20, 2, 3, 1, 2⟩ else ⟨21, 2, 1, 1, 2⟩

/-- The width of a format in bits. -/
def Fmt.width (f : Fmt) : Nat := 1 + f.e + f.m

/-- The canonical NaN (R43); +0 where the format has none. -/
def qnan (f : Fmt) : Nat :=
  if f.kind = 0 then (2 ^ f.e - 1) * 2 ^ f.m + 2 ^ (f.m - 1) else if f.kind = 1 then 0x7F else 0

/-- Infinity of a sign in a format that has one. -/
def infBits (f : Fmt) (neg : Bool) : Nat := (if neg then 2 ^ (f.e + f.m) else 0) + (2 ^ f.e - 1) * 2 ^ f.m

/-- The mantissa and exponent of the largest finite value (R41): it is first × 2 to the second. -/
def maxFinite (f : Fmt) : Nat × Int :=
  if f.kind = 0 then (2 ^ (f.m + 1) - 1, (2 ^ f.e - 2 : Nat) - (f.bias : Int) - f.m)
  else if f.kind = 1 then (14, 5)
  else (2 ^ (f.m + 1) - 1, (2 ^ f.e - 1 : Nat) - (f.bias : Int) - f.m)

/-- The bits of the largest finite value of a sign. -/
def maxBits (f : Fmt) (neg : Bool) : Nat :=
  (if neg then 2 ^ (f.e + f.m) else 0) +
  (if f.kind = 0 then (2 ^ f.e - 1) * 2 ^ f.m - 1 else if f.kind = 1 then 0x7E else 2 ^ (f.e + f.m) - 1)

/-- What bits of a format denote (R41, R43): a NaN, an infinity, or sign and magnitude mantissa × 2 to the exponent. -/
inductive FVal where
  | nan (signalling : Bool)
  | inf (neg : Bool)
  | num (neg : Bool) (mant : Nat) (exp : Int)
deriving DecidableEq, Repr

/-- Decode the bits of a format (R41). -/
def decodeFloat (f : Fmt) (x : Nat) : FVal :=
  let x := x % 2 ^ f.width
  let neg := hasBit x (f.e + f.m)
  let e := x >>> f.m % 2 ^ f.e
  let m := x % 2 ^ f.m
  if f.kind = 0 ∧ e = 2 ^ f.e - 1 then (if m = 0 then .inf neg else .nan (!hasBit m (f.m - 1)))
  else if f.kind = 1 ∧ x % 128 = 127 then .nan false
  else if e = 0 then .num neg m (1 - (f.bias : Int) - f.m)
  else .num neg (2 ^ f.m + m) ((e : Int) - f.bias - f.m)

/-- The value is a NaN. -/
def FVal.isNan : FVal → Bool
  | .nan _ => true
  | _ => false

/-- The value is a signalling NaN. -/
def FVal.isSnan : FVal → Bool
  | .nan s => s
  | _ => false

/-- The value is an infinity. -/
def FVal.isInf : FVal → Bool
  | .inf _ => true
  | _ => false

/-- The value is a zero. -/
def FVal.isZero : FVal → Bool
  | .num _ 0 _ => true
  | _ => false

/-- The sign of a value. -/
def FVal.neg : FVal → Bool
  | .nan _ => false
  | .inf n => n
  | .num n _ _ => n

/-- Set the quiet bit (R51). -/
def quiet (f : Fmt) (x : Nat) : Nat := x ||| 2 ^ (f.m - 1)

/-- The bits are a denormal. -/
def isDenormal (f : Fmt) (x : Nat) : Bool := x >>> f.m % 2 ^ f.e == 0 && x % 2 ^ f.m != 0

/-- CR_FP_MODE flushes the format (R49, R54). -/
def flushes (mode : Nat) (f : Fmt) : Bool :=
  if f.code = 13 then hasBit mode 7 else if f.code = 14 ∨ f.code = 16 then hasBit mode 6
  else if f.code = 15 then hasBit mode 5 else false

/-- A denormal source is flushed to a zero of its sign (R49). -/
def flushSource (mode : Nat) (f : Fmt) (x : Nat) : Nat :=
  if flushes mode f && isDenormal f x then x / 2 ^ (f.e + f.m) % 2 * 2 ^ (f.e + f.m) else x

/-- The flags in the layout of CR_FP_FLAGS (R54). -/
def flagNV : BitVec 5 := 1
/-- Division by zero. -/
def flagDZ : BitVec 5 := 2
/-- Overflow. -/
def flagOF : BitVec 5 := 4
/-- Underflow. -/
def flagUF : BitVec 5 := 8
/-- Inexact. -/
def flagNX : BitVec 5 := 16

/-! ## Exact values and rounding -/

/-- An exact value num × 2 to the exp; `sticky` adds a magnitude below every bit of it. -/
structure Dy where
  num : Int
  exp : Int
  sticky : Bool := false
deriving DecidableEq, Repr

/-- Two to an exponent difference, as a factor. -/
def pow2 (e : Int) : Nat := 2 ^ e.toNat

/-- Exact sum. -/
def Dy.add (x y : Dy) : Dy :=
  let e := min x.exp y.exp
  ⟨x.num * pow2 (x.exp - e) + y.num * pow2 (y.exp - e), e, x.sticky || y.sticky⟩

/-- Exact product. -/
def Dy.mul (x y : Dy) : Dy := ⟨x.num * y.num, x.exp + y.exp, x.sticky || y.sticky⟩

/-- Negation. -/
def Dy.negate (x : Dy) : Dy := { x with num := - x.num }

/-- Scale by a power of two, whose exponent is kept where every format overflows or vanishes. -/
def Dy.scale (x : Dy) (n : Int) : Dy := { x with exp := x.exp + max (-8000) (min 8000 n) }

/-- Compare two exact values. -/
def Dy.lt (x y : Dy) : Bool := (x.add y.negate).num < 0

/-- The exact value of a finite decoded number. -/
def FVal.dy : FVal → Dy
  | .num neg m e => ⟨if neg then -(m : Int) else m, e, false⟩
  | _ => ⟨0, 0, false⟩

/-- The rounded magnitude, as a mantissa and an exponent, and whether it is inexact (R44, R45). The least exponent of a
mantissa of `m` bits is `low`; the range above is unbounded. -/
def roundMag (m : Nat) (low : Int) (mode r : Nat) (neg : Bool) (mag : Nat) (exp : Int) (sticky : Bool) :
    Nat × Int × Bool :=
  if mag = 0 then (0, low, sticky)
  else
    let u := max ((Nat.log2 mag : Int) + exp - m) low
    if u ≤ exp then (mag * pow2 (exp - u), u, sticky)
    else
      let d := pow2 (u - exp)
      let q := mag / d
      let rem := mag % d
      let inexact := rem != 0 || sticky
      let up := match mode with
        | 0 => d < 2 * rem || (2 * rem == d && (sticky || q % 2 == 1))
        | 1 => false
        | 2 => inexact && neg
        | 3 => inexact && !neg
        | _ => 2 ^ 32 ≤ rem * 2 ^ 32 / d + r
      (if up then q + 1 else q, u, inexact)

/-- The bits of a sign, a mantissa and its exponent inside the format's range. -/
def packMag (f : Fmt) (neg : Bool) (q : Nat) (u : Int) : Nat :=
  let s := if neg then 2 ^ (f.e + f.m) else 0
  let (q, u) := if q = 2 ^ (f.m + 1) then (2 ^ f.m, u + 1) else (q, u)
  if q < 2 ^ f.m then s + q
  else s + (u + f.m + f.bias).toNat * 2 ^ f.m + (q - 2 ^ f.m)

/-- The result of an overflow (R46). -/
def overflowBits (f : Fmt) (mode : Nat) (sat neg : Bool) : Nat :=
  let big := if f.kind = 0 then infBits f neg else (if neg then 0x80 else 0) + 0x7F
  if sat || f.kind == 2 then maxBits f neg
  else match mode with
    | 1 => maxBits f neg
    | 2 => if neg then big else maxBits f neg
    | 3 => if neg then maxBits f neg else big
    | _ => big

/-- sat(round_to(x, fmt, mode, r), fmt, mode, s) for an exact x that is not zero, with its flags (R44–R50, R56).
`flush` says that CR_FP_MODE flushes the format. -/
def roundSat (f : Fmt) (mode r : Nat) (sat flush : Bool) (x : Dy) : Nat × BitVec 5 :=
  let neg := x.num < 0
  let low := 1 - (f.bias : Int) - f.m
  let (q, u, inexact) := roundMag f.m low mode r neg x.num.natAbs x.exp x.sticky
  let (fm, fe) := maxFinite f
  if Dy.lt ⟨fm, fe, false⟩ ⟨q, u, false⟩ then (overflowBits f mode sat neg, flagOF ||| flagNX)
  else
    let tiny := q < 2 ^ f.m
    let nx := if inexact then flagNX else 0
    let uf := if tiny && inexact then flagUF else 0
    if tiny && flush && q != 0 then (packMag f neg 0 u, flagUF ||| flagNX)
    else (packMag f neg q u, nx ||| uf)

/-- A zero of a sign. -/
def zeroBits (f : Fmt) (neg : Bool) : Nat := if neg then 2 ^ (f.e + f.m) else 0

/-- The sum of an exact value, rounded; an exact zero takes the sign that IEEE 754 gives (R44). -/
def roundSum (f : Fmt) (mode r : Nat) (sat flush bothNeg : Bool) (x : Dy) : Nat × BitVec 5 :=
  if x.num = 0 then (zeroBits f (bothNeg || mode == 2), 0) else roundSat f mode r sat flush x

/-- The first NaN of a list, quietened, with invalid when any is signalling (R51). -/
def firstNan (f : Fmt) (xs : List Nat) : Option (Nat × BitVec 5) :=
  match xs.find? (fun x => (decodeFloat f x).isNan) with
  | some x => some (quiet f x, if xs.any (fun y => (decodeFloat f y).isSnan) then flagNV else 0)
  | none => none

/-- a + b (R137); both sources are already flushed. -/
def fAdd (f : Fmt) (mode r : Nat) (sat flush : Bool) (a b : Nat) : Nat × BitVec 5 :=
  match firstNan f [a, b] with
  | some res => res
  | none =>
    let x := decodeFloat f a
    let y := decodeFloat f b
    if x.isInf && y.isInf then (if x.neg != y.neg then (qnan f, flagNV) else (infBits f x.neg, 0))
    else if x.isInf then (infBits f x.neg, 0)
    else if y.isInf then (infBits f y.neg, 0)
    else if x.isZero && y.isZero then (zeroBits f (if x.neg == y.neg then x.neg else mode == 2), 0)
    else roundSum f mode r sat flush false (x.dy.add y.dy)

/-- The bits with the other sign. -/
def flipSign (f : Fmt) (x : Nat) : Nat := x ^^^ 2 ^ (f.e + f.m)

/-- a − b (R137); a NaN of b keeps its sign. -/
def fSub (f : Fmt) (mode r : Nat) (sat flush : Bool) (a b : Nat) : Nat × BitVec 5 :=
  match firstNan f [a, b] with
  | some res => res
  | none => fAdd f mode r sat flush a (flipSign f b)

/-- a × b (R137). -/
def fMul (f : Fmt) (mode r : Nat) (sat flush : Bool) (a b : Nat) : Nat × BitVec 5 :=
  match firstNan f [a, b] with
  | some res => res
  | none =>
    let x := decodeFloat f a
    let y := decodeFloat f b
    let neg := x.neg != y.neg
    if x.isInf || y.isInf then (if x.isZero || y.isZero then (qnan f, flagNV) else (infBits f neg, 0))
    else if x.isZero || y.isZero then (zeroBits f neg, 0)
    else roundSat f mode r sat flush (x.dy.mul y.dy)

/-- a × b + c rounded once (R137, R51, R52). -/
def fFma (f : Fmt) (mode : Nat) (sat flush : Bool) (a b c : Nat) : Nat × BitVec 5 :=
  let x := decodeFloat f a
  let y := decodeFloat f b
  let z := decodeFloat f c
  let bad := (x.isInf && y.isZero) || (x.isZero && y.isInf)
  if bad then (if z.isNan then quiet f c else qnan f, flagNV)
  else
    match firstNan f [c, a, b] with
    | some res => res
    | none =>
      let neg := x.neg != y.neg
      if x.isInf || y.isInf then
        (if z.isInf && z.neg != neg then (qnan f, flagNV) else (infBits f neg, 0))
      else if z.isInf then (infBits f z.neg, 0)
      else if (x.isZero || y.isZero) && z.isZero then (zeroBits f (if neg == z.neg then neg else mode == 2), 0)
      else roundSum f mode 0 sat flush false ((x.dy.mul y.dy).add z.dy)

/-- The order of two values that are not NaN, −0 below +0 where `signed` (R138, R90). -/
def fLess (f : Fmt) (signed : Bool) (a b : Nat) : Bool :=
  let x := decodeFloat f a
  let y := decodeFloat f b
  match x, y with
  | .inf n, .inf k => n && !k
  | .inf n, _ => n
  | _, .inf k => !k
  | _, _ => x.dy.lt y.dy || (signed && x.isZero && y.isZero && x.neg && !y.neg)

/-- The smaller or larger of a and b (R138). -/
def fMinMax (f : Fmt) (larger : Bool) (a b : Nat) : Nat × BitVec 5 :=
  match firstNan f [a, b] with
  | some res => res
  | none => (if fLess f true a b != larger then a else b, 0)

/-- The comparisons of R139: 0 eq, 1 ne, 2 lt, 3 le, 4 gt, 5 ge, 6 un, 7 ord, with the flags they raise. -/
def fCompare (f : Fmt) (cond a b : Nat) : Bool × BitVec 5 :=
  let x := decodeFloat f a
  let y := decodeFloat f b
  if x.isNan || y.isNan then
    (cond == 1 || cond == 6,
      if x.isSnan || y.isSnan || (2 ≤ cond && cond ≤ 5) then flagNV else 0)
  else
    let lt := fLess f false a b
    let gt := fLess f false b a
    ((match cond with
      | 0 => !lt && !gt
      | 1 => lt || gt
      | 2 => lt
      | 3 => !gt
      | 4 => gt
      | 5 => !lt
      | 6 => false
      | _ => true), 0)

/-- The class bit of R140, from the raw bits. -/
def fClass (f : Fmt) (a : Nat) : Nat :=
  match decodeFloat f a with
  | .nan true => 2 ^ 8
  | .nan false => 2 ^ 9
  | .inf n => if n then 1 else 2 ^ 7
  | .num n m _ =>
    if m = 0 then (if n then 2 ^ 3 else 2 ^ 4)
    else if isDenormal f a then (if n then 2 ^ 2 else 2 ^ 5)
    else if n then 2 else 2 ^ 6

/-- An integral magnitude by mode (R141, R48). -/
def roundInt (mode r : Nat) (neg : Bool) (mag : Nat) (exp : Int) : Nat × Bool :=
  let (q, u, inexact) := roundMag (Nat.log2 mag + exp.toNat + 1) 0 mode r neg mag exp false
  (q * pow2 u, inexact)

/-- Round to an integral value in the same format (R141). -/
def fRound (f : Fmt) (mode a : Nat) : Nat × BitVec 5 :=
  match decodeFloat f a with
  | .nan s => (quiet f a, if s then flagNV else 0)
  | .inf _ => (a, 0)
  | .num n m e =>
    if m = 0 ∨ 0 ≤ e then (a, 0)
    else
      let (q, _) := roundInt mode 0 n m e
      if q = 0 then (zeroBits f n, 0)
      else (packMag f n (roundMag f.m (1 - (f.bias : Int) - f.m) 0 0 n q 0 false).1
        (roundMag f.m (1 - (f.bias : Int) - f.m) 0 0 n q 0 false).2.1, 0)

/-! ## Division and roots -/

/-- The integer square root, one bit at a time from the top. -/
def isqrtFrom (n : Nat) : Nat → Nat → Nat
  | 0, q => q
  | k + 1, q => if (q + 2 ^ k) * (q + 2 ^ k) ≤ n then isqrtFrom n k (q + 2 ^ k) else isqrtFrom n k q

/-- The integer square root of a number below 2^1024. -/
def isqrt (n : Nat) : Nat := isqrtFrom n (Nat.log2 n / 2 + 1) 0

/-- x / y of two magnitudes, to more bits than any format needs. -/
def divDy (neg : Bool) (x : Nat) (ex : Int) (y : Nat) (ey : Int) : Dy :=
  let n := x * 2 ^ 256
  ⟨if neg then -((n / y : Nat) : Int) else (n / y : Nat), ex - ey - 256, n % y != 0⟩

/-- The square root of a magnitude. -/
def sqrtDy (m : Nat) (e : Int) : Dy :=
  let (m, e) := if e % 2 = 0 then (m, e) else (2 * m, e - 1)
  let n := m * 2 ^ 256
  let q := isqrt n
  ⟨q, e / 2 - 128, q * q != n⟩

/-- The reciprocal of the square root of a magnitude. -/
def rsqrtDy (m : Nat) (e : Int) : Dy :=
  let (m, e) := if e % 2 = 0 then (m, e) else (2 * m, e - 1)
  let q := isqrt (2 ^ 512 / m)
  ⟨q, -(e / 2) - 256, q * q * m != 2 ^ 512⟩

/-! ## Special functions -/

/-- The fixed point of the interval evaluation: 512 fraction bits. -/
def fp : Nat := 512

/-- ln 2 in fixed point, rounded down. -/
def ln2Fixed : Nat := 0xB17217F7D1CF79ABC9E3B39803F2F6AF40F343267298B62D8A0D175B8BAAFA2BE7B876206DEBAC98559552FB4AFA1B10ED2EAE35C138214427573B291169B825

/-- π in fixed point, rounded down. -/
def piFixed : Nat := 0x3243F6A8885A308D313198A2E03707344A4093822299F31D0082EFA98EC4E6C89452821E638D01377BE5466CF34E90C6CC0AC29B7C97C50DD3F84D5B5B5470917

/-- Product in fixed point. -/
def fmulFix (x y : Nat) : Nat := (x * y) >>> fp

/-- The exponential series of a fixed-point x below 1: the sum of x^k / k!. -/
def expSeries (x : Nat) : Nat → Nat → Nat → Nat → Nat
  | 0, _, _, acc => acc
  | n + 1, k, term, acc =>
    let term := fmulFix term x / k
    expSeries x n (k + 1) term (acc + term)

/-- e to a fixed-point x below 1. -/
def expFix (x : Nat) : Nat := expSeries x 130 1 (2 ^ fp) (2 ^ fp)

/-- The series of atanh z: the sum of z^(2k+1) / (2k+1). -/
def atanhSeries (z2 : Nat) : Nat → Nat → Nat → Nat → Nat
  | 0, _, _, acc => acc
  | n + 1, k, term, acc =>
    let term := fmulFix term z2
    atanhSeries z2 n (k + 2) term (acc + term / k)

/-- The natural logarithm of a fixed-point x from 1 to 2. -/
def lnFix (x : Nat) : Nat :=
  let z := (x - 2 ^ fp) * 2 ^ fp / (x + 2 ^ fp)
  2 * atanhSeries (fmulFix z z) 180 3 z z

/-- An alternating series of sin or cos: the terms term × x2 / (k (k+1)) with changing sign. -/
def trigSeries (x2 : Nat) : Nat → Nat → Nat → Int → Int → Int
  | 0, _, _, _, acc => acc
  | n + 1, k, term, sign, acc =>
    let term := fmulFix term x2 / (k * (k + 1))
    trigSeries x2 n (k + 2) term (-sign) (acc + sign * term)

/-- sin of a fixed-point x below 1. -/
def sinFix (x : Nat) : Nat := (trigSeries (fmulFix x x) 80 2 x (-1) x).toNat

/-- cos of a fixed-point x below 1. -/
def cosFix (x : Nat) : Nat := (trigSeries (fmulFix x x) 80 1 (2 ^ fp) (-1) (2 ^ fp)).toNat

/-- A magnitude m × 2^e in fixed point. -/
def toFix (m : Nat) (e : Int) : Nat := if 0 ≤ e + fp then m * pow2 (e + fp) else m / pow2 (-(e + fp))

/-- e to the power of minus a fixed-point magnitude below 2^8, in fixed point. -/
def expNeg (y : Nat) : Nat :=
  let n := y / ln2Fixed + 1
  expFix (n * ln2Fixed - y) >>> n

/-- Round a value known to lie within 2^16 units of a fixed-point magnitude, times a factor (R144): both ends must agree, otherwise the
result is a free value. -/
def roundInterval (code : Nat) (f : Fmt) (arg : Nat) (neg : Bool) (v : Nat) (exp : Int) (factor : Nat := 1) :
    Nat × BitVec 5 :=
  let near := fun (x : Nat) => roundSat f 0 0 false false ⟨if neg then -((x * factor : Nat) : Int) else (x * factor : Nat),
    exp, true⟩
  let lo := near (v - 2 ^ 16)
  let hi := near (v + 2 ^ 16)
  if lo = hi then lo else (Config.functionBits code f.code arg % 2 ^ f.width, flagNX)

/-- A magnitude just below m × 2^e, as its fixed-point neighbour. -/
def justBelow (f : Fmt) (neg : Bool) (m : Nat) (e : Int) : Nat × BitVec 5 :=
  let k : Int := (m * 2 ^ 200 : Nat) - 1
  roundSat f 0 0 false false ⟨if neg then -k else k, e - 200, true⟩

/-- A magnitude below every denormal. -/
def vanishing (f : Fmt) (neg : Bool) : Nat × BitVec 5 :=
  roundSat f 0 0 false false ⟨if neg then -1 else 1, -4000, true⟩

/-- 2 to the power of a finite non-zero .f32 value (R144). -/
def exp2Of (f : Fmt) (arg : Nat) (neg : Bool) (m : Nat) (e : Int) : Nat × BitVec 5 :=
  if 0 ≤ (Nat.log2 m : Int) + e - 9 then
    (if neg then vanishing f false else roundSat f 0 0 false false ⟨1, 4000, true⟩)
  else
    let x := toFix m e
    if x % 2 ^ fp = 0 then
      let n : Int := (x / 2 ^ fp : Nat)
      roundSat f 0 0 false false ⟨1, if neg then -n else n, false⟩
    else
      let whole : Int := if neg then -((x / 2 ^ fp : Nat) : Int) - 1 else (x / 2 ^ fp : Nat)
      let frac := if neg then 2 ^ fp - x % 2 ^ fp else x % 2 ^ fp
      roundInterval 3 f arg false (expFix (fmulFix frac ln2Fixed)) (whole - fp)

/-- log2 of a finite positive .f32 value (R144). -/
def log2Of (f : Fmt) (arg : Nat) (m : Nat) (e : Int) : Nat × BitVec 5 :=
  let k := Nat.log2 m
  let whole : Int := k + e
  if m = 2 ^ k then
    (if whole = 0 then (0, 0) else roundSat f 0 0 false false ⟨whole, 0, false⟩)
  else
    let frac := lnFix (toFix m (-(k : Int))) * 2 ^ fp / ln2Fixed
    let v : Int := whole * (2 ^ fp : Nat) + frac
    roundInterval 4 f arg (v < 0) v.natAbs (-(fp : Int))

/-- sin(π x) of a fixed-point x from 0 to 1/2. -/
def sinPi (x : Nat) : Nat :=
  if x ≤ 2 ^ (fp - 2) then sinFix (fmulFix x piFixed) else cosFix (fmulFix (2 ^ (fp - 1) - x) piFixed)

/-- sin(π a), or cos(π a), of a finite non-zero .f32 value, which fixed point holds exactly (R144). -/
def sinPiOf (code : Nat) (f : Fmt) (arg : Nat) (cosine neg : Bool) (m : Nat) (e : Int) : Nat × BitVec 5 :=
  let two := 2 * 2 ^ fp
  let half := 2 ^ (fp - 1)
  let x := if 0 ≤ e then m * pow2 (min e 200) % 2 * 2 ^ fp else toFix m e % two
  let whole := 0 ≤ e ∨ m % pow2 (-e) = 0
  let x' := if cosine then (x + half) % two else x
  let sneg := if cosine then two / 2 ≤ x' else (two / 2 ≤ x') != neg
  let y := x' % 2 ^ fp
  let y := if half < y then 2 ^ fp - y else y
  if !cosine ∧ whole then (zeroBits f neg, 0)
  else if cosine ∧ y = 0 then (0, 0)
  else if y = half then
    roundSat f 0 0 false false ⟨if sneg then -1 else 1, 0, false⟩
  else roundInterval code f arg sneg (sinPi y) (-(fp : Int))

/-- tanh of a finite non-zero .f32 value (R144). -/
def tanhOf (f : Fmt) (arg : Nat) (neg : Bool) (m : Nat) (e : Int) : Nat × BitVec 5 :=
  if 5 ≤ (Nat.log2 m : Int) + e then justBelow f neg 1 0
  else if (Nat.log2 m : Int) + e < -60 then justBelow f neg m e
  else
    let t := expNeg (2 * toFix m e)
    roundInterval 7 f arg neg ((2 ^ fp - t) * 2 ^ fp / (2 ^ fp + t)) (-(fp : Int))

/-- 1 / (1 + e^−y) of a finite non-zero .f32 value, times y where `silu` (R279). -/
def sigmOf (f : Fmt) (arg : Nat) (silu neg : Bool) (m : Nat) (e : Int) : Nat × BitVec 5 :=
  if 8 ≤ (Nat.log2 m : Int) + e then
    (if neg then vanishing f silu else if silu then justBelow f false m e else justBelow f false 1 0)
  else
    let t := expNeg (toFix m e)
    let v := if neg then t * 2 ^ fp / (2 ^ fp + t) else 2 ^ (2 * fp) / (2 ^ fp + t)
    if silu then roundInterval 9 f arg neg v (e - fp) m else roundInterval 8 f arg false v (-(fp : Int))

/-- The value of a special function (R144): codes 0 FRCP, 1 FRSQ, 2 FSQRT, 3 FEXP2, 4 FLOG2, 5 FSIN, 6 FCOS, 7 FTANH,
8 sigm, 9 silu. The source is already flushed. -/
def special (code : Nat) (f : Fmt) (mode : Nat) (sat flush : Bool) (a : Nat) : Nat × BitVec 5 :=
  let one := roundSat f 0 0 false false ⟨1, 0, false⟩
  let post := fun (x : Nat × BitVec 5) =>
    if flush && isDenormal f x.1 then (zeroBits f (hasBit x.1 (f.e + f.m)), flagUF ||| flagNX) else x
  match decodeFloat f a with
  | .nan s => (quiet f a, if s then flagNV else 0)
  | .inf n =>
    match code with
    | 0 => (zeroBits f n, 0)
    | 1 => if n then (qnan f, flagNV) else (0, 0)
    | 2 => if n then (qnan f, flagNV) else (a, 0)
    | 3 => if n then (0, 0) else (a, 0)
    | 4 => if n then (qnan f, flagNV) else (a, 0)
    | 5 => (qnan f, flagNV)
    | 6 => (qnan f, flagNV)
    | 7 => (if n then flipSign f one.1 else one.1, 0)
    | 8 => if n then (0, 0) else one
    | _ => if n then (zeroBits f true, 0) else (a, 0)
  | .num n m e =>
    if m = 0 then
      match code with
      | 0 => (infBits f n, flagDZ)
      | 1 => (infBits f n, 0)
      | 2 => (a, 0)
      | 3 => one
      | 4 => (infBits f true, flagDZ)
      | 5 => (a, 0)
      | 6 => one
      | 7 => (a, 0)
      | 8 => roundSat f 0 0 false false ⟨1, -1, false⟩
      | _ => (a, 0)
    else
      match code with
      | 0 => roundSat f mode 0 sat flush (divDy n 1 0 m e)
      | 1 => if n then (qnan f, flagNV) else roundSat f mode 0 sat flush (rsqrtDy m e)
      | 2 => if n then (qnan f, flagNV) else roundSat f mode 0 sat flush (sqrtDy m e)
      | 3 => post (exp2Of f a n m e)
      | 4 => if n then (qnan f, flagNV) else post (log2Of f a m e)
      | 5 => post (sinPiOf 5 f a false n m e)
      | 6 => post (sinPiOf 6 f a true n m e)
      | 7 => post (tanhOf f a n m e)
      | 8 => sigmOf f a false n m e
      | _ => sigmOf f a true n m e

end Sys2Proof.Machine
end

