-- ==== Sys2Proof/Syntax.lean ====
section
/-! DEFINITION. The syntax: one constructor for every row of the opcode table. The first 150 are the instruction
forms of R25, each with the operand fields of its words (R15, R17, R21); the others are the device's own steps. -/

namespace Sys2Proof

/-- The fields of one instruction's words apart from its length and its major opcode (R15, R17, R21).
`te` holds TEA in bit 0, TEB in bit 1 and TEC in bit 2; `d`, `a`, `b` join the high bits of word 1 to word 0 (R19). -/
structure Fields where
  gn : Bool
  gp : BitVec 3
  d : BitVec 8
  a : BitVec 8
  b : BitVec 8
  c : BitVec 8
  te : BitVec 3
  minor : BitVec 7
  mod : BitVec 8
  lit : Option Word
deriving DecidableEq, Repr

/-- What Gritus sets for a partition (R411, R402, R156, R401): its physical clusters, its pieces on die 0 and die 1, its
key slots (die, slot), its virtual function, the vectors of its fault, halt, boost and scrub interrupts, and the ranges of
device DRAM that it exposes to the host as HDM ranges, as pairs of a first address and a size in bytes (log entry 101). -/
structure PartitionConfig where
  clusters : List Nat
  pieces0 : Nat
  pieces1 : Nat
  keySlots : List (Nat × Nat)
  function : Nat
  vectors : List Nat
  hdm : List (Nat × Nat)
deriving DecidableEq, Repr

/-- What arrives at its destination on the fabric (R309, R403): a packet of this device, or the elements that a rank on another
device sends for its COLL. -/
inductive FabricArrival where
  | ours (packet : Nat)
  | rank (part name rank : Nat) (data : List Byte)
deriving DecidableEq, Repr

/-- The PCIe AtomicOps of R194 and R401. -/
inductive HostAtomicOp where
  | fetchAdd
  | swap
  | cas
deriving DecidableEq, Repr

/-- One row of spec/opcode_table.json each. Numbers of cores and clusters in device steps are physical; `team` is the
device's own number of a resident run, `op` and `fence` the number of an outstanding operation of a group. -/
inductive Instr where
  /-- NOP (R31): Does nothing except take one issue cycle of its slot. -/
  | nop (f : Fields)
  /-- MOV (R108): Copies a register, pair or quad to a destination under the shape rules. -/
  | mov (f : Fields)
  /-- MOVI (R109): Writes an immediate value to a register or pair. -/
  | movi (f : Fields)
  /-- MOVX (R113): Reads a register chosen by a per-lane index through the slot's indirect port; long-latency. -/
  | movx (f : Fields)
  /-- MOVXW (R114): Writes a value to a register chosen by a per-lane index. -/
  | movxw (f : Fields)
  /-- GETID (R87): Writes a lane, group, team, placement or grid identifier to a register. -/
  | getid (f : Fields)
  /-- SEL (R110): Writes one of two sources, chosen by a predicate. -/
  | sel (f : Fields)
  /-- PLOP (R111): Writes a predicate from a truth table of three predicates. -/
  | plop (f : Fields)
  /-- IADD (R125): Integer addition, wrapping or saturating. -/
  | iadd (f : Fields)
  /-- ISUB (R125): Integer subtraction, wrapping or saturating. -/
  | isub (f : Fields)
  /-- IMUL (R125): Integer multiplication, low part. -/
  | imul (f : Fields)
  /-- IMULH (R125): Integer multiplication, high part. -/
  | imulh (f : Fields)
  /-- IMAD (R125): Integer multiply-add. -/
  | imad (f : Fields)
  /-- IMIN (R125): Integer minimum. -/
  | imin (f : Fields)
  /-- IMAX (R125): Integer maximum. -/
  | imax (f : Fields)
  /-- IABS (R125): Integer absolute value. -/
  | iabs (f : Fields)
  /-- INEG (R125): Integer negation. -/
  | ineg (f : Fields)
  /-- LEA (R127): Adds an extended and shifted offset to a 64-bit address. -/
  | lea (f : Fields)
  /-- ICMP (R126): Integer comparison into a predicate. -/
  | icmp (f : Fields)
  /-- IDOT4 (R134): Four-way byte dot product with accumulate. -/
  | idot4 (f : Fields)
  /-- SHL (R129): Logical shift left. -/
  | shl (f : Fields)
  /-- SHR (R129): Logical shift right. -/
  | shr (f : Fields)
  /-- SAR (R129): Arithmetic shift right. -/
  | sar (f : Fields)
  /-- ROT (R129): Rotate left or right. -/
  | rot (f : Fields)
  /-- AND (R128): Bitwise and. -/
  | and (f : Fields)
  /-- OR (R128): Bitwise or. -/
  | or (f : Fields)
  /-- XOR (R128): Bitwise exclusive or. -/
  | xor (f : Fields)
  /-- NOT (R128): Bitwise complement. -/
  | not (f : Fields)
  /-- LOP3 (R128): Three-input bitwise function from a truth table. -/
  | lop3 (f : Fields)
  /-- POPC (R130): Counts one bits. -/
  | popc (f : Fields)
  /-- CLZ (R130): Counts leading zero bits. -/
  | clz (f : Fields)
  /-- BREV (R130): Reverses the bit order. -/
  | brev (f : Fields)
  /-- BFX (R131): Extracts a bit field. -/
  | bfx (f : Fields)
  /-- BFI (R132): Inserts a bit field. -/
  | bfi (f : Fields)
  /-- BPERM (R133): Permutes bytes of two registers. -/
  | bperm (f : Fields)
  /-- SHFL (R89): Exchanges register values among the issuing threads. -/
  | shfl (f : Fields)
  /-- VOTE (R88): Ballot, all, any or uniform vote over a predicate. -/
  | vote (f : Fields)
  /-- GRED (R90): Reduces a register across the issuing threads, rounding once. -/
  | gred (f : Fields)
  /-- MATCH (R91): Finds the threads holding equal values. -/
  | matchLanes (f : Fields)
  /-- RNG4 (R135): Computes Philox-4x32-10 of a counter and key. -/
  | rng4 (f : Fields)
  /-- SETFE (R112): Sets a register full or empty, or tests its state. -/
  | setfe (f : Fields)
  /-- FADD (R137): Floating-point addition. -/
  | fadd (f : Fields)
  /-- FSUB (R137): Floating-point subtraction. -/
  | fsub (f : Fields)
  /-- FMUL (R137): Floating-point multiplication. -/
  | fmul (f : Fields)
  /-- FFMA (R137): Fused multiply-add, rounded once. -/
  | ffma (f : Fields)
  /-- FMIN (R138): Floating-point minimum. -/
  | fmin (f : Fields)
  /-- FMAX (R138): Floating-point maximum. -/
  | fmax (f : Fields)
  /-- FCMP (R139): Floating-point comparison into a predicate. -/
  | fcmp (f : Fields)
  /-- FCLASS (R140): Classifies a floating-point value. -/
  | fclass (f : Fields)
  /-- FRND (R141): Rounds to an integral value. -/
  | frnd (f : Fields)
  /-- HFMA2 (R142): Packed two-element 16-bit fused multiply-add. -/
  | hfma2 (f : Fields)
  /-- HADD2 (R142): Packed two-element 16-bit addition. -/
  | hadd2 (f : Fields)
  /-- HMUL2 (R142): Packed two-element 16-bit multiplication. -/
  | hmul2 (f : Fields)
  /-- FRCP (R144): Correctly rounded reciprocal in the special-function pipe. -/
  | frcp (f : Fields)
  /-- FRSQ (R144): Correctly rounded reciprocal square root. -/
  | frsq (f : Fields)
  /-- FSQRT (R144): Correctly rounded square root. -/
  | fsqrt (f : Fields)
  /-- FEXP2 (R144): Correctly rounded power of two. -/
  | fexp2 (f : Fields)
  /-- FLOG2 (R144): Correctly rounded base-2 logarithm. -/
  | flog2 (f : Fields)
  /-- FSIN (R144): Correctly rounded sin(pi a). -/
  | fsin (f : Fields)
  /-- FCOS (R144): Correctly rounded cos(pi a). -/
  | fcos (f : Fields)
  /-- FTANH (R144): Correctly rounded hyperbolic tangent. -/
  | ftanh (f : Fields)
  /-- CVT (R147): Converts between numeric types. -/
  | cvt (f : Fields)
  /-- CVTQ (R149): Quantises a value under an .e8m0 scale with saturation. -/
  | cvtq (f : Fields)
  /-- PACK6 (R151): Packs six-bit elements of the issuing lanes. -/
  | pack6 (f : Fields)
  /-- UNPK6 (R152): Unpacks six-bit elements to lanes. -/
  | unpk6 (f : Fields)
  /-- PACK4 (R151): Packs four-bit elements of the issuing lanes. -/
  | pack4 (f : Fields)
  /-- UNPK4 (R152): Unpacks four-bit elements to lanes. -/
  | unpk4 (f : Fields)
  /-- PACK8 (R151): Packs eight-bit elements of the issuing lanes. -/
  | pack8 (f : Fields)
  /-- UNPK8 (R152): Unpacks eight-bit elements to lanes. -/
  | unpk8 (f : Fields)
  /-- SCLX (R148): Computes an .e8m0 block scale from a magnitude. -/
  | sclx (f : Fields)
  /-- FSCL (R150): Scales a value by a power of two. -/
  | fscl (f : Fields)
  /-- LD (R189): Loads an element of global memory per thread. -/
  | ld (f : Fields)
  /-- ST (R189): Enqueues a store element of global memory per thread. -/
  | st (f : Fields)
  /-- LDQ (R190): Ordered load performed at the home or register block. -/
  | ldq (f : Fields)
  /-- STQ (R190): Ordered store performed at the home or register block. -/
  | stq (f : Fields)
  /-- PFCH (R191): Prefetches a line into the L1 or the home L2. -/
  | pfch (f : Fields)
  /-- ATOM (R192): Atomic read-modify-write at the home returning the old value. -/
  | atom (f : Fields)
  /-- RED (R192): Atomic read-modify-write at the home with no result. -/
  | red (f : Fields)
  /-- CAS (R193): Compare and swap at the home. -/
  | cas (f : Fields)
  /-- FENCE (R203): Orders later accesses after earlier ones at a scope. -/
  | fence (f : Fields)
  /-- AFENCE (R210): Makes accesses through aliases of a range one location. -/
  | afence (f : Fields)
  /-- LOGV (R333): Logs a value in the lead and replays it in later runs. -/
  | logv (f : Fields)
  /-- LDS (R160): Loads from the core scratchpad. -/
  | lds (f : Fields)
  /-- STS (R160): Stores to the core scratchpad. -/
  | sts (f : Fields)
  /-- ATOMS (R163): Atomic on the core scratchpad. -/
  | atoms (f : Fields)
  /-- LDW (R165): Loads from a visible window bank. -/
  | ldw (f : Fields)
  /-- STW (R165): Stores to a visible window bank. -/
  | stw (f : Fields)
  /-- STX (R165): Stores to a shadow window bank. -/
  | stx (f : Fields)
  /-- SBAR (R168): Arrives at the sharing group's bank swap. -/
  | sbar (f : Fields)
  /-- JOIN (R170): Asks to join a sharing group; status is long-latency. -/
  | join (f : Fields)
  /-- LEAVE (R171): Leaves the team's sharing group. -/
  | leave (f : Fields)
  /-- LDK (R173): Loads from the chip scratchpad. -/
  | ldk (f : Fields)
  /-- STK (R173): Stores to the chip scratchpad. -/
  | stk (f : Fields)
  /-- ATOMK (R163): Atomic on the chip scratchpad. -/
  | atomk (f : Fields)
  /-- SPILL (R119): Writes registers to the lane slice or backing store. -/
  | spill (f : Fields)
  /-- FILL (R119): Reads registers from the lane slice or backing store. -/
  | fill (f : Fields)
  /-- LDL (R120): Loads an element from the lane slice at a per-lane offset. -/
  | ldl (f : Fields)
  /-- STL (R120): Stores an element to the lane slice at a per-lane offset. -/
  | stl (f : Fields)
  /-- BRA (R82): Branches to an offset target. -/
  | bra (f : Fields)
  /-- BRC (R82): Branches when a register compares true against zero. -/
  | brc (f : Fields)
  /-- BRX (R82): Branches to a register target. -/
  | brx (f : Fields)
  /-- CALL (R82): Calls an offset target, saving the return address. -/
  | call (f : Fields)
  /-- CALLX (R82): Calls a register target, saving the return address. -/
  | callx (f : Fields)
  /-- RET (R82): Returns to an address held in a pair. -/
  | ret (f : Fields)
  /-- EXIT (R84): Ends the executing threads. -/
  | exit (f : Fields)
  /-- KSET (R69): Sets a reconvergence barrier's member mask. -/
  | kset (f : Fields)
  /-- KWAIT (R70): Parks member threads on a reconvergence barrier. -/
  | kwait (f : Fields)
  /-- YIELD (R85): Offers a save point and issues the first tail entry once. -/
  | yield (f : Fields)
  /-- BAR (R243): Arrives at a team barrier, waiting or not. -/
  | bar (f : Fields)
  /-- SPAWN (R246): Writes a grid record from a launch block and arms it. -/
  | spawn (f : Fields)
  /-- JADD (R244): Adds to a record's join counter atomically. -/
  | jadd (f : Fields)
  /-- LAUNCH (R245): Arms a grid record and returns a status. -/
  | launch (f : Fields)
  /-- PREQ (R251): Reads the pre-emption request flag or remaining budget. -/
  | preq (f : Fields)
  /-- TRAP (R380): Raises the TRAP cause in the executing threads. -/
  | trap (f : Fields)
  /-- TRET (R379): Returns a thread from trap mode. -/
  | tret (f : Fields)
  /-- BRK (R380): Raises the BREAKPOINT cause. -/
  | brk (f : Fields)
  /-- CRR (R383): Reads a control register. -/
  | crr (f : Fields)
  /-- CRW (R384): Writes a control register. -/
  | crw (f : Fields)
  /-- GATE (R366): Enters a gate-table service in another address space. -/
  | gate (f : Fields)
  /-- GRET (R369): Finishes a thread's gate call with a status. -/
  | gret (f : Fields)
  /-- PUBLISH (R354): Publishes code lines at a scope for instruction fetch. -/
  | publish (f : Fields)
  /-- TIME (R400): Reads the time base. -/
  | time (f : Fields)
  /-- CYC (R400): Reads the core's cycle counter. -/
  | cyc (f : Fields)
  /-- SEQW (R311): Waits until an engine stream's sequence number reaches a ticket. -/
  | seqw (f : Fields)
  /-- SEQR (R312): Reads an engine stream's sequence number or error word. -/
  | seqr (f : Fields)
  /-- HALT (R381): Halts the partition with stop cause HALT. -/
  | halt (f : Fields)
  /-- CPY (R299): Issues a copy command. -/
  | cpy (f : Fields)
  /-- CPYT (R301): Issues a strided tensor copy command. -/
  | cpyt (f : Fields)
  /-- GTHR (R301): Issues an indexed gather command. -/
  | gthr (f : Fields)
  /-- SCTR (R301): Issues an indexed scatter command. -/
  | sctr (f : Fields)
  /-- COLL (R309): Issues a collective over a named buffer set. -/
  | coll (f : Fields)
  /-- BIN (R306): Issues a binning command and optionally patches held commands. -/
  | bin (f : Fields)
  /-- REL (R307): Releases held commands in a range of patch slots. -/
  | rel (f : Fields)
  /-- MIRR (R310): Issues a copy into the partner's mirror region. -/
  | mirr (f : Fields)
  /-- FILLZ (R299): Issues a zero-fill command. -/
  | fillz (f : Fields)
  /-- ZMAP (R303): Issues a command that builds zero-block bitmaps. -/
  | zmap (f : Fields)
  /-- MMA (R271): Matrix multiply-accumulate into tile slots. -/
  | mma (f : Fields)
  /-- MMA_G (R273): Matrix multiply-accumulate with gathered A rows. -/
  | mmaG (f : Fields)
  /-- MMA_S (R272): Matrix multiply-accumulate skipping marked zero blocks. -/
  | mmaS (f : Fields)
  /-- MMA_GS (R272): Gathered matrix multiply-accumulate with zero-block skipping. -/
  | mmaGs (f : Fields)
  /-- TZERO (R276): Zeroes tile slots. -/
  | tzero (f : Fields)
  /-- TLD (R277): Loads a tile slot from the scratchpad. -/
  | tld (f : Fields)
  /-- TST (R278): Stores a tile slot to the scratchpad or a window. -/
  | tst (f : Fields)
  /-- OMAP (R275): Writes one field of an operand map. -/
  | omap (f : Fields)
  /-- MSIG (R280): Sequencer arrival at a team barrier after earlier macro-operations. -/
  | msig (f : Fields)
  /-- MWAIT (R280): Sequencer arrival at a team barrier, then wait for the phase. -/
  | mwait (f : Fields)
  /-- MLOOP (R282): Counts a sequencer loop and branches back. -/
  | mloop (f : Fields)
  /-- MEND (R283): Stops the matrix sequencer. -/
  | mend (f : Fields)
  /-- MNOP (R283): Sequencer no-operation. -/
  | mnop (f : Fields)
  /-- TEPI (R279): Applies scale, bias and activation to a tile slot. -/
  | tepi (f : Fields)
  /-- CLAUSE_DECODE (R26): Fetches and decodes a clause for the frontier entry chosen to issue. -/
  | clauseDecode (core slot : Nat)
  /-- RESULT_LANDS (R105): A long-latency result is written and its register becomes full or poisoned. -/
  | resultLands (team group op : Nat)
  /-- SFU_RESULT_LANDS (R145): A special-function result lands, setting flags or a pending arithmetic trap. -/
  | sfuResultLands (team group op : Nat)
  /-- STORE_PERFORMS (R178): A store-queue element performs in the core once granted or performed at its home. -/
  | storePerforms (team group : Nat)
  /-- REGISTRATION_REQUEST (R181): A home grants a grain's registration, recalling the previous registrant. -/
  | registrationRequest (core : Nat)
  /-- LOAD_MISS_AT_HOME (R180): A missing load is answered from the L2, DRAM or a registrant. -/
  | loadMissAtHome (team group op line : Nat)
  /-- CACHE_REPLACEMENT (R184): An L1 or L2 replaces a line, writing back registered bytes. -/
  | cacheReplacement (l2 : Bool) (core asid line : Nat)
  /-- LINE_REQUEST_TRANSLATION (R221): A line request is translated at its translation slice. -/
  | lineRequestTranslation (team group op line : Nat)
  /-- WALK_COMPLETES (R222): A page walk finishes with a leaf, not-present or a violation. -/
  | walkCompletes (walk : Nat)
  /-- FENCE_COMPLETE (R203): A fence's predecessor accesses complete and successors may perform. -/
  | fenceComplete (team group fence : Nat)
  /-- AFENCE_COMPLETE (R210): An alias fence finishes its L1 scan and translations. -/
  | afenceComplete (team group fence : Nat)
  /-- PUBLISH_COMPLETE (R354): A publish has marked every line and done every invalidation. -/
  | publishComplete (team group fence : Nat)
  /-- PAGE_NOT_PRESENT_SAVE (R226): A not-present fault saves and parks the team. -/
  | pageNotPresentSave (team : Nat)
  /-- FAULT_RING_READ_ADVANCE (R227): Software advances READ, letting waiting fault entries be written. -/
  | faultRingReadAdvance (part : Nat) (read : Word)
  /-- FAULT_RESUME (R228): A write of a parked record's address makes it ready. -/
  | faultResume (part : Nat) (record : Dword)
  /-- SHOOTDOWN_START (R224): A GO write starts a shootdown of an identifier and range. -/
  | shootdownStart (part : Nat) (ctrl : Dword)
  /-- SHOOTDOWN_COMPLETE (R225): Every removed translation's requests have reached their homes and BUSY clears. -/
  | shootdownComplete (part : Nat)
  /-- KICK (R235): A host write arms a grid record. -/
  | kick (part : Nat) (record : Dword)
  /-- TEAM_PLACEMENT (R240): The scheduler places one team of a record on a fitting core, or restores a saved one. -/
  | teamPlacement (part : Nat)
  /-- PREEMPT (R247): A CR_PREEMPT write raises the request flag of every team on a core. -/
  | preempt (part : Nat) (value : Dword)
  /-- VOLUNTARY_SAVE (R248): Every group of a requested team has stopped, and the team saves. -/
  | voluntarySave (team : Nat)
  /-- FORCED_SAVE (R249): The pre-emption budget runs out and groups stop at instruction boundaries. -/
  | forcedSave (team : Nat)
  /-- SAVE_IMAGE_WRITE (R250): After the drain waits, the image and saved record are written and queued. -/
  | saveImageWrite (team : Nat)
  /-- TEAM_END (R241): A team's last group has ended and its resources are reclaimed. -/
  | teamEnd (team : Nat)
  /-- SBAR_SWAP (R168): All members have arrived and STXs are accepted, and window banks swap. -/
  | sbarSwap (team : Nat)
  /-- LEAVE_COMPLETE (R171): A sharing-group leave completes after revocation is acknowledged. -/
  | leaveComplete (team : Nat)
  /-- GATE_ENTRY (R366): After landings and a free frame, the caller's state is saved and the callee entered. -/
  | gateEntry (team group : Nat)
  /-- GATE_COMPLETION (R370): Every entered thread has finished and the caller's state is restored. -/
  | gateCompletion (team group : Nat)
  /-- COMMAND_ACCEPT (R293): An engine command enters its queue. -/
  | commandAccept (command : Nat)
  /-- COMMAND_START (R297): An engine command starts and its start-time checks are made. -/
  | commandStart (command : Nat)
  /-- COMMAND_COMPLETION (R291): An engine writes a stream's sequence number for a finished command. -/
  | commandCompletion (command : Nat)
  /-- COLL_INSTANCE_START (R309): All ranks of a collective instance have issued, and it starts. -/
  | collInstanceStart (part name : Nat)
  /-- MATRIX_OP_COMPLETE (R259): A matrix macro-operation completes and the sequencer proceeds. -/
  | matrixOpComplete (team : Nat)
  /-- LEAD_END (R324): A lead's last group ends, its writes and log are flushed and the trail queued. -/
  | leadEnd (team : Nat)
  /-- RUN_COMPARE (R339): The assay unit compares run signatures and releases, discards or halts. -/
  | runCompare (checked : Nat)
  /-- DEMERIT_DECAY (R344): A core's demerit deadline passes and COUNT falls. -/
  | demeritDecay (core : Nat)
  /-- INJECT_ARM (R443): A write arms the injection register for the next checked team. -/
  | injectArm (value : Dword)
  /-- INJECT_DISARM (R443): A write of ARM = 0 disarms the injection register. -/
  | injectDisarm (value : Dword)
  /-- PUB_CTRL_GO (R358): A register GO publishes a range at .DEV. -/
  | pubCtrlGo (part : Nat) (value : Dword)
  /-- EXTERNAL_HALT (R387): A CR_HALT write halts the partition with stop cause EXTERNAL. -/
  | externalHalt (part : Nat) (value : Dword)
  /-- UNIT_STOP (R386): A unit stops after the halt line reaches it and writes its stop record. -/
  | unitStop (part index : Nat) (late : Bool)
  /-- WATCHDOG_EXPIRY (R389): A team's residence count reaches the limit and the partition halts. -/
  | watchdogExpiry (team : Nat)
  /-- RESERVATION_GRANT (R391): The cluster arbiter grants a current reservation. -/
  | reservationGrant (cluster : Nat)
  /-- RESERVATION_URGENT (R391): A request waits 1,024 cycles and becomes urgent. -/
  | reservationUrgent (cluster requester : Nat)
  /-- RESERVATION_RETURN (R390): A holding ends and its units return to the arbiter. -/
  | reservationReturn (cluster requester : Nat)
  /-- ENGINE_RESERVATION_RENEW (R390): An engine command past 1,024 cycles returns and re-requests its reservation. -/
  | engineReservationRenew (cluster requester : Nat)
  /-- PIPE_SLEEP (R390): A vector pipe idle for 512 cycles falls asleep. -/
  | pipeSleep (core slot : Nat)
  /-- PIPE_WAKE (R390): A vector pipe finishes waking its lane blocks. -/
  | pipeWake (core slot : Nat)
  /-- POOL_CLASS_WRITE (R393): A CLASS write starts a cluster's move between pools. -/
  | poolClassWrite (cluster : Nat) (value : Dword)
  /-- POOL_MOVE (R393): A moving cluster empties and takes its new class. -/
  | poolMove (cluster : Nat)
  /-- BOOST_REQUEST (R394): A partition requests a boost lease, granted or refused. -/
  | boostRequest (part : Nat) (value : Dword) (envelopeHolds : Bool)
  /-- BOOST_CANCEL (R395): A CANCEL write ends the held lease at once. -/
  | boostCancel (part : Nat) (value : Dword)
  /-- BOOST_REVOKE (R395): The arbiter revokes a lease with a notice period and interrupt. -/
  | boostRevoke (part : Nat)
  /-- BOOST_LEASE_END (R395): The time base reaches CR_BOOST_END and the lease ends. -/
  | boostLeaseEnd (part : Nat)
  /-- CLOCK_RESTART (R395): A cluster clock stopped for a pool move restarts at the new frequency. -/
  | clockRestart (cluster : Nat)
  /-- DROOP_ALARM (R396): A supply dip raises an alarm and stretches the cluster clock. -/
  | droopAlarm (cluster : Nat) (dipMillivolts : Nat)
  /-- STRETCH_END (R396): The withheld edges end and the half-issue window begins. -/
  | stretchEnd (cluster : Nat)
  /-- HALF_ISSUE_WINDOW_END (R396): The half-issue window expires. -/
  | halfIssueWindowEnd (cluster : Nat)
  /-- RECALIBRATION (R409): Gritus recalibrates guard-bands from the ageing monitors. -/
  | recalibration (cluster : Nat) (margins : List (Nat × Int))
  /-- PARTITION_RECONFIGURE (R410): Gritus drains a partition and sets its new configuration and numbers. -/
  | partitionReconfigure (parts : List Nat)
  /-- PARTITION_CONFIGURE (R411): Gritus configures a partition's clusters, pieces, keys and function. -/
  | partitionConfigure (part : Nat) (cfg : PartitionConfig)
  /-- FIRMWARE_UPDATE (R411): Firmware is written to the inactive image and measured. -/
  | firmwareUpdate (offset : Nat) (image : List Byte)
  /-- SLICE_RETIREMENT (R412): A slice is retired and its lines moved to new homes. -/
  | sliceRetirement (die slice : Nat)
  /-- HEALTH_RECORD_REWRITE (R413): Gritus rewrites the signed health record. -/
  | healthRecordRewrite
  /-- PARTNER_PAIRING (R405): Gritus pairs a partition with a partner device. -/
  | partnerPairing (part partner : Nat) (partnerFeed : Half) (override : Bool) (size : Nat)
  /-- PARTNER_RESTORE (R406): A restore from a partner is accepted or refused by cut identifier. -/
  | partnerRestore (part first count cut : Nat)
  /-- FABRIC_PACKET (R403): A fabric packet arrives at its destination. -/
  | fabricPacket (arrival : FabricArrival)
  /-- ESCAPE_ENTRY (R403): A blocked packet's wait expires and it enters the escape channel. -/
  | escapeEntry (packet : Nat)
  /-- FABRIC_PORT_FAILURE (R404): A fabric port fails and retrains once. -/
  | fabricPortFailure (port : Nat)
  /-- PORT_REMOVAL (R404): A port still down after 10,000,000 ticks is removed from routing. -/
  | portRemoval (port : Nat)
  /-- HOST_WRITE (R213): A PCIe requester's posted write arrives at its home. -/
  | hostWrite (part : Nat) (requester : Nat) (address : Nat) (data : List Byte)
  /-- HOST_READ (R213): A PCIe requester's read is performed at its home. -/
  | hostRead (part : Nat) (requester : Nat) (address size : Nat)
  /-- HOST_ATOMIC (R401): A host AtomicOp is performed at its home. -/
  | hostAtomic (part : Nat) (op : HostAtomicOp) (address size : Nat) (operand compare : Nat)
  /-- GET_VERSION (R413): SPDM GET_VERSION request. -/
  | getVersion (request : List Byte)
  /-- GET_CAPABILITIES (R413): SPDM GET_CAPABILITIES request. -/
  | getCapabilities (request : List Byte)
  /-- NEGOTIATE_ALGORITHMS (R413): SPDM NEGOTIATE_ALGORITHMS request. -/
  | negotiateAlgorithms (request : List Byte)
  /-- GET_DIGESTS (R413): SPDM GET_DIGESTS request. -/
  | getDigests (request : List Byte)
  /-- GET_CERTIFICATE (R413): SPDM GET_CERTIFICATE request for the identity chain. -/
  | getCertificate (request : List Byte)
  /-- CHALLENGE (R413): SPDM CHALLENGE request. -/
  | challenge (request : List Byte)
  /-- GET_MEASUREMENTS (R466): SPDM request for measurement blocks or the health record. -/
  | getMeasurements (signature : Bool) (param2 : Nat) (context : List Byte)
  /-- KEY_EXCHANGE (R413): SPDM KEY_EXCHANGE starting a secure session. -/
  | keyExchange (request : List Byte) (part : Nat)
  /-- FINISH (R413): SPDM FINISH completing a secure session. -/
  | finish (request : List Byte)
  /-- KEY_UPDATE (R413): SPDM KEY_UPDATE within a session. -/
  | keyUpdate (request : List Byte)
  /-- HEARTBEAT (R413): SPDM HEARTBEAT within a session. -/
  | heartbeat (request : List Byte)
  /-- END_SESSION (R413): SPDM END_SESSION closing a session. -/
  | endSession (request : List Byte)
  /-- VENDOR_KEY_LOAD (R414): Vendor request opcode 0x01 loads an XTS key into a slot. -/
  | vendorKeyLoad (inSession : Bool) (payload : List Byte)
  /-- VENDOR_KEY_ZEROISE (R414): Vendor request opcode 0x02 zeroises a key slot. -/
  | vendorKeyZeroise (inSession : Bool) (payload : List Byte)
  /-- SPDM_UNSUPPORTED_REQUEST (R413): Any other SPDM request is answered with ERROR 0x07. -/
  | spdmUnsupportedRequest (code : Nat)
  /-- SCRUB_GO (R468): A CR_SCRUB_CTL GO starts a scrub at phase 0. -/
  | scrubGo (part : Nat) (value : Dword)
  /-- SCRUB_PHASE_END (R468): A scrub phase finishes; after phase 3 DONE is set and the interrupt raised. -/
  | scrubPhaseEnd (part : Nat)
  /-- SCRUB_PROGRESS_READ (R402): A read of CR_SCRUB_PROGRESS clears the scrub interrupt. -/
  | scrubProgressRead (part : Nat)
  /-- DEVICE_RESET (R416): A device reset, quarantining the resources of a scrub in progress. -/
  | deviceReset
  /-- MGMT_RESET (R459): A management-core reset starts the first stage at address 0. -/
  | mgmtReset
  /-- FLASH_PROGRAM (R460): An aligned doubleword store programs the flash. -/
  | flashProgram (address : Nat) (value : Dword)
  /-- SEAL_VERIFY (R462): A seal GO starts ECDSA verification of a digest. -/
  | sealVerify (value : Dword)
  /-- SEAL_RESULT (R462): The seal finishes and STATE becomes pass or fail. -/
  | sealResult
  /-- MEAS_EXTEND (R462): A GO extends a measurement register with SHA-384. -/
  | measExtend (value : Dword)
  /-- MEAS_LATCH (R462): A load of offset 0 of a measurement register latches all 48 bytes. -/
  | measLatch (register : Nat)
  /-- ASSIGN (R461): A CR_ASSIGN write assigns a core to a protected context or is refused. -/
  | assign (value : Dword)
  /-- REGISTER_WRITE (R6): A write to a register with no behaviour of its own, ignoring reserved and RO fields. -/
  | registerWrite (part : Nat) (address : Nat) (value : Dword)
  /-- PORT_RETRAIN_COMPLETE (R404): A failed fabric port finishes its one retraining and returns to routing. -/
  | portRetrainComplete (port : Nat)
  /-- MISSED_HEARTBEAT (R408): A device detects a silent fabric neighbour through missed link heartbeats. -/
  | missedHeartbeat (port : Nat)
  /-- MGMT_CORE_INSTRUCTION (R459): The management core executes a RISC-V instruction, including loads and stores that raise an access fault and the first stage's jump that opens the flash to writes. -/
  | mgmtCoreInstruction
deriving DecidableEq, Repr

end Sys2Proof
end

