-- ==== Sys2Proof/Machine/State.lean ====
section
/-! DEFINITION. The state of the machine as plain data: every piece of state that the manual names, the model's own
scheduling fields, the reasons a step can stop, and the state right after a device reset. -/

namespace Sys2Proof.Machine

/-- Why a step stops with a fault. -/
inductive Fault where
  /-- Raised by `step` when the decoded-clause buffer of the current issuer holds words that the decoder rejects.
  CLAUSE_DECODE never leaves such a buffer (R26), so no run reaches it. Safe: nothing goes on. -/
  | undecodable
deriving DecidableEq, Repr

/-- Why a step refuses. -/
inductive Refusal where
  /-- Raised by `exec` for an instruction that has no meaning yet. Safe: nothing goes on. -/
  | notModelled (mnemonic : String)
deriving DecidableEq, Repr

/-! ## Threads, groups -/

/-- One thread (R63, R93, R377, R335, R367). `trapCause` holds INDEX and CAUSE; PEND reads as `pend.isSome` (R377).
`idx` is the instruction index at which the thread resumes its clause alone (R379, R253), 0 at a header. -/
structure Thread where
  pc : Nat
  live : Bool
  trapMode : Bool
  parked : Option Nat
  preds : BitVec 7
  fpFlags : BitVec 5
  trapPc : Dword
  trapCause : Dword
  trapDetail : Dword
  trapScratch : Dword
  pend : Option Dword
  idx : Nat
  ss : Nat
  rs : Nat
  cnt : Nat
  pos : Nat
  budget : Nat
  status : Option Nat
deriving DecidableEq, Repr

/-- A write of a fixed-latency instruction that is not visible yet (R75): `kind` 0 a value, 1 made full, 2 made empty
(R112); `seq` places it among the group's instructions. -/
structure Fly where
  seq : Nat
  vis : Nat
  kind : Nat
  reg : Nat
  vals : Map Word
  cnts : Map Nat
deriving DecidableEq, Repr

/-- A predicate write that is not visible yet (log entry 8). -/
structure PredFly where
  seq : Nat
  vis : Nat
  pred : Nat
  lanes : LaneSet
  vals : LaneSet
  cnts : Map Nat
deriving DecidableEq, Repr

/-- The clause a group has decoded and is issuing (R26, R74, R254). `insns` are the words of its instructions, `idx`
the position (1 first) of the next one, `nominal` its nominal cycle, `issuing` the threads of the entry, `active`
those that take part still, `targets` the transfers taken, `parkOn` the K barrier of threads that park at its end,
`teamWrites` the writes of team registers that take effect at its end, each with its register, its issue order and its
value (R384), `counted` a clause whose issue the rotation counter holds already (R253). -/
structure ClauseRun where
  header : Word
  addr : Nat
  insns : List (List Word)
  next : Nat
  idx : Nat
  nominal : Nat
  issuing : LaneSet
  active : LaneSet
  fpMode : Nat
  trapVec : Dword
  targets : Map Nat
  parkOn : Map Nat
  tret : LaneSet
  exited : LaneSet
  yielded : Bool
  fly : List Fly
  predFly : List PredFly
  tailBefore : List (Nat × LaneSet × Bool)
  fromTail : Bool
  teamWrites : List (Nat × Nat × Nat)
  counted : Bool
deriving DecidableEq, Repr

/-- Which WAIT condition of R11 covers the landing of a long-latency operation. -/
inductive WaitKind where
  | ld | sfu | none
deriving DecidableEq, Repr

/-- A long-latency operation whose result has not landed (R77, R103–R106). `marks` are the lanes of each destination
register that it marked and that no later write has taken from it; `results` the words of each lane whose value is
fixed; `flags` the floating-point flags of each lane and `fpMode` the mode of its clause (R145, R54). -/
structure LongOp where
  id : Nat
  wait : WaitKind
  dst : Nat
  nregs : Nat
  lanes : LaneSet
  marks : List LaneSet
  results : Map (List Word)
  landed : LaneSet
  cnts : Map Nat
  sfu : Bool
  flags : Map (BitVec 5)
  fpMode : Nat
  addr : Nat
  idx : Nat
deriving DecidableEq, Repr

/-- The kinds of global-memory operation (R187). -/
inductive MemKind where
  | ld | ldq | st | stq | red | atom | cas
deriving DecidableEq, Repr

/-- A translation: the physical address of the 128-byte line and the leaf that gave it (R219). -/
structure Xlat where
  pa : Nat
  leaf : Nat
deriving DecidableEq, Repr

/-- One element of one thread (R188). `passed` says that a later access of its thread has performed before it, which only
other cores may see (R199); `read` is the number of the thread's first load that it was forwarded to, 0 for none. -/
structure MemElem where
  lane : Nat
  va : Nat
  size : Nat
  data : Nat
  cmp : Nat
  cnt : Nat
  xl : Option Xlat
  done : Bool
  passed : Bool
  read : Nat
deriving DecidableEq, Repr

/-- An outstanding LD or LDQ, or a store-queue entry (R178, R186); `addr` and `idx` are the clause header and the index of its
instruction, which a stop record names (R388). -/
structure MemOp where
  id : Nat
  addr : Nat
  idx : Nat
  kind : MemKind
  typ : Nat
  aop : Nat
  asid : Nat
  elems : List MemElem
deriving DecidableEq, Repr

/-- An access of the core scratchpad, a window, the chip scratchpad or a team record that has not performed (R160–R173, R215).
`insn` is the number of its instruction; `space` 0 a window that a replaying run does not reach, 1 the team's private bytes, 2 a
visible bank, 3 the chip scratchpad, 4 a shadow bank, 5 team records; `kind` 0 a load, 1 a store, 2 an atomic; in space 5 it is
1, and `aop` 0 JADD, 1 LAUNCH, 2 SPAWN; the result is wanted unless `quiet`; `target` the team whose window it names, or the
identifier of the records. An element's address is its byte in the array; that of a record holds the addend, or the block and
the successor, as `data` and `cmp`. `addr` and `idx` as in MemOp. -/
structure LocalOp where
  id : Nat
  insn : Nat
  addr : Nat
  idx : Nat
  space : Nat
  kind : Nat
  typ : Nat
  aop : Nat
  quiet : Bool
  target : Nat
  elems : List MemElem
deriving DecidableEq, Repr

/-- A pending FENCE, AFENCE or PUBLISH of a group (R203, R210, R354). `kind` 0 fence, 1 AFENCE, 2 PUBLISH; `sset` of a PUBLISH
is 1 where threads of a checked run, outside a logged callee, issued it (R360, R372); `addr` and `idx` as in MemOp. -/
structure Pending where
  id : Nat
  addr : Nat
  idx : Nat
  kind : Nat
  lanes : LaneSet
  scope : Nat
  pset : Nat
  sset : Nat
  ranges : List (Nat × Nat × Nat)
  asid : Nat
deriving DecidableEq, Repr

/-- What holds a group at a clause boundary (R243, R168): a BAR that waits for barrier n, or SBAR. `again` is a BAR
whose bit was already set, which counts with its `cnt` in the next phase; `only` its .arrive suffix. -/
inductive Hold where
  | bar (n : Nat) (again : Bool) (cnt : Nat) (only : Bool)
  | sbar
deriving DecidableEq, Repr

/-- An engine stream of a group (R291, R297). `seen` names the collectives that have completed and that no SEQW has observed:
ticket, name, identifier (R208). -/
structure Stream where
  issued : Nat
  done : Nat
  err : Nat
  seen : List (Nat × Nat × Nat)
deriving DecidableEq, Repr

/-- What a gate call saved for one entering thread (R366). -/
structure GateThread where
  lane : Nat
  next : Nat
  preds : BitVec 7
  fpFlags : BitVec 5
  trapPc : Dword
  trapCause : Dword
  trapDetail : Dword
  trapScratch : Dword
  pend : Option Dword
  slice : Map Byte
deriving DecidableEq, Repr

/-- The call a group is in (R366, R371). `waiting` is a call whose entry has not been made yet (step 1 and 2 of
R366). `regs`, `empty` and `poison` are the frame's copy of the registers. -/
structure GateCall where
  waiting : Bool
  frame : Nat
  frameIndex : Nat
  callerAsid : Nat
  gate : Nat
  logged : Bool
  entered : LaneSet
  named : LaneSet
  early : Map Nat
  entryPa : Nat
  asid : Nat
  handler : Nat
  pc : Nat
  frameBase : Nat
  frameSize : Nat
  nframes : Nat
  narg : Nat
  nret : Nat
  slice : Nat
  fpMode : Nat
  scratch : Nat
  budget : Nat
  domain : Nat
  dest : Nat
  trapStatus : Bool
  addr : Nat
  idx : Nat
  next : Nat
  cnts : Map Nat
  regs : Map (List Word)
  empty : Map LaneSet
  poison : Map LaneSet
  threads : List GateThread
  pad : Map Byte
deriving DecidableEq, Repr

/-- One group (R60–R73, R95, R102, R178, R291); `since` is the core cycle from which it has been eligible. -/
structure Group where
  threads : List Thread
  regs : Map (List Word)
  empty : Map LaneSet
  poison : Map LaneSet
  rotation : Nat
  urgency : Nat
  lastIssue : Nat
  rank : Nat
  since : Option Nat
  issuedOnce : Bool
  holds : List Hold
  asid : Nat
  kmask : List LaneSet
  ops : List LongOp
  loads : List MemOp
  stores : List MemOp
  locals : List LocalOp
  pending : List Pending
  streams : List Stream
  clause : Option ClauseRun
  tailNext : Bool
  saveNext : Bool
  sbarArrived : Bool
  gate : Option GateCall
deriving DecidableEq, Repr

/-! ## Teams -/

/-- The fields of a launch block (R236); the maps are the 512-bit numbers of R95. -/
structure LaunchBlock where
  code : Nat
  mstream : Nat
  gridx : Nat
  gridy : Nat
  gridz : Nat
  groups : Nat
  nprod : Nat
  prio : Nat
  redund : Nat
  budgetp : Nat
  budgetc : Nat
  slice : Nat
  cls : Nat
  fpmode : Nat
  tiles : Nat
  flags : Nat
  backw : Nat
  priv : Nat
  win : Nat
  preempt : Nat
  backbase : Nat
  savebase : Nat
  logbase : Nat
  logsize : Nat
  slots : Nat
  mapp : Nat
  mapc : Nat
deriving DecidableEq, Repr

/-- One team barrier (R243, R252). `order` holds the groups in arrival order for R72, each with the core cycle of its
arrival. -/
structure Barrier where
  expect : Nat
  count : Nat
  counted : Bool
  bits : BitVec 32
  seq : Bool
  order : List (Nat × Nat)
deriving DecidableEq, Repr

/-- One operand map (R263). -/
structure OperandMap where
  base : Nat
  pitch : Nat
  koff : Nat
  fmt : Nat
  sbase : Nat
  spitch : Nat
deriving DecidableEq, Repr

/-- The matrix sequencer of a team (R258, R286). `mode` 0 running, 1 at MWAIT, 2 held at an arrival that it makes when
the phase has completed, 3 ended, 4 no stream; `res` 0 no reservation, 1 requested, 2 granted; `busy` a macro-operation
whose cycles run; `row` the rows that a TST has stored (R278); `held` the cnt of the arrival that mode 2 holds and whether MWAIT made it; `arrived` an MSIG or MWAIT
whose arrival has been made and that has not retired. -/
structure Sequencer where
  pc : Nat
  idx : Nat
  mode : Nat
  barrier : Nat
  lc : List Nat
  om : List OperandMap
  res : Nat
  busy : Bool
  row : Nat
  held : Option (Nat × Bool)
  arrived : Bool
  clause : Option ClauseRun
deriving DecidableEq, Repr

/-- The fault that makes a team be saved as page not present (R226); `order` places a line request of a core among the
others, none for a fault of another kind. -/
structure PageFault where
  level : Nat
  kind : Nat
  asid : Nat
  va : Nat
  order : Option Nat
deriving DecidableEq, Repr

/-- The run of a checked team (R322), or an unchecked team. -/
inductive RunMode where
  | unchecked | lead | trail | third
deriving DecidableEq, Repr

/-- A resident team (R60, R236, R239). `save` is a save in progress (R250): 0 none, 1 voluntary, 2 forced, 3 page not
present; `fpOrder` and `vecOrder` the issue order of the writes that CR_FP_MODE and CR_TRAP_VEC hold (R384); `leaving` the
arrival number of a LEAVE that the window controller serves, 0 for none (R167); `resend` a bound on the numbers of the
accesses and fences that a restore brought back, 0 after a launch (R195, R204). -/
structure Team where
  part : Nat
  core : Nat
  record : Nat
  asid : Nat
  index : Nat
  slot : Nat
  copy : Nat
  mode : RunMode
  epoch : Nat
  order : Nat
  lb : LaunchBlock
  fpMode : Nat
  fpOrder : Nat
  trapVec : Dword
  vecOrder : Nat
  resident : Nat
  barriers : List Barrier
  request : Bool
  used : Nat
  save : Nat
  fault : Option PageFault
  padNonce : Nat
  pad : Map Byte
  visible : List Host.Cell
  shadow : List Host.Cell
  slices : Map (Map Byte)
  tiles : Map Word
  seq : Sequencer
  sharing : Option Nat
  leaving : Nat
  sbarReady : Bool
  groups : List Group
  engineSum : Nat
  coreSet : List Nat
  issued : Bool
  diverged : Bool
  resend : Nat
deriving DecidableEq, Repr

/-! ## Engines -/

/-- What a command still has to move: destination kind, destination, source kind (4 zeros, 5 given bytes), source,
length. -/
structure Piece where
  dk : Nat
  dst : Nat
  sk : Nat
  src : Nat
  len : Nat
deriving DecidableEq, Repr

/-- One engine command (R293). `lanes` are the threads that issued it; `state` 0 sent, 1 accepted, 2 started, 3 suspended,
4 done with its accesses; `patch` a count of R304; `dest` the device that a MIRR writes to once it has started; `written` the bytes it leaves written, by space and address (R337). -/
structure Command where
  id : Nat
  team : Nat
  part : Nat
  group : Nat
  lanes : LaneSet
  engine : Nat
  major : Nat
  minor : Nat
  mod : Nat
  ticket : Nat
  a : Nat
  b : Nat
  c : Nat
  lit : Option Nat
  asid : Nat
  slot : Nat
  core : Nat
  held : Bool
  patch : Option Nat
  items : List (Nat × Nat)
  dest : Option Nat
  state : Nat
  todo : List Piece
  code : Nat
  written : Map Nat
deriving DecidableEq, Repr

/-! ## Cores and clusters -/

/-- One L1 line (R176): the virtual line, its identifier, the physical line, W, whether its page is streaming (R177),
sector-valid bits, its bytes. -/
structure L1Line where
  va : Nat
  asid : Nat
  pa : Nat
  w : Bool
  streaming : Bool
  valid : BitVec 4
  bytes : List Byte
deriving DecidableEq, Repr

/-- One instruction-cache line (R348). -/
structure ICacheLine where
  va : Nat
  asid : Nat
  pa : Nat
  bytes : List Byte
deriving DecidableEq, Repr

/-- One issue slot of a core (R71, R73, R390); `lastVector` is the core cycle of its last ALU- or FPU-class
instruction, `ask` its request for a shared pipe (R78): the special-function pipe or the memory-access collector, and the
core cycle of the request, made for a group of a team. -/
structure Slot where
  lastProducer : Bool
  greedy : Option (Nat × Nat)
  asleep : Bool
  lastVector : Nat
  ask : Option (Bool × Nat × Nat × Nat)
deriving DecidableEq, Repr

/-- One physical core; `active` says that it has a number in the numbering in force (R1); `memRotation` and `sfuRotation`
the slots that the shared pipes were granted to last (R78); `matrixLast` the placement of the team that the matrix engine
served last (R390). -/
structure Core where
  active : Bool
  fenced : Bool
  deactivated : Bool
  logical : Nat
  cycles : Nat
  slots : List Slot
  memRotation : Nat
  sfuRotation : Nat
  matrixLast : Nat
  l1 : List L1Line
  dirty : Map Byte
  icache : List ICacheLine
  port : Option (Nat × Nat × Nat × Nat)
  margin : Nat
  exhausted : Bool
  demerits : Nat
  deadline : Nat
  context : Option Nat
deriving DecidableEq, Repr

/-- A request or a holding of a cluster's arbiter (R390): requester 0–15 vector pipes, 16–19 copy/gather, 20–23
matrix engines (4 × position + slot, then position), 24 collective, 25 binning; `command` the engine command that it serves. -/
structure Current where
  requester : Nat
  size : Nat
  prio : Nat
  since : Nat
  urgent : Bool
  team : Nat
  command : Nat
deriving DecidableEq, Repr

/-- One sharing group of a cluster (R167). -/
structure Sharing where
  members : List Nat
deriving DecidableEq, Repr

/-- One physical cluster (R393–R397). `stopped` says that it moves into or out of the boost pool: its clock stops at the
tick `stopAt` and restarts 2,000 ticks later (R395). `cycles` counts its clock's edges (R5). `droop` is 1 in a stretch with
`edges` still to withhold, 2 in the half-issue window with `halfLeft` cycles to come (R396). -/
structure Cluster where
  partition : Option Nat
  logical : Nat
  cls : Nat
  nextCls : Nat
  boost : Bool
  moving : Bool
  cap : Nat
  thresh : Nat
  stretch : Nat
  half : Nat
  alarms : Nat
  add : Nat
  mhz : Nat
  nextMhz : Nat
  stopped : Bool
  stopAt : Nat
  cycles : Nat
  droop : Nat
  edges : Nat
  halfLeft : Nat
  fraction : Nat
  requests : List Current
  holdings : List Current
  sharing : List Sharing
  cgRotation : List Nat
  collRotation : Nat
  binRotation : Nat
deriving DecidableEq, Repr

/-! ## Memory, coherence, translation -/

/-- A registration (R178): the grain's first byte, its size, the core. -/
structure Registration where
  pa : Nat
  size : Nat
  core : Nat
deriving DecidableEq, Repr

/-- A publish state (R349): scope 0 core, 1 cluster, 2 die, 3 device; the publishing physical core. -/
structure PubState where
  scope : Nat
  origin : Nat
deriving DecidableEq, Repr

/-- A held line of a run (R183, R326, R360); `view` is that of the leaf that stored it last (R414). -/
structure HeldLine where
  pa : Nat
  view : Nat
  part : Nat
  record : Nat
  asid : Nat
  index : Nat
  copy : Nat
  bytes : Map Byte
  tag : Option PubState
deriving DecidableEq, Repr

/-- An entry of a translation cache (R221): slice, partition, identifier, the page's first address, size, leaf. -/
structure TlbEntry where
  slice : Nat
  part : Nat
  asid : Nat
  va : Nat
  size : Nat
  leaf : Nat
deriving DecidableEq, Repr

/-- An entry of a walk cache (R221, R223): slice, partition, identifier, the level of the entry (0 the address-space table, n
the pointer that level n − 1 holds), the virtual address's bits above those that the next table maps, the next table. -/
structure WalkPtr where
  slice : Nat
  part : Nat
  asid : Nat
  level : Nat
  va : Nat
  table : Nat
deriving DecidableEq, Repr

/-- A line request that a shootdown waits for (R225): the team, the group, the operation, the line. -/
structure ShotRequest where
  team : Nat
  group : Nat
  op : Nat
  line : Nat
deriving DecidableEq, Repr

/-- A request that takes part in a walk beside the line requests (R221, R222, R191): `kind` 0 the fetch of a clause by a group,
`a` its team and `b` its number; 1 the fetch of the matrix stream of team `a`; 2 a slice instruction of a group; 3 the engine
command `a`; 4 the pending AFENCE or PUBLISH `b` of team `a`; 5 a prefetch for team `a` of address `b` into its L1, 6 into the L2. -/
structure Asker where
  kind : Nat
  a : Nat
  b : Nat
deriving DecidableEq, Repr

/-- A walk in a slice's queue (R222), with the requests that wait for it beside the line requests. -/
structure Walk where
  id : Nat
  slice : Nat
  part : Nat
  asid : Nat
  va : Nat
  askers : List Asker
deriving DecidableEq, Repr

/-- A request that has had its walk of a page under an identifier, and goes on with what the walk found (R222). -/
structure Answer where
  asker : Asker
  asid : Nat
  page : Nat
deriving DecidableEq, Repr

/-! ## Partitions -/

/-- A parked record (R226): its slot, its identifier, its fault entry, whether the entry is in the ring. -/
structure Parked where
  slot : Nat
  asid : Nat
  entry : List Byte
  seq : Nat
  written : Bool
deriving DecidableEq, Repr

/-- What a unit of a halting partition reports (R388). -/
structure UnitFault where
  cause : Nat
  addr : Nat
  detail : Nat
  record : Nat
  asid : Nat
  domain : Nat
  index : Nat
  trapCause : Nat
  thread : Nat
deriving DecidableEq, Repr

/-- What a scrub holds (R416, R468): its key slots by die and number, its physical cores, its chip pieces by number and die,
its ranges as pairs of a first address and a number of 64 KiB units. -/
structure ScrubSet where
  keys : List (Nat × Nat)
  cores : List Nat
  pieces : List (Nat × Nat)
  ranges : List (Nat × Nat)
deriving DecidableEq, Repr

/-- A cut that a partition's MIRRs are making (R407): its identifier, the tick of its first MIRR, whether one of them has
failed. -/
structure Cut where
  id : Nat
  start : Nat
  failed : Bool
deriving DecidableEq, Repr

/-- One partition: its register block (R217, R224, R227, R234, R235, R308, R310, R358, R362, R387, R389, R398, R403,
R415, R467), what Gritus set for it (R411), its queues and its halt controller. `shootRange` holds the identifier, the first page and the page after the last of
the shootdown in progress, and `shootWaits` the line requests that it waits for (R225). `haltAt` is the tick at which the halt
line rose (R385), `watched` the core unit, record and identifier of the team whose watchdog expired (R389). `lease` is 0 without a boost lease, 1 with one, 2
under notice (R394, R395). `scrubOn` says that the scrub engine runs, `scrubHeld` what its scrub holds or a reset left quarantined (R416, R468).
`secured` says that a complete cut stands on a partner of another feed (R405, R411), `cutTicks` is the measured duration of the
last complete cut and `copyInterval` the interval of R407 in seconds. -/
structure Partition where
  configured : Bool
  paused : Bool
  config : PartitionConfig
  asTable : Dword
  shootVa : Dword
  shootCtrl : Dword
  shootBusy : Bool
  shootRange : Nat × Nat × Nat
  shootWaits : List ShotRequest
  faultRing : Dword
  faultRead : Nat
  faultWrite : Nat
  faultSeq : Nat
  parked : List Parked
  kickAsid : Nat
  schedStatus : Nat
  rqBase : List Dword
  rqRead : List Nat
  rqWrite : List Nat
  queues : List (List (Nat × Nat))
  preemptOut : Option Nat
  collTable : Dword
  mirrCtl : Dword
  secured : Bool
  cuts : List Cut
  cutTicks : Nat
  copyInterval : Nat
  gateDir : Dword
  pubVa : Dword
  pubCtrl : Dword
  pubBusy : Bool
  halted : Bool
  haltDone : Bool
  haltCause : Nat
  haltIndex : Nat
  haltAt : Nat
  watched : Option (Nat × Nat × Nat)
  stopArea : Dword
  unitFaults : Map UnitFault
  served : Map UnitFault
  stopped : List Nat
  watchdog : Nat
  boostState : Nat
  boostReason : Nat
  boostEnd : Nat
  lease : Nat
  escapeWait : Nat
  scrubDone : Bool
  scrubQuar : Bool
  scrubOn : Bool
  scrubHeld : ScrubSet
  scrubPhase : Nat
  scrubUnits : Nat
  scrubCores0 : Dword
  scrubCores1 : Dword
  scrubCtl : Dword
  scrubRanges : List Dword
  irqs : List Nat
deriving DecidableEq, Repr

/-! ## The assay unit -/

/-- One entry of a lead log (R330); kind 6 carries its piece. -/
structure LogEntry where
  value : Nat
  thread : Nat
  kind : Nat
  flag : Nat
  cnt : Nat
  piece : List Byte
deriving DecidableEq, Repr

/-- What a finished run left for the comparison (R324, R338). -/
structure RunResult where
  engine : Nat
  ss : Nat
  rs : Nat
  cores : List Nat
  cnts : List Nat
  diverged : Bool
deriving DecidableEq, Repr

/-- What the comparison of a checked team's runs has decided (R339): the copy whose held lines are being released, the copy whose
are discarded, and the cores that receive demerits. -/
structure Verdict where
  winner : Nat
  other : Nat
  losers : List Nat
deriving DecidableEq, Repr

/-- A checked team that has been dispensed (R321, R329, R339). `stage` 0 lead, 1 trail, 2 third, 3 released,
4 unchecked; `ended` a run that has ended and awaits LEAD_END or RUN_COMPARE. -/
structure Checked where
  part : Nat
  record : Nat
  asid : Nat
  index : Nat
  epoch : Nat
  slotBase : Nat
  stride : Nat
  slots : Nat
  slot : Nat
  logBase : Nat
  logSize : Nat
  groups : Nat
  level : Nat
  stage : Nat
  reason : Nat
  used : Nat
  entries : List LogEntry
  ended : Bool
  lead : Option RunResult
  trail : Option RunResult
  third : Option RunResult
  verdict : Option Verdict
deriving DecidableEq, Repr

/-- The target of CR_ASSAY_INJECT (R444). -/
structure Target where
  part : Nat
  record : Nat
  asid : Nat
  index : Nat
  done : List Nat
deriving DecidableEq, Repr

/-- A grid record that has been armed and whose grid has not completed (R233, R238). -/
structure Grid where
  part : Nat
  record : Nat
  asid : Nat
  epoch : Nat
  armed : Bool
  code : Nat
  lb : LaunchBlock
  next : Nat
  ended : Nat
  succ : Nat
  prio : Nat
deriving DecidableEq, Repr

/-- What the device keeps of a saved team beside the bytes of its image: the in-flight blocks (R252, R254, R195), the
engine command area (R316) and the gate frames' contents (R363), all of a layout that only the device reads. `key` is the
run's number, `held` and `arrived` those of its sequencer, `fpOrder`, `vecOrder` and `diverged` the team's. -/
structure SavedTeam where
  key : Nat
  part : Nat
  asid : Nat
  slot : Nat
  record : Nat
  index : Nat
  copy : Nat
  mode : RunMode
  epoch : Nat
  padNonce : Nat
  groups : List Group
  commands : List Command
  held : Option (Nat × Bool)
  arrived : Bool
  fpOrder : Nat
  vecOrder : Nat
  diverged : Bool
  pend : Bool
deriving DecidableEq, Repr

/-! ## Host, fabric, management core -/

/-- One rank's waiting COLL of an instance (R309): a command of this device, or 0 for a rank on another device, with the
elements that it sends. -/
structure CollWait where
  part : Nat
  name : Nat
  rank : Nat
  command : Nat
  elems : List Nat
deriving DecidableEq, Repr

/-- A packet on the fabric (R403): the command that sent it, the device that it goes to, its channel, the tick at which it was
sent, and for a MIRR the bytes that it carries and their place in the mirror region. -/
structure Packet where
  id : Nat
  part : Nat
  command : Nat
  dest : Nat
  escape : Bool
  since : Nat
  off : Nat
  data : List Byte
deriving DecidableEq, Repr

/-- One fabric port (R403, R404, R408): 0 up, 1 retraining, 2 down after its retrain, 3 removed; the tick at which it
failed; the heartbeats that its neighbour has missed. -/
structure Port where
  mode : Nat
  since : Nat
  missed : Nat
deriving DecidableEq, Repr

/-- The mirror region of a partition in a partner device as this device wrote it: block tags (R406) and contents. -/
structure Mirror where
  tags : Map Nat
  bytes : Map Byte
deriving DecidableEq, Repr

/-- A secure SPDM session (R413, R414). -/
structure Session where
  part : Nat
  established : Bool
  updates : Nat
deriving DecidableEq, Repr

/-- The management core (R459–R464) and what only it reaches (R461, R462). -/
structure Mgmt where
  x : Map Dword
  pc : Dword
  reservation : Option Nat
  csrs : Map Dword
  sram : Map Byte
  sramNonce : Nat
  flash : List Host.Cell
  jumped : Bool
  running : Nat
  measured : List Dword
  bootSel : Dword
  bootStatus : Dword
  verFloor : Dword
  imageKey : Option (Nat × Nat)
  sealDig : List Dword
  sealSig : List Dword
  sealState : Nat
  measExt : List Dword
  meas : List (List Dword)
  latches : Map (List Dword)
  assignCode : Nat
deriving DecidableEq, Repr

/-- The health record's fields that nothing else of the state holds (R413), and the last complete record. -/
structure Health where
  seq : Nat
  feed : Nat
  released : Nat
  corrected : Nat
  record : List Byte
deriving DecidableEq, Repr

/-! ## The machine -/

/-- Whose turn it is when the agenda is empty (the model's own, log entry 1). -/
inductive Issuer where
  | group (team group : Nat)
  | sequencer (team : Nat)
deriving DecidableEq, Repr

/-- What a planned move does. -/
inductive Act where
  | event (i : Instr)
  | issue (u : Issuer)
deriving DecidableEq, Repr

/-- A planned move: the ticks that pass before it, and what happens (log entry 1). -/
structure Move where
  dt : Nat
  act : Act
deriving DecidableEq, Repr

/-- The whole machine. `errors` are the lines of DRAM whose data has an uncorrectable error, `soft` those whose data has one
that a read corrects (R186). The last six fields are the model's own (log entries 1, 5). -/
structure State where
  time : Nat
  cores : List Core
  clusters : List Cluster
  partitions : List Partition
  teams : Map Team
  commands : List Command
  grids : List Grid
  saved : List SavedTeam
  dram : List Host.Cell
  hostMem : List Host.Cell
  kpad : List Host.Cell
  registrations : List Registration
  l2 : List Nat
  heldLines : List HeldLine
  stamps : Map Nat
  pub : Map PubState
  cipher : Map Nat
  errors : List Nat
  soft : List Nat
  tlb : List TlbEntry
  walkCache : List WalkPtr
  walks : List Walk
  answers : List Answer
  retired : List (Nat × Nat)
  retiring : List (Nat × Nat)
  keys : Map Nat
  holdWays : Nat
  assayCtl : Dword
  epoch : Nat
  assayCounts : List Nat
  inject : Dword
  target : Option Target
  checked : List Checked
  configuration : Nat
  collWaits : List CollWait
  packets : List Packet
  ports : List Port
  mirrors : Map Mirror
  session : Option Session
  reply : List Byte
  health : Health
  mgmt : Mgmt
  agenda : List Move
  cur : Issuer
  stalled : Bool
  nonce : Nat
  nextId : Nat
  issues : Nat
deriving DecidableEq, Repr

/-! ## Reset -/

/-- A launch block of zeros. -/
def LaunchBlock.zero : LaunchBlock :=
  ⟨0, 0, 0, 0, 0, 0, 0, 0, 0, 0, 0, 0, 0, 0, 0, 0, 0, 0, 0, 0, 0, 0, 0, 0, 0, 0, 0⟩

/-- A thread at launch (R63, R94, R377, R335): live, at the kernel's first header. -/
def Thread.launch (code : Nat) : Thread where
  pc := code
  live := true
  trapMode := false
  parked := none
  preds := 0
  fpFlags := 0
  trapPc := 0
  trapCause := 0
  trapDetail := 0
  trapScratch := 0
  pend := none
  idx := 0
  ss := 0
  rs := 0
  cnt := 0
  pos := 0
  budget := 0
  status := none

/-- A group at launch (R67, R68, R72, R94, R178, R291). -/
def Group.launch (code asid stamp : Nat) : Group where
  threads := List.replicate 32 (Thread.launch code)
  regs := []
  empty := []
  poison := []
  rotation := 0
  urgency := 0
  lastIssue := stamp
  rank := 0
  since := none
  issuedOnce := false
  holds := []
  asid := asid
  kmask := List.replicate 8 0
  ops := []
  loads := []
  stores := []
  locals := []
  pending := []
  streams := List.replicate 3 ⟨0, 0, 0, []⟩
  clause := none
  tailNext := false
  saveNext := false
  sbarArrived := false
  gate := none

/-- A barrier before its first arrival (R243). -/
def Barrier.fresh : Barrier := ⟨0, 0, false, 0, false, []⟩

/-- A matrix sequencer at launch (R258, R263, R282); a stream address of 0 means none. -/
def Sequencer.launch (mstream : Nat) : Sequencer where
  pc := mstream
  idx := 0
  mode := if mstream = 0 then 4 else 0
  barrier := 0
  lc := List.replicate 4 0
  om := List.replicate 16 ⟨0, 0, 0, 0, 0, 0⟩
  res := 0
  busy := false
  row := 0
  held := none
  arrived := false
  clause := none

/-- A core after a device reset (R71, R78, R343, R348, R390, R399, R409). -/
def Core.reset (p : Nat) : Core where
  active := true
  fenced := false
  deactivated := false
  logical := p
  cycles := 0
  slots := List.replicate 4 ⟨false, none, false, 0, none⟩
  memRotation := 3
  sfuRotation := 3
  matrixLast := 0
  l1 := []
  dirty := []
  icache := []
  port := none
  margin := 0
  exhausted := false
  demerits := 0
  deadline := 0
  context := none

/-- A cluster after a device reset (R393, R397). -/
def Cluster.reset (c : Nat) : Cluster where
  partition := none
  logical := c
  cls := 0
  nextCls := 0
  boost := false
  moving := false
  cap := 96
  thresh := 40
  stretch := 6
  half := 64
  alarms := 0
  add := 0
  mhz := 1250
  nextMhz := 1250
  stopped := false
  stopAt := 0
  cycles := 0
  droop := 0
  edges := 0
  halfLeft := 0
  fraction := 0
  requests := []
  holdings := []
  sharing := List.replicate 8 ⟨[]⟩
  cgRotation := List.replicate 4 3
  collRotation := 15
  binRotation := 15

/-- A partition after a device reset (R217, R224, R227, R234, R235, R387, R389, R398, R403, R415, R467). -/
def Partition.reset : Partition where
  configured := false
  paused := false
  config := ⟨[], 0, 0, [], 0, [], []⟩
  asTable := 0
  shootVa := 0
  shootCtrl := 0
  shootBusy := false
  shootRange := (0, 0, 0)
  shootWaits := []
  faultRing := 0
  faultRead := 0
  faultWrite := 0
  faultSeq := 0
  parked := []
  kickAsid := 0
  schedStatus := 0
  rqBase := List.replicate 12 0
  rqRead := List.replicate 12 0
  rqWrite := List.replicate 12 0
  queues := List.replicate 12 []
  preemptOut := none
  collTable := 0
  mirrCtl := 0
  secured := false
  cuts := []
  cutTicks := 0
  copyInterval := 1
  gateDir := 0
  pubVa := 0
  pubCtrl := 0
  pubBusy := false
  halted := false
  haltDone := false
  haltCause := 0
  haltIndex := 1023
  haltAt := 0
  watched := none
  stopArea := 0
  unitFaults := []
  served := []
  stopped := []
  watchdog := 0x0400
  boostState := 0
  boostReason := 0
  boostEnd := 0
  lease := 0
  escapeWait := 512
  scrubDone := true
  scrubQuar := false
  scrubOn := false
  scrubHeld := ⟨[], [], [], []⟩
  scrubPhase := 0
  scrubUnits := 0
  scrubCores0 := 0
  scrubCores1 := 0
  scrubCtl := 0
  scrubRanges := List.replicate 8 0
  irqs := []

/-- The management core after a reset (R459, R461). -/
def Mgmt.reset : Mgmt where
  x := []
  pc := 0
  reservation := none
  csrs := []
  sram := []
  sramNonce := 0
  flash := []
  jumped := false
  running := 0
  measured := []
  bootSel := 0
  bootStatus := 0
  verFloor := 0
  imageKey := none
  sealDig := List.replicate 6 0
  sealSig := List.replicate 12 0
  sealState := 0
  measExt := List.replicate 6 0
  meas := List.replicate 8 (List.replicate 6 0)
  latches := []
  assignCode := 0

/-- The machine right after a device reset. What the manual states no value for is named in log entries 4, 5, 6. -/
def State.reset : State where
  time := 0
  cores := (List.range 128).map Core.reset
  clusters := (List.range 32).map Cluster.reset
  partitions := List.replicate 8 Partition.reset
  teams := []
  commands := []
  grids := []
  saved := []
  dram := []
  hostMem := []
  kpad := []
  registrations := []
  l2 := []
  heldLines := []
  stamps := []
  pub := []
  cipher := []
  errors := []
  soft := []
  tlb := []
  walkCache := []
  walks := []
  answers := []
  retired := []
  retiring := []
  keys := []
  holdWays := 4
  assayCtl := 0x3A9
  epoch := 0
  assayCounts := List.replicate 6 0
  inject := 0
  target := none
  checked := []
  configuration := 128
  collWaits := []
  packets := []
  ports := List.replicate 12 ⟨0, 0, 0⟩
  mirrors := []
  session := none
  reply := []
  health := ⟨0, 0, 0, 0, List.replicate 8 0 ++ [128#8] ++ List.replicate 487 0⟩
  mgmt := Mgmt.reset
  agenda := []
  cur := .group 0 0
  stalled := false
  nonce := 1
  nextId := 1
  issues := 1

end Sys2Proof.Machine
end

