-- ==== Sys2Proof/Machine/Aes.lean ====
section
/-! DEFINITION. AES-256 and its XTS mode (R414), after FIPS 197 and IEEE 1619 (log entry 16). A block is 16 bytes as numbers. -/

namespace Sys2Proof.Machine

/-! ## The field of AES -/

/-- Twice an element of GF(2^8). -/
def gfDouble (a : Nat) : Nat := if a < 128 then 2 * a else (2 * a) ^^^ 0x11B

/-- A product in GF(2^8), over the low bits of the first factor. -/
def gfMul : Nat → Nat → Nat → Nat
  | 0, _, _ => 0
  | k + 1, a, b => (if a % 2 = 1 then b else 0) ^^^ gfMul k (a / 2) (gfDouble b)

/-- The inverse of an element: its power 254; 0 for 0. -/
def gfInv (a : Nat) : Nat :=
  let sq := fun x => gfMul 8 x x
  let a2 := sq a
  let a4 := sq a2
  let a8 := sq a4
  let a16 := sq a8
  let a32 := sq a16
  let a64 := sq a32
  [a4, a8, a16, a32, a64, sq a64].foldl (gfMul 8) a2

/-- A byte turned left. -/
def turnByte (a k : Nat) : Nat := (a * 2 ^ k % 256) + a / 2 ^ (8 - k)

/-- The substitution of AES and its inverse. -/
def aesSub (a : Nat) : Nat :=
  let b := gfInv a
  b ^^^ turnByte b 1 ^^^ turnByte b 2 ^^^ turnByte b 3 ^^^ turnByte b 4 ^^^ 0x63
/-- The inverse substitution. -/
def aesUnsub (a : Nat) : Nat := gfInv (turnByte a 1 ^^^ turnByte a 3 ^^^ turnByte a 6 ^^^ 0x05)

/-! ## Blocks -/

/-- Byte by byte exclusive or. -/
def xorBytes (a b : List Nat) : List Nat := (a.zip b).map (fun p => p.1 ^^^ p.2)

/-- The next word of the key schedule, of which the last eight are given, the first of them first. -/
def aesNextWord (i : Nat) (ws : List (List Nat)) : List Nat :=
  let last := ws.getD 7 []
  let t :=
    if i % 8 = 0 then xorBytes ((last.drop 1 ++ last.take 1).map aesSub) [2 ^ (i / 8 - 1), 0, 0, 0]
    else if i % 8 = 4 then last.map aesSub
    else last
  xorBytes (ws.getD 0 []) t

/-- The 15 round keys of a 32-byte key. -/
def aesRoundKeys (key : List Nat) : List (List Nat) :=
  let first := (List.range 8).map (fun k => (key.drop (4 * k)).take 4)
  let ws := (List.range 52).foldl (fun (ws : List (List Nat)) k => ws ++ [aesNextWord (k + 8) (ws.drop k)]) first
  (List.range 15).map (fun r => ((ws.drop (4 * r)).take 4).flatten)

/-- The rows of a block are turned by a step of columns per row. -/
def aesTurnRows (step : Nat) (b : List Nat) : List Nat :=
  (List.range 16).map (fun i => b.getD ((i + 4 * step * (i % 4)) % 16) 0)

/-- Each column is multiplied by the circulant of four factors. -/
def aesMix (f : List Nat) (b : List Nat) : List Nat :=
  (List.range 16).map (fun i =>
    (List.range 4).foldl (fun x k => x ^^^ gfMul 8 (f.getD k 0) (b.getD (i / 4 * 4 + (i + k) % 4) 0)) 0)

/-- AES-256 of a block under its round keys. -/
def aesEncrypt (keys : List (List Nat)) (b : List Nat) : List Nat :=
  let b := (keys.drop 1 |>.take 13).foldl (fun b k => xorBytes (aesMix [2, 3, 1, 1] (aesTurnRows 1 (b.map aesSub))) k)
    (xorBytes b (keys.headD []))
  xorBytes (aesTurnRows 1 (b.map aesSub)) (keys.getD 14 [])

/-- The inverse of AES-256. -/
def aesDecrypt (keys : List (List Nat)) (b : List Nat) : List Nat :=
  let b := (keys.drop 1 |>.take 13).reverse.foldl
    (fun b k => aesMix [14, 11, 13, 9] (xorBytes ((aesTurnRows 3 b).map aesUnsub) k))
    (xorBytes b (keys.getD 14 []))
  xorBytes ((aesTurnRows 3 b).map aesUnsub) (keys.headD [])

/-! ## XTS -/

/-- The tweak of a 16-byte unit under the second half of a 64-byte key: its physical address, lowest byte first (R414). -/
def xtsTweak (key : List Nat) (address : Nat) : List Nat :=
  aesEncrypt (aesRoundKeys (key.drop 32)) ((List.range 16).map (fun i => address / 2 ^ (8 * i) % 256))

/-- A unit of DRAM encrypted under a 64-byte key, the data key first. -/
def xtsEncrypt (key : List Nat) (address : Nat) (b : List Nat) : List Nat :=
  let t := xtsTweak key address
  xorBytes (aesEncrypt (aesRoundKeys (key.take 32)) (xorBytes b t)) t

/-- A unit of DRAM decrypted under a 64-byte key. -/
def xtsDecrypt (key : List Nat) (address : Nat) (b : List Nat) : List Nat :=
  let t := xtsTweak key address
  xorBytes (aesDecrypt (aesRoundKeys (key.take 32)) (xorBytes b t)) t

/-- The bytes of a key that a slot holds: the number of its 64 bytes, lowest first, and 1 (R414). -/
def keyBytes (generation : Nat) : List Nat := (List.range 64).map (fun i => (generation - 1) / 2 ^ (8 * i) % 256)

end Sys2Proof.Machine
end

