-- ==== Sys2Proof/WellFormed.lean ====
section
/-! DEFINITION. Which instructions are well formed: check 12 of R26 over the operand forms that the chapters give, the
class and the clause enders of R9 and R10, and the registers an instruction names (R99). -/

namespace Sys2Proof

/-- What an operand field holds (R19, R22). `name` names a register whose value is not read (R112). -/
inductive OperandKind where
  | unused
  | reg
  | pair
  | quad
  | regs (n : Nat)
  | pred
  | imm (top : Nat)
  | name
deriving DecidableEq, Repr

/-- The kinds of D, A, B and C in one form of an instruction. -/
structure Form where
  d : OperandKind
  a : OperandKind
  b : OperandKind
  c : OperandKind
deriving DecidableEq, Repr

namespace Forms

/-- A form that is assigned when a condition on MINOR, MOD and the literal holds. -/
def ok (c : Bool) (d a b k : OperandKind) : Option Form := if c then some ⟨d, a, b, k⟩ else none
/-- An unused field. -/
def z : OperandKind := .unused
/-- A 32-bit register. -/
def r : OperandKind := .reg
/-- A pair. -/
def p : OperandKind := .pair
/-- A predicate. -/
def q : OperandKind := .pred
/-- One, two or four registers. -/
def kn (n : Nat) : OperandKind := if n = 4 then .quad else if n = 2 then .pair else .reg
/-- A pair where MINOR 0 selects the 64-bit type. -/
def w64 (m : Nat) : OperandKind := if m = 1 then .pair else .reg
/-- The types of R124: 2 and 3 are the 64-bit ones. -/
def t4 (m : Nat) : OperandKind := if 2 ≤ m then .pair else .reg
/-- A literal-capable source B (R21). -/
def lb (lit : Bool) (k : OperandKind) : OperandKind := if lit then .unused else k
/-- A small offset, which a literal replaces (R119, R159, R187). -/
def off (lit : Bool) : OperandKind := if lit then .unused else .imm 255
/-- How many registers a type code of R24 takes. -/
def typeRegs (t : Nat) : Nat :=
  if t = 12 then 4 else if t = 3 || t = 7 || t = 11 || t = 13 then 2 else 1
/-- Rounding mode at most `top`, SAT free, MOD 7:4 zero (R23). -/
def rnd (top o : Nat) : Bool := o % 8 ≤ top && o < 16
/-- The load types of R159. -/
def loadType (m : Nat) : Bool := m == 0 || m == 4 || m == 1 || m == 5 || m == 10 || m == 11 || m == 12
/-- The store types of R159. -/
def storeType (m : Nat) : Bool := m == 8 || m == 9 || m == 10 || m == 11 || m == 12
/-- The pairings of operation and type of R163. -/
def atomOk (m op : Nat) : Bool :=
  let int := m == 2 || m == 6 || m == 3 || m == 7
  let raw := m == 10 || m == 11
  (op == 0 && (int || m == 14)) || ((op == 1 || op == 2) && int) || (3 ≤ op && op ≤ 7 && raw)
/-- The pairings of operation, type, rounding and saturation of R90. -/
def gredOk (m o : Nat) : Bool :=
  let op := o / 16
  let int := m == 2 || m == 6 || m == 3 || m == 7
  let flt := m == 13 || m == 14
  let raw := m == 10 || m == 11
  o < 128 &&
  ((op == 0 && ((int && o % 8 == 0) || (flt && o % 8 ≤ 3))) ||
   ((op == 1 || op == 2) && (int || flt) && o % 16 == 0) ||
   (op == 3 && (m == 2 || m == 3 || flt) && o % 16 == 0) ||
   ((op == 4 || op == 5 || op == 6) && (int || raw) && o % 16 == 0))
/-- The type codes of a conversion (R147). -/
def cvtOk (dst src o : Nat) : Bool :=
  let code := fun t => t ≤ 7 || (13 ≤ t && t ≤ 22)
  let float := fun t => 13 ≤ t && t ≤ 22
  code dst && code src && rnd 4 o &&
  !(dst == 22 && !float src) && !(src == 22 && !float dst) && !(dst == 22 && o % 8 == 4)
/-- The literal as a number. -/
def litNat (f : Fields) : Nat := match f.lit with | some x => x.toNat | none => 0
/-- A literal offset that is a multiple of 4 (R119). -/
def litMul4 (f : Fields) : Bool := litNat f % 4 == 0
/-- The control registers of R382. -/
def crReadable (n : Nat) : Bool :=
  n ≤ 4 || (8 ≤ n && n ≤ 10) || (0x10 ≤ n && n ≤ 0x12) || (0x18 ≤ n && n ≤ 0x1F) || n == 0x20
/-- The control registers that CRW writes (R382). -/
def crWritable (n : Nat) : Bool := n ≤ 4 || n == 8 || n == 9
/-- The MOD bits an engine form lists, in bits 7:5 (R295). -/
def engMod (allowed o : Nat) : Bool := o % 32 == 0 && (o / 32) &&& (7 - allowed) == 0
/-- .shd only with a window destination (R296). -/
def shdOk (m o : Nat) : Bool := !hasBit o 5 || m % 4 == 2
/-- The patch literal stands exactly with H (R295). Bits 31:12 of it, which R295 does not use and R22 does not name, must be
zero as unused fields are (DESIGN CHOICE, log entry 87). -/
def heldLit (f : Fields) : Bool := f.lit.isSome == f.mod.getLsbD 7 && litNat f < 4096
/-- The literal of MIRR (R295). Its bits 11:0 with H = 0 and its bits 15:12, which R22 does not name, must be zero as unused
fields are (DESIGN CHOICE, log entry 87). -/
def mirrLit (f : Fields) : Bool :=
  bits (litNat f) 15 12 == 0 && (f.mod.getLsbD 7 || bits (litNat f) 11 0 == 0)
/-- The MOD of COLL: .ord and, for the reducing ops, the reduction (R309). -/
def collMod (m o : Nat) : Bool :=
  o < 128 && o % 16 == 0 && o / 16 % 4 ≤ 2 && (m ≤ 1 || o / 16 % 4 == 0)
/-- A literal whose bits 15:0 are zero (R295). -/
def litLow (f : Fields) : Bool := bits (litNat f) 15 0 == 0
/-- The M code and the unused MINOR bits of MMA (R269). -/
def mmaOk (m : Nat) : Bool := m / 4 % 4 ≤ 2 && m < 32

end Forms

open Forms in
/-- The operand form of an instruction under its MINOR, MOD and literal; none when they are not assigned (R18, R23). -/
def Instr.form : Instr → Option Form
  | .nop f => let m := f.minor.toNat; let o := f.mod.toNat; let l := f.lit.isSome; ok (!l && m == 0 && o == 0) z z z z
  | .mov f => let m := f.minor.toNat; let o := f.mod.toNat; let l := f.lit.isSome; ok (!l && m ≤ 2 && o == 0) (kn (2 ^ m)) (kn (2 ^ m)) z z
  | .movi f => let m := f.minor.toNat; let o := f.mod.toNat; let l := f.lit.isSome; ok (m ≤ 2 && o == 0) (if m = 0 then r else p) (if l then z else .imm 255) (if l then z else .imm 255) z
  | .movx f => let m := f.minor.toNat; let o := f.mod.toNat; let l := f.lit.isSome; ok (!l && m ≤ 1 && o ≤ 1) (w64 m) r z z
  | .movxw f => let m := f.minor.toNat; let o := f.mod.toNat; let l := f.lit.isSome; ok (!l && m ≤ 1 && o == 0) z r (w64 m) z
  | .getid f => let m := f.minor.toNat; let o := f.mod.toNat; let l := f.lit.isSome; ok (!l && m ≤ 17 && o == 0) r z z z
  | .sel f => let m := f.minor.toNat; let o := f.mod.toNat; let l := f.lit.isSome; ok (m ≤ 1 && o ≤ 1) (w64 m) (w64 m) (lb l (w64 m)) q
  | .plop f => let m := f.minor.toNat; let l := f.lit.isSome; ok (!l && m == 0) q q q q
  | .iadd f => let m := f.minor.toNat; let o := f.mod.toNat; let l := f.lit.isSome; ok (m ≤ 3 && (o == 0 || o == 8)) (t4 m) (t4 m) (lb l (t4 m)) z
  | .isub f => let m := f.minor.toNat; let o := f.mod.toNat; let l := f.lit.isSome; ok (m ≤ 3 && (o == 0 || o == 8)) (t4 m) (t4 m) (lb l (t4 m)) z
  | .imul f => let m := f.minor.toNat; let o := f.mod.toNat; let l := f.lit.isSome; ok (m ≤ 3 && (o == 0 || o == 8)) (t4 m) (t4 m) (lb l (t4 m)) z
  | .imulh f => let m := f.minor.toNat; let o := f.mod.toNat; let l := f.lit.isSome; ok (m ≤ 3 && o == 0) (t4 m) (t4 m) (lb l (t4 m)) z
  | .imad f => let m := f.minor.toNat; let o := f.mod.toNat; let l := f.lit.isSome; ok (m ≤ 3 && (o == 0 || o == 8)) (t4 m) (t4 m) (lb l (t4 m)) (t4 m)
  | .imin f => let m := f.minor.toNat; let o := f.mod.toNat; let l := f.lit.isSome; ok (m ≤ 3 && o == 0) (t4 m) (t4 m) (lb l (t4 m)) z
  | .imax f => let m := f.minor.toNat; let o := f.mod.toNat; let l := f.lit.isSome; ok (m ≤ 3 && o == 0) (t4 m) (t4 m) (lb l (t4 m)) z
  | .iabs f => let m := f.minor.toNat; let o := f.mod.toNat; let l := f.lit.isSome; ok (!l && (m == 0 || m == 2) && (o == 0 || o == 8)) (t4 m) (t4 m) z z
  | .ineg f => let m := f.minor.toNat; let o := f.mod.toNat; let l := f.lit.isSome; ok (!l && (m == 0 || m == 2) && (o == 0 || o == 8)) (t4 m) (t4 m) z z
  | .lea f => let m := f.minor.toNat; let o := f.mod.toNat; let l := f.lit.isSome; ok (m ≤ 1 && o ≤ 7) p p (lb l r) z
  | .icmp f => let m := f.minor.toNat; let o := f.mod.toNat; let l := f.lit.isSome; ok (m ≤ 3 && o ≤ 5) q (t4 m) (lb l (t4 m)) z
  | .idot4 f => let m := f.minor.toNat; let o := f.mod.toNat; let l := f.lit.isSome; ok (m ≤ 3 && (o == 0 || o == 8)) r r (lb l r) r
  | .shl f => let m := f.minor.toNat; let o := f.mod.toNat; let l := f.lit.isSome; ok (m ≤ 1 && o == 0) (w64 m) (w64 m) (lb l r) z
  | .shr f => let m := f.minor.toNat; let o := f.mod.toNat; let l := f.lit.isSome; ok (m ≤ 1 && o == 0) (w64 m) (w64 m) (lb l r) z
  | .sar f => let m := f.minor.toNat; let o := f.mod.toNat; let l := f.lit.isSome; ok (m ≤ 1 && o == 0) (w64 m) (w64 m) (lb l r) z
  | .rot f => let m := f.minor.toNat; let o := f.mod.toNat; let l := f.lit.isSome; ok (m ≤ 3 && o == 0) (w64 (m % 2)) (w64 (m % 2)) (lb l r) z
  | .and f => let m := f.minor.toNat; let o := f.mod.toNat; let l := f.lit.isSome; ok (m ≤ 1 && o == 0) (w64 m) (w64 m) (lb l (w64 m)) z
  | .or f => let m := f.minor.toNat; let o := f.mod.toNat; let l := f.lit.isSome; ok (m ≤ 1 && o == 0) (w64 m) (w64 m) (lb l (w64 m)) z
  | .xor f => let m := f.minor.toNat; let o := f.mod.toNat; let l := f.lit.isSome; ok (m ≤ 1 && o == 0) (w64 m) (w64 m) (lb l (w64 m)) z
  | .not f => let m := f.minor.toNat; let o := f.mod.toNat; let l := f.lit.isSome; ok (!l && m ≤ 1 && o == 0) (w64 m) (w64 m) z z
  | .lop3 f => let m := f.minor.toNat; let l := f.lit.isSome; ok (m ≤ 1) (w64 m) (w64 m) (lb l (w64 m)) (w64 m)
  | .popc f => let m := f.minor.toNat; let o := f.mod.toNat; let l := f.lit.isSome; ok (!l && m ≤ 1 && o == 0) r (w64 m) z z
  | .clz f => let m := f.minor.toNat; let o := f.mod.toNat; let l := f.lit.isSome; ok (!l && m ≤ 1 && o == 0) r (w64 m) z z
  | .brev f => let m := f.minor.toNat; let o := f.mod.toNat; let l := f.lit.isSome; ok (!l && m ≤ 1 && o == 0) (w64 m) (w64 m) z z
  | .bfx f => let m := f.minor.toNat; let o := f.mod.toNat; let l := f.lit.isSome; ok (m ≤ 3 && o == 0) (t4 m) (t4 m) (lb l r) z
  | .bfi f => let m := f.minor.toNat; let o := f.mod.toNat; let l := f.lit.isSome; ok (m ≤ 1 && o == 0) (w64 m) (w64 m) (lb l r) (w64 m)
  | .bperm f => let m := f.minor.toNat; let o := f.mod.toNat; let l := f.lit.isSome; ok (m == 0 && o == 0) r r (lb l r) r
  | .shfl f => let m := f.minor.toNat; let o := f.mod.toNat; let l := f.lit.isSome; ok ((m % 32 == 10 || m % 32 == 11) && o ≤ 5) (kn (typeRegs (m % 32))) (kn (typeRegs (m % 32))) (lb l r) z
  | .vote f => let m := f.minor.toNat; let o := f.mod.toNat; let l := f.lit.isSome; ok (!l && m ≤ 3 && o ≤ 1) (if m = 0 then r else q) q z z
  | .gred f => let m := f.minor.toNat; let o := f.mod.toNat; let l := f.lit.isSome; ok (!l && m < 32 && gredOk m o) (kn (typeRegs m)) (kn (typeRegs m)) z z
  | .matchLanes f => let m := f.minor.toNat; let o := f.mod.toNat; let l := f.lit.isSome; ok (!l && (m % 32 == 10 || m % 32 == 11) && m < 64 && o == 0) r (kn (typeRegs (m % 32))) z (if m < 32 then z else q)
  | .rng4 f => let m := f.minor.toNat; let o := f.mod.toNat; let l := f.lit.isSome; ok (!l && m == 0 && o == 0) .quad .quad p z
  | .setfe f => let m := f.minor.toNat; let o := f.mod.toNat; let l := f.lit.isSome; ok (!l && m ≤ 2 && o == 0) (if m = 2 then q else z) .name z z
  | .fadd f => let m := f.minor.toNat; let o := f.mod.toNat; let l := f.lit.isSome; ok (m ≤ 1 && rnd 4 o) (w64 m) (w64 m) (lb l (w64 m)) (if o % 8 = 4 then r else z)
  | .fsub f => let m := f.minor.toNat; let o := f.mod.toNat; let l := f.lit.isSome; ok (m ≤ 1 && rnd 4 o) (w64 m) (w64 m) (lb l (w64 m)) (if o % 8 = 4 then r else z)
  | .fmul f => let m := f.minor.toNat; let o := f.mod.toNat; let l := f.lit.isSome; ok (m ≤ 1 && rnd 4 o) (w64 m) (w64 m) (lb l (w64 m)) (if o % 8 = 4 then r else z)
  | .ffma f => let m := f.minor.toNat; let o := f.mod.toNat; let l := f.lit.isSome; ok (m ≤ 1 && rnd 3 o) (w64 m) (w64 m) (lb l (w64 m)) (w64 m)
  | .fmin f => let m := f.minor.toNat; let o := f.mod.toNat; let l := f.lit.isSome; ok (m ≤ 1 && o == 0) (w64 m) (w64 m) (lb l (w64 m)) z
  | .fmax f => let m := f.minor.toNat; let o := f.mod.toNat; let l := f.lit.isSome; ok (m ≤ 1 && o == 0) (w64 m) (w64 m) (lb l (w64 m)) z
  | .fcmp f => let m := f.minor.toNat; let o := f.mod.toNat; let l := f.lit.isSome; ok (m ≤ 1 && o ≤ 7) q (w64 m) (lb l (w64 m)) z
  | .fclass f => let m := f.minor.toNat; let o := f.mod.toNat; let l := f.lit.isSome; ok (!l && m ≤ 1 && o == 0) r (w64 m) z z
  | .frnd f => let m := f.minor.toNat; let o := f.mod.toNat; let l := f.lit.isSome; ok (!l && m ≤ 1 && o ≤ 3) (w64 m) (w64 m) z z
  | .hfma2 f => let m := f.minor.toNat; let o := f.mod.toNat; let l := f.lit.isSome; ok (m ≤ 1 && rnd 3 o) r r (lb l r) r
  | .hadd2 f => let m := f.minor.toNat; let o := f.mod.toNat; let l := f.lit.isSome; ok (m ≤ 1 && rnd 3 o) r r (lb l r) z
  | .hmul2 f => let m := f.minor.toNat; let o := f.mod.toNat; let l := f.lit.isSome; ok (m ≤ 1 && rnd 3 o) r r (lb l r) z
  | .frcp f => let m := f.minor.toNat; let o := f.mod.toNat; let l := f.lit.isSome; ok (!l && m ≤ 1 && rnd 3 o) (w64 m) (w64 m) z z
  | .frsq f => let m := f.minor.toNat; let o := f.mod.toNat; let l := f.lit.isSome; ok (!l && m ≤ 1 && rnd 3 o) (w64 m) (w64 m) z z
  | .fsqrt f => let m := f.minor.toNat; let o := f.mod.toNat; let l := f.lit.isSome; ok (!l && m ≤ 1 && rnd 3 o) (w64 m) (w64 m) z z
  | .fexp2 f => let m := f.minor.toNat; let o := f.mod.toNat; let l := f.lit.isSome; ok (!l && m == 0 && o == 0) r r z z
  | .flog2 f => let m := f.minor.toNat; let o := f.mod.toNat; let l := f.lit.isSome; ok (!l && m == 0 && o == 0) r r z z
  | .fsin f => let m := f.minor.toNat; let o := f.mod.toNat; let l := f.lit.isSome; ok (!l && m == 0 && o == 0) r r z z
  | .fcos f => let m := f.minor.toNat; let o := f.mod.toNat; let l := f.lit.isSome; ok (!l && m == 0 && o == 0) r r z z
  | .ftanh f => let m := f.minor.toNat; let o := f.mod.toNat; let l := f.lit.isSome; ok (!l && m == 0 && o == 0) r r z z
  | .cvt f => let m := f.minor.toNat; let o := f.mod.toNat; let l := f.lit.isSome; ok (!l && cvtOk m f.c.toNat o) (kn (typeRegs m)) (kn (typeRegs f.c.toNat)) (if o % 8 = 4 then r else z) (.imm 22)
  | .cvtq f => let m := f.minor.toNat; let o := f.mod.toNat; let l := f.lit.isSome; ok ((m % 32 == 0 || (17 ≤ m % 32 && m % 32 ≤ 21)) && m / 32 ≤ 2 && rnd 4 o && o / 8 == 1) r r (lb l r) (if o % 8 = 4 then r else z)
  | .pack6 f => let m := f.minor.toNat; let o := f.mod.toNat; let l := f.lit.isSome; ok (!l && m == 0 && o == 0) r r z z
  | .unpk6 f => let m := f.minor.toNat; let o := f.mod.toNat; let l := f.lit.isSome; ok (!l && m == 0 && o == 0) r r z z
  | .pack4 f => let m := f.minor.toNat; let o := f.mod.toNat; let l := f.lit.isSome; ok (!l && m == 0 && o == 0) r r z z
  | .unpk4 f => let m := f.minor.toNat; let o := f.mod.toNat; let l := f.lit.isSome; ok (!l && m ≤ 1 && o == 0) r r z z
  | .pack8 f => let m := f.minor.toNat; let o := f.mod.toNat; let l := f.lit.isSome; ok (!l && m == 0 && o == 0) r r z z
  | .unpk8 f => let m := f.minor.toNat; let o := f.mod.toNat; let l := f.lit.isSome; ok (!l && m ≤ 1 && o == 0) r r z z
  | .sclx f => let m := f.minor.toNat; let o := f.mod.toNat; let l := f.lit.isSome; ok (!l && 17 ≤ m % 32 && m % 32 ≤ 21 && m / 32 ≤ 2 && o == 0) r r z z
  | .fscl f => let m := f.minor.toNat; let o := f.mod.toNat; let l := f.lit.isSome; ok (m < 8 && rnd 4 o) (if m % 4 = 1 then p else r) (if m % 4 = 1 then p else r) (lb l r) (if o % 8 = 4 then r else z)
  | .ld f => let m := f.minor.toNat; let o := f.mod.toNat; let l := f.lit.isSome; ok (loadType m && o == 0) (kn (typeRegs m)) p (off l) z
  | .st f => let m := f.minor.toNat; let o := f.mod.toNat; let l := f.lit.isSome; ok (storeType m && o == 0) z p (off l) (kn (typeRegs m))
  | .ldq f => let m := f.minor.toNat; let o := f.mod.toNat; let l := f.lit.isSome; ok (loadType m && m != 12 && o == 0) (kn (typeRegs m)) p (off l) z
  | .stq f => let m := f.minor.toNat; let o := f.mod.toNat; let l := f.lit.isSome; ok (storeType m && m != 12 && o == 0) z p (off l) (kn (typeRegs m))
  | .pfch f => let m := f.minor.toNat; let o := f.mod.toNat; let l := f.lit.isSome; ok (m ≤ 1 && o == 0) z p (off l) z
  | .atom f => let m := f.minor.toNat; let o := f.mod.toNat; let l := f.lit.isSome; ok (atomOk m o && o ≤ 6) (kn (typeRegs m)) p (off l) (kn (typeRegs m))
  | .red f => let m := f.minor.toNat; let o := f.mod.toNat; let l := f.lit.isSome; ok (atomOk m o && o ≤ 6) z p (off l) (kn (typeRegs m))
  | .cas f => let m := f.minor.toNat; let o := f.mod.toNat; let l := f.lit.isSome; ok (!l && (m == 10 || m == 11 || m == 12) && o == 0) (kn (typeRegs m)) p (kn (typeRegs m)) (kn (typeRegs m))
  | .fence f => let m := f.minor.toNat; let o := f.mod.toNat; let l := f.lit.isSome; ok (!l && m == 0 && o == 0 && f.a != 0 && f.b != 0 && !f.a.getLsbD 3) (.imm 4) (.imm 31) (.imm 31) z
  | .afence f => let m := f.minor.toNat; let o := f.mod.toNat; let l := f.lit.isSome; ok (m == 0 && o == 0) z p (lb l r) z
  | .logv f => let m := f.minor.toNat; let o := f.mod.toNat; let l := f.lit.isSome; ok (!l && (m == 10 || m == 11) && o == 0) (kn (typeRegs m)) (kn (typeRegs m)) z z
  | .lds f => let m := f.minor.toNat; let o := f.mod.toNat; let l := f.lit.isSome; ok (loadType m && o == 0) (kn (typeRegs m)) r (off l) z
  | .sts f => let m := f.minor.toNat; let o := f.mod.toNat; let l := f.lit.isSome; ok (storeType m && o == 0) z r (off l) (kn (typeRegs m))
  | .atoms f => let m := f.minor.toNat; let o := f.mod.toNat; let l := f.lit.isSome; ok (!l && atomOk m (o % 16) && o % 16 ≤ 7 && o < 32) (if o < 16 then kn (typeRegs m) else z) r (if o % 16 = 7 then kn (typeRegs m) else z) (kn (typeRegs m))
  | .ldw f => let m := f.minor.toNat; let o := f.mod.toNat; let l := f.lit.isSome; ok (loadType m && o == 0) (kn (typeRegs m)) r (off l) z
  | .stw f => let m := f.minor.toNat; let o := f.mod.toNat; let l := f.lit.isSome; ok (storeType m && o == 0) z r (off l) (kn (typeRegs m))
  | .stx f => let m := f.minor.toNat; let o := f.mod.toNat; let l := f.lit.isSome; ok (storeType m && o == 0) z r (off l) (kn (typeRegs m))
  | .sbar f => let m := f.minor.toNat; let o := f.mod.toNat; let l := f.lit.isSome; ok (!l && m == 0 && o == 0) z z z z
  | .join f => let m := f.minor.toNat; let o := f.mod.toNat; let l := f.lit.isSome; ok (!l && m == 0 && o == 0) r z (.imm 7) z
  | .leave f => let m := f.minor.toNat; let o := f.mod.toNat; let l := f.lit.isSome; ok (!l && m == 0 && o == 0) z z z z
  | .ldk f => let m := f.minor.toNat; let o := f.mod.toNat; let l := f.lit.isSome; ok (loadType m && o == 0) (kn (typeRegs m)) r (off l) z
  | .stk f => let m := f.minor.toNat; let o := f.mod.toNat; let l := f.lit.isSome; ok (storeType m && o == 0) z r (off l) (kn (typeRegs m))
  | .atomk f => let m := f.minor.toNat; let o := f.mod.toNat; let l := f.lit.isSome; ok (!l && atomOk m (o % 16) && o % 16 ≤ 7 && o < 32) (if o < 16 then kn (typeRegs m) else z) r (if o % 16 = 7 then kn (typeRegs m) else z) (kn (typeRegs m))
  | .spill f => let m := f.minor.toNat; let o := f.mod.toNat; let l := f.lit.isSome; ok (m ≤ 7 && o == 0 && litMul4 f) z (.regs (m + 1)) (off l) z
  | .fill f => let m := f.minor.toNat; let o := f.mod.toNat; let l := f.lit.isSome; ok (m ≤ 7 && o == 0 && litMul4 f) (.regs (m + 1)) z (off l) z
  | .ldl f => let m := f.minor.toNat; let o := f.mod.toNat; let l := f.lit.isSome; ok (loadType m && o == 0) (kn (typeRegs m)) r (off l) z
  | .stl f => let m := f.minor.toNat; let o := f.mod.toNat; let l := f.lit.isSome; ok (storeType m && o == 0) z r (off l) (kn (typeRegs m))
  | .bra f => let m := f.minor.toNat; let o := f.mod.toNat; let l := f.lit.isSome; ok (l && m == 0 && o == 0) z z z z
  | .brc f => let m := f.minor.toNat; let o := f.mod.toNat; let l := f.lit.isSome; ok (l && (m == 2 || m == 3 || m == 6 || m == 7) && o ≤ 5) z (kn (typeRegs m)) z z
  | .brx f => let m := f.minor.toNat; let o := f.mod.toNat; let l := f.lit.isSome; ok (!l && m == 0 && o == 0) z p z z
  | .call f => let m := f.minor.toNat; let o := f.mod.toNat; let l := f.lit.isSome; ok (l && m == 0 && o == 0) p z z z
  | .callx f => let m := f.minor.toNat; let o := f.mod.toNat; let l := f.lit.isSome; ok (!l && m == 0 && o == 0) p p z z
  | .ret f => let m := f.minor.toNat; let o := f.mod.toNat; let l := f.lit.isSome; ok (!l && m == 0 && o == 0) z p z z
  | .exit f => let m := f.minor.toNat; let o := f.mod.toNat; let l := f.lit.isSome; ok (!l && m == 0 && o == 0) z z z z
  | .kset f => let m := f.minor.toNat; let o := f.mod.toNat; let l := f.lit.isSome; ok (!l && m ≤ 2 && o == 0) z (.imm 7) z z
  | .kwait f => let m := f.minor.toNat; let o := f.mod.toNat; let l := f.lit.isSome; ok (!l && m == 0 && o == 0) z (.imm 7) z z
  | .yield f => let m := f.minor.toNat; let o := f.mod.toNat; let l := f.lit.isSome; ok (!l && m == 0 && o == 0) z z z z
  | .bar f => let m := f.minor.toNat; let o := f.mod.toNat; let l := f.lit.isSome; ok (!l && m ≤ 1 && o == 0) z (.imm 15) (.imm 33) z
  | .spawn f => let m := f.minor.toNat; let o := f.mod.toNat; let l := f.lit.isSome; ok (!l && m == 0 && o == 0) r p p p
  | .jadd f => let m := f.minor.toNat; let o := f.mod.toNat; let l := f.lit.isSome; ok (m == 0 && o == 0) z p (lb l r) z
  | .launch f => let m := f.minor.toNat; let o := f.mod.toNat; let l := f.lit.isSome; ok (!l && m == 0 && o == 0) r p z z
  | .preq f => let m := f.minor.toNat; let o := f.mod.toNat; let l := f.lit.isSome; ok (!l && m ≤ 1 && o == 0) (if m = 0 then q else r) z z z
  | .trap f => let m := f.minor.toNat; let o := f.mod.toNat; let l := f.lit.isSome; ok (!l && m == 0 && o == 0) z z (.imm 255) z
  | .tret f => let m := f.minor.toNat; let o := f.mod.toNat; let l := f.lit.isSome; ok (!l && m == 0 && o == 0) z z z z
  | .brk f => let m := f.minor.toNat; let o := f.mod.toNat; let l := f.lit.isSome; ok (!l && m == 0 && o == 0) z z (.imm 255) z
  | .crr f => let m := f.minor.toNat; let o := f.mod.toNat; let l := f.lit.isSome; ok (!l && m == 0 && o == 0 && crReadable f.b.toNat) p z (.imm 255) z
  | .crw f => let m := f.minor.toNat; let o := f.mod.toNat; let l := f.lit.isSome; ok (!l && m == 0 && o == 0 && crWritable f.b.toNat) z p (.imm 255) z
  | .gate f => let m := f.minor.toNat; let o := f.mod.toNat; let l := f.lit.isSome; ok (!l && m == 0 && o ≤ 1) r z (.imm 255) z
  | .gret f => let m := f.minor.toNat; let o := f.mod.toNat; let l := f.lit.isSome; ok (!l && m ≤ 1 && o == 0) z z z z
  | .publish f => let m := f.minor.toNat; let o := f.mod.toNat; let l := f.lit.isSome; ok (m == 0 && o == 0) (.imm 3) p (lb l r) z
  | .time f => let m := f.minor.toNat; let o := f.mod.toNat; let l := f.lit.isSome; ok (!l && m == 0 && o == 0) p z z z
  | .cyc f => let m := f.minor.toNat; let o := f.mod.toNat; let l := f.lit.isSome; ok (!l && m == 0 && o == 0) p z z z
  | .seqw f => let m := f.minor.toNat; let o := f.mod.toNat; let l := f.lit.isSome; ok (!l && m ≤ 2 && o == 0) z p z z
  | .seqr f => let m := f.minor.toNat; let o := f.mod.toNat; let l := f.lit.isSome; ok (!l && m < 16 && m % 4 ≤ 2 && (m < 8 || m / 4 == 3) && o == 0) p z z z
  | .halt f => let m := f.minor.toNat; let o := f.mod.toNat; let l := f.lit.isSome; ok (!l && m == 0 && o == 0) z z (.imm 255) z
  | .cpy f => let m := f.minor.toNat; let o := f.mod.toNat; ok (m ≤ 15 && engMod 7 o && shdOk m o && heldLit f) p p p r
  | .cpyt f => let m := f.minor.toNat; let o := f.mod.toNat; ok (m ≤ 15 && engMod 7 o && shdOk m o && heldLit f) p p p r
  | .gthr f => let m := f.minor.toNat; let o := f.mod.toNat; ok (m ≤ 15 && engMod 7 o && shdOk m o && heldLit f) p p p r
  | .sctr f => let m := f.minor.toNat; let o := f.mod.toNat; ok (m ≤ 15 && engMod 7 o && shdOk m o && heldLit f) p p p r
  | .coll f => let m := f.minor.toNat; let o := f.mod.toNat; let l := f.lit.isSome; ok (l && m ≤ 4 && collMod m o && litLow f) p r z z
  | .bin f => let m := f.minor.toNat; let o := f.mod.toNat; let l := f.lit.isSome; ok (!l && m ≤ 1 && engMod 2 o) p r r r
  | .rel f => let m := f.minor.toNat; let o := f.mod.toNat; let l := f.lit.isSome; ok (m == 0 && o == 0) p r (lb l r) z
  | .mirr f => let m := f.minor.toNat; let o := f.mod.toNat; let l := f.lit.isSome; ok (l && m == 0 && engMod 6 o && mirrLit f) p p p r
  | .fillz f => let m := f.minor.toNat; let o := f.mod.toNat; ok (m ≤ 3 && engMod 7 o && shdOk m o && heldLit f) p p r z
  | .zmap f => let m := f.minor.toNat; let o := f.mod.toNat; let l := f.lit.isSome; ok (!l && m == 0 && engMod 2 o) p r r r
  | .mma f => let m := f.minor.toNat; let l := f.lit.isSome; ok (!l && m % 4 == 0 && mmaOk m) (.imm 63) (.imm 15) (.imm 15) z
  | .mmaG f => let m := f.minor.toNat; let l := f.lit.isSome; ok (l && m % 4 == 1 && mmaOk m && bits (litNat f) 31 16 == 0) (.imm 63) (.imm 15) (.imm 15) z
  | .mmaS f => let m := f.minor.toNat; let l := f.lit.isSome; ok (l && m % 4 == 2 && mmaOk m && bits (litNat f) 15 0 == 0) (.imm 63) (.imm 15) (.imm 15) z
  | .mmaGs f => let m := f.minor.toNat; let l := f.lit.isSome; ok (l && m % 4 == 3 && mmaOk m) (.imm 63) (.imm 15) (.imm 15) z
  | .tzero f => let m := f.minor.toNat; let o := f.mod.toNat; let l := f.lit.isSome; ok (!l && m == 0 && o == 0 && f.b != 0) (.imm 63) z (.imm 64) z
  | .tld f => let m := f.minor.toNat; let o := f.mod.toNat; let l := f.lit.isSome; ok (!l && m == 0 && (o == 0 || o == 64)) (.imm 63) (.imm 15) z z
  | .tst f => let m := f.minor.toNat; let o := f.mod.toNat; let l := f.lit.isSome; ok (!l && m == 0 && o < 128 && rnd 3 (o % 64)) (.imm 63) (.imm 15) z z
  | .omap f => let m := f.minor.toNat; let o := f.mod.toNat; let l := f.lit.isSome; ok (m ≤ 5 && o == 0) (.imm 15) z (off l) z
  | .msig f => let m := f.minor.toNat; let o := f.mod.toNat; let l := f.lit.isSome; ok (!l && m == 0 && o == 0 && f.b != 0) z (.imm 15) (.imm 33) z
  | .mwait f => let m := f.minor.toNat; let o := f.mod.toNat; let l := f.lit.isSome; ok (!l && m == 0 && o == 0 && f.b != 0) z (.imm 15) (.imm 33) z
  | .mloop f => let m := f.minor.toNat; let o := f.mod.toNat; let l := f.lit.isSome; ok (l && m == 0 && o == 0) (.imm 3) z (.imm 255) z
  | .mend f => let m := f.minor.toNat; let o := f.mod.toNat; let l := f.lit.isSome; ok (!l && m == 0 && o == 0) z z z z
  | .mnop f => let m := f.minor.toNat; let o := f.mod.toNat; let l := f.lit.isSome; ok (!l && m == 0 && o == 0) z z z z
  | .tepi f => let m := f.minor.toNat; let o := f.mod.toNat; let l := f.lit.isSome; ok (!l && m < 32 && m % 8 ≤ 4 && o == 0) (.imm 63) (if hasBit m 3 then .imm 15 else z) (if hasBit m 4 then .imm 15 else z) z
  | _ => none

/-- The fields of an instruction; none for a device step. -/
def Instr.fields : Instr → Option Fields
  | .nop f => some f
  | .mov f => some f
  | .movi f => some f
  | .movx f => some f
  | .movxw f => some f
  | .getid f => some f
  | .sel f => some f
  | .plop f => some f
  | .iadd f => some f
  | .isub f => some f
  | .imul f => some f
  | .imulh f => some f
  | .imad f => some f
  | .imin f => some f
  | .imax f => some f
  | .iabs f => some f
  | .ineg f => some f
  | .lea f => some f
  | .icmp f => some f
  | .idot4 f => some f
  | .shl f => some f
  | .shr f => some f
  | .sar f => some f
  | .rot f => some f
  | .and f => some f
  | .or f => some f
  | .xor f => some f
  | .not f => some f
  | .lop3 f => some f
  | .popc f => some f
  | .clz f => some f
  | .brev f => some f
  | .bfx f => some f
  | .bfi f => some f
  | .bperm f => some f
  | .shfl f => some f
  | .vote f => some f
  | .gred f => some f
  | .matchLanes f => some f
  | .rng4 f => some f
  | .setfe f => some f
  | .fadd f => some f
  | .fsub f => some f
  | .fmul f => some f
  | .ffma f => some f
  | .fmin f => some f
  | .fmax f => some f
  | .fcmp f => some f
  | .fclass f => some f
  | .frnd f => some f
  | .hfma2 f => some f
  | .hadd2 f => some f
  | .hmul2 f => some f
  | .frcp f => some f
  | .frsq f => some f
  | .fsqrt f => some f
  | .fexp2 f => some f
  | .flog2 f => some f
  | .fsin f => some f
  | .fcos f => some f
  | .ftanh f => some f
  | .cvt f => some f
  | .cvtq f => some f
  | .pack6 f => some f
  | .unpk6 f => some f
  | .pack4 f => some f
  | .unpk4 f => some f
  | .pack8 f => some f
  | .unpk8 f => some f
  | .sclx f => some f
  | .fscl f => some f
  | .ld f => some f
  | .st f => some f
  | .ldq f => some f
  | .stq f => some f
  | .pfch f => some f
  | .atom f => some f
  | .red f => some f
  | .cas f => some f
  | .fence f => some f
  | .afence f => some f
  | .logv f => some f
  | .lds f => some f
  | .sts f => some f
  | .atoms f => some f
  | .ldw f => some f
  | .stw f => some f
  | .stx f => some f
  | .sbar f => some f
  | .join f => some f
  | .leave f => some f
  | .ldk f => some f
  | .stk f => some f
  | .atomk f => some f
  | .spill f => some f
  | .fill f => some f
  | .ldl f => some f
  | .stl f => some f
  | .bra f => some f
  | .brc f => some f
  | .brx f => some f
  | .call f => some f
  | .callx f => some f
  | .ret f => some f
  | .exit f => some f
  | .kset f => some f
  | .kwait f => some f
  | .yield f => some f
  | .bar f => some f
  | .spawn f => some f
  | .jadd f => some f
  | .launch f => some f
  | .preq f => some f
  | .trap f => some f
  | .tret f => some f
  | .brk f => some f
  | .crr f => some f
  | .crw f => some f
  | .gate f => some f
  | .gret f => some f
  | .publish f => some f
  | .time f => some f
  | .cyc f => some f
  | .seqw f => some f
  | .seqr f => some f
  | .halt f => some f
  | .cpy f => some f
  | .cpyt f => some f
  | .gthr f => some f
  | .sctr f => some f
  | .coll f => some f
  | .bin f => some f
  | .rel f => some f
  | .mirr f => some f
  | .fillz f => some f
  | .zmap f => some f
  | .mma f => some f
  | .mmaG f => some f
  | .mmaS f => some f
  | .mmaGs f => some f
  | .tzero f => some f
  | .tld f => some f
  | .tst f => some f
  | .omap f => some f
  | .msig f => some f
  | .mwait f => some f
  | .mloop f => some f
  | .mend f => some f
  | .mnop f => some f
  | .tepi f => some f
  | _ => none

/-- The major opcode of an instruction (R25). -/
def Instr.major : Instr → Nat
  | .nop _ => 0x00
  | .mov _ => 0x01
  | .movi _ => 0x02
  | .movx _ => 0x03
  | .movxw _ => 0x04
  | .getid _ => 0x05
  | .sel _ => 0x06
  | .plop _ => 0x07
  | .iadd _ => 0x08
  | .isub _ => 0x09
  | .imul _ => 0x0A
  | .imulh _ => 0x0B
  | .imad _ => 0x0C
  | .imin _ => 0x0D
  | .imax _ => 0x0E
  | .iabs _ => 0x0F
  | .ineg _ => 0x10
  | .lea _ => 0x11
  | .icmp _ => 0x12
  | .idot4 _ => 0x13
  | .shl _ => 0x14
  | .shr _ => 0x15
  | .sar _ => 0x16
  | .rot _ => 0x17
  | .and _ => 0x18
  | .or _ => 0x19
  | .xor _ => 0x1A
  | .not _ => 0x1B
  | .lop3 _ => 0x1C
  | .popc _ => 0x1D
  | .clz _ => 0x1E
  | .brev _ => 0x1F
  | .bfx _ => 0x20
  | .bfi _ => 0x21
  | .bperm _ => 0x22
  | .shfl _ => 0x23
  | .vote _ => 0x24
  | .gred _ => 0x25
  | .matchLanes _ => 0x26
  | .rng4 _ => 0x27
  | .setfe _ => 0x28
  | .fadd _ => 0x40
  | .fsub _ => 0x41
  | .fmul _ => 0x42
  | .ffma _ => 0x43
  | .fmin _ => 0x44
  | .fmax _ => 0x45
  | .fcmp _ => 0x46
  | .fclass _ => 0x47
  | .frnd _ => 0x48
  | .hfma2 _ => 0x49
  | .hadd2 _ => 0x4A
  | .hmul2 _ => 0x4B
  | .frcp _ => 0x50
  | .frsq _ => 0x51
  | .fsqrt _ => 0x52
  | .fexp2 _ => 0x53
  | .flog2 _ => 0x54
  | .fsin _ => 0x55
  | .fcos _ => 0x56
  | .ftanh _ => 0x57
  | .cvt _ => 0x60
  | .cvtq _ => 0x61
  | .pack6 _ => 0x62
  | .unpk6 _ => 0x63
  | .pack4 _ => 0x64
  | .unpk4 _ => 0x65
  | .pack8 _ => 0x66
  | .unpk8 _ => 0x67
  | .sclx _ => 0x68
  | .fscl _ => 0x69
  | .ld _ => 0x80
  | .st _ => 0x81
  | .ldq _ => 0x82
  | .stq _ => 0x83
  | .pfch _ => 0x84
  | .atom _ => 0x85
  | .red _ => 0x86
  | .cas _ => 0x87
  | .fence _ => 0x88
  | .afence _ => 0x89
  | .logv _ => 0x8A
  | .lds _ => 0xA0
  | .sts _ => 0xA1
  | .atoms _ => 0xA2
  | .ldw _ => 0xA3
  | .stw _ => 0xA4
  | .stx _ => 0xA5
  | .sbar _ => 0xA6
  | .join _ => 0xA7
  | .leave _ => 0xA8
  | .ldk _ => 0xA9
  | .stk _ => 0xAA
  | .atomk _ => 0xAB
  | .spill _ => 0xAC
  | .fill _ => 0xAD
  | .ldl _ => 0xAE
  | .stl _ => 0xAF
  | .bra _ => 0xB0
  | .brc _ => 0xB1
  | .brx _ => 0xB2
  | .call _ => 0xB3
  | .callx _ => 0xB4
  | .ret _ => 0xB5
  | .exit _ => 0xB6
  | .kset _ => 0xB7
  | .kwait _ => 0xB8
  | .yield _ => 0xB9
  | .bar _ => 0xBA
  | .spawn _ => 0xBB
  | .jadd _ => 0xBC
  | .launch _ => 0xBD
  | .preq _ => 0xBE
  | .trap _ => 0xBF
  | .tret _ => 0xC0
  | .brk _ => 0xC1
  | .crr _ => 0xC2
  | .crw _ => 0xC3
  | .gate _ => 0xC4
  | .gret _ => 0xC5
  | .publish _ => 0xC6
  | .time _ => 0xC7
  | .cyc _ => 0xC8
  | .seqw _ => 0xC9
  | .seqr _ => 0xCA
  | .halt _ => 0xCB
  | .cpy _ => 0xD0
  | .cpyt _ => 0xD1
  | .gthr _ => 0xD2
  | .sctr _ => 0xD3
  | .coll _ => 0xD4
  | .bin _ => 0xD5
  | .rel _ => 0xD6
  | .mirr _ => 0xD7
  | .fillz _ => 0xD8
  | .zmap _ => 0xD9
  | .mma _ => 0xE0
  | .mmaG _ => 0xE0
  | .mmaS _ => 0xE0
  | .mmaGs _ => 0xE0
  | .tzero _ => 0xE1
  | .tld _ => 0xE2
  | .tst _ => 0xE3
  | .omap _ => 0xE4
  | .msig _ => 0xE5
  | .mwait _ => 0xE6
  | .mloop _ => 0xE7
  | .mend _ => 0xE8
  | .mnop _ => 0xE9
  | .tepi _ => 0xEA
  | _ => 0xFF

/-- The class of a major opcode (R9); 7 for the majors of no class. -/
def classOf (major : Nat) : Nat :=
  if major < 0x40 then 0 else if major < 0x80 then 1 else if major < 0xA0 then 2 else if major < 0xB0 then 3
  else if major < 0xD0 then 4 else if major < 0xE0 then 5 else if major < 0xF0 then 6 else 7

/-- The clause enders of R10. -/
def Instr.ender : Instr → Bool
  | .bra _ => true
  | .brc _ => true
  | .brx _ => true
  | .call _ => true
  | .callx _ => true
  | .ret _ => true
  | .exit _ => true
  | .yield _ => true
  | .trap _ => true
  | .tret _ => true
  | .brk _ => true
  | .gate _ => true
  | .gret _ => true
  | .halt _ => true
  | .mloop _ => true
  | .mend _ => true
  | _ => false

/-- An operand lies in its kind's range (R19); a field that no operand uses is zero (R22). -/
def OperandKind.fits (k : OperandKind) (x : Nat) : Bool :=
  match k with
  | .unused => x == 0
  | .reg => x < 256
  | .pair => x % 2 == 0
  | .quad => x % 4 == 0
  | .regs n => x + n ≤ 256
  | .pred => x < 8
  | .imm top => x ≤ top
  | .name => x < 256

/-- The operand is read as a vector register, so that a TE bit may be set for it (R20). -/
def OperandKind.readable : OperandKind → Bool
  | .reg => true
  | .pair => true
  | .quad => true
  | .regs _ => true
  | _ => false

/-- The vector registers an operand names (R99). -/
def OperandKind.registers (k : OperandKind) (x : Nat) : List Nat :=
  match k with
  | .reg => [x]
  | .name => [x]
  | .pair => [x, x + 1]
  | .quad => [x, x + 1, x + 2, x + 3]
  | .regs n => (List.range n).map (x + ·)
  | _ => []

/-- The operands of a form fit it (check 12 of R26). -/
def Form.check (k : Form) (f : Fields) : Bool :=
  k.d.fits f.d.toNat && k.a.fits f.a.toNat && k.b.fits f.b.toNat && k.c.fits f.c.toNat &&
  (!f.te.getLsbD 0 || k.a.readable) && (!f.te.getLsbD 1 || k.b.readable) && (!f.te.getLsbD 2 || k.c.readable)

/-- Check 12 of R26: the instruction is well formed. A device step has no words and no form. -/
def Instr.wellFormed (i : Instr) : Bool :=
  match i.fields, i.form with
  | some f, some k => k.check f
  | _, _ => false

/-- Every vector register that an instruction names as an operand (R99). -/
def Instr.registers (i : Instr) : List Nat :=
  match i.fields, i.form with
  | some f, some k =>
    k.d.registers f.d.toNat ++ k.a.registers f.a.toNat ++ k.b.registers f.b.toNat ++ k.c.registers f.c.toNat
  | _, _ => []

end Sys2Proof
end

