-- ==== Sys2Proof/Machine/Ops.lean ====
section
/-! DEFINITION. Named operations over the state: homes of each piece, register reads and writes under the shape and
full/empty rules, signatures of checked runs, halting a partition, and taking an exception and returning from it. -/

namespace Sys2Proof.Machine

/-- The outcome of a step of this machine. -/
abbrev Out := Host.Outcome State Fault Refusal

/-! ## Homes -/

/-- Change one element of a list by its place. -/
def modNth {α : Type} (f : α → α) : Nat → List α → List α
  | _, [] => []
  | 0, x :: xs => f x :: xs
  | n + 1, x :: xs => x :: modNth f n xs

/-- Change a resident team. -/
def State.modTeam (s : State) (t : Nat) (f : Team → Team) : State :=
  match Map.get? s.teams t with
  | some x => { s with teams := Map.put s.teams t (f x) }
  | none => s

/-- Change a group of a team. -/
def Team.modGroup (t : Team) (g : Nat) (f : Group → Group) : Team := { t with groups := modNth f g t.groups }

/-- Change a group of a resident team. -/
def State.modGroup (s : State) (t g : Nat) (f : Group → Group) : State := s.modTeam t (·.modGroup g f)

/-- Change a thread of a group. -/
def Group.modThread (g : Group) (l : Nat) (f : Thread → Thread) : Group := { g with threads := modNth f l g.threads }

/-- Change a thread of a resident team. -/
def State.modThread (s : State) (t g l : Nat) (f : Thread → Thread) : State := s.modGroup t g (·.modThread l f)

/-- Change a physical core. -/
def State.modCore (s : State) (c : Nat) (f : Core → Core) : State := { s with cores := modNth f c s.cores }

/-- Change a physical cluster. -/
def State.modCluster (s : State) (c : Nat) (f : Cluster → Cluster) : State :=
  { s with clusters := modNth f c s.clusters }

/-- Change a partition. -/
def State.modPart (s : State) (p : Nat) (f : Partition → Partition) : State :=
  { s with partitions := modNth f p s.partitions }

/-- A resident team. -/
def State.team? (s : State) (t : Nat) : Option Team := Map.get? s.teams t

/-- A group of a resident team. -/
def State.group? (s : State) (t g : Nat) : Option Group := (s.team? t).bind (fun x => x.groups[g]?)

/-- A physical core; a position past the last is an inactive core. -/
def State.core (s : State) (c : Nat) : Core :=
  (s.cores[c]?).getD { Core.reset c with active := false, deactivated := true }

/-- A physical cluster. -/
def State.cluster (s : State) (c : Nat) : Cluster := (s.clusters[c]?).getD (Cluster.reset c)

/-- A partition. -/
def State.part (s : State) (p : Nat) : Partition := (s.partitions[p]?).getD Partition.reset

/-- A thread of a group. -/
def Group.thread (g : Group) (l : Nat) : Thread :=
  (g.threads[l]?).getD { Thread.launch 0 with live := false }

/-- A number that no earlier piece of the machine carries. -/
def State.fresh (s : State) : Nat × State := (s.nextId, { s with nextId := s.nextId + 1 })

/-- The cluster of a physical core, its position among the cluster's four, its die, its sector (00, The package). -/
def clusterOf (core : Nat) : Nat := core / 4
/-- The die of a physical core. -/
def dieOf (core : Nat) : Nat := core / 64
/-- The sector of a physical core. -/
def sectorOf (core : Nat) : Nat := core / 32

/-- The logical number of a core within its cluster (R164): the active cores before it. -/
def State.position (s : State) (core : Nat) : Nat :=
  ((List.range (core % 4)).filter (fun k => (s.core (core / 4 * 4 + k)).active)).length

/-- How many active cores a cluster has. -/
def State.activeCores (s : State) (cluster : Nat) : Nat :=
  ((List.range 4).filter (fun k => (s.core (cluster * 4 + k)).active)).length

/-- The physical core at a position of a cluster. -/
def State.coreAt (s : State) (cluster pos : Nat) : Option Nat :=
  (((List.range 4).map (cluster * 4 + ·)).filter (fun c => (s.core c).active))[pos]?

/-- A core is in use: it has a number, and it has been neither fenced nor deactivated since (R1). -/
def Core.inUse (c : Core) : Bool := c.active && !c.fenced && !c.deactivated

/-- A cluster has a core in use. -/
def State.clusterUsed (s : State) (k : Nat) : Bool := (List.range 4).any (fun j => (s.core (4 * k + j)).inUse)

/-- The active core that a logical number names (R1). -/
def State.logicalCore (s : State) (n : Nat) : Option Nat :=
  (List.range 128).find? (fun c => (s.core c).inUse && (s.core c).logical == n)

/-! ## Registers: shapes, reads, writes -/

/-- The register map of a group's role (R61, R95). -/
def Team.map (t : Team) (g : Nat) : Nat := if g < t.lb.nprod then t.lb.mapp else t.lb.mapc

/-- The shape code of a register (R95): 0 absent, 1 U, 2 A, 3 G. -/
def Team.shape (t : Team) (g reg : Nat) : Nat := bits (t.map g) (2 * reg + 1) (2 * reg)

/-- The words of a register that a role's map gives (R95, R100). -/
def shapeWords (shape : Nat) : Nat := if shape = 3 then 32 else shape

/-- The map size of a role (R100). -/
def mapSize (m : Nat) : Nat :=
  (List.range 256).foldl (fun n r => n + shapeWords (bits m (2 * r + 1) (2 * r))) 0

/-- The value that a register of a shape gives a lane (R95, R96). -/
def readWords (shape : Nat) (ws : List Word) (l : Nat) : Word :=
  if shape = 1 then ws.getD 0 0
  else if shape = 2 then ws.getD 0 0 + BitVec.ofNat 32 l * ws.getD 1 0
  else ws.getD l 0

/-- The value a lane sees in a register (R96). -/
def readReg (t : Team) (gi : Nat) (g : Group) (reg l : Nat) : Word :=
  readWords (t.shape gi reg) (Map.get g.regs reg []) l

/-- The inverse of an odd number modulo 2^32. -/
def invOdd (d : Nat) : Nat :=
  (List.range 5).foldl (fun x _ => x * (2 ^ 32 + 2 - (d * x) % 2 ^ 32) % 2 ^ 32) d

/-- The exponent of 2 in a number below 32. -/
def twos (n : Nat) : Nat := ((List.range 5).filter (fun k => n % 2 ^ (k + 1) == 0)).length

/-- The words a register of a shape holds after a set of lanes writes it; none when no rule of R97 is satisfied. -/
def shapeWrite (shape : Nat) (old : List Word) (vals : Map Word) : Option (List Word) :=
  match vals with
  | [] => some old
  | (l0, x0) :: rest =>
    if shape = 1 then (if rest.all (fun lx => lx.2 == x0) then some [x0] else none)
    else if shape = 2 then
      match rest with
      | [] => some [x0 - BitVec.ofNat 32 l0 * old.getD 1 0, old.getD 1 0]
      | _ =>
        let tmin := rest.foldl (fun t lx => min t (twos (lx.1 - l0))) 31
        let k := match rest.find? (fun lx => twos (lx.1 - l0) == tmin) with
          | some (l, x) =>
            let e := (x - x0).toNat
            e / 2 ^ tmin * invOdd ((l - l0) / 2 ^ tmin) % 2 ^ (32 - tmin)
          | none => 0
        let kw := BitVec.ofNat 32 k
        if rest.all (fun lx => lx.2 == x0 + BitVec.ofNat 32 (lx.1 - l0) * kw) then
          some [x0 - BitVec.ofNat 32 l0 * kw, kw]
        else none
    else
      some ((List.range 32).map (fun l => (Map.get? vals l).getD (old.getD l 0)))

/-- The lanes of a list of lane values. -/
def lanesOf {α : Type} (m : Map α) : LaneSet := LaneSet.ofList (m.map Prod.fst)

/-- The live threads of a group (R32). -/
def Group.live (g : Group) : LaneSet := LaneSet.ofList (allLanes.filter (fun l => (g.thread l).live))

/-- fmix of R334. -/
def fmix (x : Nat) : Nat :=
  let x := x % 2 ^ 64
  let x := (x ^^^ (x >>> 30)) * 0xBF58476D1CE4E5B9 % 2 ^ 64
  let x := (x ^^^ (x >>> 27)) * 0x94D049BB133111EB % 2 ^ 64
  x ^^^ (x >>> 31)

/-- rotl of R334. -/
def rotl64 (x n : Nat) : Nat := (x <<< n) % 2 ^ 64 ||| (x % 2 ^ 64) >>> (64 - n)

/-- What a register or predicate write adds to a thread's rs (R336). -/
def Thread.signReg (th : Thread) (value cnt n : Nat) : Thread :=
  { th with rs := (th.rs + fmix (fmix value ^^^ ((cnt <<< 9) % 2 ^ 64 ||| n))) % 2 ^ 64 }

/-- The thread has been entered into a gate callee that it has not finished (R366, R369). -/
def Group.inCall (g : Group) (l : Nat) : Bool :=
  match g.gate with
  | some c => !c.waiting && c.entered.getLsbD l && (g.thread l).status.isNone
  | none => false

/-- The thread has been entered into a logged callee, whose instructions change neither cnt, ss nor rs (R372): until the call
completes, so that what the callee has still in flight when the thread finishes it counts as the callee's. -/
def Group.inLogged (g : Group) (l : Nat) : Bool :=
  match g.gate with
  | some c => !c.waiting && c.entered.getLsbD l && c.logged
  | none => false

/-- The domain of the callee that the group's threads run in, 0 outside a call (R363). -/
def Group.domain (g : Group) : Nat :=
  match g.gate with
  | some c => if c.waiting then 0 else c.domain
  | none => 0

/-- Sign the writes of a register for the lanes of a set (R336); nothing in an unchecked run or a logged callee (R372). -/
def signLanes (t : Team) (gi : Nat) (reg : Nat) (lanes : LaneSet) (cnts : Map Nat) (g : Group) : Group :=
  if t.mode = .unchecked then g
  else lanes.lanes.foldl (fun g l => if g.inLogged l then g else g.modThread l
    (fun th => th.signReg (readReg t gi g reg l).toNat (Map.get cnts l 0) reg)) g

/-- The lanes of a register that a long-latency operation later than `seq` still marks (R103). -/
def Group.laterMarks (g : Group) (seq reg : Nat) : LaneSet :=
  g.ops.foldl (fun m o =>
    if seq < o.id ∧ o.dst ≤ reg ∧ reg < o.dst + o.nregs then m ||| o.marks.getD (reg - o.dst) 0 else m) 0

/-- The lanes of a register that a long-latency operation earlier than `seq` still marks (R106). -/
def Group.earlierMarks (g : Group) (seq reg : Nat) : LaneSet :=
  g.ops.foldl (fun m o =>
    if o.id < seq ∧ o.dst ≤ reg ∧ reg < o.dst + o.nregs then m ||| o.marks.getD (reg - o.dst) 0 else m) 0

/-- Take lanes of a register from the marks of every operation earlier than `seq` (R106). -/
def Group.cancelMarks (g : Group) (seq reg : Nat) (lanes : LaneSet) : Group :=
  { g with ops := g.ops.map (fun o =>
      if o.id < seq ∧ o.dst ≤ reg ∧ reg < o.dst + o.nregs then
        { o with marks := modNth (· &&& ~~~ lanes) (reg - o.dst) o.marks } else o) }

/-- Make lanes of a register full; a later operation's marks stay empty. -/
def Group.fill (g : Group) (seq reg : Nat) (lanes : LaneSet) : Group :=
  let keep := g.laterMarks seq reg
  { g with
    empty := Map.put g.empty reg (Map.get g.empty reg 0 &&& (~~~ lanes ||| keep))
    poison := Map.put g.poison reg (Map.get g.poison reg 0 &&& ~~~ lanes) }

/-- A write of one register takes effect (R97, R106): the words change, earlier pending results are cancelled, and
the register is full. The caller has checked that R97 is satisfied. -/
def writeReg (t : Team) (gi : Nat) (seq reg : Nat) (vals : Map Word) (cnts : Map Nat) (g : Group) : Group :=
  let shape := t.shape gi reg
  match shapeWrite shape (Map.get g.regs reg []) vals with
  | none => g
  | some ws =>
    let all := if shape = 3 then lanesOf vals else BitVec.allOnes 32
    let g := { g with regs := Map.put g.regs reg ws }
    let g := (g.cancelMarks seq reg all).fill seq reg all
    signLanes t gi reg (lanesOf vals) cnts g

/-- SETFE.full and SETFE.empty take effect (R112): in a U or an A register for every live thread, and the result that
they cancel is cancelled for every thread that was marked (R106). -/
def setFullEmpty (t : Team) (gi : Nat) (seq reg : Nat) (full : Bool) (lanes : LaneSet) (g : Group) : Group :=
  let all := if t.shape gi reg = 3 then lanes else g.live
  let g := g.cancelMarks seq reg (if t.shape gi reg = 3 then lanes else BitVec.allOnes 32)
  if full then g.fill seq reg all
  else { g with
    empty := Map.put g.empty reg (Map.get g.empty reg 0 ||| all)
    poison := Map.put g.poison reg (Map.get g.poison reg 0 &&& ~~~ all) }

/-- One write in flight takes effect. -/
def applyFly (t : Team) (gi : Nat) (w : Fly) (g : Group) : Group :=
  if w.kind = 0 then writeReg t gi w.seq w.reg w.vals w.cnts g
  else setFullEmpty t gi w.seq w.reg (w.kind == 1) (lanesOf w.vals) g

/-- One predicate write in flight takes effect; P7 ignores it (R93). -/
def applyPredFly (t : Team) (w : PredFly) (g : Group) : Group :=
  if w.pred = 7 then g
  else w.lanes.lanes.foldl (fun g l => g.modThread l (fun th =>
    let b := w.vals.getLsbD l
    let th := { th with preds := if b then th.preds ||| (1#7 <<< w.pred) else th.preds &&& ~~~ (1#7 <<< w.pred) }
    if t.mode = .unchecked || g.inLogged l then th
    else th.signReg (if b then 1 else 0) (Map.get w.cnts l 0) (256 + w.pred))) g

/-- Insert a write by its visibility cycle; of equal ones the later instruction comes last (R75). -/
def insertFly (w : Fly) : List Fly → List Fly
  | [] => [w]
  | x :: xs => if w.vis < x.vis then w :: x :: xs else x :: insertFly w xs

/-- The same for predicates. -/
def insertPredFly (w : PredFly) : List PredFly → List PredFly
  | [] => [w]
  | x :: xs => if w.vis < x.vis then w :: x :: xs else x :: insertPredFly w xs

/-- Every write that is visible at a nominal cycle takes effect (R75). -/
def settle (t : Team) (gi n : Nat) (g : Group) : Group :=
  match g.clause with
  | none => g
  | some r =>
    let (now, later) := r.fly.partition (fun w => w.vis ≤ n)
    let (pnow, plater) := r.predFly.partition (fun w => w.vis ≤ n)
    let g := now.foldl (fun g w => applyFly t gi w g) g
    let g := pnow.foldl (fun g w => applyPredFly t w g) g
    { g with clause := some { r with fly := later, predFly := plater } }

/-- Every write in flight takes effect (R76). -/
def settleAll (t : Team) (gi : Nat) (g : Group) : Group :=
  match g.clause with
  | none => g
  | some r =>
    let g := r.fly.foldl (fun g w => applyFly t gi w g) g
    let g := r.predFly.foldl (fun g w => applyPredFly t w g) g
    { g with clause := some { r with fly := [], predFly := [] } }

/-- A predicate of a thread (R93). -/
def Thread.pred (th : Thread) (n : Nat) : Bool := n == 7 || th.preds.getLsbD n

/-! ## Halting a partition -/

/-- A unit's report with nothing in it. -/
def UnitFault.none : UnitFault := ⟨0, 0, 0, 0, 0, 0, 0, 0, 0⟩

/-- Raise an interrupt of a partition (R402). -/
def Partition.raise (p : Partition) (source : Nat) : Partition :=
  if p.irqs.contains source then p else { p with irqs := p.irqs ++ [source] }

/-- Clear an interrupt of a partition (R402). -/
def Partition.clear (p : Partition) (source : Nat) : Partition := { p with irqs := p.irqs.filter (· != source) }

/-- A partition-fatal fault reaches the halt controller (R385, R386): the first decides the cause, and of those of one tick
the one of the lowest unit; a later one changes only its unit's record; held lines of the partition are discarded. `unit` is
an index of R388, 1023 for none. -/
def State.halt (s : State) (p cause unit : Nat) (u : UnitFault) : State :=
  let s := s.modPart p (fun x =>
    let x := { x with unitFaults :=
      if (Map.get? x.unitFaults unit).isSome then x.unitFaults else Map.put x.unitFaults unit { u with cause := cause } }
    if x.halted then
      if x.haltAt = s.time ∧ unit < x.haltIndex then { x with haltCause := cause, haltIndex := unit } else x
    else ({ x with halted := true, haltCause := cause, haltIndex := unit, haltAt := s.time } : Partition).raise 1)
  { s with heldLines := s.heldLines.filter (fun h => h.part != p) }

/-- The logical core number of a team's core, which is its core's stop-record index (R388). -/
def State.coreUnit (s : State) (t : Team) : Nat := (s.core t.core).logical

/-- What a unit reports of a group of a team whose core it is or whose request it serves (R388): the record, the identifier,
the domain of a callee; ADDR, DETAIL and the thread concerned. -/
def UnitFault.of (tm : Team) (g : Group) (addr detail thread : Nat) : UnitFault :=
  { UnitFault.none with
    addr := addr, detail := detail, record := tm.record, asid := g.asid, domain := g.domain, thread := thread }

/-- A unit of a partition serves a team: its stop record would name it (R388). -/
def State.serve (s : State) (p unit : Nat) (u : UnitFault) : State :=
  s.modPart p (fun x => { x with served := Map.put x.served unit u })

/-! ## Taking an exception and returning from it -/

/-- A thread leaves the clause in progress. -/
def Group.dropLane (g : Group) (l : Nat) : Group :=
  { g with clause := g.clause.map (fun r => { r with active := r.active &&& ~~~ (1#32 <<< l) }) }

/-- The CR_TRAP_CAUSE value of a trap (R377). -/
def causeWord (cause index : Nat) : Dword := BitVec.ofNat 64 (cause + 256 * (index % 16))

/-- A thread takes a per-thread trap (R79, R376, R378, R368): it saves its PC, the instruction index, the cause and the
detail into its trap registers and enters trap mode at the handler. In a gate callee the handler is the callee's,
and a second trap finishes the thread with status 4. An unhandled trap halts the partition, or makes a trail or third
run diverge. -/
def takeTrap (t gi l : Nat) (vec : Dword) (pc cause index detail : Nat) (s : State) : State :=
  match s.team? t, s.group? t gi with
  | some tm, some g =>
    let th := g.thread l
    let s := s.modGroup t gi (·.dropLane l)
    let enter := fun (target : Nat) => s.modThread t gi l (fun th => { th with
      trapMode := true
      pc := target
      idx := 0
      trapPc := BitVec.ofNat 64 pc
      trapCause := causeWord cause index
      trapDetail := BitVec.ofNat 64 detail })
    if g.inCall l then
      if th.trapMode then s.modThread t gi l (fun th => { th with status := some 4 })
      else enter ((g.gate.map (·.handler)).getD 0)
    else if th.trapMode || vec == 0 then
      match tm.mode with
      | .trail => s.modTeam t (fun x => { x with diverged := true })
      | .third => s.modTeam t (fun x => { x with diverged := true })
      | _ =>
        let u : UnitFault :=
          if th.trapMode then
            { UnitFault.none with
              addr := th.trapPc.toNat, detail := th.trapDetail.toNat,
              index := bits th.trapCause.toNat 11 8 }
          else { UnitFault.none with addr := pc, detail := detail, index := index }
        s.halt tm.part 1 (s.coreUnit tm)
          { u with
            record := tm.record, asid := tm.asid, domain := g.domain, trapCause := cause, thread := 32 * gi + l }
    else enter vec.toNat
  | _, _ => s

/-- A thread returns from its handler (R379): it leaves trap mode, its PC becomes CR_TRAP_PC, and it resumes at INDEX. -/
def Thread.trapReturn (th : Thread) : Thread :=
  { th with
    trapMode := false
    pc := bits th.trapPc.toNat 51 0
    idx := bits th.trapCause.toNat 11 8 }

end Sys2Proof.Machine
end

