-- ==== Sys2Proof/Machine/Mem.lean ====
section
/-! DEFINITION. Global memory at its homes: the byte store in canonical form, registrations and their recall, write
stamps and publish states, encryption views, page-table walks, and the fetch of code lines. -/

namespace Sys2Proof.Machine

/-! ## Bytes in canonical form -/

/-- What an unlisted byte of DRAM, host memory, flash, the chip scratchpad or a window reads as (log entry 4). -/
def Memory.default : Byte := 0

/-- Read a byte. -/
def Memory.get (m : List Host.Cell) (a : Nat) : Byte := Map.get m a Memory.default

/-- Write a byte; writing the default removes the entry. -/
def Memory.put (m : List Host.Cell) (a : Nat) (b : Byte) : List Host.Cell :=
  if b = Memory.default then Map.del m a else Map.put m a b

/-- The canonical form: rising addresses, no entry of the default. -/
def Memory.wf (m : List Host.Cell) : Bool := Map.sorted m && m.all (fun c => c.2 != Memory.default)

/-- Write bytes at rising addresses. -/
def Memory.putBytes (m : List Host.Cell) (a : Nat) (bs : List Byte) : List Host.Cell :=
  Map.splice m a (a + bs.length) ((Map.run a bs).filter (fun c => c.2 != Memory.default))

/-- Read n bytes at rising addresses. -/
def Memory.getBytes (m : List Host.Cell) (a n : Nat) : List Byte := (List.range n).map (fun i => Memory.get m (a + i))

/-! ## Physical homes -/

/-- The unit where a physical byte has its home (R174). -/
inductive Home where
  | dram (die : Nat)
  | host
  | registers
  | nowhere
deriving DecidableEq, Repr

/-- The home of a physical address (R174). -/
def homeOf (pa : Nat) : Home :=
  if pa < 0x002800000000 then .dram 0
  else if pa < 0x005000000000 then .dram 1
  else if 0x800000000000 ≤ pa ∧ pa < 0xC00000000000 then .host
  else if 0xF00000000000 ≤ pa ∧ pa < 0xF00100000000 then .registers
  else .nowhere

/-- The die of a DRAM address. -/
def dieOfPa (pa : Nat) : Nat := if pa < 0x002800000000 then 0 else 1

/-- The address is in DRAM. -/
def isDram (pa : Nat) : Bool := pa < 0x005000000000

/-- The active slices of a die in ascending order (R412). -/
def State.slices (s : State) (die : Nat) : List Nat :=
  (List.range 48).filter (fun k => !s.retired.contains (die, k))

/-- The spreading sum of R175 and R221. -/
def spread (m : Nat) : Nat := m + (m >>> 6) + (m >>> 12) + (m >>> 18) + (m >>> 24) + (m >>> 30)

/-- The home slice of a DRAM address within its die (R175, R412). -/
def State.homeSlice (s : State) (pa : Nat) : Nat :=
  let die := dieOfPa pa
  let m := (pa - die * 0x002800000000) >>> 9
  let a := s.slices die
  a.getD (spread m % a.length) 0

/-- The translation slice of an access (R221, R412), numbered 48 × die + slice. -/
def State.translationSlice (s : State) (die asid va : Nat) : Nat :=
  let a := s.slices die
  48 * die + a.getD ((asid + spread (va >>> 16)) % a.length) 0

/-- A scrub holds resources of the partition's: it runs, or a reset has left them quarantined (R416, R468). -/
def Partition.scrubHolds (p : Partition) : Bool := !p.scrubDone || p.scrubQuar

/-- A byte of a range of a scrub that has not completed (R468). -/
def Partition.scrubbing (p : Partition) (pa : Nat) : Bool :=
  p.scrubHolds && p.scrubHeld.ranges.any (fun r => r.1 ≤ pa && pa < r.1 + 0x10000 * r.2)

/-- An access to the byte is refused at its home while a scrub is not done (R468). -/
def State.refused (s : State) (pa : Nat) : Bool := s.partitions.any (fun p => p.scrubbing pa)

/-! ## Registrations -/

/-- The core that a registration of a byte belongs to (R178). -/
def State.registrant (s : State) (pa : Nat) : Option Nat :=
  (s.registrations.find? (fun r => r.pa ≤ pa && pa < r.pa + r.size)).map (·.core)

/-- The grain that a leaf selects around an address (R182, R219): its first byte and its size. -/
def grainOf (leaf pa : Nat) : Nat × Nat :=
  let size := if bits leaf 49 48 = 0 then 32 else if bits leaf 49 48 = 1 then 128 else 512
  (pa / size * size, size)

/-- The view of memory that a leaf gives (R414): the generation of its key, or 0 for plaintext. -/
def State.viewOf (s : State) (leaf pa : Nat) : Nat :=
  if hasBit leaf 52 then Map.get s.keys (dieOfPa pa * 256 + bits leaf 63 56) 0 else 0

/-- The stored byte at its home, of no view: from the L2 or DRAM, or from the host. -/
def State.storedByte (s : State) (pa : Nat) : Byte :=
  if isDram pa then Memory.get s.dram pa else Memory.get s.hostMem pa

/-- A key stands in some slot of a die (R414). -/
def State.keyLoaded (s : State) (die key : Nat) : Bool :=
  s.keys.any (fun k => k.1 / 256 == die && k.2 == key)

/-- The 16 bytes of a unit of DRAM as a view of another key than its own shows them (R414): what stands in DRAM, under the
view's key. -/
def State.viewUnit (s : State) (tag view unit : Nat) : List Nat :=
  let plain := (List.range 16).map (fun i => (s.storedByte (16 * unit + i)).toNat)
  let there := if tag = 0 then plain else xtsEncrypt (keyBytes tag) (16 * unit) plain
  if view = 0 then there else xtsDecrypt (keyBytes view) (16 * unit) there

/-- A stored byte as a view of memory shows it (R414, R415): once the key that it was written under has been zeroised, it is
undefined ciphertext to every view. -/
def State.viewByte (s : State) (view pa : Nat) : Byte :=
  let tag := Map.get s.cipher (pa >>> 4) 0
  if tag = view then s.storedByte pa
  else if tag ≠ 0 && !s.keyLoaded (dieOfPa pa) tag then Config.cipherByte tag view pa
  else BitVec.ofNat 8 ((s.viewUnit tag view (pa / 16)).getD (pa % 16) 0)

/-- A byte read at its home, forwarded to a registrant where there is one (R180). -/
def State.homeByte (s : State) (view pa : Nat) : Byte :=
  match s.registrant pa with
  | some c => (Map.get? (s.core c).dirty pa).getD (s.viewByte view pa)
  | none => s.viewByte view pa

/-- Bytes read at their homes. -/
def State.homeBytes (s : State) (view pa n : Nat) : List Byte := (List.range n).map (fun i => s.homeByte view (pa + i))

/-- Store one byte at its home, with no other effect. -/
def State.storeByte (s : State) (pa : Nat) (b : Byte) : State :=
  if isDram pa then { s with dram := Memory.put s.dram pa b } else { s with hostMem := Memory.put s.hostMem pa b }

/-- Give every 16-byte unit of a range the view of its writer; bytes that are not written keep what that view shows. -/
def State.retag (s : State) (view pa n : Nat) : State :=
  if n = 0 ∨ !isDram pa then s else
  (List.range ((pa + n - 1) / 16 + 1 - pa / 16)).foldl (fun s k =>
    let u := pa / 16 + k
    if Map.get s.cipher u 0 = view then s
    else
      let bs := (List.range 16).map (fun j => s.viewByte view (16 * u + j))
      let s := (List.range 16).foldl (fun (s : State) j => s.storeByte (16 * u + j) (bs.getD j 0)) s
      { s with cipher := if view = 0 then Map.del s.cipher u else Map.put s.cipher u view }) s

/-- The lines of a byte range. -/
def linesOf (pa n : Nat) : List Nat :=
  if n = 0 then [] else (List.range ((pa + n - 1) / 128 + 1 - pa / 128)).map (fun k => (pa / 128 + k) * 128)

/-- A line takes the current epoch as its stamp (R327). -/
def State.stampLine (s : State) (pa : Nat) : State :=
  { s with stamps := if s.epoch = 0 then Map.del s.stamps (pa >>> 7) else Map.put s.stamps (pa >>> 7) s.epoch }

/-! ## Caches of a fixed size -/

/-- Put an entry first into the part of a cache that `here` selects, which holds at most `cap` entries; where it is full, one
of them leaves: the device does not say which (R184, R186, R230, R374). -/
def capped {α : Type} [BEq α] (cap nonce : Nat) (here : α → Bool) (x : α) (xs : List α) : List α :=
  let mine := xs.filter here
  if mine.length < cap then x :: xs
  else
    match mine[Config.victim nonce % mine.length]? with
    | some y => x :: xs.erase y
    | none => x :: xs

/-- A core gives up one registration (R182): its dirty bytes of the grain are written back; it keeps the line as an
unregistered copy. A write-back stamps the lines of the bytes that it writes (R327). -/
def State.writeBack (s : State) (r : Registration) : State :=
  let mine := (s.core r.core).dirty.filter (fun ab => r.pa ≤ ab.1 && ab.1 < r.pa + r.size)
  let s := mine.foldl (fun (s : State) ab => s.storeByte ab.1 ab.2) s
  let s := s.modCore r.core (fun c => { c with
    dirty := c.dirty.filter (fun ab => !(r.pa ≤ ab.1 && ab.1 < r.pa + r.size)) })
  let s := { s with registrations := s.registrations.filter (· != r) }
  ((linesOf r.pa r.size).filter (fun l => mine.any (fun ab => l ≤ ab.1 && ab.1 < l + 128))).foldl State.stampLine s

/-- Two lines of DRAM stand in one set of one slice (R184). -/
def State.sameSet (s : State) (a b : Nat) : Bool :=
  dieOfPa a == dieOfPa b && (a >>> 7) % 1024 == (b >>> 7) % 1024 && s.homeSlice a == s.homeSlice b

/-- The held lines in the set of a line in its home slice (R184, R185). -/
def State.heldWays (s : State) (pa : Nat) : Nat := (s.heldLines.filter (fun h => isDram h.pa && s.sameSet h.pa pa)).length

/-- An L2 line is replaced (R182, R184): the registrations of its bytes are given up first. -/
def State.dropL2 (s : State) (line : Nat) : State :=
  let s := (s.registrations.filter (fun r => r.pa < 128 * line + 128 && 128 * line < r.pa + r.size)).foldl
    State.writeBack s
  { s with l2 := s.l2.filter (· != line) }

/-- A way of a line's set is free for another line, of `ways` in use at most 15 (R184): where it is not, an ordinary line of
the set is replaced. -/
def State.freeWay (s : State) (pa : Nat) : State :=
  let mine := s.l2.filter (fun l => s.sameSet (128 * l) pa)
  if mine.length + s.heldWays pa < 16 then s
  else
    match mine[Config.victim s.nonce % mine.length]? with
    | some l => { s.dropL2 l with nonce := s.nonce + 1 }
    | none => s

/-- A line is in the L2 of its home from now on (R184). -/
def State.intoL2 (s : State) (pa : Nat) : State :=
  let line := pa >>> 7
  if !isDram pa || s.l2.contains line then s
  else
    let s := s.freeWay pa
    { s with l2 := line :: s.l2 }

/-- A write performed at a line's home sets its stamp to the current epoch and makes it unpublished (R327, R350). -/
def State.touchLine (s : State) (pa : Nat) : State :=
  if isDram pa then { s.stampLine pa with pub := Map.del s.pub (pa >>> 7) } else s

/-- A home that answers a read by forwarding a registrant's bytes first stamps their line (R327). -/
def State.forwardStamp (s : State) (pa n : Nat) : State :=
  (linesOf pa n).foldl (fun (s : State) l =>
    if s.registrations.any (fun r => r.pa < pa + n && pa < r.pa + r.size && r.pa < l + 128 && l < r.pa + r.size) then
      s.stampLine l
    else s) s

/-- A read performed at the home brings the lines of its bytes into its L2 (R184). -/
def State.readAtHome (s : State) (pa n : Nat) : State :=
  (linesOf pa n).foldl State.intoL2 (s.forwardStamp pa n)

/-- A read corrects the correctable errors of the lines of its bytes, and the health record counts them (R186, R413). The read
leaves the line without the error (DESIGN CHOICE, log entry 107). -/
def State.correct (s : State) (pa n : Nat) : State :=
  let here := fun (k : Nat) => (linesOf pa n).any (fun l => l >>> 7 == k)
  if s.soft.any here then
    { s with soft := s.soft.filter (fun k => !here k)
             health := { s.health with corrected := s.health.corrected + (s.soft.filter here).length } }
  else s

/-- A request of a partition consumes bytes at their homes: correctable errors are counted, and data with an uncorrectable
error halts it (R186, R388). -/
def State.consume (s : State) (p : Nat) (u : UnitFault) (pa n : Nat) : State :=
  let s := s.correct pa n
  match (linesOf pa n).find? (fun l => s.errors.contains (l >>> 7)) with
  | some l => s.halt p 3 (448 + 48 * dieOfPa l + s.homeSlice l) { u with addr := l }
  | none => s

/-- A core gives up one registration, and the lines that it writes back enter the L2 (R182, R184). -/
def State.giveUp (s : State) (r : Registration) : State :=
  let dirty := (s.core r.core).dirty.filter (fun ab => r.pa ≤ ab.1 && ab.1 < r.pa + r.size)
  ((linesOf r.pa r.size).filter (fun l => dirty.any (fun ab => l ≤ ab.1 && ab.1 < l + 128))).foldl State.intoL2 (s.writeBack r)

/-- The home recalls every registration that overlaps a byte range (R182, R192, R298). -/
def State.recall (s : State) (pa n : Nat) : State :=
  (s.registrations.filter (fun r => r.pa < pa + n && pa < r.pa + r.size)).foldl State.giveUp s

/-- Bytes written at their home by a writer that keeps nothing in the L2: a strongly ordered access (R177), the management
core. Registrations are recalled, the lines are stamped and unpublished. -/
def State.homeWritePast (s : State) (view pa : Nat) (bs : List Byte) : State :=
  if bs.isEmpty then s else
  let s := s.recall pa bs.length
  let s := s.retag view pa bs.length
  let s := if isDram pa then { s with dram := Memory.putBytes s.dram pa bs }
    else { s with hostMem := Memory.putBytes s.hostMem pa bs }
  (linesOf pa bs.length).foldl State.touchLine s

/-- Bytes written at their home (R298, R192, R401): the lines enter the L2 (R184). -/
def State.homeWrite (s : State) (view pa : Nat) (bs : List Byte) : State :=
  (linesOf pa bs.length).foldl State.intoL2 (s.homeWritePast view pa bs)

/-- Whole lines of DRAM written with zeros at their homes (R415): as State.homeWrite of so many zeros. -/
def State.zeroLines (s : State) (pa n : Nat) : State :=
  let s := (s.recall pa n)
  let first := pa >>> 7
  let last := first + n / 128
  (linesOf pa n).foldl State.intoL2 { s with
    dram := Map.splice s.dram pa (pa + n) []
    cipher := Map.splice s.cipher (pa >>> 4) ((pa + n) >>> 4) []
    stamps := Map.splice s.stamps first last (if s.epoch = 0 then [] else Map.run first (List.replicate (n / 128) s.epoch))
    pub := Map.splice s.pub first last [] }

/-- A home grants a grain to a core (R181): every other registration of its bytes is recalled, the lines are stamped
and unpublished. -/
def State.grant (s : State) (leaf pa core : Nat) : State :=
  let (g, n) := grainOf leaf pa
  if s.registrations.contains ⟨g, n, core⟩ then s
  else
    let others := s.registrations.filter (fun r => r.pa < g + n && g < r.pa + r.size && r.core != core)
    let s := others.foldl State.giveUp s
    let s := s.retag (s.viewOf leaf pa) g n
    let s := { s with registrations := ⟨g, n, core⟩ :: s.registrations }
    (linesOf g n).foldl State.intoL2 ((linesOf g n).foldl State.touchLine s)

/-- The core holds the registration of the whole grain that a leaf selects (R178). -/
def State.holds (s : State) (leaf pa core : Nat) : Bool :=
  let (g, n) := grainOf leaf pa
  s.registrations.any (fun r => r.core == core && r.pa ≤ g && g + n ≤ r.pa + r.size)

/-- The valid sectors of a line without those of a byte range that none of the given registrations covers. -/
def L1Line.freed (l : L1Line) (mine : List Registration) (pa n : Nat) : BitVec 4 :=
  (List.range 4).foldl (fun (v : BitVec 4) k =>
    let a := l.pa + 32 * k
    if a < pa + n ∧ pa < a + 32 ∧ !mine.any (fun r => r.pa ≤ a && a < r.pa + r.size) then v &&& ~~~ (1#4 <<< k) else v) l.valid

/-- Invalidate the L1 sectors of a byte range that none of the given registrations covers (R181, R208). -/
def Core.dropFree (c : Core) (mine : List Registration) (pa n : Nat) : Core :=
  { c with l1 := c.l1.map (fun l => { l with valid := l.freed mine pa n }) }

/-- Remove the L1 copy of the sectors of a byte range from a core (R177, R183, R190). -/
def Core.dropSectors (c : Core) (pa n : Nat) : Core :=
  { c with l1 := c.l1.map (fun l => { l with
      valid := LaneSetSectors l pa n }) }
where
  LaneSetSectors (l : L1Line) (pa n : Nat) : BitVec 4 :=
    (List.range 4).foldl (fun (v : BitVec 4) k =>
      if l.pa + 32 * k < pa + n ∧ pa < l.pa + 32 * k + 32 then v &&& ~~~ (1#4 <<< k) else v) l.valid

/-! ## Walks -/

/-- The end of a page-table walk (R218–R220). -/
inductive WalkEnd where
  | leaf (leaf pa size : Nat)
  | notPresent (level : Nat)
  | violation
deriving DecidableEq, Repr

/-- Eight bytes read at their homes as a number, for a walker or the device itself. -/
def State.readPhys (s : State) (pa n : Nat) : Nat := ofLeBytes (s.homeBytes 0 pa n)

/-- A leaf is malformed (R220). -/
def State.badLeaf (s : State) (e size : Nat) : Bool :=
  let addr := bits e 47 8 <<< 8
  addr % size != 0 || (hasBit e 3 && hasBit e 4) || bits e 49 48 == 3 || bits e 51 50 == 3 || bits e 55 53 != 0 ||
  (hasBit e 5 && hasBit e 4) ||
  (hasBit e 52 && (homeOf addr == .host || (Map.get? s.keys (dieOfPa addr * 256 + bits e 63 56)).isNone))

/-- The levels of a walk: first bit of the index, bits of the index, bytes that a leaf maps (R218). -/
def walkLevels : List (Nat × Nat × Nat) := [(39, 13, 0), (30, 9, 0x40000000), (21, 9, 0x200000), (16, 5, 0x10000)]

/-- The bytes of the table that an index of a level needs, for the alignment of its pointer. -/
def tableBytes : List (Nat × Nat × Nat) → Nat
  | [] => 256
  | (_, n, _) :: _ => 8 * 2 ^ n

/-- Walk the levels that remain from a table (R218–R220); the home of an entry in a scrub's range refuses the read (R468). -/
def State.walkFrom (s : State) (va level table : Nat) : List (Nat × Nat × Nat) → WalkEnd
  | [] => .violation
  | (lo, n, size) :: rest =>
    let pa := table + 8 * bits va (lo + n - 1) lo
    if homeOf pa = .nowhere ∨ homeOf pa = .registers ∨ s.refused pa then .violation
    else
      let e := s.readPhys pa 8
      if !hasBit e 0 then .notPresent level
      else if hasBit e 1 then
        if size = 0 ∨ s.badLeaf e size then .violation
        else .leaf e ((bits e 47 8 <<< 8) + va % size) size
      else if rest.isEmpty then .violation
      else if bits e 63 48 != 0 || bits e 7 2 != 0 || (bits e 47 8 <<< 8) % tableBytes rest != 0 then .violation
      else s.walkFrom va (level + 1) (bits e 47 8 <<< 8) rest

/-- Translate an address of an identifier of a partition (R217, R218). -/
def State.walk (s : State) (p asid va : Nat) : WalkEnd :=
  let t := (s.part p).asTable.toNat
  if bits t 63 48 < asid then .violation
  else
    let entry := (bits t 47 12 <<< 12) + 16 * asid
    if homeOf entry = .nowhere ∨ homeOf entry = .registers ∨ s.refused entry then .violation
    else
      let e := s.readPhys entry 8
      if !hasBit e 0 || bits e 63 48 != 0 || bits e 15 1 != 0 then .violation
      else s.walkFrom va 0 (bits e 47 16 <<< 16) walkLevels

/-- The bits of an address above those that the table of a level maps (R218). -/
def walkPrefix (level va : Nat) : Nat := va >>> (match level with | 0 => 52 | 1 => 39 | 2 => 30 | _ => 21)

/-- The deepest table of a walk that a slice's walk cache holds: its level and its address (R221). -/
def State.walkStart (s : State) (slice p asid va : Nat) : Option (Nat × Nat) :=
  [3, 2, 1, 0].findSome? (fun level =>
    (s.walkCache.find? (fun w => w.slice == slice && w.part == p && w.asid == asid && w.level == level &&
      w.va == walkPrefix level va)).map (fun w => (level, w.table)))

/-- The walk of a slice (R218, R222, R223): from the deepest table that its walk cache holds, which may be an older one until
a shootdown. -/
def State.walkAt (s : State) (slice p asid va : Nat) : WalkEnd :=
  match s.walkStart slice p asid va with
  | some (level, table) => s.walkFrom va level table (walkLevels.drop level)
  | none => s.walk p asid va

/-- The leaf that a translation cache holds for an address (R221). -/
def State.tlbHit (s : State) (slice p asid va : Nat) : Option TlbEntry :=
  s.tlb.find? (fun e => e.slice == slice && e.part == p && e.asid == asid && e.va ≤ va && va < e.va + e.size)

/-- The translation that the slices of a die give an access of a core or an engine (R221). -/
def State.translate (s : State) (die p asid va : Nat) : WalkEnd :=
  let slice := s.translationSlice die asid va
  match s.tlbHit slice p asid va with
  | some e => .leaf e.leaf ((bits e.leaf 47 8 <<< 8) + va % e.size) e.size
  | none => s.walkAt slice p asid va

/-- The entries that the levels of a walk read, from a table on (R218). -/
def State.entriesFrom (s : State) (va table : Nat) : List (Nat × Nat × Nat) → List Nat
  | [] => []
  | (lo, n, _) :: rest =>
    let pa := table + 8 * bits va (lo + n - 1) lo
    let e := s.readPhys pa 8
    pa :: (if hasBit e 0 && !hasBit e 1 then s.entriesFrom va (bits e 47 8 <<< 8) rest else [])

/-- The entries that a walk of a slice reads (R217, R218). -/
def State.walkEntries (s : State) (slice p asid va : Nat) : List Nat :=
  match s.walkStart slice p asid va with
  | some (level, table) => s.entriesFrom va table (walkLevels.drop level)
  | none =>
    let entry := (bits (s.part p).asTable.toNat 47 12 <<< 12) + 16 * asid
    entry :: s.entriesFrom va (bits (s.readPhys entry 8) 47 16 <<< 16) walkLevels

/-- The tables that a walk goes through from a table on, each with its level (R223). -/
def State.walkTables (s : State) (va level table : Nat) : List (Nat × Nat × Nat) → List (Nat × Nat)
  | [] => []
  | (lo, n, _) :: rest =>
    let e := s.readPhys (table + 8 * bits va (lo + n - 1) lo) 8
    (level, table) :: (if hasBit e 0 && !hasBit e 1 then s.walkTables va (level + 1) (bits e 47 8 <<< 8) rest else [])

/-- One pointer enters the walk cache of a slice, of 256 (R221). -/
def State.cachePtr (s : State) (w : WalkPtr) : State :=
  if s.walkCache.any (fun x => x.slice == w.slice && x.part == w.part && x.asid == w.asid && x.level == w.level &&
      x.va == w.va) then s
  else { s with walkCache := capped 256 s.nonce (fun x => x.slice == w.slice) w s.walkCache, nonce := s.nonce + 1 }

/-- A walk has been made (R222, R223): its reads were performed at the homes of the entries, with what an LDQ there does; a
well-formed leaf enters the translation cache of the slice, of 2,048 entries, and its pointers the walk cache. -/
def State.walked (s : State) (slice p asid va : Nat) : State :=
  let u := { UnitFault.none with asid := asid, detail := va }
  let found := s.walkAt slice p asid va
  let tables := match s.walkStart slice p asid va with
    | some (level, table) => s.walkTables va level table (walkLevels.drop level)
    | none =>
      let entry := (bits (s.part p).asTable.toNat 47 12 <<< 12) + 16 * asid
      s.walkTables va 0 (bits (s.readPhys entry 8) 47 16 <<< 16) walkLevels
  let s := (s.walkEntries slice p asid va).foldl (fun (s : State) pa =>
    if isDram pa then (s.readAtHome pa 8).consume p u pa 8 else s) s
  match found with
  | .leaf e _ size =>
    let s := tables.foldl (fun (s : State) lt => s.cachePtr ⟨slice, p, asid, lt.1, walkPrefix lt.1 va, lt.2⟩) s
    { s with
      tlb := capped 2048 s.nonce (fun x => x.slice == slice) ⟨slice, p, asid, va / size * size, size, e⟩ s.tlb
      nonce := s.nonce + 1 }
  | _ => s

/-- The translation of an access has been made: where it missed its translation cache, a walk was (R221). -/
def State.translated (s : State) (die p asid va : Nat) : State :=
  let slice := s.translationSlice die asid va
  if (s.tlbHit slice p asid va).isSome then s else s.walked slice p asid va

/-! ## The walk queues -/

/-- The walks of a slice, in arrival order: two walkers, then a queue of 64 (R222). -/
def State.walksOf (s : State) (slice : Nat) : List Walk := s.walks.filter (fun w => w.slice == slice)

/-- A walk of the page of an address (R222). -/
def Walk.of (w : Walk) (slice p asid va : Nat) : Bool :=
  w.slice == slice && w.part == p && w.asid == asid && w.va >>> 16 == va >>> 16

/-- A request of an asker need not wait for a walk: it hits its translation cache, or has had its walk (R221, R222). -/
def State.known (s : State) (k : Asker) (die p asid va : Nat) : Bool :=
  (s.tlbHit (s.translationSlice die asid va) p asid va).isSome || s.answers.contains ⟨k, asid, va >>> 16⟩

/-- A request that misses its translation cache joins the walk of its page, or starts one unless the queue is full (R222). A
halted partition starts no walk (R386). -/
def State.askWalk (s : State) (k : Option Asker) (die p asid va : Nat) : State :=
  let slice := s.translationSlice die asid va
  let join := fun (w : Walk) => match k with
    | some x => if w.askers.contains x then w else { w with askers := w.askers ++ [x] }
    | none => w
  if (s.part p).halted then s
  else if s.walks.any (·.of slice p asid va) then
    { s with walks := s.walks.map (fun w => if w.of slice p asid va then join w else w) }
  else if 66 ≤ (s.walksOf slice).length then s
  else
    let (id, s) := s.fresh
    { s with walks := s.walks ++ [join ⟨id, slice, p, asid, va, []⟩] }

/-- Every page of some addresses is known to an asker. -/
def State.allKnown (s : State) (k : Asker) (die p asid : Nat) (vas : List Nat) : Bool := vas.all (s.known k die p asid)

/-- An asker waits for the walks of the pages that it does not know. -/
def State.askWalks (s : State) (k : Asker) (die p asid : Nat) (vas : List Nat) : State :=
  vas.foldl (fun (s : State) va => if s.known k die p asid va then s else s.askWalk (some k) die p asid va) s

/-- The request of an asker has gone on: its answers are spent. -/
def State.spend (s : State) (k : Asker) : State :=
  if s.answers.any (fun x => x.asker == k) then { s with answers := s.answers.filter (fun x => x.asker != k) } else s

/-! ## Accesses of the device itself -/

/-- What an access of the device itself to a record, save region, log area, frame or named buffer meets (R229, R232, R308, R330,
R363): a leaf with V, R, W and PIN, which the slices of a die give (R221), and which may be an older one until a shootdown
(R223). An address of a register block is a violation (DESIGN CHOICE, log entry 96). The translation takes no walker: where it
misses, the walk is made within the access (DESIGN CHOICE, log entry 108). -/
def State.pinned (s : State) (die p asid va : Nat) : Option Xlat :=
  match s.translate die p asid va with
  | .leaf e pa _ =>
    if hasBit e 2 && hasBit e 3 && hasBit e 6 && (isDram pa || homeOf pa == .host) && !s.refused pa then some ⟨pa, e⟩
    else none
  | _ => none

/-- A byte range cut at the boundaries of 64 KiB pages: first address and length of each part. -/
def pageChunks (va n : Nat) : List (Nat × Nat) :=
  if n = 0 then [] else
  (List.range ((va + n - 1) / 0x10000 + 1 - va / 0x10000)).map (fun k =>
    let lo := max va ((va / 0x10000 + k) * 0x10000)
    (lo, min (va + n) ((va / 0x10000 + k + 1) * 0x10000) - lo))

/-- Read bytes through pinned pages; none when a page fails. -/
def State.pinRead (s : State) (die p asid va n : Nat) : Option (List Byte) :=
  (pageChunks va n).foldr (fun c acc =>
    match acc, s.pinned die p asid c.1 with
    | some bs, some x => some (s.homeBytes (s.viewOf x.leaf x.pa) x.pa c.2 ++ bs)
    | _, _ => none) (some [])

/-- What a read at a home does beside giving its bytes (R177, R184, R327): their lines enter the L2, but those of a strongly
ordered page. -/
def State.readMeets (s : State) (leaf pa n : Nat) : State :=
  if hasBit leaf 5 then s.forwardStamp pa n else s.readAtHome pa n

/-- Bytes written at their home through a leaf (R177, R184). -/
def State.leafWrite (s : State) (leaf pa : Nat) (bs : List Byte) : State :=
  if hasBit leaf 5 then s.homeWritePast (s.viewOf leaf pa) pa bs else s.homeWrite (s.viewOf leaf pa) pa bs

/-- What a read of the device itself does beside giving its bytes: the translations have been made, and the homes do what an
LDQ does there (R184, R186, R327). -/
def State.pinMeet (s : State) (die p : Nat) (u : UnitFault) (asid va n : Nat) : State :=
  (pageChunks va n).foldl (fun (s : State) c =>
    match s.translate die p asid c.1 with
    | .leaf e pa _ =>
      let s := s.translated die p asid c.1
      if isDram pa then (s.readMeets e pa c.2).consume p { u with detail := c.1 } pa c.2 else s
    | _ => s) s

/-- Write bytes through pinned pages; none when a page fails. -/
def State.pinWrite (s : State) (die p asid va : Nat) (bs : List Byte) : Option State :=
  (pageChunks va bs.length).foldl (fun acc c =>
    match acc with
    | none => none
    | some s =>
      match s.pinned die p asid c.1 with
      | some x => some ((s.translated die p asid c.1).leafWrite x.leaf x.pa ((bs.drop (c.1 - va)).take c.2))
      | none => none) (some s)

/-- Eight bytes, or another few, read at their homes for the device itself under no translation (R308, R362): the bytes, and the
machine after what an LDQ does there (R184, R186, R327). -/
def State.physRead (s : State) (p : Nat) (u : UnitFault) (pa n : Nat) : List Byte × State :=
  (s.homeBytes 0 pa n, if isDram pa then (s.readAtHome pa n).consume p u pa n else s)

/-! ## Code -/

/-- What the fetch of a code line gives (R347, R351). -/
inductive Fetch where
  | line (bytes : List Byte) (pa : Nat) (hit : Bool)
  | notPresent (level : Nat)
  | violation
  | unpublished
deriving DecidableEq, Repr

/-- A core lies inside a publish state's scope (R351, R201). -/
def PubState.covers (p : PubState) (core : Nat) : Bool :=
  if p.scope = 0 then core == p.origin
  else if p.scope = 1 then clusterOf core == clusterOf p.origin
  else if p.scope = 2 then dieOf core == dieOf p.origin
  else true

/-- Fetch the code line of a virtual address for a core (R347, R348, R351). -/
def State.fetchLine (s : State) (p core asid va : Nat) : Fetch :=
  let va := va / 128 * 128
  match (s.core core).icache.find? (fun l => l.va == va && l.asid == asid) with
  | some l => .line l.bytes l.pa true
  | none =>
    match s.translate (dieOf core) p asid va with
    | .notPresent n => .notPresent n
    | .violation => .violation
    | .leaf e pa _ =>
      if !(hasBit e 2 && hasBit e 4) || !isDram pa || s.refused pa then .violation
      else
        match Map.get? s.pub (pa >>> 7) with
        | some st =>
          if st.covers core then
            .line ((List.range 128).map (fun i => s.viewByte (s.viewOf e pa) (pa + i))) pa false
          else .unpublished
        | none => .unpublished

/-- The instruction cache of a core fills with a fetched line (R348), of 128 sets of 8 ways, the set by the virtual line (the
manual names none: PRESUMED, log entry 93); the translation has been made, and the line enters the L2 (R184). -/
def State.fillLine (s : State) (p core asid va : Nat) (f : Fetch) : State :=
  match f with
  | .line bs pa false =>
    let s := s.translated (dieOf core) p asid (va / 128 * 128)
    let line : ICacheLine := ⟨va / 128 * 128, asid, pa, bs⟩
    let same := fun (l : ICacheLine) => l.va / 128 % 128 == va / 128 % 128
    let s := { s.modCore core (fun c => { c with icache := capped 8 s.nonce same line c.icache }) with nonce := s.nonce + 1 }
    s.intoL2 pa
  | _ => s

/-- The word that a fetch gives at an address, or the failing fetch. -/
def State.fetchWord (s : State) (p core asid va : Nat) : Except Fetch Word :=
  match s.fetchLine p core asid va with
  | .line bs _ _ => .ok (BitVec.ofNat 32 (ofLeBytes ((bs.drop (va % 128)).take 4)))
  | f => .error f

/-! ## Private arrays whose contents at the start are undefined -/

/-- A byte of an array that a nonce names; an unlisted byte is free (R115, R154, R459). -/
def padGet (nonce : Nat) (m : Map Byte) (a : Nat) : Byte := (Map.get? m a).getD (Config.freeByte nonce a)

/-- n bytes of such an array. -/
def padBytes (nonce : Nat) (m : Map Byte) (a n : Nat) : List Byte := (List.range n).map (fun i => padGet nonce m (a + i))

/-- Write bytes into such an array. -/
def padPut (m : Map Byte) (a : Nat) (bs : List Byte) : Map Byte := Map.splice m a (a + bs.length) (Map.run a bs)

end Sys2Proof.Machine
end

