-- ==== Sys2Proof/Machine/Flow.lean ====
section
/-! DEFINITION. The flow of clauses: the frontier of a group, the end of a clause, reconvergence barriers, team
barriers, and what a thread's execution of an instruction counts. -/

namespace Sys2Proof.Machine

/-! ## The frontier -/

/-- One entry of a frontier (R64): its priority, its PC, the instruction at which it resumes, trap mode, its threads. -/
structure Entry where
  prio : Nat
  pc : Nat
  idx : Nat
  trap : Bool
  lanes : LaneSet
deriving DecidableEq, Repr

/-- The PRIO that orders an entry: that of its header, 1023 where the fetch faults or finds no header (R63, R66). For a PC
that is not a multiple of 4 or lies above 2^52 the manual names no word; the word that is read at that address orders the
entry (DESIGN CHOICE, log entry 87). -/
def State.prioAt (s : State) (p core asid pc : Nat) : Nat :=
  match s.fetchWord p core asid pc with
  | .ok w => if bits w.toNat 31 30 = 3 then bits w.toNat 10 1 else 1023
  | .error _ => 1023

/-- A thread that the frontier lists: live, not parked, not suspended by a gate call and not finished in it (R64,
R366, R369). While a call waits to be entered the whole group waits. -/
def Group.listed (g : Group) (l : Nat) : Bool :=
  let th := g.thread l
  th.live && th.parked.isNone &&
  match g.gate with
  | some c => !c.waiting && c.entered.getLsbD l && th.status.isNone
  | none => true

/-- Threads that have an entry of their own: trap mode, or a clause to resume (R64, R379). -/
def Group.alone (g : Group) (l : Nat) : Bool := (g.thread l).trapMode || (g.thread l).idx != 0

/-- Entry order: higher priority, then lower PC, then trap-mode entries in lane order, the normal entry last (R64). -/
def Entry.before (a b : Entry) : Bool :=
  if a.prio ≠ b.prio then b.prio < a.prio
  else if a.pc ≠ b.pc then a.pc < b.pc
  else if a.trap ≠ b.trap then a.trap
  else (a.lanes.lanes.headD 0) < (b.lanes.lanes.headD 0)

/-- Insert an entry by the order of R64. -/
def insertEntry (e : Entry) : List Entry → List Entry
  | [] => [e]
  | x :: xs => if e.before x then e :: x :: xs else x :: insertEntry e xs

/-- The entries of a group without their priorities: one for each PC of normal threads, one for each thread alone. -/
def Group.entries (g : Group) : List Entry :=
  let listed := allLanes.filter g.listed
  let normal := (listed.filter (fun l => !g.alone l)).foldl (fun (es : List Entry) l =>
    let pc := (g.thread l).pc
    if es.any (fun e => e.pc == pc) then
      es.map (fun e => if e.pc == pc then { e with lanes := e.lanes ||| (1#32 <<< l) } else e)
    else es ++ [⟨0, pc, 0, false, 1#32 <<< l⟩]) []
  let own := (listed.filter g.alone).map (fun l => (⟨0, (g.thread l).pc, (g.thread l).idx, true, 1#32 <<< l⟩ : Entry))
  normal ++ own

/-- The frontier of a group (R64). -/
def State.frontier (s : State) (tm : Team) (g : Group) : List Entry :=
  (g.entries.map (fun e => { e with prio := s.prioAt tm.part tm.core g.asid e.pc })).foldl
    (fun es e => insertEntry e es) []

/-- What R67 compares of a tail: PCs, threads and modes. -/
def tailKey (es : List Entry) : List (Nat × LaneSet × Bool) := (es.drop 1).map (fun e => (e.pc, e.lanes, e.trap))

/-! ## Team barriers -/

/-- The groups of a team that have live threads (R243). -/
def Team.liveGroups (t : Team) : Nat := (t.groups.filter (fun g => g.live != 0)).length

/-- Insert an arrival in a core cycle (R72): groups that arrive in one cycle stand in ascending index. Two groups of one
slot never do; where no time has passed between their clauses they stand as they came. -/
def insertArrival (g now : Nat) (order : List (Nat × Nat)) : List (Nat × Nat) :=
  let (early, same) := order.partition (fun x => x.2 != now)
  if same.any (fun x => x.1 % 4 == g % 4) then order ++ [(g, now)]
  else early ++ same.filter (fun x => x.1 < g) ++ [(g, now)] ++ same.filter (fun x => g < x.1)

/-- One arrival at a barrier in a core cycle (R243, R72). The matrix sequencer's arrival counts and takes no arrival
position among the groups: R72 names groups alone (DESIGN CHOICE, log entry 87). -/
def Barrier.arrive (b : Barrier) (who : Option Nat) (cnt now : Nat) : Barrier :=
  let b := if b.count = 0 then { b with expect := cnt, counted := cnt == 0 } else b
  match who with
  | some g => { b with count := b.count + 1, bits := b.bits ||| (1#32 <<< g), order := insertArrival g now b.order }
  | none => { b with count := b.count + 1, seq := true }

/-- The position of an element in a list. -/
def placeOf (x : Nat) : List Nat → Nat
  | [] => 0
  | y :: ys => if x = y then 0 else placeOf x ys + 1

/-- A BAR that waits for barrier n. -/
def Hold.waits (n : Nat) : Hold → Bool
  | .bar m again _ _ => m == n && !again
  | .sbar => false

/-- A BAR whose bit was already set and that counts in the next phase of barrier n (R243). -/
def Hold.next? (n : Nat) : Hold → Option (Nat × Bool)
  | .bar m true cnt only => if m = n then some (cnt, only) else none
  | _ => none

/-- The arrival that the sequencer held for the next phase of a barrier is made, before those of the groups (R280). -/
def Team.arriveHeld (t : Team) (n now : Nat) : Team :=
  match t.seq.held with
  | some (cnt, waits) =>
    if t.seq.mode = 2 ∧ t.seq.barrier = n then
      let seq : Sequencer := { t.seq with mode := if waits then 1 else 0, held := none, arrived := true }
      { t with barriers := modNth (·.arrive none cnt now) n t.barriers, seq := seq }
    else t
  | none => t

/-- A phase completes: urgencies are set (R72), held groups and a waiting sequencer are released, and arrivals that
were held for the next phase are made (R243, R280). -/
def Team.completePhase (t : Team) (n now : Nat) : Team :=
  let b := (t.barriers[n]?).getD .fresh
  let seq : Sequencer := if t.seq.mode = 1 ∧ t.seq.barrier = n then { t.seq with mode := 0 } else t.seq
  let t : Team := { t with
    barriers := modNth (fun _ => Barrier.fresh) n t.barriers
    groups := (List.range t.groups.length).zip t.groups |>.map (fun (j, g) =>
      { g with
        urgency := if (b.order.map Prod.fst).contains j && t.lb.nprod ≤ j then placeOf j (b.order.map Prod.fst)
          else g.urgency
        holds := g.holds.filter (fun h => !h.waits n) })
    seq := seq }
  let t := t.arriveHeld n now
  (List.range t.groups.length).foldl (fun (t : Team) j =>
    match ((t.groups[j]?).map Group.holds).bind (fun hs => hs.findSome? (Hold.next? n)) with
    | some (cnt, only) =>
      { t with barriers := modNth (·.arrive (some j) cnt now) n t.barriers }.modGroup j
        (fun g =>
          let rest := g.holds.eraseP (fun h => (Hold.next? n h).isSome)
          { g with holds := if only then rest else rest ++ [Hold.bar n false cnt false] })
    | none => t) t

/-- The phase of barrier n is complete: its count reaches or passes E (R243). -/
def Team.phaseDone (t : Team) (n : Nat) : Bool :=
  let b := (t.barriers[n]?).getD .fresh
  b.count != 0 && (if b.counted then t.liveGroups else b.expect) ≤ b.count

/-- Check a barrier after an arrival or a group's end (R243); arrivals held for the next phase may complete it too. -/
def Team.checkBarrier (t : Team) (n now : Nat) : Nat → Team
  | 0 => t
  | k + 1 => if t.phaseDone n then (t.completePhase n now).checkBarrier n now k else t

/-- Check every barrier. -/
def Team.checkBarriers (t : Team) (now : Nat) : Team := (List.range 16).foldl (fun t n => t.checkBarrier n now 40) t

/-! ## Reconvergence barriers and the end of a clause -/

/-- Release every K barrier all of whose members are parked on it or have exited (R68). -/
def Group.releaseK (g : Group) : Group :=
  (List.range 8).foldl (fun (g : Group) k =>
    let mask := g.kmask.getD k 0
    if mask != 0 && mask.lanes.all (fun l => !(g.thread l).live || (g.thread l).parked == some k) then
      mask.lanes.foldl (fun (g : Group) l => g.modThread l (fun th =>
        if th.parked = some k then { th with parked := none } else th)) g
    else g) g

/-- A team all of whose live groups have arrived at SBAR since its last swap has arrived (R168). -/
def Team.sbarDone (t : Team) : Bool :=
  t.groups.any (·.sbarArrived) && t.groups.all (fun g => g.live == 0 || g.sbarArrived)

/-- Release the groups of a team held at SBAR (R168, R172). -/
def Team.releaseSbar (t : Team) : Team :=
  { t with
    sbarReady := false
    groups := t.groups.map (fun g => { g with
      sbarArrived := false
      holds := g.holds.filter (· != .sbar) }) }

/-- Note the arrival of the whole team at SBAR; a team with W = 0 is released at once (R168). -/
def Team.checkSbar (t : Team) : Team :=
  if t.sbarDone then (if t.lb.win = 0 then t.releaseSbar else { t with sbarReady := true }) else t

/-- The rotation counter after an issue (R67). -/
def nextRotation (fromTail same : Bool) (n : Nat) : Nat :=
  if fromTail then 0 else if same then min (n + 1) (2 ^ 32 - 1) else 0

/-- The rotation counter and the tail's turn after an issue of a group (R67, R85): `before` is the tail before it, `turn`
a YIELD, which without a tail entry has no effect here; an issue that a save counted is not counted again (R253). -/
def State.countIssue (s : State) (t gi : Nat) (before : List (Nat × LaneSet × Bool)) (fromTail turn counted : Bool) :
    State :=
  match s.team? t, s.group? t gi with
  | some tm, some g =>
    let after := tailKey (s.frontier tm g)
    let turn := turn && !after.isEmpty
    s.modGroup t gi (fun g => { g with
      rotation := if turn then 0
        else if counted then (if after = before then g.rotation else 0)
        else nextRotation fromTail (after == before) g.rotation
      tailNext := (turn || (g.tailNext && !fromTail)) && !after.isEmpty })
  | _, _ => s

/-- The clauses of a team that have issued no instruction take the team registers in force (R54, R384); in a gate callee the mode
is the callee's (R367). -/
def Team.recapture (tm : Team) : Team :=
  let again := fun (g : Group) (r : ClauseRun) =>
    if r.nominal ≠ 0 then r
    else
      let call := match g.gate with | some k => !k.waiting | none => false
      { r with fpMode := if call then r.fpMode else tm.fpMode, trapVec := tm.trapVec }
  { tm with groups := tm.groups.map (fun g => { g with clause := g.clause.map (again g) }) }

/-- One write of a team register takes effect (R384): a write that issued later and has taken effect already remains. -/
def Team.writeReg (tm : Team) (w : Nat × Nat × Nat) : Team :=
  if w.1 = 0x08 then
    if tm.fpOrder ≤ w.2.1 then { tm with fpMode := bits w.2.2 7 0, fpOrder := w.2.1 } else tm
  else if w.1 = 0x09 then
    if tm.vecOrder ≤ w.2.1 then { tm with trapVec := BitVec.ofNat 64 w.2.2, vecOrder := w.2.1 } else tm
  else tm

/-- The clause in progress of a group ends (R65, R70, R76, R84, R85, R379): results land, next PCs are taken, threads
exit, park or leave trap mode, its writes of team registers take effect (R384), and the rotation counter moves. -/
def endClause (t gi : Nat) (s : State) : State :=
  match s.team? t, s.group? t gi with
  | some tm, some g =>
    match g.clause with
    | none => s
    | some r =>
      let g := settleAll tm gi g
      let g := r.active.lanes.foldl (fun (g : Group) l => g.modThread l (fun th =>
        if r.exited.getLsbD l then { th with live := false, parked := none, idx := 0 }
        else if r.tret.getLsbD l then { th.trapReturn with parked := Map.get? r.parkOn l }
        else { th with pc := Map.get r.targets l r.next, idx := 0, parked := Map.get? r.parkOn l })) g
      let g := { g with clause := none }.releaseK
      let g := if r.yielded then { g with saveNext := tm.request } else g
      let s := s.modGroup t gi (fun _ => g)
      let s := if r.teamWrites.isEmpty then s
        else s.modTeam t (fun tm => (r.teamWrites.foldl Team.writeReg tm).recapture)
      let s := s.countIssue t gi r.tailBefore r.fromTail r.yielded r.counted
      if g.live = 0 then s.modTeam t (fun tm => (tm.checkBarriers (s.core tm.core).cycles).checkSbar) else s
  | _, _ => s

/-! ## Counting executed instructions -/

/-- The checked team that a resident run belongs to. -/
def State.checkedOf (s : State) (tm : Team) : Option Checked :=
  s.checked.find? (fun c => c.part == tm.part && c.record == tm.record && c.asid == tm.asid && c.index == tm.index
    && c.stage < 3)

/-- Change the checked team that a run belongs to. -/
def State.modChecked (s : State) (tm : Team) (f : Checked → Checked) : State :=
  { s with checked := modifyFirst (fun c => c.part == tm.part && c.record == tm.record && c.asid == tm.asid
      && c.index == tm.index && c.stage < 3) f s.checked }

/-- Threads execute an instruction: cnt rises (R335), a callee's budget falls (R367); a trail or third run that passes
its lead's final cnt diverges (R338). -/
def countExec (t gi : Nat) (lanes : LaneSet) (s : State) : State :=
  match s.team? t, s.group? t gi with
  | some tm, some g =>
    let s := s.modGroup t gi (fun g => lanes.lanes.foldl (fun (g : Group) l =>
      let counts := tm.mode != .unchecked && !g.inLogged l
      let call := g.inCall l
      g.modThread l (fun th => { th with
        cnt := if counts then th.cnt + 1 else th.cnt
        budget := if call then th.budget - 1 else th.budget })) g)
    if tm.mode = .trail ∨ tm.mode = .third then
      match (s.checkedOf tm).bind (·.lead) with
      | some r =>
        if lanes.lanes.any (fun l => r.cnts.getD (32 * gi + l) 0 ≤ (g.thread l).cnt && !g.inLogged l) then
          s.modTeam t (fun x => { x with diverged := true })
        else s
      | none => s
    else s
  | _, _ => s

end Sys2Proof.Machine
end

