-- ==== Sys2Proof/Machine/Operands.lean ====
section
/-! DEFINITION. Operand forms and the common frame of an instruction (R16, R20, R21, R32, R74–R77): which threads
execute, which block or trap on their sources, what each thread reads, when its writes become visible, and how the
instruction retires. -/

namespace Sys2Proof.Machine

/-- What one thread makes of an instruction: register words, predicates, raised flags, or a trap with its detail. -/
structure LaneOut where
  regs : List (Nat × Word) := []
  preds : List (Nat × Bool) := []
  flags : BitVec 5 := 0
  trap : Option (Nat × Nat) := none

/-- What an instruction sees when it executes: the team, its group at the nominal cycle, the clause, its fields and the
threads that execute it. -/
structure View where
  t : Nat
  team : Team
  gi : Nat
  g : Group
  run : ClauseRun
  f : Fields
  form : Form
  lanes : LaneSet

/-- The team and group of the current issuer, with a clause in progress. -/
def State.issuing (s : State) : Option (Nat × Nat × Team × Group × ClauseRun) :=
  match s.cur with
  | .sequencer _ => none
  | .group t gi =>
    match s.team? t, s.group? t gi with
    | some tm, some g => g.clause.map (fun r => (t, gi, tm, g, r))
    | _, _ => none

/-! ## Reading sources -/

/-- The registers an instruction reads, each with its TE bit, in the order A, B, C (R20). -/
def sources (f : Fields) (k : Form) : List (Nat × Bool) :=
  let one := fun (kind : OperandKind) (x : Nat) (te : Bool) =>
    if kind.readable then (kind.registers x).map (fun r => (r, te)) else []
  one k.a f.a.toNat (f.te.getLsbD 0) ++ one k.b f.b.toNat (f.te.getLsbD 1) ++ one k.c f.c.toNat (f.te.getLsbD 2)

/-- The number an operand of a kind holds for a lane: a register, a pair or a quad, low word first (R92). -/
def View.operand (v : View) (kind : OperandKind) (x l : Nat) : Nat :=
  let w := fun n => (readReg v.team v.gi v.g (x + n) l).toNat
  match kind with
  | .reg => w 0
  | .pair => w 0 + w 1 * 2 ^ 32
  | .quad => w 0 + w 1 * 2 ^ 32 + w 2 * 2 ^ 64 + w 3 * 2 ^ 96
  | _ => x

/-- Source A of a lane. -/
def View.a (v : View) (l : Nat) : Nat := v.operand v.form.a v.f.a.toNat l

/-- The literal as it would stand in a 32-bit register, if B holds one (R21). -/
def View.lit (v : View) : Option Nat := v.f.lit.map (·.toNat)

/-- Source B of a lane, read as a 32-bit value or a register group; a literal stands for it (R21). -/
def View.b (v : View) (l : Nat) : Nat := (v.lit).getD (v.operand v.form.b v.f.b.toNat l)

/-- Source B of a lane as an n-bit operand; a literal is sign-extended for a signed type (R21). -/
def View.bInt (v : View) (l n : Nat) (signed : Bool) : Nat :=
  match v.lit with
  | some x => if n = 64 ∧ signed then wrap 64 (sext x 32) else x
  | none => v.operand v.form.b v.f.b.toNat l

/-- Source C of a lane. -/
def View.c (v : View) (l : Nat) : Nat := v.operand v.form.c v.f.c.toNat l

/-- A predicate of a lane (R32). -/
def View.p (v : View) (l n : Nat) : Bool := (v.g.thread l).pred n

/-- The small offset or literal of an address (R119, R159): added modulo 2^32. -/
def View.offset (v : View) : Nat := (v.lit).getD v.f.b.toNat

/-- The words of an n-register result (R92). -/
def wordsOf (x n : Nat) : List Word := (List.range n).map (fun k => BitVec.ofNat 32 (x >>> (32 * k)))

/-- The writes of an n-register result to a destination. -/
def writesOf (d x n : Nat) : List (Nat × Word) :=
  (List.range n).map (fun k => (d + k, BitVec.ofNat 32 (x >>> (32 * k))))

/-- A one-register result. -/
def out32 (v : View) (x : Nat) : LaneOut := { regs := writesOf v.f.d.toNat x 1 }

/-- A result of 32 or 64 bits. -/
def outN (v : View) (x n : Nat) : LaneOut := { regs := writesOf v.f.d.toNat x (n / 32) }

/-! ## Issue -/

/-- The threads for which an instruction's guard is true, among those that take part still (R16). -/
def guarded (g : Group) (r : ClauseRun) (f : Fields) : LaneSet :=
  LaneSet.filter r.active (fun l => (g.thread l).pred f.gp.toNat != f.gn)

/-- The current instruction waits: nothing happens, and the slot's turn passes to something else (R77). -/
def stall (s : State) : Out := .next { s with stalled := true }

/-- A source that some executing thread would block on (R77, R104). -/
def blocked (g : Group) (lanes : LaneSet) (srcs : List (Nat × Bool)) : Bool :=
  srcs.any (fun rt => !rt.2 && (Map.get g.empty rt.1 0 &&& lanes) != 0)

/-- The trap that reading the sources raises in a lane, if any (R77, R104): the first register in the order A, B, C. -/
def readTrap (g : Group) (l : Nat) : List (Nat × Bool) → Option (Nat × Nat)
  | [] => none
  | (r, te) :: rest =>
    if te && (Map.get g.empty r 0).getLsbD l then some (4, r)
    else if (Map.get g.poison r 0).getLsbD l then some (3, r + 256)
    else readTrap g l rest

/-- A thread of the clause in progress traps at the current instruction (R376). -/
def trapHere (v : View) (l : Nat) (cd : Nat × Nat) (s : State) : State :=
  takeTrap v.t v.gi l v.run.trapVec v.run.addr cd.1 v.run.idx cd.2 s

/-- Several threads trap at the current instruction. -/
def trapLanes (v : View) (ls : List (Nat × (Nat × Nat))) (s : State) : State :=
  ls.foldl (fun s lc => trapHere v lc.1 lc.2 s) s

/-- An instruction of a clause has issued in a slot: an ALU- or FPU-class one keeps the slot's vector pipe awake (R390). -/
def State.noteVector (s : State) (t gi : Nat) (header : Word) : State :=
  match s.team? t with
  | some tm =>
    if bits header.toNat 25 23 ≤ 1 then
      s.modCore tm.core (fun c => { c with
        slots := modNth (fun x => { x with lastVector := c.cycles }) (gi % 4) c.slots })
    else s
  | none => s

/-- The current instruction has issued: the next one follows after its issue cycles, and the clause ends after the
last (R74) or when no thread takes part in it any more. -/
def retire (t gi cycles : Nat) (s : State) : State :=
  let s := match (s.group? t gi).bind (·.clause) with | some r => s.noteVector t gi r.header | none => s
  let s := s.modGroup t gi (fun g => { g with clause := g.clause.map (fun r =>
    { r with idx := r.idx + 1, nominal := r.nominal + cycles }) })
  match (s.group? t gi).bind (·.clause) with
  | some r => if r.insns.length < r.idx || r.active == 0 then endClause t gi s else s
  | none => s

/-- Threads in a callee that would execute an instruction with no budget left (R367). -/
def spent (g : Group) (lanes : LaneSet) : LaneSet :=
  LaneSet.filter lanes (fun l => g.inCall l && (g.thread l).budget == 0)

/-- Finish threads of a callee with a status (R367–R369). -/
def finishCall (t gi st : Nat) (lanes : LaneSet) (s : State) : State :=
  lanes.lanes.foldl (fun s l => s.modGroup t gi (fun g =>
    (g.modThread l (fun th => { th with status := some st })).dropLane l)) s

/-- The majors that raise ILLEGAL in a gate callee (R367): BAR, SBAR, JOIN, LEAVE, KSET, KWAIT, EXIT, GATE, LAUNCH,
SPAWN, JADD, CRW, SEQW, SEQR, LDW, STW, STX, LDK, STK, ATOMK and the ENGINE class. -/
def barredInCall (major : Nat) : Bool :=
  [0xBA, 0xA6, 0xA7, 0xA8, 0xB7, 0xB8, 0xB6, 0xC4, 0xBD, 0xBB, 0xBC, 0xC3, 0xC9, 0xCA,
    0xA3, 0xA4, 0xA5, 0xA9, 0xAA, 0xAB].contains major || (0xD0 ≤ major && major ≤ 0xD9)

/-- A team has stopped issuing: its partition's core has stopped (R386), or it waits to be saved (R226, R249). -/
def State.quiesced (s : State) (tm : Team) : Bool :=
  ((s.part tm.part).halted && (s.part tm.part).stopped.contains (s.coreUnit tm)) || tm.fault.isSome || tm.save != 0

/-- A restored team issues nothing yet: an element that its restore brought back has been neither sent to its slice nor performed
(R195), or a fence that was pending at its save is not complete (R204). -/
def State.resending (s : State) (tm : Team) : Bool :=
  tm.resend != 0 && tm.groups.any (fun g =>
    g.pending.any (fun p => p.kind == 0 && p.id < tm.resend) ||
    (g.loads ++ g.stores).any (fun o => o.id < tm.resend && o.elems.any (fun e =>
      !e.done && e.xl.isNone &&
      !s.walks.any (fun w => w.part == tm.part && w.asid == o.asid && w.va >>> 16 == e.va >>> 16))))

/-- The clock of a core's cluster has stopped for a move into or out of the boost pool (R395). -/
def State.clockStopped (s : State) (core : Nat) : Bool :=
  let c := s.cluster (clusterOf core)
  c.stopped && decide (c.stopAt ≤ s.time ∧ s.time < c.stopAt + 2000)

/-- A team issues nothing: it has stopped, what its restore brought back has not been sent, or its core's clock stands (R195,
R204, R226, R249, R255, R386, R395). -/
def State.stopped (s : State) (tm : Team) : Bool := s.quiesced tm || s.resending tm || s.clockStopped tm.core

/-- A pending FENCE of a lane keeps back accesses of the given classes (bit 0 R, bit 1 W, bit 2 E, bit 4 O), and a
pending AFENCE keeps back every access (R203, R210). -/
def Group.fenced (g : Group) (lanes : LaneSet) (classes : Nat) : Bool :=
  g.pending.any (fun p => (p.lanes &&& lanes) != 0 && (p.kind == 1 || (p.kind == 0 && (p.sset &&& classes) != 0)))

/-- The common frame of R32: settle the writes that are visible, find the executing threads, block or trap on their
sources, and hand the rest to the instruction's own effect, which retires it. `read` names the sources that every
executing thread reads. -/
def frameWith (read : Fields → Form → List (Nat × Bool)) (i : Instr) (effect : View → State → Out) (s : State) : Out :=
  match s.issuing, i.fields, i.form with
  | some (t, gi, tm, _, r), some f, some k =>
    if s.stopped tm then stall s
    else
      let s := s.modGroup t gi (settle tm gi r.nominal)
      match s.group? t gi with
      | none => .next s
      | some g =>
        match g.clause with
        | none => .next s
        | some r =>
          let out := spent g (guarded g r f)
          let s := finishCall t gi 5 out s
          let all := guarded g r f &&& ~~~ out
          let barred := if barredInCall i.major then LaneSet.filter all g.inCall else 0
          let lanes := all &&& ~~~ barred
          let srcs := read f k
          if blocked g lanes srcs then stall s
          else
            let traps := barred.lanes.map (fun l => (l, (1, 0))) ++
              lanes.lanes.filterMap (fun l => (readTrap g l srcs).map (fun c => (l, c)))
            let v : View := ⟨t, tm, gi, g, r, f, k, lanes &&& ~~~ LaneSet.ofList (traps.map Prod.fst)⟩
            effect v (trapLanes v traps s)
  | _, _, _ => .next s

/-- The frame of an instruction whose executing threads read every source (R20). -/
def frame (i : Instr) (effect : View → State → Out) (s : State) : Out := frameWith sources i effect s

/-- The values of a destination register over the lanes that write it. -/
def valuesAt (outs : List (Nat × LaneOut)) (place : Nat) : Map Word :=
  outs.filterMap (fun lo => (lo.2.regs[place]?).map (fun rw => (lo.1, rw.2)))

/-- The register at a place of the outputs. -/
def regAt (outs : List (Nat × LaneOut)) (place : Nat) : Option Nat :=
  (outs.findSome? (fun lo => lo.2.regs[place]?)).map Prod.fst

/-- The first destination register whose values satisfy no rule of R97. -/
def shapeFault (v : View) (outs : List (Nat × LaneOut)) : Option Nat :=
  (List.range ((outs.map (fun lo => lo.2.regs.length)).foldl max 0)).findSome? (fun k =>
    match regAt outs k with
    | some reg =>
      if (shapeWrite (v.team.shape v.gi reg) (Map.get v.g.regs reg []) (valuesAt outs k)).isNone then some reg else none
    | none => none)

/-- The injected flip of R444 on the writes of one thread: it applies to the first write of the target register in a run
whose bit is set. -/
def State.injects (s : State) (tm : Team) (gi l reg : Nat) : Bool :=
  match s.target with
  | some x =>
    let w := s.inject.toNat
    x.part == tm.part && x.record == tm.record && x.asid == tm.asid && x.index == tm.index &&
    tm.mode != .unchecked && hasBit (bits w 58 56) tm.copy && !x.done.contains tm.copy &&
    bits w 15 0 == 32 * gi + l && bits w 47 40 == reg
  | none => false

/-- Flip the injected bit in the words that a set of writes gives a register. -/
def flipWord (s : State) (w : Word) : Word := w ^^^ (1#32 <<< bits s.inject.toNat 52 48)

/-- The injection has acted in a run. -/
def State.injected (s : State) (copy : Nat) : State :=
  { s with target := s.target.map (fun x => { x with done := copy :: x.done }) }

/-- Apply the injected flip to the outputs of an instruction (R444), whose writes by themselves satisfy R97. -/
def injectOuts (v : View) (outs : List (Nat × LaneOut)) (s : State) : List (Nat × LaneOut) × State :=
  if outs.any (fun lo => lo.2.trap.isNone && lo.2.regs.any (fun rw => s.injects v.team v.gi lo.1 rw.1)) then
    (outs.map (fun lo => (lo.1, { lo.2 with regs := lo.2.regs.map (fun rw =>
      if s.injects v.team v.gi lo.1 rw.1 then (rw.1, flipWord s rw.2) else rw) })), s.injected v.team.copy)
  else (outs, s)

/-- The outputs of an instruction with the injected flip: a write that by itself fails R97 takes no effect and does not spend
the injection (R98, R444). -/
def injectShaped (v : View) (outs : List (Nat × LaneOut)) (s : State) : List (Nat × LaneOut) × State :=
  if (shapeFault v outs).isSome then (outs, s) else injectOuts v outs s

/-- The floating-point mode under which the clause runs: captured at its start, FPMODE in a callee (R54, R367). -/
def View.fpMode (v : View) : Nat := v.run.fpMode

/-- The cnt of each lane at the instruction, the number executed before it (R336, R329). -/
def cntsOf (tm : Team) (g : Group) (lanes : LaneSet) : Map Nat :=
  if tm.mode = .unchecked then []
  else (lanes.lanes.filter (fun l => !g.inLogged l)).map (fun l => (l, (g.thread l).cnt))

/-- The writes of a fixed-latency instruction enter the clause (R75). -/
def launchWrites (v : View) (lat seq : Nat) (outs : List (Nat × LaneOut)) (g : Group) : Group :=
  let vis := v.run.nominal + lat
  let width := (outs.map (fun lo => lo.2.regs.length)).foldl max 0
  let cnts := cntsOf v.team v.g (LaneSet.ofList (outs.map Prod.fst))
  let flies := (List.range width).filterMap (fun k => (regAt outs k).map (fun reg =>
    ({ seq := seq, vis := vis, kind := 0, reg := reg, vals := valuesAt outs k, cnts := cnts } : Fly)))
  let preds := (outs.findSome? (fun lo => lo.2.preds[0]?)).map (fun pb =>
    ({ seq := seq, vis := vis, pred := pb.1
       lanes := LaneSet.ofList ((outs.filter (fun lo => !lo.2.preds.isEmpty)).map Prod.fst)
       vals := LaneSet.ofList ((outs.filter (fun lo => lo.2.preds.any Prod.snd)).map Prod.fst)
       cnts := cnts } : PredFly))
  { g with clause := g.clause.map (fun r => { r with
      fly := flies.foldl (fun fs w => insertFly w fs) r.fly
      predFly := match preds with | some w => insertPredFly w r.predFly | none => r.predFly }) }

/-- The effect of a fixed-latency instruction: each executing thread computes its output; threads whose output traps,
whose enabled flags are raised (R55) or whose writes fail R97 (R98) trap with no other effect; the others count it, set
their flags and send their writes. -/
def finish (cycles lat : Nat) (k : Nat → LaneOut) (v : View) (s : State) : Out :=
  let outs := v.lanes.lanes.map (fun l => (l, k l))
  let enabled := BitVec.ofNat 5 v.fpMode
  let arith := outs.filter (fun lo => lo.2.trap.isNone && (lo.2.flags &&& enabled) != 0)
  let s := arith.foldl (fun s lo => s.modThread v.t v.gi lo.1 (fun th => { th with fpFlags := th.fpFlags ||| lo.2.flags })) s
  let s := trapLanes v (outs.filterMap (fun lo => lo.2.trap.map (fun c => (lo.1, c)))) s
  let s := trapLanes v (arith.map (fun lo =>
    (lo.1, (5, (v.run.addr % 2 ^ 52) <<< 12 ||| v.run.idx <<< 8 ||| lo.2.flags.toNat)))) s
  let good := outs.filter (fun lo => lo.2.trap.isNone && (lo.2.flags &&& enabled) == 0)
  let (good, s) := injectShaped v good s
  match shapeFault v good with
  | some reg =>
    .next (retire v.t v.gi cycles (trapLanes v (good.map (fun lo => (lo.1, (3, reg)))) s))
  | none =>
    let lanes := LaneSet.ofList (good.map Prod.fst)
    let s := good.foldl (fun s lo =>
      if lo.2.flags = 0 then s
      else s.modThread v.t v.gi lo.1 (fun th => { th with fpFlags := th.fpFlags ||| lo.2.flags })) s
    let s := countExec v.t v.gi lanes s
    let (seq, s) := s.fresh
    .next (retire v.t v.gi cycles (s.modGroup v.t v.gi (launchWrites v lat seq good)))

/-- A fixed-latency instruction given by what each thread computes. -/
def vec (i : Instr) (cycles lat : Nat) (k : View → Nat → LaneOut) (s : State) : Out :=
  frame i (fun v s => finish cycles lat (k v) v s) s

/-! ## Long-latency operations -/

/-- Mark the destinations of a long-latency operation empty (R103): the executing lanes of a G register, every live
thread for U and A. -/
def markEmpty (tm : Team) (gi dst n : Nat) (lanes : LaneSet) (g : Group) : List LaneSet × Group :=
  let marks := (List.range n).map (fun k => if tm.shape gi (dst + k) = 3 then lanes else g.live)
  (marks, (List.range n).foldl (fun (g : Group) k =>
    { g with empty := Map.put g.empty (dst + k) (Map.get g.empty (dst + k) 0 ||| marks.getD k 0)
             poison := Map.put g.poison (dst + k) (Map.get g.poison (dst + k) 0 &&& ~~~ marks.getD k 0) }) g)

/-- Send a long-latency operation with destinations (R77, R103); `results` are the lanes whose value is fixed already. -/
def sendLong (v : View) (id n : Nat) (wait : WaitKind) (lanes : LaneSet) (results : Map (List Word)) (sfu : Bool)
    (flags : Map (BitVec 5)) (s : State) : State :=
  s.modGroup v.t v.gi (fun g =>
    if lanes = 0 then g else
    let (marks, g') := markEmpty v.team v.gi v.f.d.toNat n lanes g
    { g' with ops := g'.ops ++ [{
        id := id, wait := wait, dst := v.f.d.toNat, nregs := n, lanes := lanes, marks := marks
        results := results, landed := 0, cnts := cntsOf v.team v.g lanes, sfu := sfu, flags := flags
        fpMode := v.fpMode, addr := v.run.addr, idx := v.run.idx }] })

end Sys2Proof.Machine
end

