-- ==== Sys2Proof/Machine/Flags.lean ====
section
/-! DEFINITION. Conditions and flags: the comparisons of R83 and R126, the integer types of R124, and the
floating-point mode and flag registers (R53–R55). -/

namespace Sys2Proof.Machine

/-- The width of the types of R124. -/
def t4Width (m : Nat) : Nat := if 2 ≤ m then 64 else 32

/-- The types of R124 that are signed. -/
def t4Signed (m : Nat) : Bool := m % 2 == 0

/-- An n-bit operand read as its type. -/
def readInt (signed : Bool) (n x : Nat) : Int := if signed then sext x n else ((x % 2 ^ n : Nat) : Int)

/-- The least value of an n-bit type. -/
def typeMin (signed : Bool) (n : Nat) : Int := if signed then -(2 ^ (n - 1) : Int) else 0

/-- The greatest value of an n-bit type. -/
def typeMax (signed : Bool) (n : Nat) : Int := if signed then 2 ^ (n - 1) - 1 else 2 ^ n - 1

/-- Clamp to a type's range (R124). -/
def clamp (signed : Bool) (n : Nat) (x : Int) : Int := min (max x (typeMin signed n)) (typeMax signed n)

/-- The conditions of R83: 0 eq, 1 ne, 2 lt, 3 le, 4 gt, 5 ge. -/
def compareInt (cond : Nat) (a b : Int) : Bool :=
  match cond with
  | 0 => a == b
  | 1 => a != b
  | 2 => a < b
  | 3 => a ≤ b
  | 4 => b < a
  | _ => b ≤ a

/-- The floating-point flags a thread has after raising some (R53): sticky. -/
def Thread.raiseFlags (th : Thread) (f : BitVec 5) : Thread := { th with fpFlags := th.fpFlags ||| f }

/-- A write-one-to-clear write of CR_FP_FLAGS (R54). -/
def Thread.clearFlags (th : Thread) (v : Nat) : Thread := { th with fpFlags := th.fpFlags &&& ~~~ BitVec.ofNat 5 v }

end Sys2Proof.Machine
end

