-- ==== Sys2Proof/Machine/Alu.lean ====
section
/-! DEFINITION. Integer, address, logic, shift, bit-field and random-number instructions (R124–R135), and NOP. -/

namespace Sys2Proof.Machine

/-! ## Shared forms -/

/-- Issue cycles and latency of the simple forms: 1 and 2, or 2 and 3 for a 64-bit type (R122). -/
def simple (i : Instr) (wide : Bool) (k : View → Nat → LaneOut) (s : State) : Out :=
  vec i (if wide then 2 else 1) (if wide then 3 else 2) k s

/-- The integer frame of R124 over an exact result. -/
def intResult (v : View) (x : Int) : LaneOut :=
  let m := v.f.minor.toNat
  let n := t4Width m
  outN v (wrap n (if v.f.mod.getLsbD 3 then clamp (t4Signed m) n x else x)) n

/-- Source A as its type. -/
def intA (v : View) (l : Nat) : Int := readInt (t4Signed v.f.minor.toNat) (t4Width v.f.minor.toNat) (v.a l)

/-- Source B as its type, or the literal (R21). -/
def intB (v : View) (l : Nat) : Int :=
  let m := v.f.minor.toNat
  readInt (t4Signed m) (t4Width m) (v.bInt l (t4Width m) (t4Signed m))

/-- Source C as its type. -/
def intC (v : View) (l : Nat) : Int := readInt (t4Signed v.f.minor.toNat) (t4Width v.f.minor.toNat) (v.c l)

/-- A one- or two-source integer operation of 1 or 2 issue cycles. -/
def intSimple (i : Instr) (f : Fields) (op : Int → Int → Int) (s : State) : Out :=
  simple i (2 ≤ f.minor.toNat) (fun v l => intResult v (op (intA v l) (intB v l))) s

/-- A multiplying integer operation (R122). -/
def intMul (i : Instr) (f : Fields) (op : Nat → Int → Int → Int → Int) (s : State) : Out :=
  let wide := 2 ≤ f.minor.toNat
  vec i (if wide then 4 else 1) (if wide then 7 else 4)
    (fun v l => intResult v (op (t4Width f.minor.toNat) (intA v l) (intB v l) (intC v l))) s

/-- The width of a .b32 or .b64 form. -/
def bWidth (f : Fields) : Nat := if f.minor.toNat % 2 = 1 then 64 else 32

/-- A bitwise operation of .b32 or .b64 (R128). -/
def bitOp (i : Instr) (f : Fields) (op : Nat → Nat → Nat → Nat) (s : State) : Out :=
  simple i (bWidth f == 64) (fun v l =>
    outN v (op (v.a l) (v.bInt l (bWidth f) false) (v.c l) % 2 ^ bWidth f) (bWidth f)) s

/-- A shift of .b32 or .b64 by B read as .z32 (R129). -/
def shiftOp (i : Instr) (f : Fields) (op : Nat → Nat → Nat → Nat) (s : State) : Out :=
  simple i (bWidth f == 64) (fun v l => outN v (op (bWidth f) (v.a l) (v.b l)) (bWidth f)) s

/-! ## Meanings -/

/-- NOP (R31): it takes one issue cycle. -/
def execNop (f : Fields) (s : State) : Out := vec (.nop f) 1 0 (fun _ _ => {}) s

/-- IADD (R125). -/
def execIadd (f : Fields) (s : State) : Out := intSimple (.iadd f) f (· + ·) s
/-- ISUB (R125). -/
def execIsub (f : Fields) (s : State) : Out := intSimple (.isub f) f (· - ·) s
/-- IMUL (R125). -/
def execImul (f : Fields) (s : State) : Out := intMul (.imul f) f (fun _ a b _ => a * b) s
/-- IMULH (R125): the floor of the product by 2^n. -/
def execImulh (f : Fields) (s : State) : Out := intMul (.imulh f) f (fun n a b _ => (a * b) / (2 ^ n : Int)) s
/-- IMAD (R125). -/
def execImad (f : Fields) (s : State) : Out := intMul (.imad f) f (fun _ a b c => a * b + c) s
/-- IMIN (R125). -/
def execImin (f : Fields) (s : State) : Out := intSimple (.imin f) f (fun a b => min a b) s
/-- IMAX (R125). -/
def execImax (f : Fields) (s : State) : Out := intSimple (.imax f) f (fun a b => max a b) s
/-- IABS (R125). -/
def execIabs (f : Fields) (s : State) : Out := intSimple (.iabs f) f (fun a _ => a.natAbs) s
/-- INEG (R125). -/
def execIneg (f : Fields) (s : State) : Out := intSimple (.ineg f) f (fun a _ => -a) s

/-- LEA (R127). -/
def execLea (f : Fields) (s : State) : Out :=
  vec (.lea f) 1 3 (fun v l =>
    let b := readInt (f.minor.toNat == 0) 32 (v.b l)
    outN v (wrap 64 ((v.a l : Int) + b * (2 ^ (f.mod.toNat % 8) : Nat))) 64) s

/-- ICMP (R126). -/
def execIcmp (f : Fields) (s : State) : Out :=
  simple (.icmp f) (2 ≤ f.minor.toNat) (fun v l =>
    { preds := [(f.d.toNat, compareInt (f.mod.toNat % 8) (intA v l) (intB v l))] }) s

/-- A byte of a word read as .s8 or .z8. -/
def byteOf (signed : Bool) (x k : Nat) : Int := readInt signed 8 (x >>> (8 * k))

/-- IDOT4 (R134). -/
def execIdot4 (f : Fields) (s : State) : Out :=
  vec (.idot4 f) 1 4 (fun v l =>
    let dot := (List.range 4).foldl (fun (x : Int) k =>
      x + byteOf (!f.minor.getLsbD 0) (v.a l) k * byteOf (!f.minor.getLsbD 1) (v.b l) k) (sext (v.c l) 32)
    out32 v (wrap 32 (if f.mod.getLsbD 3 then clamp true 32 dot else dot))) s

/-- SHL (R129). -/
def execShl (f : Fields) (s : State) : Out :=
  shiftOp (.shl f) f (fun n a k => if n ≤ k then 0 else (a <<< k) % 2 ^ n) s
/-- SHR (R129). -/
def execShr (f : Fields) (s : State) : Out := shiftOp (.shr f) f (fun n a k => if n ≤ k then 0 else a >>> k) s
/-- SAR (R129). -/
def execSar (f : Fields) (s : State) : Out :=
  shiftOp (.sar f) f (fun n a k => wrap n (sext a n / (2 ^ min k (n - 1) : Nat))) s
/-- A rotation to the left by less than the width. -/
def rotl (n a k : Nat) : Nat := ((a <<< k) ||| (a >>> (n - k))) % 2 ^ n
/-- ROT (R129): MINOR 2 and 3 rotate right. -/
def execRot (f : Fields) (s : State) : Out :=
  shiftOp (.rot f) f (fun n a k =>
    if 2 ≤ f.minor.toNat then rotl n a ((n - k % n) % n) else rotl n a (k % n)) s

/-- AND (R128). -/
def execAnd (f : Fields) (s : State) : Out := bitOp (.and f) f (fun a b _ => a &&& b) s
/-- OR (R128). -/
def execOr (f : Fields) (s : State) : Out := bitOp (.or f) f (fun a b _ => a ||| b) s
/-- XOR (R128). -/
def execXor (f : Fields) (s : State) : Out := bitOp (.xor f) f (fun a b _ => a ^^^ b) s
/-- NOT (R128). -/
def execNot (f : Fields) (s : State) : Out := bitOp (.not f) f (fun a _ _ => 2 ^ 64 - 1 - a % 2 ^ 64) s
/-- The complement of a value below 2^64. -/
def not64 (x : Nat) : Nat := 2 ^ 64 - 1 - x % 2 ^ 64
/-- A three-input bitwise function by its truth table (R128): the union of the minterms that the table holds. -/
def lop3 (lut a b c : Nat) : Nat :=
  (List.range 8).foldl (fun x j =>
    if hasBit lut j then
      x ||| ((if hasBit j 2 then a else not64 a) &&& (if hasBit j 1 then b else not64 b) &&&
        (if hasBit j 0 then c else not64 c))
    else x) 0
/-- LOP3 (R128). -/
def execLop3 (f : Fields) (s : State) : Out := bitOp (.lop3 f) f (lop3 f.mod.toNat) s

/-- The number of one bits among the low n. -/
def popCount (x n : Nat) : Nat := ((List.range n).filter (hasBit x)).length
/-- POPC (R130). -/
def execPopc (f : Fields) (s : State) : Out :=
  simple (.popc f) (bWidth f == 64) (fun v l => out32 v (popCount (v.a l) (bWidth f))) s
/-- CLZ (R130): a zero source gives the width. -/
def execClz (f : Fields) (s : State) : Out :=
  simple (.clz f) (bWidth f == 64) (fun v l =>
    out32 v (if v.a l = 0 then bWidth f else bWidth f - 1 - Nat.log2 (v.a l))) s
/-- The low n bits in reversed order. -/
def reverseBits (x n : Nat) : Nat :=
  (List.range n).foldl (fun y j => if hasBit x j then y + 2 ^ (n - 1 - j) else y) 0
/-- BREV (R130). -/
def execBrev (f : Fields) (s : State) : Out :=
  simple (.brev f) (bWidth f == 64) (fun v l => outN v (reverseBits (v.a l) (bWidth f)) (bWidth f)) s

/-- The bit field of BFX (R131): a is extended without end above its width. -/
def extractField (signed : Bool) (n a b : Nat) : Nat :=
  let pos := bits b 7 0
  let len := min (bits b 15 8) n
  if len = 0 then 0
  else
    let e := readInt signed n a / (2 ^ pos : Nat)
    wrap n (readInt signed len (wrap len e))
/-- BFX (R131). -/
def execBfx (f : Fields) (s : State) : Out :=
  let m := f.minor.toNat
  simple (.bfx f) (2 ≤ m) (fun v l => outN v (extractField (t4Signed m) (t4Width m) (v.a l) (v.b l)) (t4Width m)) s
/-- The bit-field insertion of R132. -/
def insertField (n a b c : Nat) : Nat :=
  let pos := bits b 7 0
  let mask := ((2 ^ min (bits b 15 8) n - 1) <<< pos) % 2 ^ n
  (c &&& (2 ^ n - 1 - mask)) ||| ((a <<< pos) &&& mask)
/-- BFI (R132). -/
def execBfi (f : Fields) (s : State) : Out :=
  simple (.bfi f) (bWidth f == 64) (fun v l => outN v (insertField (bWidth f) (v.a l) (v.b l) (v.c l)) (bWidth f)) s
/-- The byte permutation of R133. -/
def permBytes (a b c : Nat) : Nat :=
  (List.range 4).foldl (fun x k =>
    let sel := bits b (4 * k + 3) (4 * k)
    let byte := bits (a + c * 2 ^ 32) (8 * (sel % 8) + 7) (8 * (sel % 8))
    x + (if hasBit sel 3 then (if hasBit byte 7 then 0xFF else 0) else byte) * 2 ^ (8 * k)) 0
/-- BPERM (R133). -/
def execBperm (f : Fields) (s : State) : Out :=
  simple (.bperm f) false (fun v l => out32 v (permBytes (v.a l) (v.b l) (v.c l))) s

/-- The rounds of Philox-4x32 on counter and key (R135). -/
def philox : Nat → Nat × Nat × Nat × Nat → Nat × Nat → Nat × Nat × Nat × Nat
  | 0, c, _ => c
  | n + 1, (c0, c1, c2, c3), (k0, k1) =>
    let p := 0xD2511F53 * c0
    let q := 0xCD9E8D57 * c2
    philox n (bits q 63 32 ^^^ c1 ^^^ k0, bits q 31 0, bits p 63 32 ^^^ c3 ^^^ k1, bits p 31 0)
      ((k0 + 0x9E3779B9) % 2 ^ 32, (k1 + 0xBB67AE85) % 2 ^ 32)
/-- RNG4 (R135). -/
def execRng4 (f : Fields) (s : State) : Out :=
  vec (.rng4 f) 4 14 (fun v l =>
    let a := v.a l
    let b := v.b l
    let (x0, x1, x2, x3) := philox 10 (bits a 31 0, bits a 63 32, bits a 95 64, bits a 127 96) (bits b 31 0, bits b 63 32)
    { regs := writesOf f.d.toNat (x0 + x1 * 2 ^ 32 + x2 * 2 ^ 64 + x3 * 2 ^ 96) 4 }) s

end Sys2Proof.Machine
end

