-- ==== Sys2Proof/Machine/Records.lean ====
section
/-! DEFINITION. Team records, launch blocks, save regions, ready queues, join counters, the end of a team and of a grid,
and the fates of a checked team's held lines (R231–R246, R327–R330, R339–R341). -/

namespace Sys2Proof.Machine

/-! ## Records and launch blocks -/

/-- The fields of a team record (R231). -/
structure Record where
  code : Nat
  prio : Nat
  kind : Bool
  arm : Bool
  q : Bool
  p : Bool
  frame : Nat
  succ : Nat
  join : Nat
  asid : Nat
  reserved : Bool
deriving DecidableEq, Repr

/-- Read a record from its 256-bit value (R231). -/
def Record.parse (x : Nat) : Record where
  code := bits x 51 0
  prio := bits x 55 52
  kind := hasBit x 56
  arm := hasBit x 57
  q := hasBit x 58
  p := hasBit x 59
  frame := bits x 115 64
  succ := bits x 179 128
  join := bits x 223 192
  asid := bits x 255 240
  reserved := bits x 63 60 != 0 || bits x 127 116 != 0 || bits x 191 180 != 0 || bits x 239 224 != 0

/-- A Boolean as a bit. -/
def bit (b : Bool) (k : Nat) : Nat := if b then 2 ^ k else 0

/-- The 256-bit value of a record. -/
def Record.value (r : Record) : Nat :=
  r.code + r.prio * 2 ^ 52 + bit r.kind 56 + bit r.arm 57 + bit r.q 58 + bit r.p 59 + r.frame * 2 ^ 64 +
  r.succ * 2 ^ 128 + r.join * 2 ^ 192 + r.asid * 2 ^ 240

/-- The little-endian number at an offset of a byte list. -/
def field (bs : List Byte) (off n : Nat) : Nat := ofLeBytes ((bs.drop off).take n)

/-- Read a launch block from its 256 bytes (R236). -/
def LaunchBlock.parse (b : List Byte) : LaunchBlock where
  code := field b 0x00 8
  mstream := field b 0x08 8
  gridx := field b 0x10 4
  gridy := field b 0x14 4
  gridz := field b 0x18 4
  groups := field b 0x1C 1
  nprod := field b 0x1D 1
  prio := field b 0x1E 1
  redund := field b 0x1F 1
  budgetp := field b 0x20 4
  budgetc := field b 0x24 4
  slice := field b 0x28 1
  cls := field b 0x29 1
  fpmode := field b 0x2A 1
  tiles := field b 0x2B 1
  flags := field b 0x2C 4
  backw := field b 0x30 4
  priv := field b 0x34 4
  win := field b 0x38 4
  preempt := field b 0x3C 4
  backbase := field b 0x40 8
  savebase := field b 0x48 8
  logbase := field b 0x50 8
  logsize := field b 0x58 8
  slots := field b 0x60 4
  mapp := field b 0x80 64
  mapc := field b 0xC0 64

/-- The budgets of the groups that a team places in a slot (R61, R101). -/
def LaunchBlock.slotBudget (lb : LaunchBlock) (slot : Nat) : Nat :=
  ((List.range lb.groups).filter (· % 4 == slot)).foldl
    (fun n j => n + if j < lb.nprod then lb.budgetp else lb.budgetc) 0

/-- The groups that a team places in a slot (R61). -/
def LaunchBlock.slotGroups (lb : LaunchBlock) (slot : Nat) : Nat :=
  ((List.range lb.groups).filter (· % 4 == slot)).length

/-- Lane-slice bytes that a team takes (R115). -/
def LaunchBlock.sliceBytes (lb : LaunchBlock) : Nat := 64 * lb.slice * 32 * lb.groups

/-- Core-scratchpad bytes that a team takes (R153). -/
def LaunchBlock.padBytes (lb : LaunchBlock) : Nat := lb.priv + 2 * lb.win

/-- Arming refuses the block (R237). -/
def LaunchBlock.refused (lb : LaunchBlock) (recCode : Nat) (raw : List Byte) : Bool :=
  recCode % 128 != 0 || lb.code % 128 != 0 || lb.gridx == 0 || lb.gridy == 0 || lb.gridz == 0 ||
  2 ^ 32 ≤ lb.gridx * lb.gridy * lb.gridz || lb.groups == 0 || 32 < lb.groups || lb.groups < lb.nprod ||
  11 < lb.prio || 11 < lb.redund || 3 < lb.cls || 32 < lb.slice || 64 < lb.tiles || lb.slots == 0 ||
  lb.backw % 64 != 0 || 1 < lb.flags || ((raw.drop 0x64).take 28).any (· != 0) ||
  lb.savebase % 4096 != 0 || lb.priv % 4096 != 0 || lb.win % 16384 != 0 || 131072 < lb.win ||
  (0 < lb.nprod && lb.budgetp < mapSize lb.mapp) || (lb.nprod < lb.groups && lb.budgetc < mapSize lb.mapc) ||
  (List.range 4).any (fun k => 32768 < lb.slotBudget k || 16 < lb.slotGroups k) ||
  0x80000 < lb.sliceBytes || 0x80000 < lb.padBytes

/-- The teams of a grid (R236). -/
def LaunchBlock.teams (lb : LaunchBlock) : Nat := lb.gridx * lb.gridy * lb.gridz

/-- The map size of the role of group j (R95, R100). -/
def LaunchBlock.groupMap (lb : LaunchBlock) (j : Nat) : Nat := if j < lb.nprod then lb.mapp else lb.mapc

/-- The register areas of all groups (R252). -/
def LaunchBlock.regBytes (lb : LaunchBlock) : Nat :=
  (List.range lb.groups).foldl (fun n j => n + roundUp (4 * mapSize (lb.groupMap j)) 64) 0

/-- STRIDE (R252). -/
def LaunchBlock.stride (lb : LaunchBlock) : Nat :=
  roundUp (64 + 4096 + lb.groups * 4096 + lb.regBytes + lb.groups * 32768 + 32 * lb.groups * 64 * lb.slice +
    lb.priv + 2 * lb.win + lb.tiles * 16384) 4096

/-- The address of copy c of the slot of team n (R239). -/
def LaunchBlock.slotAddr (lb : LaunchBlock) (c n : Nat) : Nat :=
  lb.savebase + 4096 + (c * lb.slots + n % lb.slots) * lb.stride

/-- The run copies whose slots the region holds (R238). -/
def LaunchBlock.copies (lb : LaunchBlock) : Nat := if lb.redund = 0 then 1 else 3

/-! ## Accesses of the device itself -/

/-- What the summary record says of a device access that fails (R388): the team record concerned, the address whose
translation fails, and its physical address where it has one. -/
def State.deviceReport (s : State) (p asid record va n : Nat) : UnitFault :=
  let bad := (((pageChunks va n).find? (fun c => (s.pinned 0 p asid c.1).isNone)).map (·.1)).getD va
  let pa := match s.translate 0 p asid bad with | .leaf _ pa _ => pa | _ => 0
  { UnitFault.none with addr := pa, detail := bad, record := record, asid := asid }

/-- Read bytes of the save region, a record or the log area for a team record, through the slices of die 0 (log entry 108); a
page that fails R229 or R232 halts the partition with the given cause. -/
def State.devRead (s : State) (p cause asid record va n : Nat) : List Byte × State :=
  match s.pinRead 0 p asid va n with
  | some bs => (bs, s.pinMeet 0 p { UnitFault.none with record := record, asid := asid } asid va n)
  | none => (List.replicate n 0, s.halt p cause 1023 (s.deviceReport p asid record va n))

/-- Write bytes of the same regions. -/
def State.devWrite (s : State) (p cause asid record va : Nat) (bs : List Byte) : State :=
  match s.pinWrite 0 p asid va bs with
  | some s => s
  | none => s.halt p cause 1023 (s.deviceReport p asid record va bs.length)

/-- Write a little-endian number. -/
def State.devPut (s : State) (p cause asid record va n x : Nat) : State := s.devWrite p cause asid record va (leBytes x n)

/-- Set or clear one bit of a record in memory, and leave its others as they are (R233). -/
def State.recordBit (s : State) (p asid record k : Nat) (on : Bool) : State :=
  let (bs, s) := s.devRead p 2 asid record (record + k / 8) 1
  let b := bs.headD 0
  s.devWrite p 2 asid record (record + k / 8) [if on then b ||| (1#8 <<< (k % 8)) else b &&& ~~~ (1#8 <<< (k % 8))]

/-- The physical address of a record. -/
def State.recordPa (s : State) (p asid va : Nat) : Option Nat := (s.pinned 0 p asid va).map (·.pa)

/-- The grid of a partition whose record stands at a physical address. -/
def State.gridAt (s : State) (p pa : Nat) : Option Grid :=
  s.grids.find? (fun g => g.part == p && s.recordPa p g.asid g.record == some pa)

/-- Change a grid. -/
def State.modGrid (s : State) (p asid rec : Nat) (f : Grid → Grid) : State :=
  { s with grids := modifyFirst (fun g => g.part == p && g.asid == asid && g.record == rec) f s.grids }

/-- The grid of a record. -/
def State.grid? (s : State) (p asid rec : Nat) : Option Grid :=
  s.grids.find? (fun g => g.part == p && g.asid == asid && g.record == rec)

/-- The level of a team: its grid's (R240). -/
def State.levelOf (s : State) (tm : Team) : Nat := ((s.grid? tm.part tm.asid tm.record).map (·.prio)).getD tm.lb.prio

/-! ## Held lines and checked teams -/

/-- A held line belongs to run copy c of a checked team. -/
def HeldLine.of (h : HeldLine) (c : Checked) (copy : Nat) : Bool :=
  h.part == c.part && h.record == c.record && h.asid == c.asid && h.index == c.index && h.copy == copy

/-- Publish one physical line (R354, R356): coverage only widens. -/
def State.publishLine (s : State) (pa scope origin : Nat) : State :=
  let narrow := fun (a b : Nat) => if a = b then 0 else if clusterOf a = clusterOf b then 1
    else if dieOf a = dieOf b then 2 else 3
  let st : PubState := match Map.get? s.pub (pa >>> 7) with
    | some old => ⟨max scope (max old.scope (narrow old.origin origin)), origin⟩
    | none => ⟨scope, origin⟩
  if isDram pa then { s with pub := Map.put s.pub (pa >>> 7) st } else s

/-- Remove the instruction-cache lines recorded for a physical line from every core inside a scope (R354). -/
def State.dropCode (s : State) (pa scope origin : Nat) : State :=
  { s with cores := (List.range s.cores.length).zip s.cores |>.map (fun (c, x) =>
      if (PubState.mk scope origin).covers c then { x with icache := x.icache.filter (fun l => l.pa != pa / 128 * 128) }
      else x) }

/-- A held line is released: its bytes are written at its home under the view of the leaf that stored them (R339, R414), and a
tag publishes it as PUBLISH does (R354, R360). The home of a line in a scrub's range refuses it (R468). -/
def State.releaseLine (s : State) (h : HeldLine) : State :=
  if s.refused h.pa then
    s.halt h.part 2 1023 { UnitFault.none with addr := h.pa, record := h.record, asid := h.asid }
  else
  let s := h.bytes.foldl (fun (s : State) ab => s.homeWrite h.view ab.1 [ab.2]) s
  match h.tag with
  | some t => ((s.recall h.pa 128).publishLine h.pa t.scope t.origin).dropCode h.pa t.scope t.origin
  | none => s

/-- Release one held line of a run (R214, R339); the device does not say which comes first (log entry 92). None is left where
there is none. -/
def State.releaseOne (s : State) (c : Checked) (copy : Nat) : Option State :=
  let mine := s.heldLines.filter (fun h => h.of c copy)
  (mine[Config.victim s.nonce % mine.length]?).map (fun h =>
    { s.releaseLine h with heldLines := s.heldLines.erase h, nonce := s.nonce + 1 })

/-- Discard every held line of a run (R339). -/
def State.discardRun (s : State) (c : Checked) (copy : Nat) : State :=
  { s with heldLines := s.heldLines.filter (fun h => !h.of c copy) }

/-- Write STATUS and REASON of a log area (R330). -/
def State.logStatus (s : State) (c : Checked) (status reason : Nat) : State :=
  s.devWrite c.part 4 c.asid c.record (c.logBase + 2) [BitVec.ofNat 8 status, BitVec.ofNat 8 reason]

/-- Count in one of the six assay counters (R345): 0 checked, 1 match, 2 third, 3 leadlost, 4 traillost, 5 unchk. -/
def State.assayCount (s : State) (k : Nat) : State := { s with assayCounts := modNth (· + 1) k s.assayCounts }

/-- The injection register is disarmed when its target ends or becomes unchecked (R443). -/
def State.disarmFor (s : State) (p record asid index : Nat) : State :=
  match s.target with
  | some x =>
    if x.part == p && x.record == record && x.asid == asid && x.index == index then
      { s with target := none, inject := s.inject &&& ~~~ (1#64 <<< 63) }
    else s
  | none => s

/-! ## Queues, joins, ends -/

/-- The chained operations on records: an entry becomes ready, a team has ended, a checked team becomes unchecked. -/
inductive RecOp where
  | enqueue (p level rec asid : Nat) (grid : Bool)
  | join (p asid rec addend : Nat)
  | ended (p asid rec index : Nat)
  | uncheck (c : Checked) (reason : Nat)
deriving DecidableEq, Repr

/-- Every entry of a record leaves the ready queues of a partition (R234). -/
def Partition.unqueue (x : Partition) (e : Nat × Nat) : Partition :=
  { x with
    rqRead := (x.queues.zip x.rqRead).map (fun qr => (qr.2 + (qr.1.filter (· == e)).length) % 2 ^ 32)
    queues := x.queues.map (·.filter (· != e)) }

/-- A team leaves its core: what it held of the core's port, the shared pipes' requests, the arbiter and the issue policy goes back (R78, R250, R241), its
waiting requests are withdrawn (R391), and a request for it to make room is answered (R240). -/
def State.dropTeam (s : State) (t : Nat) : State :=
  match s.team? t with
  | none => s
  | some tm =>
    let s := s.modCore tm.core (fun c => { c with
      port := match c.port with
        | some x => if x.1 = t then none else some x
        | none => none
      slots := c.slots.map (fun x => { x with
        greedy := x.greedy.filter (fun y => y.1 != t)
        ask := x.ask.filter (fun y => y.2.2.1 != t) }) })
    let s := s.modCluster (clusterOf tm.core) (fun c => { c with
      requests := c.requests.filter (fun r => r.team != t)
      holdings := c.holdings.filter (fun r => !(r.requester == 20 + tm.core % 4 && r.team == t))
      sharing := c.sharing.map (fun g => { g with members := g.members.filter (· != t) }) })
    let s := s.modPart tm.part (fun x => if x.preemptOut = some t then { x with preemptOut := none } else x)
    { s with teams := Map.del s.teams t, answers := s.answers.filter (fun x => x.asker.kind == 3 || x.asker.a != t) }

/-- A resident run of a checked team. -/
def Team.isRun (t : Team) (c : Checked) : Bool :=
  t.part == c.part && t.record == c.record && t.asid == c.asid && t.index == c.index

/-- A saved run of a checked team. -/
def SavedTeam.isRun (t : SavedTeam) (c : Checked) : Bool :=
  t.part == c.part && t.record == c.record && t.asid == c.asid && t.index == c.index

/-- An unchecked run whose held lines are being released (R341): its accesses of global memory wait. -/
def State.releasing (s : State) (tm : Team) : Bool :=
  tm.mode == .unchecked && s.heldLines.any (fun h =>
    h.part == tm.part && h.record == tm.record && h.asid == tm.asid && h.index == tm.index && h.copy == tm.copy)

/-- Bytes that the device writes at a physical address (R227, R234, R388). An address with no home takes none, and neither does
one of a register block, which the device's own writes do not reach: the manual names no outcome there (DESIGN CHOICE, log entry
109). The home of an address in a scrub's range refuses the write (R468). -/
def State.putPhys (s : State) (pa : Nat) (bs : List Byte) : State :=
  match homeOf pa with
  | .nowhere => s
  | .registers => s
  | _ => if s.refused pa then s else s.homeWrite 0 pa bs

/-- An entry of a ring of a partition is written (R227, R234); a refusal at its home is a protection violation (R468). -/
def State.putRing (s : State) (p pa : Nat) (bs : List Byte) : State :=
  if s.refused pa then s.halt p 2 1023 { UnitFault.none with addr := pa } else s.putPhys pa bs

/-- The commands of a run that is abandoned are discarded (R341). -/
def State.dropCommands (s : State) (t : Nat) : State :=
  { s with commands := s.commands.filter (fun c => c.team != t)
           answers := s.answers.filter (fun x => x.asker.kind != 3 || !(s.commands.any (fun c => c.id == x.asker.a && c.team == t))) }

/-- Carry out record operations in order, each of which may add others: enqueuing (R234, R327, R328), additions to join
counters (R233, R244), the end of a team and of its grid (R241), and becoming unchecked (R340, R341): the lead goes on as an
ordinary run, another run is abandoned, and what the lead holds is released by RUN_COMPARE, a line a step (R214; log entry 82).
The first argument bounds the chain, which grids and checked teams bound. -/
def recOps : Nat → List RecOp → State → State
  | 0, _, s => s
  | _, [], s => s
  | n + 1, op :: ops, s =>
    match op with
    | .enqueue p level rec asid grid =>
      let x := s.part p
      let size := 2 ^ (bits (x.rqBase.getD level 0).toNat 51 48 + 6)
      if size ≤ (x.queues.getD level []).length then
        recOps n ops (s.halt p 7 1023 { UnitFault.none with record := rec, asid := asid })
      else
        let s := if (x.queues.getD level []).length < Config.queueOnChip then s
          else s.putRing p ((bits (x.rqBase.getD level 0).toNat 47 12 <<< 12) + 16 * (x.rqWrite.getD level 0 % size))
            (leBytes rec 8 ++ leBytes asid 2 ++ leBytes 0 6)
        let s := s.modPart p (fun x => { x with
          queues := modNth (· ++ [(rec, asid)]) level x.queues
          rqWrite := modNth (fun w => (w + 1) % 2 ^ 32) level x.rqWrite })
        if grid then
          let s := { s with epoch := (s.epoch + 1) % 2 ^ 16 }
          let s := s.modGrid p asid rec (fun g => { g with epoch := s.epoch, armed := false })
          let aged := s.checked.filter (fun c => c.stage < 3 && 2 ^ 14 ≤ (s.epoch + 2 ^ 16 - c.epoch) % 2 ^ 16)
          recOps n (aged.map (fun c => RecOp.uncheck c 6) ++ ops) s
        else recOps n ops s
    | .join p asid rec addend =>
      let (bs, s) := s.devRead p 2 asid rec rec 32
      if (s.part p).halted then recOps n ops s
      else
        let join := ((Record.parse (ofLeBytes bs)).join + addend) % 2 ^ 32
        let s := s.devPut p 2 asid rec (rec + 24) 4 join
        match (s.recordPa p asid rec).bind (s.gridAt p) with
        | some g =>
          if g.armed && join == 0 then
            recOps n (RecOp.enqueue p g.prio g.record g.asid true :: ops) (s.recordBit p asid rec 57 false)
          else recOps n ops s
        | none => recOps n ops s
    | .ended p asid rec index =>
      match s.grid? p asid rec with
      | none => recOps n ops s
      | some g =>
        let s := (List.range g.lb.copies).foldl (fun s c => s.devPut p 4 asid rec (g.lb.slotAddr c index + 40) 4 0) s
        let s := s.devPut p 4 asid rec (g.lb.savebase + 0x0C) 4 (g.ended + 1)
        let s := s.disarmFor p rec asid index
        let s := { s with checked := s.checked.filter (fun c =>
          !(c.part == p && c.record == rec && c.asid == asid && c.index == index)) }
        if g.ended + 1 = g.lb.teams then
          let s := s.devPut p 4 asid rec g.lb.savebase 8 0
          let s := s.recordBit p asid rec 58 false
          let s := { s with grids := s.grids.filter (· != g) }
          if g.succ = 0 then recOps n ops s else recOps n (RecOp.join p asid g.succ (2 ^ 32 - 1) :: ops) s
        else recOps n ops (s.modGrid p asid rec (fun g => { g with ended := g.ended + 1 }))
    | .uncheck c reason =>
      match s.checked.find? (fun x => x == c) with
      | none => recOps n ops s
      | some c =>
        let s := s.assayCount 5
        let s := s.logStatus c 4 reason
        let s := s.disarmFor c.part c.record c.asid c.index
        let gone : Checked → Bool := fun x => x == c
        let finished := c.stage != 0 || c.ended
        let s := { s with checked := modifyFirst gone (fun x =>
          { x with stage := 4, reason := reason, ended := finished, verdict := some ⟨0, 2, []⟩ }) s.checked }
        if s.assayCtl.getLsbD 1 then recOps n ops (s.halt c.part 9 1023
          { UnitFault.none with record := c.record, asid := c.asid })
        else if c.stage = 0 then
          recOps n ops { s with
            teams := s.teams.map (fun kt => if kt.2.isRun c then (kt.1, { kt.2 with mode := .unchecked }) else kt)
            saved := s.saved.map (fun t => if t.isRun c then { t with mode := .unchecked } else t) }
        else
          let slot := c.slotBase + c.stage * c.slots * c.stride
          let s := (s.teams.filter (fun kt => kt.2.isRun c)).foldl (fun s kt => (s.dropTeam kt.1).dropCommands kt.1) s
          let s := (s.saved.filter (·.isRun c)).foldl (fun (s : State) t => s.dropCommands t.key) s
          let s := { s with saved := s.saved.filter (fun t => !t.isRun c) }
          recOps n ops (s.modPart c.part (fun x => { x.unqueue (slot, c.asid) with
            parked := x.parked.filter (fun k => !(k.slot == slot && k.asid == c.asid)) }))

/-- Carry out one record operation with what follows from it. -/
def State.runRec (s : State) (op : RecOp) : State := recOps (4 * (s.grids.length + s.checked.length) + 8) [op] s

/-- A checked run's team becomes unchecked (R340). -/
def State.uncheck (s : State) (tm : Team) (reason : Nat) : State :=
  match s.checkedOf tm with
  | some c => s.runRec (.uncheck c reason)
  | none => s

/-! ## Arming -/

/-- Read a launch block under an identifier: a leaf with V and R suffices; anything else is a protection violation
(R232). -/
def State.readBlock (s : State) (p asid va : Nat) : Option (List Byte) :=
  (pageChunks va 256).foldr (fun c acc =>
    match acc, s.translate 0 p asid c.1 with
    | some bs, .leaf e pa _ =>
      if hasBit e 2 && (isDram pa || homeOf pa == .host) && !s.refused pa then
        some (s.homeBytes (s.viewOf e pa) pa c.2 ++ bs)
      else none
    | _, _ => none) (some [])

/-- The grid whose record stands where an address under an identifier leads: an armed record, or one whose grid has not
completed (R233). -/
def State.gridOf (s : State) (p asid va : Nat) : Option Grid := (s.recordPa p asid va).bind (s.gridAt p)

/-- Arm the record at an address under an identifier (R233, R238, R245): the status and the machine after it. What software has
written to a record since it was armed has no effect: its status is 1 (R233). `unit` and `u` are what a failing access of an
instruction records (R388); a host kick's, on unit 1023, records the device access. -/
def State.arm (s : State) (p trAsid va : Nat) (unit : Nat) (u : UnitFault) : Nat × State :=
  let bad := fun (cause asid x n : Nat) (s : State) =>
    if unit = 1023 ∨ cause = 4 then s.halt p cause 1023 (s.deviceReport p asid va x n)
    else s.halt p cause unit { u with detail := x }
  match s.pinRead 0 p trAsid va 32 with
  | none => (0, bad 2 trAsid va 32 s)
  | some bs =>
    let gone := s.gridOf p trAsid va
    let s := s.pinMeet 0 p u trAsid va 32
    let r := Record.parse (ofLeBytes bs)
    if gone.isSome then (1, s)
    else if r.kind || 11 < r.prio || r.reserved || r.succ % 32 != 0 then (2, s)
    else if r.arm || r.q then (1, s)
    else
      match s.readBlock p r.asid r.frame with
      | none => (0, bad 2 r.asid r.frame 256 s)
      | some raw =>
        let s := s.pinMeet 0 p u r.asid r.frame 256
        let lb := LaunchBlock.parse raw
        if lb.refused r.code raw then (3, s)
        else
          match s.pinRead 0 p r.asid lb.savebase 8 with
          | none => (0, bad 4 r.asid lb.savebase 8 s)
          | some owner =>
            let s := s.pinMeet 0 p u r.asid lb.savebase 8
            if ofLeBytes owner != 0 then (4, s)
            else
              let s := s.devWrite p 4 r.asid va lb.savebase
                (leBytes va 8 ++ leBytes 0 8 ++ leBytes r.succ 8 ++ leBytes r.asid 2 ++ leBytes r.prio 1)
              let s := s.devWrite p 4 r.asid va (lb.savebase + 0x100) raw
              let g : Grid := { part := p, record := va, asid := r.asid, epoch := 0, armed := r.join != 0, code := r.code
                                lb := lb, next := 0, ended := 0, succ := r.succ, prio := r.prio }
              let s := { s with grids := s.grids ++ [g] }
              let s := s.devPut p 2 trAsid va va 32 { r with arm := r.join != 0, q := true }.value
              if r.join = 0 then (0, s.runRec (.enqueue p r.prio va r.asid true)) else (0, s)

end Sys2Proof.Machine
end

