-- ==== Sys2Proof/Machine/Assay.lean ====
section
/-! DEFINITION. What an instruction of a checked run adds to its log and its signatures (R326, R329–R331, R335): the
lead appends entries, the trail and the third run take them, and every store element enters the store signature. -/

namespace Sys2Proof.Machine

/-- The 16 bytes of a log entry, and the piece after one of kind 6 (R330). -/
def LogEntry.bytes (e : LogEntry) : List Byte :=
  leBytes e.value 8 ++ leBytes e.thread 2 ++ leBytes e.kind 1 ++ leBytes e.flag 1 ++ leBytes e.cnt 4 ++
  (if e.kind = 6 then e.piece else [])

/-- The run takes its logged values from the log (R326). -/
def Team.replays (t : Team) : Bool := t.mode == .trail || t.mode == .third

/-- An entry enters the log of a checked team's lead (R330); an entry past the end makes the team unchecked (R340). -/
def State.appendLog (s : State) (c : Checked) (e : LogEntry) : State :=
  let place := 0x80 + 3072 * c.groups + 16 * c.used
  let size := if e.kind = 6 then 144 else 16
  if c.logSize < place + size then s.runRec (.uncheck c 1)
  else
    let s := s.devWrite c.part 4 c.asid c.record (c.logBase + place) e.bytes
    let s := s.devPut c.part 4 c.asid c.record (c.logBase + 4) 4 (c.used + size / 16)
    let grown : Checked := { c with used := c.used + size / 16, entries := c.entries ++ [e] }
    { s with checked := modifyFirst (· == c) (fun _ => grown) s.checked }

/-- The lead appends an entry to its log (R329). -/
def addLog (t : Nat) (e : LogEntry) (s : State) : State :=
  match s.team? t with
  | some tm =>
    if tm.mode = .lead then
      match s.checkedOf tm with
      | some c => s.appendLog c e
      | none => s
    else s
  | none => s

/-- The next entry of a thread in a replaying run (R331). -/
def nextEntry (tm : Team) (gi l : Nat) (s : State) : Option LogEntry :=
  (s.checkedOf tm).bind (fun c =>
    (c.entries.filter (fun e => e.thread == 32 * gi + l && e.kind != 6))[((tm.groups[gi]?).map (fun g => (g.thread l).pos)).getD 0]?)

/-- The run has diverged (R331, R338). -/
def State.diverge (s : State) (t : Nat) : State := s.modTeam t (fun x => { x with diverged := true })

/-- A thread takes its next entry, which must be of a kind (R331). -/
def takeLog (t gi l kind : Nat) (s : State) : Nat × State :=
  match s.team? t with
  | some tm =>
    match nextEntry tm gi l s with
    | some e =>
      if e.kind = kind then (e.value, s.modThread t gi l (fun th => { th with pos := th.pos + 1 }))
      else (0, s.diverge t)
    | none => (0, s.diverge t)
  | none => (0, s)

/-- The number that 8-byte words make, low word first. -/
def joinWords : List Nat → Nat
  | [] => 0
  | x :: xs => x % 2 ^ 64 + 2 ^ 64 * joinWords xs

/-- n words of a logged kind for a thread at a count: in a lead the value is logged, in a replaying run it comes from
the log, otherwise it stands as it is (R326, R329). A thread in a logged callee logs nothing (R372). -/
def throughLog (t gi l kind cnt n x : Nat) (s : State) : Nat × State :=
  match s.team? t, s.group? t gi with
  | some tm, some g =>
    if g.inLogged l then (x, s)
    else if tm.replays then
      let (ws, s) := (List.range n).foldl (fun (acc : List Nat × State) _ =>
        let (w, s) := takeLog t gi l kind acc.2
        (acc.1 ++ [w], s)) ([], s)
      (joinWords ws, s)
    else
      (x, (List.range n).foldl (fun s k => addLog t
        { value := bits x (64 * k + 63) (64 * k), thread := 32 * gi + l, kind := kind, flag := 0
          cnt := cnt % 2 ^ 32, piece := [] } s) s)
  | _, _ => (x, s)

/-- The values of the lanes of an instruction, each through the log. -/
def lanesThroughLog (v : View) (kind n : Nat) (lanes : LaneSet) (x : Nat → Nat) (s : State) : Map Nat × State :=
  lanes.lanes.foldl (fun (acc : Map Nat × State) l =>
    let (y, s) := throughLog v.t v.gi l kind (v.g.thread l).cnt n (x l) acc.2
    (acc.1 ++ [(l, y)], s)) ([], s)

/-- A queued access whose result a checked run logs (R329): an atomic, an access of a window or the chip scratchpad, a LAUNCH or
a SPAWN. -/
def LocalOp.logs (o : LocalOp) : Bool := !o.quiet && (o.kind != 0 || o.space != 1)

/-- Entries of one thread stand in program order: in a checked run an instruction of a logged kind waits for the
group's earlier loads and atomics, and its other accesses whose results are logged (R330). -/
def logWaits (tm : Team) (g : Group) : Bool :=
  tm.mode != .unchecked &&
  (!g.loads.isEmpty || g.stores.any (fun o => o.kind == .atom || o.kind == .cas) || g.locals.any (·.logs))

/-- An access of a lane issued before an instruction has a result that the log is still to take (R330). -/
def Group.logsBefore (g : Group) (id lane : Nat) : Bool :=
  (g.loads ++ g.stores.filter (fun o => o.kind == .atom || o.kind == .cas)).any (fun o =>
    o.id < id && o.elems.any (fun e => e.lane == lane && !e.done)) ||
  g.locals.any (fun o => o.logs && o.insn < id && o.elems.any (fun e => e.lane == lane))

/-! ## Store signatures -/

/-- The aligned 8-byte chunks that n bytes at an address touch: address, byte mask, data (R335). -/
def chunksOf (a n data : Nat) : List (Nat × Nat × Nat) :=
  if n = 0 then [] else
  (List.range ((a + n - 1) / 8 + 1 - a / 8)).map (fun k =>
    let base := (a / 8 + k) * 8
    let lo := max a base
    let hi := min (a + n) (base + 8)
    (base, (2 ^ (hi - lo) - 1) <<< (lo - base), (data >>> (8 * (lo - a)) % 2 ^ (8 * (hi - lo))) <<< (8 * (lo - base))))

/-- The hash of one chunk (R335). -/
def chunkHash (space mask addr data : Nat) : Nat :=
  fmix (fmix ((space <<< 60 ||| mask <<< 52 ||| addr) % 2 ^ 64) ^^^ data)

/-- One store element enters a thread's store signature (R335). -/
def Thread.signStore (th : Thread) (space a n data : Nat) : Thread :=
  (chunksOf a n data).foldl (fun th c => { th with ss := rotl64 th.ss 23 ^^^ chunkHash space c.2.1 c.1 c.2.2 }) th

/-- Store elements of lanes enter their signatures: lane, address, size, data (R335); none in an unchecked run or a
logged callee. -/
def signStores (t gi space : Nat) (elems : List (Nat × Nat × Nat × Nat)) (s : State) : State :=
  match s.team? t with
  | some tm =>
    if tm.mode = .unchecked then s
    else s.modGroup t gi (fun g => elems.foldl (fun (g : Group) e =>
      if g.inLogged e.1 then g else g.modThread e.1 (·.signStore space e.2.1 e.2.2.1 e.2.2.2)) g)
  | none => s

end Sys2Proof.Machine
end

