-- ==== Sys2Proof/Machine/Access.lean ====
section
/-! DEFINITION. Accesses that have issued and not performed, and when one of them may perform before an earlier one of its
thread (R178, R179, R190, R196, R199, R200, R203, R210, R212). -/

namespace Sys2Proof.Machine

/-! ## Classes -/

/-- Kinds that read. -/
def MemKind.reads : MemKind → Bool
  | .ld => true
  | .ldq => true
  | .atom => true
  | .cas => true
  | _ => false

/-- Kinds that write. -/
def MemKind.writes : MemKind → Bool
  | .ld => false
  | .ldq => false
  | _ => true

/-- The ordered accesses (R190). -/
def MemKind.ordered : MemKind → Bool
  | .ldq => true
  | .stq => true
  | _ => false

/-- The classes of an element (R196): R 1, W 2, O 16. An LDQ or STQ element is O on a strongly ordered page, R and W on a
normal one, and has them all until its page is known. -/
def MemElem.classes (e : MemElem) (k : MemKind) : Nat :=
  match k with
  | .ld => 1
  | .st => 2
  | .red => 2
  | .atom => 3
  | .cas => 3
  | _ =>
    match e.xl with
    | some x => if hasBit x.leaf 5 then 16 else 3
    | none => 19

/-- The classes of an access of a window, the chip scratchpad or a team record (R196, R215); STX and the core scratchpad take no
part in ordering. -/
def LocalOp.classes (o : LocalOp) : Nat :=
  if o.space = 2 ∨ o.space = 3 ∨ o.space = 5 then (if o.kind = 0 then 1 else if o.kind = 1 then 2 else 3) else 0

/-- An ordered access that is, or may be, one to a strongly ordered page (R190). -/
def MemElem.strict (e : MemElem) : Bool :=
  match e.xl with
  | some x => hasBit x.leaf 5
  | none => true

/-! ## Unperformed accesses -/

/-- Bytes that an access names (R197): space 0 global memory under an identifier, 2 a visible bank of a team, 3 the chip
scratchpad. -/
structure Spot where
  space : Nat
  key : Nat
  first : Nat
  size : Nat
deriving DecidableEq, Repr

/-- Two accesses share a byte of one location. -/
def Spot.meets (a b : Spot) : Bool :=
  a.space == b.space && a.key == b.key && a.first < b.first + b.size && b.first < a.first + a.size

/-- An access of a thread: the number of its instruction, its place in program order; where it waits (0 a load slot, 1 the
store queue, 2 a scratchpad queue; 3 a fetch) and under which number; its lane, its bytes, whether it reads and writes, and what its
element holds. -/
structure Access where
  id : Nat
  place : Nat
  op : Nat
  lane : Nat
  spot : Spot
  reads : Bool
  writes : Bool
  elem : MemElem
deriving DecidableEq, Repr

/-- An element of global memory as an access. -/
def MemOp.access (place : Nat) (o : MemOp) (e : MemElem) : Access where
  id := o.id
  place := place
  op := o.id
  lane := e.lane
  spot := ⟨0, o.asid, e.va, e.size⟩
  reads := o.kind.reads
  writes := o.kind.writes
  elem := e

/-- An element of a window, the chip scratchpad or a team record as an access; a record is global memory. -/
def LocalOp.access (o : LocalOp) (e : MemElem) : Access where
  id := o.insn
  place := 2
  op := o.id
  lane := e.lane
  spot := ⟨if o.space = 5 then 0 else o.space, o.target, e.va, e.size⟩
  reads := o.kind != 1
  writes := o.kind != 0
  elem := e

/-- The accesses of a group that take part in ordering and have not performed. -/
def Group.waiting (g : Group) : List Access :=
  g.loads.flatMap (fun o => (o.elems.filter (fun e => !e.done)).map (o.access 0)) ++
  g.stores.flatMap (fun o => (o.elems.filter (fun e => !e.done)).map (o.access 1)) ++
  g.locals.flatMap (fun o => if o.classes = 0 then [] else o.elems.map o.access)

/-- An access is ordered before another of its thread by a core edge (R199): not a write before a read of another location,
unless the thread has read that write since. -/
def Access.before (a b : Access) : Bool :=
  a.lane == b.lane && a.id < b.id &&
  (a.reads || b.writes || a.spot.meets b.spot || (a.elem.read != 0 && a.elem.read < b.id))

/-- Two accesses conflict: they share a byte, and one writes. -/
def Access.conflicts (a b : Access) : Bool := a.spot.meets b.spot && (a.writes || b.writes)

/-- Two entries stand for one access. -/
def Access.same (a b : Access) : Bool := a.place == b.place && a.op == b.op && a.lane == b.lane

/-- An access performs before another in the queue of its group that holds both (R162, R166, R173, R178): in the store queue the
earlier entries, and of one entry the lower lanes that share a byte; of the accesses of one window, the chip scratchpad or the
records the earlier ones, and the others of its entry. -/
def Access.queuedBefore (p a : Access) : Bool :=
  p.place == a.place &&
  (match a.place with
   | 1 => p.op < a.op || (p.op == a.op && p.lane < a.lane && p.spot.meets a.spot)
   | 2 => p.spot.space == a.spot.space && p.spot.key == a.spot.key && (p.op < a.op || (p.op == a.op && p.lane != a.lane))
   | _ => false)

/-- Accesses with all those of a list that must perform before one of them. -/
def needed (ws : List Access) : Nat → List Access → List Access
  | 0, as => as
  | n + 1, as =>
    let more := ws.filter (fun p => !as.any p.same && as.any (fun a => p.before a || p.queuedBefore a))
    if more.isEmpty then as else needed ws n (as ++ more)

/-! ## Fences and queues -/

/-- A pending FENCE or AFENCE issued before keeps back an access of a lane with the given classes (R203, R210). -/
def Group.held (g : Group) (id lane classes : Nat) : Bool :=
  g.pending.any (fun p => p.id < id && p.lanes.getLsbD lane &&
    (p.kind == 1 || (p.kind == 0 && (p.sset &&& classes) != 0)))

/-- The bytes of an access lie inside a fence's scope as seen from a team's core (R201): global memory always, a window from
.CLST on, a piece of the chip scratchpad from .DEV on, and from .DIE where the piece lies on the core's die. -/
def State.inScope (s : State) (tm : Team) (scope : Nat) (o : LocalOp) (e : MemElem) : Bool :=
  match o.space with
  | 2 => 1 ≤ scope
  | 3 =>
    let die := if e.va % 2 ^ 26 / 0x40000 < (s.part tm.part).config.pieces0 then 0 else 1
    3 ≤ scope || (scope == 2 && die == dieOf tm.core)
  | _ => true

/-- A pending FENCE or AFENCE keeps back an element of a window, the chip scratchpad or a team record (R173, R203, R210). -/
def State.localHeld (s : State) (tm : Team) (g : Group) (o : LocalOp) (e : MemElem) : Bool :=
  g.pending.any (fun p => p.id < o.insn && p.lanes.getLsbD e.lane &&
    (p.kind == 1 || (p.kind == 0 && (p.sset &&& o.classes) != 0 && s.inScope tm p.scope o e)))

/-- The byte that the group's store queue gives a load of an identifier issued as `before` (R179): none where no store
overlaps, `some none` where an atomic that has not performed does. -/
def Group.queueByte (g : Group) (asid before va : Nat) : Option (Option Byte) :=
  g.stores.reverse.findSome? (fun o =>
    if o.id < before && o.asid == asid then
      (o.elems.reverse.find? (fun e => !e.done && e.va ≤ va && va < e.va + e.size)).map (fun e =>
        match o.kind with
        | .st => some (BitVec.ofNat 8 (e.data >>> (8 * (va - e.va))))
        | .stq => some (BitVec.ofNat 8 (e.data >>> (8 * (va - e.va))))
        | _ => none)
    else none)

/-- No unperformed atomic of the group overlaps a load element, so that its bytes can be had. -/
def Group.queueOpen (g : Group) (o : MemOp) (e : MemElem) : Bool :=
  (List.range e.size).all (fun i => g.queueByte o.asid o.id (e.va + i) != some none)

/-- Two elements share a byte. -/
def MemElem.meets (a b : MemElem) : Bool := a.va < b.va + b.size && b.va < a.va + a.size

/-- It is the turn of a queued access in its group (R162, R166, R173, R244, R245): the core scratchpad and each window take a
group's accesses in issue order; on the chip scratchpad those of one thread, and the elements of one instruction, keep
their order where they share a byte; the elements of one instruction on records perform in ascending lane order. -/
def Group.localTurn (g : Group) (o : LocalOp) : Bool :=
  !(g.locals.takeWhile (fun p => p.id != o.id)).any (fun p =>
    match o.space with
    | 1 => p.space == 1
    | 3 => p.space == 3 && p.elems.any (fun x => o.elems.any (fun y => x.meets y && (p.insn == o.insn || x.lane == y.lane)))
    | 5 => p.space == 5 && p.insn == o.insn
    | 0 => false
    | _ => (p.space == 2 || p.space == 4) && p.target == o.target)

/-! ## Units that still serve -/

/-- A unit of a halted partition that has stopped (R386, R388). -/
def State.unitDown (s : State) (p index : Nat) : Bool := (s.part p).halted && (s.part p).stopped.contains index

/-- The stop-record index of the home of a physical address; a register block has none (R388). -/
def State.homeUnit (s : State) (pa : Nat) : Nat :=
  match homeOf pa with
  | .dram die => 448 + 48 * die + s.homeSlice pa
  | .host => 544
  | _ => 1023

/-- The physical address of an element. -/
def MemElem.pa (e : MemElem) : Nat := ((e.xl.map (·.pa)).getD 0) + e.va % 128

/-- The leaf of an element. -/
def MemElem.leaf (e : MemElem) : Nat := (e.xl.map (·.leaf)).getD 0

/-- An element's core and its home still serve its partition (R386). -/
def State.elemServed (s : State) (tm : Team) (e : MemElem) : Bool :=
  !s.unitDown tm.part (s.coreUnit tm) && (e.xl.isNone || !s.unitDown tm.part (s.homeUnit e.pa))

/-- The home of a team record that an access names has stopped serving the partition (R386). -/
def State.recordDown (s : State) (tm : Team) (o : LocalOp) : Bool :=
  o.space == 5 && o.elems.any (fun e =>
    ((s.pinned 0 tm.part o.target e.va).map (fun x => s.unitDown tm.part (s.homeUnit x.pa))).getD false)

/-- A protection violation that an access of a group's instruction meets after issue (R195, R338, R388): the clause and the index
of the instruction, the lane, the address. -/
def State.accessFault (s : State) (t gi addr idx lane va : Nat) : State :=
  match s.team? t, s.group? t gi with
  | some tm, some g =>
    if tm.replays then s.diverge t
    else s.halt tm.part 2 (s.coreUnit tm) { UnitFault.of tm g addr va (32 * gi + lane) with index := idx }
  | _, _ => s

/-! ## Performing out of order -/

/-- An ordered access up to an instruction may be strongly ordered and has not performed (R190). -/
def Group.strictBefore (g : Group) (id : Nat) : Bool :=
  (g.loads ++ g.stores).any (fun p => p.kind.ordered && p.id ≤ id && p.elems.any (fun x => !x.done && x.strict))

/-- An unperformed access could perform now but for earlier ones of its thread and its queue: no fence keeps it back, its units
serve, its queue is open to it, and strong ordering does not bind it. -/
def State.performable (s : State) (tm : Team) (g : Group) (a : Access) : Bool :=
  match a.place with
  | 0 =>
    match g.loads.find? (fun o => o.id == a.op) with
    | some o =>
      !s.releasing tm && !g.held o.id a.lane (a.elem.classes o.kind) && g.queueOpen o a.elem && s.elemServed tm a.elem &&
      (o.kind == .ld || !g.strictBefore o.id)
    | none => false
  | 1 =>
    match g.stores.find? (fun o => o.id == a.op) with
    | some o =>
      !s.releasing tm && a.elem.xl.isSome && !g.held o.id a.lane (a.elem.classes o.kind) && s.elemServed tm a.elem &&
      (s.core tm.core).port.isNone && (o.kind != .stq || !g.strictBefore o.id)
    | none => false
  | _ =>
    match g.locals.find? (fun o => o.id == a.op) with
    | some o => !s.localHeld tm g o a.elem && !s.unitDown tm.part (s.coreUnit tm) && !s.recordDown tm o
    | none => false

/-- The accesses of the other groups of a core that a later access of their thread has passed. -/
def State.passedOn (s : State) (core t gi : Nat) : List Access :=
  s.teams.flatMap (fun kt =>
    if kt.2.core ≠ core then [] else
    ((List.range kt.2.groups.length).zip kt.2.groups).flatMap (fun jg =>
      if kt.1 = t ∧ jg.1 = gi then [] else jg.2.waiting.filter (·.elem.passed)))

/-- Whether accesses of a group may perform now as far as their threads' earlier accesses go, and those that they then pass
(R199, R200). A core edge binds only the threads of one core. So an access may perform before an earlier access of its thread to
another location that could itself perform now, with what must perform before that one; until those have performed, no other
thread of the core may perform an access that conflicts with one of them. -/
def State.passAll (s : State) (t gi : Nat) (tm : Team) (g : Group) (bs : List Access) : Option (List Access) :=
  let ws := g.waiting.filter (fun a => !bs.any a.same)
  let out := s.passedOn tm.core t gi
  let barred := fun (a : Access) =>
    out.any (·.conflicts a) || ws.any (fun c => c.elem.passed && c.lane != a.lane && c.conflicts a)
  if bs.any barred then none
  else
    let mine := ws.filter (fun a => bs.any a.before)
    if mine.isEmpty then some []
    else
      let as := needed ws ws.length mine
      let fresh := as.filter (fun a => !a.elem.passed)
      if as.all (fun a => bs.all (fun b => !a.spot.meets b.spot)) &&
          fresh.all (fun a => s.performable tm g a && !barred a && fresh.all (fun c => a.lane == c.lane || !a.conflicts c))
      then some fresh else none

/-- The same for one access. -/
def State.passes (s : State) (t gi : Nat) (tm : Team) (g : Group) (b : Access) : Option (List Access) :=
  s.passAll t gi tm g [b]

/-- Mark the elements of a list that an access has passed. -/
def passElems (as : List Access) (place op : Nat) (es : List MemElem) : List MemElem :=
  es.map (fun e => if as.any (fun a => a.place == place && a.op == op && a.lane == e.lane) then { e with passed := true } else e)

/-- An access performs before earlier ones of its group. -/
def Group.pass (g : Group) (as : List Access) : Group :=
  if as.isEmpty then g
  else { g with
    loads := g.loads.map (fun o => { o with elems := passElems as 0 o.id o.elems })
    stores := g.stores.map (fun o => { o with elems := passElems as 1 o.id o.elems })
    locals := g.locals.map (fun o => { o with elems := passElems as 2 o.id o.elems }) }

/-- Whether a queued access of a scratchpad, a window, the chip scratchpad or a record may perform now, and which accesses it
passes: it is its turn, its units serve, a checked run's log is ready for its result, no fence keeps a thread of it back, and each
thread's earlier accesses allow it (R162, R166, R173, R199, R203, R215, R330, R386). -/
def State.localReady (s : State) (t gi : Nat) (tm : Team) (g : Group) (o : LocalOp) : Option (List Access) :=
  if !g.localTurn o || s.unitDown tm.part (s.coreUnit tm) || s.recordDown tm o || (o.space == 5 && s.releasing tm) ||
      (tm.mode != .unchecked && o.logs && o.elems.any (fun e => g.logsBefore o.insn e.lane)) then none
  else if o.classes = 0 then some []
  else if o.elems.any (fun e => s.localHeld tm g o e) then none
  else s.passAll t gi tm g (o.elems.map o.access)

/-- Whether the threads of an entry may fetch its clause as far as their earlier accesses go, and those that the fetch passes: a
fetch is a read of its thread (R196, R199). -/
def State.fetchPasses (s : State) (t gi : Nat) (tm : Team) (g : Group) (pc : Nat) (lanes : LaneSet) : Option (List Access) :=
  s.passAll t gi tm g (lanes.lanes.map (fun l =>
    { id := s.nextId, place := 3, op := 0, lane := l, spot := ⟨0, g.asid, pc, 256⟩, reads := true, writes := false
      elem := ⟨l, pc, 256, 0, 0, 0, none, false, false, 0⟩ }))

end Sys2Proof.Machine
end

