-- ==== Sys2Proof/Machine/Fpu.lean ====
section
/-! DEFINITION. Floating-point arithmetic of the vector pipes: scalar and packed forms, conversions and quantisation
(R136–R142, R146–R150). -/

namespace Sys2Proof.Machine

/-! ## Frames -/

/-- The format of a form with MINOR 0 .f32 and 1 .f64. -/
def formFmt (f : Fields) : Fmt := fmtOf (if f.minor.toNat = 1 then 13 else 14)

/-- The same, as a width. -/
def formWidth (f : Fields) : Nat := if f.minor.toNat = 1 then 64 else 32

/-- The exact widening of a .f32 literal to .f64 (R21), which keeps a NaN's quiet bit. -/
def widenLit (x : Nat) : Nat :=
  match decodeFloat (fmtOf 14) x with
  | .nan _ => (if hasBit x 31 then 2 ^ 63 else 0) + 2047 * 2 ^ 52 + x % 2 ^ 23 * 2 ^ 29
  | .inf n => infBits (fmtOf 13) n
  | .num n m e =>
    if m = 0 then zeroBits (fmtOf 13) n else (roundSat (fmtOf 13) 0 0 false false (FVal.dy (.num n m e))).1

/-- Source B of a floating-point form (R136): an .f64 literal is a binary32 value converted exactly. -/
def fB (v : View) (l : Nat) : Nat :=
  match v.lit with
  | some x => if formWidth v.f = 64 then widenLit x else x
  | none => v.b l

/-- A source flushed under the clause's mode (R49). -/
def fSrc (v : View) (x : Nat) : Nat := flushSource v.fpMode (formFmt v.f) x

/-- MOD 2:0. -/
def rndOf (f : Fields) : Nat := f.mod.toNat % 8

/-- MOD 3. -/
def satOf (f : Fields) : Bool := f.mod.getLsbD 3

/-- A value with its flags as the output of a form. -/
def fOut (v : View) (r : Nat × BitVec 5) : LaneOut := { outN v r.1 (formWidth v.f) with flags := r.2 }

/-- A rounding operation of two sources (R137); C supplies the bits of mode .rs. -/
def fBinary (i : Instr) (f : Fields) (op : Fmt → Nat → Nat → Bool → Bool → Nat → Nat → Nat × BitVec 5) (s : State) : Out :=
  let wide := formWidth f == 64
  vec i (if wide then 2 else 1) (if wide then 6 else 4) (fun v l =>
    fOut v (op (formFmt f) (rndOf f) (if rndOf f = 4 then v.c l else 0) (satOf f) (flushes v.fpMode (formFmt f))
      (fSrc v (v.a l)) (fSrc v (fB v l)))) s

/-! ## Scalar forms -/

/-- FADD (R137). -/
def execFadd (f : Fields) (s : State) : Out := fBinary (.fadd f) f fAdd s
/-- FSUB (R137). -/
def execFsub (f : Fields) (s : State) : Out := fBinary (.fsub f) f fSub s
/-- FMUL (R137). -/
def execFmul (f : Fields) (s : State) : Out := fBinary (.fmul f) f fMul s

/-- FFMA (R137, R52). -/
def execFfma (f : Fields) (s : State) : Out :=
  let wide := formWidth f == 64
  vec (.ffma f) (if wide then 2 else 1) (if wide then 6 else 4) (fun v l =>
    fOut v (fFma (formFmt f) (rndOf f) (satOf f) (flushes v.fpMode (formFmt f))
      (fSrc v (v.a l)) (fSrc v (fB v l)) (fSrc v (v.c l)))) s

/-- FMIN and FMAX (R138). -/
def fSelect (i : Instr) (f : Fields) (larger : Bool) (s : State) : Out :=
  let wide := formWidth f == 64
  vec i (if wide then 2 else 1) (if wide then 3 else 2) (fun v l =>
    fOut v (fMinMax (formFmt f) larger (fSrc v (v.a l)) (fSrc v (fB v l)))) s
/-- FMIN (R138). -/
def execFmin (f : Fields) (s : State) : Out := fSelect (.fmin f) f false s
/-- FMAX (R138). -/
def execFmax (f : Fields) (s : State) : Out := fSelect (.fmax f) f true s

/-- FCMP (R139). -/
def execFcmp (f : Fields) (s : State) : Out :=
  let wide := formWidth f == 64
  vec (.fcmp f) (if wide then 2 else 1) (if wide then 3 else 2) (fun v l =>
    let r := fCompare (formFmt f) (f.mod.toNat % 8) (fSrc v (v.a l)) (fSrc v (fB v l))
    { preds := [(f.d.toNat, r.1)], flags := r.2 }) s

/-- FCLASS (R140). -/
def execFclass (f : Fields) (s : State) : Out :=
  let wide := formWidth f == 64
  vec (.fclass f) (if wide then 2 else 1) (if wide then 3 else 2) (fun v l =>
    out32 v (fClass (formFmt f) (v.a l))) s

/-- FRND (R141). -/
def execFrnd (f : Fields) (s : State) : Out :=
  let wide := formWidth f == 64
  vec (.frnd f) (if wide then 2 else 1) (if wide then 6 else 4) (fun v l =>
    fOut v (fRound (formFmt f) (rndOf f) (fSrc v (v.a l)))) s

/-! ## Packed 16-bit forms -/

/-- The format of a packed form (R142). -/
def halfFmt (f : Fields) : Fmt := fmtOf (if f.minor.toNat = 1 then 16 else 15)

/-- A packed form over its two elements (R142). -/
def packedHalf (i : Instr) (f : Fields) (op : Fmt → Nat → Bool → Bool → Nat → Nat → Nat → Nat × BitVec 5) (s : State) : Out :=
  vec i 1 4 (fun v l =>
    let fmt := halfFmt f
    let elem := fun (x j : Nat) => flushSource v.fpMode fmt (bits x (16 * j + 15) (16 * j))
    let one := fun j => op fmt (rndOf f) (satOf f) (flushes v.fpMode fmt) (elem (v.a l) j) (elem (v.b l) j) (elem (v.c l) j)
    let x := one 0
    let y := one 1
    { out32 v (x.1 + y.1 * 2 ^ 16) with flags := x.2 ||| y.2 }) s

/-- HFMA2 (R142). -/
def execHfma2 (f : Fields) (s : State) : Out := packedHalf (.hfma2 f) f fFma s
/-- HADD2 (R142). -/
def execHadd2 (f : Fields) (s : State) : Out :=
  packedHalf (.hadd2 f) f (fun fmt m sat fl a b _ => fAdd fmt m 0 sat fl a b) s
/-- HMUL2 (R142). -/
def execHmul2 (f : Fields) (s : State) : Out :=
  packedHalf (.hmul2 f) f (fun fmt m sat fl a b _ => fMul fmt m 0 sat fl a b) s

/-! ## Conversions -/

/-- The bits of a type code of R24. -/
def codeBits (code : Nat) : Nat :=
  if code = 12 then 128
  else if code = 3 ∨ code = 7 ∨ code = 11 ∨ code = 13 then 64
  else if code = 2 ∨ code = 6 ∨ code = 10 ∨ code = 14 then 32
  else if code = 1 ∨ code = 5 ∨ code = 9 ∨ code = 15 ∨ code = 16 then 16
  else if code = 19 ∨ code = 20 then 6
  else if code = 21 then 4
  else 8

/-- An integer type code. -/
def codeInt (code : Nat) : Bool := code ≤ 7

/-- A signed integer type code. -/
def codeSigned (code : Nat) : Bool := code ≤ 3

/-- The quiet NaN that a NaN of one format becomes in another (R47, R51). In a format with a wider mantissa the payload
keeps its place below the quiet bit, with zeros under it: R51 gives the narrowing case alone (DESIGN CHOICE, log
entry 90). -/
def convertNan (src dst : Fmt) (x : Nat) : Nat × BitVec 5 :=
  let nv := if (decodeFloat src x).isSnan then flagNV else 0
  let neg := hasBit x (src.e + src.m)
  if dst.kind = 2 then (0, flagNV)
  else if dst.kind = 1 then ((if neg then 0x80 else 0) + 0x7F, nv)
  else
    let m := x % 2 ^ src.m
    let m := if dst.m ≤ src.m then m >>> (src.m - dst.m) else m <<< (dst.m - src.m)
    (infBits dst neg + (m ||| 2 ^ (dst.m - 1)), nv)

/-- An infinity converted (R47). -/
def convertInf (dst : Fmt) (sat neg : Bool) : Nat × BitVec 5 :=
  if dst.kind = 0 then (if sat then maxBits dst neg else infBits dst neg, 0)
  else if dst.kind = 1 then (if sat then maxBits dst neg else (if neg then 0x80 else 0) + 0x7F, flagNV)
  else (maxBits dst neg, flagNV)

/-- A rounded integer clamped to its type (R48): the rounding raises inexact (R44), the clamp invalid. -/
def convertToInt (code mode r : Nat) (v : FVal) : Nat × BitVec 5 :=
  let n := codeBits code
  let signed := codeSigned code
  match v with
  | .nan _ => (0, flagNV)
  | .inf neg => (wrap n (if neg then typeMin signed n else typeMax signed n), flagNV)
  | .num neg m e =>
    let (q, inexact) := if m = 0 then (0, false)
      else if 0 ≤ e then (m * pow2 (min e 2000), false)
      else roundInt mode r neg m e
    let x : Int := if neg then -(q : Int) else q
    let y := clamp signed n x
    (wrap n y, (if y ≠ x then flagNV else 0) ||| (if inexact then flagNX else 0))

/-- A float converted to .e8m0 (R47, R48). -/
def convertToScale (mode : Nat) (sat : Bool) (v : FVal) : Nat × BitVec 5 :=
  match v with
  | .nan _ => (0xFF, flagNV)
  | .inf neg => (if sat ∧ !neg then 0xFE else 0xFF, flagNV)
  | .num neg m e =>
    if neg ∨ m = 0 then (0xFF, flagNV)
    else
      let top := Nat.log2 m
      let j : Int := top + e
      let exact := m == 2 ^ top
      let k := match mode with
        | 0 => if 2 * m < 3 * 2 ^ top then j else j + 1
        | 3 => if exact then j else j + 1
        | _ => j
      let nx := if exact then 0 else flagNX
      if k < -127 then (0, flagUF ||| flagNX)
      else if 127 < k then (if sat then 0xFE else 0xFF, flagOF ||| flagNX)
      else ((k + 127).toNat, nx)

/-- CVT of a source value (R146–R148): type codes of destination and source, mode, the bits of .rs, SAT, CR_FP_MODE. -/
def convert (dst src mode r : Nat) (sat : Bool) (fpMode x : Nat) : Nat × BitVec 5 :=
  if codeInt src then
    let value := readInt (codeSigned src) (codeBits src) x
    if codeInt dst then
      let n := codeBits dst
      let y := wrap n (if sat then clamp (codeSigned dst) n value else value)
      (wrap (max n 32) (readInt (codeSigned dst) n y), 0)
    else if value = 0 then (0, 0)
    else roundSat (fmtOf dst) mode r sat (flushes fpMode (fmtOf dst)) ⟨value, 0, false⟩
  else if src = 22 then
    let k := x % 256
    if dst = 22 then (k, 0)
    else if k = 0xFF then (qnan (fmtOf dst), if (fmtOf dst).kind = 2 then flagNV else 0)
    else roundSat (fmtOf dst) mode r sat (flushes fpMode (fmtOf dst)) ⟨1, (k : Int) - 127, false⟩
  else
    let fs := fmtOf src
    let x := flushSource fpMode fs (x % 2 ^ fs.width)
    let v := decodeFloat fs x
    if codeInt dst then
      let (y, fl) := convertToInt dst mode r v
      (wrap (max (codeBits dst) 32) (readInt (codeSigned dst) (codeBits dst) y), fl)
    else if dst = 22 then convertToScale mode sat v
    else
      let fd := fmtOf dst
      match v with
      | .nan sig => if src = dst then (quiet fs x, if sig then flagNV else 0) else convertNan fs fd x
      | .inf neg => if src = dst then (x, 0) else convertInf fd sat neg
      | .num neg m e =>
        if m = 0 then (zeroBits fd neg, 0)
        else roundSat fd mode r sat (flushes fpMode fd) (FVal.dy (.num neg m e))

/-- CVT (R147). -/
def execCvt (f : Fields) (s : State) : Out :=
  let dst := f.minor.toNat
  let src := f.c.toNat
  let wide := isWideCode dst || isWideCode src
  vec (.cvt f) (if wide then 2 else 1) (if wide then 5 else 4) (fun v l =>
    let r := convert dst src (rndOf f) (if rndOf f = 4 then v.b l else 0) (satOf f) v.fpMode (v.a l)
    { outN v r.1 (if isWideCode dst then 64 else 32) with flags := r.2 }) s
where
  /-- A 64-bit type code. -/
  isWideCode (c : Nat) : Bool := codeBits c == 64

/-- The source format that MINOR 6:5 selects (R148, R149). -/
def quantSource (f : Fields) : Fmt :=
  fmtOf (if f.minor.toNat / 32 = 0 then 14 else if f.minor.toNat / 32 = 1 then 15 else 16)

/-- A value divided by a block scale and saturated into an element type (R149). -/
def quantise (dst : Nat) (fs : Fmt) (mode r fpMode x k : Nat) : Nat × BitVec 5 :=
  let v := decodeFloat fs (flushSource fpMode fs (x % 2 ^ fs.width))
  let bits := flushSource fpMode fs (x % 2 ^ fs.width)
  if k = 0xFF then
    (if dst = 0 then (0, flagNV)
     else if (fmtOf dst).kind = 2 then (0, flagNV) else (qnan (fmtOf dst), 0))
  else
    match v with
    | .nan _ => if dst = 0 then (0, flagNV) else convertNan fs (fmtOf dst) bits
    | .inf neg => if dst = 0 then (wrap 8 (if neg then -128 else 127), flagNV) else convertInf (fmtOf dst) true neg
    | .num neg m e =>
      let e := e + 127 - k
      if dst = 0 then convertToInt 0 mode r (.num neg m e)
      else if m = 0 then (zeroBits (fmtOf dst) neg, 0)
      else roundSat (fmtOf dst) mode r true (flushes fpMode (fmtOf dst)) (FVal.dy (.num neg m e))

/-- CVTQ (R149). -/
def execCvtq (f : Fields) (s : State) : Out :=
  let dst := f.minor.toNat % 32
  vec (.cvtq f) 1 4 (fun v l =>
    let r := quantise dst (quantSource f) (rndOf f) (if rndOf f = 4 then v.c l else 0) v.fpMode (v.a l) (v.b l % 256)
    { out32 v (if dst = 0 then wrap 32 (sext r.1 8) else r.1) with flags := r.2 }) s

/-- The largest exponent of an element type (R148). -/
def emaxOf (code : Nat) : Nat := if code = 17 then 8 else if code = 18 then 15 else if code = 19 then 4 else 2

/-- The block scale of a magnitude (R148). -/
def blockScale (code : Nat) (v : FVal) : Nat × BitVec 5 :=
  match v with
  | .nan sig => (0xFF, if sig then flagNV else 0)
  | .inf _ => (0xFF, flagNV)
  | .num _ m e =>
    if m = 0 then (0x7F, 0)
    else ((max 0 (min 254 ((Nat.log2 m : Int) + e - emaxOf code + 127))).toNat, 0)

/-- SCLX (R148). -/
def execSclx (f : Fields) (s : State) : Out :=
  vec (.sclx f) 1 4 (fun v l =>
    let fs := quantSource f
    let r := blockScale (f.minor.toNat % 32) (decodeFloat fs (flushSource v.fpMode fs (v.a l % 2 ^ fs.width)))
    { out32 v r.1 with flags := r.2 }) s

/-- The format that MINOR 1:0 of FSCL selects (R150). -/
def fsclFmt (f : Fields) : Fmt :=
  fmtOf (match f.minor.toNat % 4 with | 0 => 14 | 1 => 13 | 2 => 15 | _ => 16)

/-- A value scaled by a power of two (R150). -/
def scaleValue (fmt : Fmt) (e8 : Bool) (mode r : Nat) (sat flush : Bool) (a b : Nat) : Nat × BitVec 5 :=
  match decodeFloat fmt a with
  | .nan sig => (quiet fmt a, if sig then flagNV else 0)
  | v =>
    if e8 ∧ b % 256 = 255 then (qnan fmt, 0)
    else if v.isInf ∨ v.isZero then (a, 0)
    else
      let n : Int := if e8 then (b % 256 : Nat) - 127 else sext b 32
      roundSat fmt mode r sat flush (v.dy.scale n)

/-- FSCL (R150). -/
def execFscl (f : Fields) (s : State) : Out :=
  let wide := f.minor.toNat % 4 == 1
  vec (.fscl f) (if wide then 2 else 1) (if wide then 6 else 4) (fun v l =>
    let fmt := fsclFmt f
    let r := scaleValue fmt (f.minor.getLsbD 2) (rndOf f) (if rndOf f = 4 then v.c l else 0) (satOf f)
      (flushes v.fpMode fmt) (flushSource v.fpMode fmt (v.a l % 2 ^ fmt.width)) (v.b l)
    { outN v r.1 (if wide then 64 else 32) with flags := r.2 }) s

end Sys2Proof.Machine
end

