-- ==== Sys2Proof/Machine/Local.lean ====
section
/-! DEFINITION. The explicitly addressed arrays: core scratchpad, cluster windows and sharing groups, chip scratchpad
(R153–R173), and lane slices with their backing store (R115–R120). The accesses of the arrays wait in their group's queue and
perform by RESULT_LANDS. -/

namespace Sys2Proof.Machine

/-! ## Elements -/

/-- The bytes of an element of a type code. -/
def elemBytes (code : Nat) : Nat := codeBits code / 8

/-- A loaded element extended to its registers (R159). -/
def extendLoad (code x : Nat) : Nat :=
  if code = 0 then wrap 32 (sext x 8) else if code = 1 then wrap 32 (sext x 16) else x

/-- The new value of a read-modify-write (R163): memory value m, operand v, compare value e. -/
def atomicNew (code op m v e : Nat) : Nat :=
  let n := codeBits code
  let signed := codeSigned code
  match op with
  | 0 => if code = 14 then (fAdd (fmtOf 14) 0 0 false false m v).1 else (m + v) % 2 ^ n
  | 1 => if readInt signed n v < readInt signed n m then v else m
  | 2 => if readInt signed n m < readInt signed n v then v else m
  | 3 => m &&& v
  | 4 => m ||| v
  | 5 => m ^^^ v
  | 6 => v
  | _ => if m = e then v else m

/-- Which array a local access reaches, after its checks (R158). -/
inductive Reach where
  | pad (offset : Nat)
  | window (team offset : Nat)
  | chip (address : Nat)
  | away
deriving DecidableEq, Repr

/-- The address of an element (R159). -/
def localAddr (v : View) (l : Nat) : Nat := (v.a l + v.offset) % 2 ^ 32

/-- LOCAL_ACCESS with its detail (R375). -/
def localTrap (x code : Nat) : Nat × Nat := (12, x * 2 ^ 32 + code)

/-- The callee scratch of a group in a call (R366): its first private byte and its size. -/
def scratchOf (tm : Team) (gi : Nat) : Nat × Nat :=
  match (tm.groups[gi]?).bind (·.gate) with
  | some c => if c.waiting then (0, 0) else (tm.lb.priv - (gi + 1) * c.scratch, c.scratch)
  | none => (0, 0)

/-- A range of private bytes lies in Q and outside every callee scratch (R158, R367). -/
def Team.ownsPad (tm : Team) (x n : Nat) : Bool :=
  x + n ≤ tm.lb.priv &&
  (List.range tm.groups.length).all (fun j =>
    let (b, k) := scratchOf tm j
    k == 0 || x + n ≤ b || b + k ≤ x)

/-- The private bytes that an access of a lane reaches (R155, R158, R367). -/
def padReach (v : View) (_ : State) (l x n : Nat) : Except (Nat × Nat) Reach :=
  if x % n ≠ 0 then .error (6, x)
  else if v.g.inCall l then
    let (b, k) := scratchOf v.team v.gi
    if x + n ≤ k then .ok (.pad (b + x)) else .error (localTrap x 0)
  else if v.team.ownsPad x n then .ok (.pad x)
  else .error (localTrap x 0)

/-- The team whose window stands at a core (R164). -/
def State.windowAt (s : State) (core : Nat) : Option (Nat × Team) :=
  s.teams.find? (fun kt => kt.2.core == core && kt.2.lb.win != 0)

/-- The window bytes that an access reaches (R158, R164, R171). A replaying run reaches no other team's window, since
its results come from the log (R326). -/
def winReach (v : View) (s : State) (_ x n : Nat) : Except (Nat × Nat) Reach :=
  let off := bits x 17 0
  if x % n ≠ 0 then .error (6, x)
  else if v.team.lb.win = 0 then .error (localTrap x 1)
  else if bits x 19 18 = s.position v.team.core then
    if off + n ≤ v.team.lb.win then .ok (.window v.t off) else .error (localTrap x 0)
  else if v.team.replays then .ok .away
  else
    match s.coreAt (clusterOf v.team.core) (bits x 19 18) with
    | none => .error (localTrap x 1)
    | some c =>
      match s.windowAt c with
      | none => .error (localTrap x 1)
      | some (k, o) =>
        if v.team.sharing.isSome && o.sharing == v.team.sharing then
          if off + n ≤ o.lb.win then .ok (.window k off) else .error (localTrap x 0)
        else .error (localTrap x 1)

/-- The chip-scratchpad bytes that an access reaches (R156, R158). -/
def chipReach (v : View) (s : State) (_ x n : Nat) : Except (Nat × Nat) Reach :=
  let cfg := (s.part v.team.part).config
  if x % n ≠ 0 then .error (6, x)
  else if x + n ≤ (cfg.pieces0 + cfg.pieces1) * 0x40000 then .ok (.chip (v.team.part * 2 ^ 26 + x))
  else .error (localTrap x 0)

/-- Read bytes of a visible bank or another array. -/
def readReach (t : Nat) (n : Nat) (s : State) : Reach → Nat
  | .pad o =>
    match s.team? t with
    | some tm => ofLeBytes (padBytes tm.padNonce tm.pad o n)
    | none => 0
  | .window k o =>
    match s.team? k with
    | some tm => ofLeBytes (Memory.getBytes tm.visible o n)
    | none => 0
  | .chip a => ofLeBytes (Memory.getBytes s.kpad a n)
  | .away => 0

/-- Write bytes; a window access to the shadow bank where `shadow`. -/
def writeReach (t : Nat) (shadow : Bool) (bs : List Byte) (s : State) : Reach → State
  | .pad o => s.modTeam t (fun tm => { tm with pad := padPut tm.pad o bs })
  | .window k o => s.modTeam k (fun tm =>
      if shadow then { tm with shadow := Memory.putBytes tm.shadow o bs }
      else { tm with visible := Memory.putBytes tm.visible o bs })
  | .chip a => { s with kpad := Memory.putBytes s.kpad a bs }
  | .away => s

/-- The lanes that pass the checks, with what they reach, and the traps of the others. -/
def splitReach {ρ : Type} (v : View) (reach : Nat → Except (Nat × Nat) ρ) : List (Nat × ρ) × List (Nat × (Nat × Nat)) :=
  (v.lanes.lanes.filterMap (fun l => match reach l with | .ok x => some (l, x) | .error _ => none),
   v.lanes.lanes.filterMap (fun l => match reach l with | .ok _ => none | .error c => some (l, c)))

/-- 8-byte words of an element. -/
def elemWords (code : Nat) : Nat := if codeBits code = 128 then 2 else 1

/-! ## Loads, stores and atomics -/

/-- The space of R197 or the array that a reach names: 1 private bytes, 2 a visible bank, 3 the chip scratchpad, 4 a shadow
bank. -/
def Reach.space (shadow : Bool) : Reach → Nat
  | .pad _ => 1
  | .window _ _ => if shadow then 4 else 2
  | .chip _ => 3
  | .away => 0

/-- The team whose window a reach names. -/
def Reach.target : Reach → Nat
  | .window t _ => t
  | _ => 0

/-- The byte of its array that a reach names. -/
def Reach.first : Reach → Nat
  | .pad o => o
  | .window _ o => o
  | .chip a => a
  | .away => 0

/-- An element joins the queue entry of its instruction for its array and window; on the chip scratchpad it has an entry of
its own (R161, R166, R173). -/
def addLocal (space target : Nat) (e : MemElem) : List (Nat × Nat × List MemElem) → List (Nat × Nat × List MemElem)
  | [] => [(space, target, [e])]
  | x :: xs =>
    if x.1 = space ∧ x.2.1 = target ∧ space ≠ 3 ∧ space ≠ 5 then (space, target, x.2.2 ++ [e]) :: xs
    else x :: addLocal space target e xs

/-- The parts of an instruction enter their group's queue as its entries. -/
def queueLocal (v : View) (insn kind typ aop : Nat) (quiet : Bool) (parts : List (Nat × Nat × List MemElem)) (s : State) :
    State :=
  let ops : List LocalOp := ((List.range parts.length).zip parts).map (fun kp =>
    { id := s.nextId + kp.1, insn := insn, addr := v.run.addr, idx := v.run.idx, space := kp.2.1, kind := kind, typ := typ
      aop := aop, quiet := quiet, target := kp.2.2.1, elems := kp.2.2.2 })
  { s.modGroup v.t v.gi (fun g => { g with locals := g.locals ++ ops }) with nextId := s.nextId + parts.length }

/-- The elements of an instruction enter their group's queue (R160, R163). -/
def sendLocal (v : View) (insn kind aop : Nat) (quiet shadow : Bool) (rs : List (Nat × Reach)) (data cmp : Nat → Nat)
    (s : State) : State :=
  let n := elemBytes v.f.minor.toNat
  let cnts := cntsOf v.team v.g (LaneSet.ofList (rs.map Prod.fst))
  queueLocal v insn kind v.f.minor.toNat aop quiet (rs.foldl (fun ps lr => addLocal (lr.2.space shadow) lr.2.target
    ⟨lr.1, lr.2.first, n, data lr.1 % 2 ^ (8 * n), cmp lr.1 % 2 ^ (8 * n), Map.get cnts lr.1 0, none, false, false, 0⟩ ps) []) s

/-- Load an element per thread (R160): the elements wait in their group's queue. -/
def localLoad (i : Instr) (f : Fields) (long : Nat)
    (reach : View → State → Nat → Nat → Nat → Except (Nat × Nat) Reach) (s : State) : Out :=
  let n := elemBytes f.minor.toNat
  frame i (fun v s0 =>
    let (good, bad) := splitReach v (fun l => reach v s0 l (localAddr v l) n)
    let lanes := LaneSet.ofList (good.map Prod.fst)
    let s := countExec v.t v.gi lanes (trapLanes v bad s0)
    let (id, s) := s.fresh
    .next (retire v.t v.gi (if long ≤ n then 2 else 1)
      (sendLocal v id 0 0 false false good (fun _ => 0) (fun _ => 0)
        (sendLong v id (Forms.typeRegs f.minor.toNat) .none lanes [] false [] s)))) s

/-- Store an element per thread (R160): the elements enter the store signature under a space of R335 and wait in their group's
queue. An instruction takes one issue cycle, or two for .b128; R161 has no row for STW, STX and STK (DESIGN CHOICE, log entry
110). -/
def localStore (i : Instr) (f : Fields) (space : Nat) (shadow : Bool)
    (reach : View → State → Nat → Nat → Nat → Except (Nat × Nat) Reach) (s : State) : Out :=
  let n := elemBytes f.minor.toNat
  frame i (fun v s0 =>
    let (good, bad) := splitReach v (fun l => reach v s0 l (localAddr v l) n)
    let s := trapLanes v bad s0
    let s := signStores v.t v.gi space (good.map (fun lr => (lr.1, localAddr v lr.1, n, v.c lr.1 % 2 ^ (8 * n)))) s
    let s := countExec v.t v.gi (LaneSet.ofList (good.map Prod.fst)) s
    let (id, s) := s.fresh
    .next (retire v.t v.gi (if n = 16 then 2 else 1)
      (sendLocal v id 1 0 true shadow good (fun l => v.c l) (fun _ => 0) s))) s

/-- An atomic on an array (R163): its elements enter the store signature and wait in their group's queue. -/
def localAtomic (i : Instr) (f : Fields) (space : Nat)
    (reach : View → State → Nat → Nat → Nat → Except (Nat × Nat) Reach) (s : State) : Out :=
  let n := elemBytes f.minor.toNat
  let op := f.mod.toNat % 16
  let quiet := f.mod.getLsbD 4
  frame i (fun v s0 =>
    let (good, bad) := splitReach v (fun l => reach v s0 l (v.a l % 2 ^ 32) n)
    let lanes := LaneSet.ofList (good.map Prod.fst)
    let cmp := fun l => v.operand v.form.b v.f.b.toNat l
    let s := trapLanes v bad s0
    let s := signStores v.t v.gi space ((good.map (fun lr =>
      (if op = 7 then [(lr.1, v.a lr.1, n, cmp lr.1)] else []) ++ [(lr.1, v.a lr.1, n, v.c lr.1)])).flatten) s
    let s := countExec v.t v.gi lanes s
    let (id, s) := s.fresh
    let s := if quiet then s else sendLong v id (Forms.typeRegs f.minor.toNat) .none lanes [] false [] s
    .next (retire v.t v.gi (if n = 8 then 2 else 1) (sendLocal v id 2 op quiet false good (fun l => v.c l) cmp s))) s

/-- LDS (R160). -/
def execLds (f : Fields) (s : State) : Out := localLoad (.lds f) f 16 padReach s
/-- STS (R160). -/
def execSts (f : Fields) (s : State) : Out := localStore (.sts f) f 1 false padReach s
/-- ATOMS (R163). -/
def execAtoms (f : Fields) (s : State) : Out := localAtomic (.atoms f) f 1 padReach s
/-- LDW (R165). -/
def execLdw (f : Fields) (s : State) : Out := localLoad (.ldw f) f 16 winReach s
/-- STW (R165). -/
def execStw (f : Fields) (s : State) : Out := localStore (.stw f) f 2 false winReach s
/-- STX (R165). -/
def execStx (f : Fields) (s : State) : Out := localStore (.stx f) f 2 true winReach s
/-- LDK (R173). -/
def execLdk (f : Fields) (s : State) : Out := localLoad (.ldk f) f 8 chipReach s
/-- STK (R173). -/
def execStk (f : Fields) (s : State) : Out := localStore (.stk f) f 3 false chipReach s
/-- ATOMK (R163). -/
def execAtomk (f : Fields) (s : State) : Out := localAtomic (.atomk f) f 3 chipReach s

/-! ## Sharing groups -/

/-- The positions of a sharing group's members (R170). -/
def State.memberMask (s : State) (cluster k : Nat) : Nat :=
  ((((s.cluster cluster).sharing[k]?).map (·.members)).getD []).foldl (fun m t =>
    match s.team? t with
    | some tm => m ||| 2 ^ s.position tm.core
    | none => m) 0

/-- SBAR (R168): the group arrives; it is held from its next clause boundary until the swap. -/
def execSbar (f : Fields) (s : State) : Out :=
  frame (.sbar f) (fun v s =>
    let s := if v.lanes = 0 then s
      else (countExec v.t v.gi v.lanes s).modTeam v.t (fun tm =>
        (tm.modGroup v.gi (fun g => { g with sbarArrived := true, holds := g.holds ++ [.sbar] })).checkSbar)
    .next (retire v.t v.gi 1 s)) s

/-- The window controller of a cluster serves a LEAVE, which arrived before what comes now (R167). -/
def State.leaveAhead (s : State) (cluster : Nat) : Bool :=
  s.teams.any (fun kt => clusterOf kt.2.core == cluster && kt.2.leaving != 0)

/-- JOIN (R170): the request acts once for the team, and every executing thread receives the same status word. While the
controller serves a LEAVE, the JOIN waits at issue (R167; DEDUCED, log entry 95). -/
def execJoin (f : Fields) (s : State) : Out :=
  let k := f.b.toNat
  frame (.join f) (fun v s =>
    if logWaits v.team v.g || s.leaveAhead (clusterOf v.team.core) then stall s
    else if v.lanes = 0 then .next (retire v.t v.gi 1 s)
    else
      let c := clusterOf v.team.core
      let code := if v.team.lb.win = 0 then 3 else
        match v.team.sharing with
        | none => 0
        | some j => if j = k then 1 else 2
      let s := if code = 0 ∧ !v.team.replays then
          (s.modCluster c (fun x => { x with sharing := modNth (fun g => { g with members := g.members ++ [v.t] }) k x.sharing })).modTeam v.t
            (fun tm => { tm with sharing := some k, shadow := [] })
        else s
      let word := s.memberMask c k + code * 256
      let (vals, s) := lanesThroughLog v 4 1 v.lanes (fun _ => word) s
      let s := countExec v.t v.gi v.lanes s
      let (id, s) := s.fresh
      .next (retire v.t v.gi 1
        (sendLong v id 1 .none v.lanes (vals.map (fun lx => (lx.1, wordsOf lx.2 1))) false [] s))) s

/-- LEAVE (R171, R172): the team's leave begins, with its arrival number; LEAVE_COMPLETE ends it. -/
def execLeave (f : Fields) (s : State) : Out :=
  frame (.leave f) (fun v s =>
    let (id, s) := s.fresh
    let s := if v.lanes = 0 then s
      else (countExec v.t v.gi v.lanes s).modTeam v.t (fun tm =>
        if tm.sharing.isSome && !tm.replays && tm.leaving == 0 then { tm with leaving := id } else tm)
    .next (retire v.t v.gi 1 s)) s

/-! ## Lane slices -/

/-- The bytes of a slice access (R116): those in the slice and those in the backing store. -/
structure SliceReach where
  slice : Nat
  inSlice : Nat
  back : Nat
  inBack : Nat
deriving DecidableEq, Repr

/-- A thread's slice access of n bytes at an offset (R116, R117, R367). -/
def sliceReach (v : View) (l o n : Nat) : Except (Nat × Nat) SliceReach :=
  let lb := v.team.lb
  let size := 64 * lb.slice
  let k := ((v.g.gate.map (·.slice)).getD 0) * 64
  if v.g.inCall l then
    if o + n ≤ k then .ok ⟨size - k + o, n, 0, 0⟩ else .error (8, o)
  else if size + lb.backw < o + n then .error (8, o)
  else
    let inS := min n (size - o)
    let first := max o size
    .ok ⟨o, inS, lb.backbase + (v.team.copy * (32 * lb.groups) + 32 * v.gi + l) * lb.backw + (first - size), n - inS⟩

/-- Bytes of a thread's slice; unlisted ones are free (R115). -/
def sliceBytes (tm : Team) (thread o n : Nat) : List Byte :=
  (List.range n).map (fun i =>
    (Map.get? (Map.get tm.slices thread []) (o + i)).getD (Config.freeByte tm.padNonce (2 ^ 20 + 4096 * thread + o + i)))

/-- Write bytes of a thread's slice. -/
def sliceWrite (thread o : Nat) (bs : List Byte) (tm : Team) : Team :=
  { tm with slices := Map.put tm.slices thread (padPut (Map.get tm.slices thread []) o bs) }

/-- The translation of one part of a backing access (R116, R221). An address of 2^52 or more wraps: the manual gives it no fate
(DESIGN CHOICE, log entry 114). -/
def State.backWalk (s : State) (tm : Team) (write : Bool) (va : Nat) : WalkEnd :=
  match s.translate (dieOf tm.core) tm.part tm.asid (va % 2 ^ 52) with
  | .leaf e pa size =>
    if hasBit e (if write then 3 else 2) && !hasBit e 5 && (isDram pa || homeOf pa == .host) && !s.refused pa
    then .leaf e pa size else .violation
  | w => w

/-- The first part of the lanes' backing accesses whose translation fails, in lane order: where several fail the manual does not
say which decides (DESIGN CHOICE, log entry 114). -/
def State.backFault (s : State) (tm : Team) (write : Bool) (rs : List (Nat × SliceReach)) : Option (Nat × WalkEnd) :=
  rs.findSome? (fun lr => (pageChunks lr.2.back lr.2.inBack).findSome? (fun c =>
    match s.backWalk tm write c.1 with
    | .leaf .. => none
    | w => some (c.1, w)))

/-- A home of the lanes' backing accesses has stopped serving the partition (R386). -/
def State.backDown (s : State) (tm : Team) (write : Bool) (rs : List (Nat × SliceReach)) : Bool :=
  rs.any (fun lr => (pageChunks lr.2.back lr.2.inBack).any (fun c =>
    match s.backWalk tm write c.1 with
    | .leaf _ pa _ => s.unitDown tm.part (s.homeUnit pa)
    | _ => false))

/-- Read the backing bytes at their homes as an LD without hits does (R119, R184, R186, R327). -/
def State.backRead (s : State) (tm : Team) (g : Group) (va n : Nat) : List Byte × State :=
  (pageChunks va n).foldl (fun (acc : List Byte × State) c =>
    match acc.2.backWalk tm false c.1 with
    | .leaf e pa _ =>
      let bs := acc.2.homeBytes (acc.2.viewOf e pa) pa c.2
      let s := acc.2.translated (dieOf tm.core) tm.part tm.asid (c.1 % 2 ^ 52)
      let s := if isDram pa then
          let u := UnitFault.of tm g pa c.1 0
          ((s.serve tm.part (s.homeUnit pa) { u with detail := 0 }).readAtHome pa c.2).consume tm.part u pa c.2
        else s
      (acc.1 ++ bs, s)
    | _ => acc) ([], s)

/-- Write the backing bytes at their homes. -/
def State.backWrite (s : State) (tm : Team) (va : Nat) (bs : List Byte) : State :=
  (pageChunks va bs.length).foldl (fun s c =>
    match s.backWalk tm true c.1 with
    | .leaf e pa _ =>
      let s := s.translated (dieOf tm.core) tm.part tm.asid (c.1 % 2 ^ 52)
      let u := { UnitFault.none with addr := pa, record := tm.record, asid := tm.asid }
      (s.serve tm.part (s.homeUnit pa) u).homeWrite (s.viewOf e pa) pa ((bs.drop (c.1 - va)).take c.2)
    | _ => s) s

/-- A protection violation that an instruction of a core meets (R385, R388); it makes a replaying run diverge (R338). -/
def State.violate (s : State) (v : View) (va : Nat) : State :=
  if v.team.replays then s.diverge v.t else s.halt v.team.part 2 (s.coreUnit v.team)
    { UnitFault.of v.team v.g v.run.addr va (32 * v.gi + v.lanes.lanes.headD 0) with index := v.run.idx }

/-- A fault comes before another in the core's line-request order (R226). -/
def PageFault.before (a b : PageFault) : Bool :=
  match a.order, b.order with
  | some m, some n => m < n
  | _, _ => false

/-- A team-level fault: of several line requests the first in the core's line-request order is kept, otherwise the first
fault to arrive (R226). -/
def State.pageFault (s : State) (t : Nat) (pf : PageFault) : State :=
  s.modTeam t (fun tm =>
    match tm.fault with
    | some old => if pf.before old then { tm with fault := some pf } else tm
    | none => { tm with fault := some pf })

/-- The pages of the lanes' backing accesses. -/
def backPages (rs : List (Nat × SliceReach)) : List Nat :=
  rs.flatMap (fun lr => (pageChunks lr.2.back lr.2.inBack).map (fun c => c.1 % 2 ^ 52))

/-- A slice instruction over its lanes' reaches: it waits for the walks of its backing pages (R222) and while its run releases what
it held (R341); a failing backing translation saves the team or halts the partition before any effect (R116); otherwise the effect
follows. -/
def sliceAccess (i : Instr) (write : Bool) (check : View → Nat → Except (Nat × Nat) SliceReach)
    (effect : View → List (Nat × SliceReach) → State → Out) (s : State) : Out :=
  frame i (fun v s0 =>
    let (good, bad) := splitReach v (check v)
    let k : Asker := ⟨2, v.t, v.gi⟩
    let die := dieOf v.team.core
    if !s0.allKnown k die v.team.part v.team.asid (backPages good) then
      stall (s0.askWalks k die v.team.part v.team.asid (backPages good))
    else if s0.releasing v.team && !(backPages good).isEmpty then stall s0
    else
      match s0.backFault v.team write good with
      | some (va, .notPresent level) =>
        stall ((s0.pageFault v.t ⟨level, 5, v.team.asid, va / 128 * 128, none⟩).spend k)
      | some (va, _) => stall ((s0.violate v va).spend k)
      | none => if s0.backDown v.team write good then stall s0 else effect v good (trapLanes v bad (s0.spend k))) s

/-- The store effect of SPILL and STL. -/
def sliceStore (cycles n : Nat) (value : View → Nat → Nat) (v : View) (rs : List (Nat × SliceReach)) (s : State) : Out :=
  let s := rs.foldl (fun (s : State) lr =>
    let bs := leBytes (value v lr.1) n
    let s := s.modTeam v.t (sliceWrite (32 * v.gi + lr.1) lr.2.slice (bs.take lr.2.inSlice))
    s.backWrite v.team lr.2.back (bs.drop lr.2.inSlice)) s
  .next (retire v.t v.gi cycles (countExec v.t v.gi (LaneSet.ofList (rs.map Prod.fst)) s))

/-- The load effect of FILL and LDL. -/
def sliceLoad (cycles regs : Nat) (extend : Nat → Nat) (v : View) (rs : List (Nat × SliceReach)) (s : State) : Out :=
  let lanes := LaneSet.ofList (rs.map Prod.fst)
  let (results, s) := rs.foldl (fun (acc : Map (List Word) × State) lr =>
    let (bs, s) := acc.2.backRead v.team v.g lr.2.back lr.2.inBack
    let x := ofLeBytes (sliceBytes v.team (32 * v.gi + lr.1) lr.2.slice lr.2.inSlice ++ bs)
    (acc.1 ++ [(lr.1, wordsOf (extend x) regs)], s)) ([], s)
  let s := countExec v.t v.gi lanes s
  let (id, s) := s.fresh
  .next (retire v.t v.gi cycles (sendLong v id regs .none lanes results false [] s))

/-- The offset of SPILL and FILL (R119). -/
def spillOffset (f : Fields) : Nat := match f.lit with | some x => x.toNat | none => 16 * f.b.toNat

/-- How many registers SPILL and FILL move (R119). -/
def spillCount (f : Fields) : Nat := f.minor.toNat % 8 + 1

/-- SPILL (R119). -/
def execSpill (f : Fields) (s : State) : Out :=
  let n := spillCount f
  sliceAccess (.spill f) true (fun v l => sliceReach v l (spillOffset f) (4 * n))
    (sliceStore n (4 * n) (fun v l =>
      (List.range n).foldl (fun x k => x + (readReg v.team v.gi v.g (f.a.toNat + k) l).toNat * 2 ^ (32 * k)) 0)) s

/-- FILL (R119). -/
def execFill (f : Fields) (s : State) : Out :=
  let n := spillCount f
  sliceAccess (.fill f) false (fun v l => sliceReach v l (spillOffset f) (4 * n)) (sliceLoad n n id) s

/-- The check of LDL and STL (R120). An offset that is misaligned and reaches past the slice traps as misaligned: R120 gives
no order (DESIGN CHOICE, log entry 91). -/
def laneReach (n : Nat) (v : View) (l : Nat) : Except (Nat × Nat) SliceReach :=
  if localAddr v l % n ≠ 0 then .error (6, localAddr v l) else sliceReach v l (localAddr v l) n

/-- LDL (R120). -/
def execLdl (f : Fields) (s : State) : Out :=
  let code := f.minor.toNat
  let n := elemBytes code
  sliceAccess (.ldl f) false (laneReach n)
    (sliceLoad (if n = 16 then 2 else 1) (Forms.typeRegs code) (extendLoad code)) s

/-- STL (R120). -/
def execStl (f : Fields) (s : State) : Out :=
  let n := elemBytes f.minor.toNat
  sliceAccess (.stl f) true (laneReach n) (sliceStore (if n = 16 then 2 else 1) n (fun v l => v.c l)) s

end Sys2Proof.Machine
end

