-- ==== Sys2Proof/Machine/MemPipe.lean ====
section
/-! DEFINITION. Global memory from issue to translation (R187–R195, R203, R210, R221–R226, R333): the instructions enter
load slots, store queues and pending fences; line requests are translated; loads hit the L1 or are forwarded. -/

namespace Sys2Proof.Machine

/-! ## What a load may read without leaving the core -/

/-- The L1 line of a virtual address under an identifier. -/
def Core.l1Line (c : Core) (asid va : Nat) : Option L1Line :=
  c.l1.find? (fun l => l.va == va / 128 * 128 && l.asid == asid)

/-- The bytes of an element that hits in the L1 (R176). -/
def Core.l1Hit (c : Core) (asid va n : Nat) : Option (List Byte) :=
  match c.l1Line asid va with
  | some l => if l.valid.getLsbD (va % 128 / 32) then some ((l.bytes.drop (va % 128)).take n) else none
  | none => none

/-- How a lane of a run acts on global memory: in a logged callee of a checked run as in an unchecked one (R372). -/
def Team.actsAs (tm : Team) (g : Group) (l : Nat) : RunMode := if g.inLogged l then .unchecked else tm.mode

/-- The log entry that a load element of a replaying run takes (R331). -/
def State.loadEntry (s : State) (tm : Team) (gi : Nat) (e : MemElem) : Option LogEntry :=
  (nextEntry tm gi e.lane s).filter (fun x => x.kind == 0 && x.cnt == e.cnt % 2 ^ 32)

/-- An element is performed at its home, and so has to be translated (R326, R331, R332). -/
def State.goesHome (s : State) (tm : Team) (gi : Nat) (g : Group) (o : MemOp) (e : MemElem) : Bool :=
  let load := o.kind == .ld || o.kind == .ldq
  match tm.actsAs g e.lane with
  | .trail => load && (s.loadEntry tm gi e).isNone
  | .third =>
    if load then ((s.loadEntry tm gi e).map (fun x => x.flag == 1)).getD true
    else o.kind == .st || o.kind == .stq
  | _ => true

/-- Whether a load element may perform now, and which accesses of its thread it then passes (R190, R199, R203, R330, R341): its run
releases nothing, its log has taken what comes before, no fence keeps it, no unperformed atomic of the group overlaps it, and an ordered access waits for the group's earlier strongly
ordered ones, or for all of them where it may be strongly ordered itself. -/
def State.loadReady (s : State) (t gi : Nat) (tm : Team) (g : Group) (o : MemOp) (e : MemElem) : Option (List Access) :=
  let after := fun (x : MemElem) => !x.done && (e.strict || x.strict)
  if s.releasing tm || (tm.mode != .unchecked && g.logsBefore o.id e.lane) || g.held o.id e.lane (e.classes o.kind) || !g.queueOpen o e ||
      (o.kind == .ldq && ((g.loads ++ g.stores).any (fun p => p.kind.ordered && p.id < o.id && p.elems.any after) ||
        o.elems.any (fun x => x.lane < e.lane && after x)))
  then none
  else s.passes t gi tm g (o.access 0 e)

/-- The store-queue element of a group that may perform next, with the accesses that it passes (R178, R190, R199, R203): of
the oldest entry, translated where it goes home, kept back by no fence, behind its thread's earlier accesses; elements that
share bytes in lane order, and strongly ordered ones too. -/
def State.nextStore (s : State) (t gi : Nat) (tm : Team) (g : Group) : Option (MemOp × MemElem × List Access) :=
  match g.stores with
  | [] => none
  | o :: _ =>
    let left := if s.releasing tm then [] else o.elems.filter (fun e => !e.done)
    let logged := tm.mode != .unchecked && o.kind.reads
    left.findSome? (fun e =>
      let after := fun (x : MemElem) => !x.done && (e.strict || x.strict)
      if (e.xl.isSome || !s.goesHome tm gi g o e) && !g.held o.id e.lane (e.classes o.kind) &&
          !left.any (fun x => x.lane < e.lane && (x.meets e || (o.kind == .stq && after x))) &&
          (o.kind != .stq || !g.loads.any (fun p => p.kind.ordered && p.id < o.id && p.elems.any after)) &&
          !(logged && g.logsBefore o.id e.lane)
      then (s.passes t gi tm g (o.access 1 e)).map (fun as => (o, e, as))
      else none)

/-- What a load reads inside the core: forwarded bytes, and L1 bytes for the others where the sector is valid and the
form may hit. None when it must go to the home. -/
def localValue (c : Core) (g : Group) (o : MemOp) (e : MemElem) (mayHit : Bool) : Option Nat :=
  let fwd := (List.range e.size).map (fun i => (g.queueByte o.asid o.id (e.va + i)).join)
  if fwd.all (·.isSome) then some (ofLeBytes (fwd.map (·.getD 0)))
  else if mayHit && o.kind == .ld then
    (c.l1Hit o.asid e.va e.size).map (fun bs => ofLeBytes ((fwd.zip bs).map (fun p => p.1.getD p.2)))
  else none

/-- The registers that an operation of a type writes. -/
def MemOp.words (o : MemOp) (x : Nat) : List Word := wordsOf (extendLoad o.typ x) (Forms.typeRegs o.typ)

/-- Mark an element performed; an operation all of whose elements have performed leaves its list. -/
def markDone (id lane : Nat) (ops : List MemOp) : List MemOp :=
  (ops.map (fun o => if o.id = id then
    { o with elems := o.elems.map (fun e => if e.lane = lane then { e with done := true } else e) } else o)).filter
    (fun o => o.id != id || o.elems.any (fun e => !e.done))

/-- A lane's result of a long-latency operation is fixed. -/
def Group.setResult (g : Group) (id lane : Nat) (ws : List Word) : Group :=
  { g with ops := g.ops.map (fun o => if o.id = id then { o with results := Map.put o.results lane ws } else o) }

/-- A load element has its value. -/
def loadDone (t gi : Nat) (o : MemOp) (lane x : Nat) (s : State) : State :=
  s.modGroup t gi (fun g => { g.setResult o.id lane (o.words x) with loads := markDone o.id lane g.loads })

/-- A load element performs before the accesses of a list, and its thread has read the queued stores of its own that it
overlaps (R179, R199). -/
def Group.noteLoad (g : Group) (o : MemOp) (e : MemElem) (as : List Access) : Group :=
  let read := fun (x : MemElem) =>
    if x.lane = e.lane ∧ !x.done ∧ x.read = 0 ∧ x.meets e then { x with read := o.id } else x
  let stores := g.stores.map (fun p =>
    if p.id < o.id ∧ p.asid = o.asid then { p with elems := p.elems.map read } else p)
  ({ g with stores := stores } : Group).pass as

/-! ## Issue -/

/-- The address of a global-memory element (R187): the literal offset is signed. -/
def globalAddr (v : View) (l : Nat) : Nat :=
  match v.lit with
  | some x => wrap 64 ((v.a l : Int) + sext x 32)
  | none => (v.a l + (if v.form.b = .imm 255 then v.f.b.toNat else 0)) % 2 ^ 64

/-- The alignment check of R188. -/
def globalReach (n : Nat) (v : View) (l : Nat) : Except (Nat × Nat) Nat :=
  let x := globalAddr v l
  if x % n ≠ 0 ∨ x >>> 52 ≠ 0 then .error (6, x) else .ok x

/-- Try the elements of a new load in lane order inside the core. -/
def tryLoads (t gi : Nat) (o : MemOp) (s : State) : State :=
  o.elems.foldl (fun (s : State) e =>
    match s.team? t, s.group? t gi with
    | some tm, some g =>
      if tm.mode ≠ .unchecked then s
      else
        match s.loadReady t gi tm g o e, localValue (s.core tm.core) g o e true with
        | some as, some x => loadDone t gi o e.lane x (s.modGroup t gi (·.noteLoad o e as))
        | _, _ => s
    | _, _ => s) s

/-- LD and LDQ (R189, R190): the elements take a load slot; those that hit or are forwarded have their value at once. -/
def globalLoad (i : Instr) (f : Fields) (kind : MemKind) (s : State) : Out :=
  let code := f.minor.toNat
  let n := elemBytes code
  frame i (fun v s0 =>
    let (good, bad) := splitReach v (globalReach n v)
    let s := trapLanes v bad s0
    let lanes := LaneSet.ofList (good.map Prod.fst)
    let cnts := cntsOf v.team v.g lanes
    let s := countExec v.t v.gi lanes s
    let (id, s) := s.fresh
    let s := sendLong v id (Forms.typeRegs code) .ld lanes [] false [] s
    let op : MemOp := { id := id, addr := v.run.addr, idx := v.run.idx, kind := kind, typ := code, aop := 0, asid := v.g.asid
                        elems := good.map (fun lx => ⟨lx.1, lx.2, n, 0, 0, Map.get cnts lx.1 0, none, false, false, 0⟩) }
    let s := if good.isEmpty then s
      else tryLoads v.t v.gi op (s.modGroup v.t v.gi (fun g => { g with loads := g.loads ++ [op] }))
    .next (retire v.t v.gi (if n = 16 ∨ (n = 8 ∧ kind = .ldq) then 2 else 1) s)) s

/-- ST, STQ, RED, ATOM and CAS (R189–R193): the elements take a store-queue entry and enter the store signature; ATOM
and CAS also take a load slot and mark their destinations. -/
def globalStore (i : Instr) (f : Fields) (kind : MemKind) (s : State) : Out :=
  let code := f.minor.toNat
  let n := elemBytes code
  let cycles := match kind with
    | .st => if n = 16 then 2 else 1
    | .stq => if n = 16 then 2 else 1
    | _ => if 8 ≤ n then 2 else 1
  frame i (fun v s0 =>
    let (good, bad) := splitReach v (globalReach n v)
    let s := trapLanes v bad s0
    let lanes := LaneSet.ofList (good.map Prod.fst)
    let data := fun l => v.c l % 2 ^ (8 * n)
    let cmp := fun l => if kind = .cas then v.operand v.form.b f.b.toNat l % 2 ^ (8 * n) else 0
    let s := signStores v.t v.gi 0 ((good.map (fun lx =>
      (if kind = .cas then [(lx.1, lx.2, n, cmp lx.1)] else []) ++ [(lx.1, lx.2, n, data lx.1)])).flatten) s
    let cnts := cntsOf v.team v.g lanes
    let s := countExec v.t v.gi lanes s
    let (id, s) := s.fresh
    let s := if kind.reads then sendLong v id (Forms.typeRegs code) .ld lanes [] false [] s else s
    let op : MemOp := { id := id, addr := v.run.addr, idx := v.run.idx, kind := kind, typ := code, aop := if kind = .cas then 7 else f.mod.toNat % 16
                        asid := v.g.asid
                        elems := good.map (fun lx =>
                          ⟨lx.1, lx.2, n, data lx.1, cmp lx.1, Map.get cnts lx.1 0, none, false, false, 0⟩) }
    let s := if good.isEmpty then s else s.modGroup v.t v.gi (fun g => { g with stores := g.stores ++ [op] })
    .next (retire v.t v.gi cycles s)) s

/-- LD (R189). -/
def execLd (f : Fields) (s : State) : Out := globalLoad (.ld f) f .ld s
/-- LDQ (R190). -/
def execLdq (f : Fields) (s : State) : Out := globalLoad (.ldq f) f .ldq s
/-- ST (R189). -/
def execSt (f : Fields) (s : State) : Out := globalStore (.st f) f .st s
/-- STQ (R190). -/
def execStq (f : Fields) (s : State) : Out := globalStore (.stq f) f .stq s
/-- ATOM (R192). -/
def execAtom (f : Fields) (s : State) : Out := globalStore (.atom f) f .atom s
/-- RED (R192). -/
def execRed (f : Fields) (s : State) : Out := globalStore (.red f) f .red s
/-- CAS (R193). -/
def execCas (f : Fields) (s : State) : Out := globalStore (.cas f) f .cas s

/-- Put sectors of a line into an L1 (R176, R180). -/
def Core.fillL1 (c : Core) (va asid pa leaf : Nat) (sectors : BitVec 4) (bs : List Byte) : Core :=
  let base := va / 128 * 128
  let fresh : L1Line := ⟨base, asid, pa / 128 * 128, hasBit leaf 3, bits leaf 51 50 == 2, 0, List.replicate 128 0⟩
  let old := match c.l1Line asid va with
    | some l => if l.pa = pa / 128 * 128 then l else fresh
    | none => fresh
  let bytes := (List.range 128).map (fun i =>
    if sectors.getLsbD (i / 32) then bs.getD i 0 else old.bytes.getD i 0)
  { c with l1 := { old with valid := old.valid ||| sectors, bytes := bytes } ::
      c.l1.filter (fun l => !(l.va == base && l.asid == asid)) }

/-- An L1 line of a core is replaced (R182): registered bytes are written back first. -/
def State.dropL1 (s : State) (core : Nat) (l : L1Line) : State :=
  let s := (s.registrations.filter (fun r => r.core == core && r.pa < l.pa + 128 && l.pa < r.pa + r.size)).foldl
    State.giveUp s
  s.modCore core (fun c => { c with l1 := c.l1.filter (fun x => !(x.va == l.va && x.asid == l.asid)) })

/-- The L1 of a core, of 8,192 lines, has room for a line (R176, R186): where it has none, a line of a streaming page is
replaced, or another where there is none (R177). -/
def State.roomL1 (s : State) (core va asid : Nat) : State :=
  let c := s.core core
  if (c.l1Line asid va).isSome || c.l1.length < 8192 then s
  else
    let first := c.l1.filter (·.streaming)
    let from' := if first.isEmpty then c.l1 else first
    match from'[Config.victim s.nonce % from'.length]? with
    | some l => { s.dropL1 core l with nonce := s.nonce + 1 }
    | none => s

/-- Sectors of a line enter the L1 of a core. -/
def State.fillL1 (s : State) (core va asid pa leaf : Nat) (sectors : BitVec 4) (bs : List Byte) : State :=
  (s.roomL1 core va asid).modCore core (·.fillL1 va asid pa leaf sectors bs)

/-- The 128 bytes of a physical line as a leaf shows them, from the home or the registrant (R180). -/
def State.lineBytes (s : State) (leaf pa : Nat) : List Byte := s.homeBytes (s.viewOf leaf pa) (pa / 128 * 128) 128

/-- A prefetch whose page is known brings its line in (R191), or is dropped where the translation fails or the page does not
allow it; a line whose data has an uncorrectable error is not brought in, so that a load that reads it meets the error at the home
(R186). -/
def State.bring (s : State) (tm : Team) (asid : Nat) (l1 : Bool) (x : Nat) : State :=
  match s.translate (dieOf tm.core) tm.part asid x with
  | .leaf e pa _ =>
    let line := pa / 128 * 128
    if hasBit e 5 || !isDram pa || !hasBit e 2 || s.refused pa || s.errors.contains (pa >>> 7) ||
        s.unitDown tm.part (s.homeUnit pa) then s
    else if !l1 then s.readAtHome line 128
    else if bits e 51 50 = 1 then s
    else
      let bs := s.lineBytes e pa
      (s.readAtHome line 128).fillL1 tm.core x asid pa e 15#4 bs
  | _ => s

/-- One thread's prefetch (R191): it is made at once where its page is in the translation cache; otherwise it waits for the walk
of the page, or is dropped where the queue of walks is full (DEDUCED, log entry 40). -/
def prefetch (t : Nat) (tm : Team) (asid : Nat) (l1 : Bool) (x : Nat) (s : State) : State :=
  if x >>> 52 ≠ 0 then s
  else if (s.tlbHit (s.translationSlice (dieOf tm.core) asid x) tm.part asid x).isSome then s.bring tm asid l1 x
  else s.askWalk (some ⟨if l1 then 5 else 6, t, x⟩) (dieOf tm.core) tm.part asid x

/-- PFCH (R191): each thread's line is brought in, or its prefetch is dropped; it has no effect in a checked run. -/
def execPfch (f : Fields) (s : State) : Out :=
  frame (.pfch f) (fun v s =>
    let s := if v.team.mode ≠ .unchecked then s else
      v.lanes.lanes.foldl (fun (s : State) l =>
        prefetch v.t v.team v.g.asid (f.minor.toNat == 0) (globalAddr v l) s) s
    .next (retire v.t v.gi 1 (countExec v.t v.gi v.lanes s))) s

/-- LOGV (R333): the value through the log; the result is long-latency. -/
def execLogv (f : Fields) (s : State) : Out :=
  let n := Forms.typeRegs f.minor.toNat
  frame (.logv f) (fun v s0 =>
    if logWaits v.team v.g then stall s0
    else
      let (vals, s) := lanesThroughLog v 3 1 v.lanes v.a s0
      let s := countExec v.t v.gi v.lanes s
      let (id, s) := s.fresh
      .next (retire v.t v.gi 1
        (sendLong v id n .ld v.lanes (vals.map (fun lx => (lx.1, wordsOf lx.2 n))) false [] s))) s

/-! ## Fences -/

/-- FENCE (R203): later accesses of the executing threads wait until it is complete. -/
def execFence (f : Fields) (s : State) : Out :=
  frame (.fence f) (fun v s =>
    let s := countExec v.t v.gi v.lanes s
    let (id, s) := s.fresh
    let s := if v.lanes = 0 then s else s.modGroup v.t v.gi (fun g => { g with pending := g.pending ++
      [{ id := id, addr := v.run.addr, idx := v.run.idx, kind := 0, lanes := v.lanes, scope := f.d.toNat, pset := f.a.toNat, sset := f.b.toNat
         ranges := [], asid := g.asid }] })
    .next (retire v.t v.gi 1 s)) s

/-- The range check of AFENCE and PUBLISH (R210, R354): none for an empty range. -/
def rangeReach (v : View) (l : Nat) : Except (Nat × Nat) (Option (Nat × Nat)) :=
  let x := v.a l
  let n := v.b l
  if n = 0 then .ok none
  else if x >>> 52 ≠ 0 ∨ 2 ^ 52 < x + n then .error (6, x)
  else .ok (some (x, n))

/-- AFENCE (R210). -/
def execAfence (f : Fields) (s : State) : Out :=
  frame (.afence f) (fun v s0 =>
    let (good, bad) := splitReach v (rangeReach v)
    let s := trapLanes v bad s0
    let ranges := good.filterMap (fun lr => lr.2.map (fun xn => (lr.1, xn.1, xn.2)))
    let s := countExec v.t v.gi (LaneSet.ofList (good.map Prod.fst)) s
    let (id, s) := s.fresh
    let s := if ranges.isEmpty then s else s.modGroup v.t v.gi (fun g => { g with pending := g.pending ++
      [{ id := id, addr := v.run.addr, idx := v.run.idx, kind := 1, lanes := LaneSet.ofList (ranges.map Prod.fst), scope := 0, pset := 3, sset := 31
         ranges := ranges, asid := g.asid }] })
    .next (retire v.t v.gi 1 s)) s

/-- What AFENCE and PUBLISH find of a range (R355): for each present page of DRAM that is not strongly ordered the part of
it that the range names and the whole page, each as a physical range; none where there is a violation. -/
def State.rangePages (s : State) (die p asid : Nat) (x n : Nat) : Option (List ((Nat × Nat) × (Nat × Nat))) :=
  (pageChunks x n).foldr (fun c acc =>
    match acc, s.translate die p asid c.1 with
    | none, _ => none
    | some ps, .notPresent _ => some ps
    | _, .violation => none
    | some ps, .leaf e pa size =>
      if !hasBit e 2 ∨ homeOf pa = .nowhere ∨ s.refused pa then none
      else if hasBit e 5 || !isDram pa then some ps
      else some (((pa, c.2), (bits e 47 8 <<< 8, size)) :: ps)) (some [])

/-- The physical ranges that a pending AFENCE or PUBLISH acts on: whole pages for the one, lines for the other (R210, R354). -/
def State.ranged (s : State) (tm : Team) (p : Pending) : List (Nat × Nat) :=
  p.ranges.flatMap (fun r =>
    (((s.rangePages (dieOf tm.core) tm.part p.asid r.2.1 r.2.2).getD []).map
      (fun q => if p.kind = 1 then q.2 else (q.1.1 / 128 * 128, (q.1.1 + q.1.2 + 127) / 128 * 128 - q.1.1 / 128 * 128))))

/-- Accesses counted before a pending FENCE, AFENCE or PUBLISH have not all completed (R203, R210, R354): an AFENCE counts
its threads' accesses to bytes of its pages, a PUBLISH their writes to bytes of its lines, through any alias; the bytes of an
access that is not translated are not known yet. A FENCE does not count an access outside its scope (R201). -/
def State.before (s : State) (t gi : Nat) (tm : Team) (g : Group) (p : Pending) : Bool :=
  let places := if p.kind = 0 then [] else s.ranged tm p
  let concerns := fun (e : MemElem) => p.kind == 0 || e.xl.isNone ||
    places.any (fun r => r.1 < e.pa + e.size && e.pa < r.1 + r.2)
  (g.loads ++ g.stores).any (fun o => o.id < p.id && o.elems.any (fun e =>
    !e.done && p.lanes.getLsbD e.lane && (e.classes o.kind &&& p.pset) != 0 && concerns e)) ||
  (p.kind == 0 && g.locals.any (fun o => o.insn < p.id && (o.classes &&& p.pset) != 0 &&
    o.elems.any (fun e => p.lanes.getLsbD e.lane && s.inScope tm p.scope o e))) ||
  g.pending.any (fun q => q.id < p.id && q.kind != 0 && (q.lanes &&& p.lanes) != 0 &&
    ((if q.kind = 1 then 3 else 2) &&& p.pset) != 0) ||
  (hasBit p.pset 2 && s.commands.any (fun c => c.team == t && c.group == gi && c.id < p.id && c.state == 0 &&
    (c.lanes &&& p.lanes) != 0))

/-- A pending operation of a group. -/
def State.pendingOf (s : State) (t gi id kind : Nat) : Option (Team × Group × Pending) :=
  match s.team? t, s.group? t gi with
  | some tm, some g =>
    (g.pending.find? (fun p => p.id == id && p.kind == kind)).map (fun p => (tm, g, p))
  | _, _ => none

/-- Drop a pending operation. -/
def State.dropPending (s : State) (t gi id : Nat) : State :=
  s.modGroup t gi (fun g => { g with pending := g.pending.filter (fun p => p.id != id) })

/-- Every L1 sector that is not registered to its core is invalidated (R181). -/
def State.selfInvalidate (s : State) (core : Nat) : State :=
  let mine := s.registrations.filter (fun r => r.core == core)
  let keep := fun (pa : Nat) => mine.any (fun r => r.pa ≤ pa && pa < r.pa + r.size)
  s.modCore core (fun c => { c with l1 := c.l1.map (fun l =>
    { l with valid := (List.range 4).foldl (fun (v : BitVec 4) k =>
        if keep (l.pa + 32 * k) then v else v &&& ~~~ (1#4 <<< k)) l.valid }) })

/-- FENCE_COMPLETE (R203): every access counted before has completed; the invalidation of R181 takes place. -/
def execFenceComplete (team group fence : Nat) (s : State) : Out :=
  match s.pendingOf team group fence 0 with
  | some (tm, g, p) =>
    if s.before team group tm g p then .next s
    else
      let s := s.dropPending team group fence
      .next (if hasBit p.sset 0 ∧ p.scope ≠ 0 then s.selfInvalidate tm.core else s)
  | none => .next s

/-- A protection violation of a pending AFENCE or PUBLISH. -/
def State.pendingFault (s : State) (t gi : Nat) (p : Pending) (va : Nat) : State :=
  s.accessFault t gi p.addr p.idx (p.lanes.lanes.headD 0) va

/-- The pages of a pending AFENCE or PUBLISH. -/
def Pending.pages (p : Pending) : List Nat := (p.ranges.flatMap (fun r => pageChunks r.2.1 r.2.2)).map (·.1)

/-- Two byte ranges share a 512-byte unit. -/
def sameUnit (a n b m : Nat) : Bool := a / 512 * 512 < b + m && b < (a + n + 511) / 512 * 512

/-- A core has a registration in the units of a physical range. -/
def State.purges (s : State) (core pa n : Nat) : Bool :=
  s.registrations.any (fun r => r.core == core && sameUnit pa n r.pa r.size)

/-- A core gives up and drops the L1 lines whose recorded unit lies in a physical range (R210). -/
def State.purgeL1 (s : State) (core pa n : Nat) : State :=
  let s := (s.registrations.filter (fun r => r.core == core && sameUnit pa n r.pa r.size)).foldl State.giveUp s
  s.modCore core (fun c => { c with l1 := c.l1.filter (fun l => !sameUnit pa n l.pa 128) })

/-- A home of a byte range has stopped serving a partition (R386). -/
def State.rangeDown (s : State) (p : Nat) (rs : List (Nat × Nat)) : Bool :=
  rs.any (fun r => (linesOf r.1 r.2).any (fun l => s.unitDown p (s.homeUnit l)))

/-- AFENCE_COMPLETE (R210): no fence keeps the AFENCE back, earlier accesses of its threads to the pages have performed, and
the L1 of the core holds nothing of the pages. What misses its translation cache waits for its walk (R222), and units that have
stopped serve it no more (R386). -/
def execAfenceComplete (team group fence : Nat) (s : State) : Out :=
  match s.pendingOf team group fence 1 with
  | some (tm, g, p) =>
    let k : Asker := ⟨4, team, p.id⟩
    if s.before team group tm g p || p.lanes.lanes.any (fun l => g.held p.id l 3) || s.unitDown tm.part (s.coreUnit tm) then
      .next s
    else if !s.allKnown k (dieOf tm.core) tm.part p.asid p.pages then
      .next (s.askWalks k (dieOf tm.core) tm.part p.asid p.pages)
    else
      match p.ranges.find? (fun r => (s.rangePages (dieOf tm.core) tm.part p.asid r.2.1 r.2.2).isNone) with
      | some r => .next (((s.pendingFault team group p r.2.1).dropPending team group fence).spend k)
      | none =>
        let rs := s.ranged tm p
        if s.rangeDown tm.part (rs.filter (fun r => s.purges tm.core r.1 r.2)) then .next s
        else
          .next (((rs.foldl (fun (s : State) r => s.purgeL1 tm.core r.1 r.2) s).dropPending team group fence).spend k)
  | none => .next s

/-! ## Translation -/

/-- A leaf permits a kind of access of a size (R190, R194, R195). An access through a leaf that is not strongly ordered to an
address of a register block, which R190 names for strongly ordered pages only, is a protection violation (DESIGN CHOICE, log
entry 96). -/
def leafAllows (s : State) (k : MemKind) (size : Nat) (aop typ leaf pa : Nat) : Bool :=
  let read := hasBit leaf 2
  let write := hasBit leaf 3
  let ord := hasBit leaf 5
  let hostOk := homeOf pa != .host ||
    (match k with
     | .atom => (aop == 0 && typ != 14) || aop == 6
     | .red => false
     | _ => true)
  (match k with
   | .ld => read && !ord
   | .ldq => read && (!ord || size == 4 || size == 8)
   | .st => write && !ord
   | .stq => write && (!ord || size == 4 || size == 8)
   | .red => write && !ord
   | _ => read && write && !ord) &&
  hostOk && homeOf pa != .nowhere && (homeOf pa != .registers || ord) && !s.refused pa

/-- The code of KIND in a fault entry (R226). -/
def MemKind.faultKind : MemKind → Nat
  | .ld => 0
  | .ldq => 0
  | .st => 1
  | .stq => 1
  | _ => 2

/-- The memory operation of a group with a number. -/
def Group.memOp (g : Group) (id : Nat) : Option MemOp := (g.loads ++ g.stores).find? (fun o => o.id == id)

/-- Give the elements of a line their translation. -/
def setXlat (id line : Nat) (x : Xlat) (ops : List MemOp) : List MemOp :=
  ops.map (fun o => if o.id = id then { o with elems := o.elems.map (fun e =>
    if e.va / 128 = line ∧ e.xl.isNone then { e with xl := some x } else e) } else o)

/-- A leaf serves a line request: it is permitted and the elements go on to their home, or the access is a violation, or
a lead's store makes the team unchecked (R183, R195, R340). -/
def useLeaf (t gi : Nat) (o : MemOp) (line leaf pa : Nat) (s : State) : State :=
  match s.team? t, s.group? t gi with
  | some tm, some g =>
    let size := ((o.elems.find? (fun e => e.va / 128 == line)).map (·.size)).getD 4
    let lane := ((o.elems.find? (fun e => e.va / 128 == line)).map (·.lane)).getD 0
    if !leafAllows s o.kind size o.aop o.typ leaf pa then s.accessFault t gi o.addr o.idx lane (line * 128)
    else
      let held := o.elems.any (fun e => e.va / 128 == line && !e.done && tm.actsAs g e.lane == .lead)
      let s := if held ∧ (o.kind = .st ∨ o.kind = .stq) ∧ (!hasBit leaf 7 ∨ hasBit leaf 5)
        then s.uncheck tm 4 else s
      s.modGroup t gi (fun g => { g with
        loads := setXlat o.id line ⟨pa / 128 * 128, leaf⟩ g.loads
        stores := setXlat o.id line ⟨pa / 128 * 128, leaf⟩ g.stores })
  | _, _ => s

/-- The elements of a line that a line request is for: neither performed nor translated, to be performed at their home, and kept
back by no fence, since what a walk reads comes after what the fence waits for (R203, R223). -/
def State.lineElems (s : State) (tm : Team) (gi : Nat) (g : Group) (o : MemOp) (line : Nat) : List MemElem :=
  o.elems.filter (fun e => e.va / 128 == line && e.xl.isNone && !e.done && !g.held o.id e.lane (e.classes o.kind) &&
    s.goesHome tm gi g o e)

/-- A load that a restore brought back is sent after its group's store queue (R195). -/
def State.sentLater (s : State) (tm : Team) (gi : Nat) (g : Group) (o : MemOp) : Bool :=
  o.id < tm.resend && (o.kind == .ld || o.kind == .ldq) && g.stores.any (fun p => p.id < tm.resend &&
    p.elems.any (fun e => !e.done && e.xl.isNone && s.goesHome tm gi g p e))

/-- LINE_REQUEST_TRANSLATION (R221, R222): a line request of a group's operation meets the translation cache; a miss
starts a walk or joins one, unless the walk queue is full. A halted partition starts no walk (R386), and a request whose walk
found its page not present waits for the save of its team (R226). -/
def execLineRequestTranslation (team group op line : Nat) (s : State) : Out :=
  match s.team? team, s.group? team group with
  | some tm, some g =>
    match g.memOp op with
    | none => .next s
    | some o =>
      if (s.lineElems tm group g o line).isEmpty || s.sentLater tm group g o then .next s
      else
        let va := line * 128
        let slice := s.translationSlice (dieOf tm.core) o.asid va
        match s.tlbHit slice tm.part o.asid va with
        | some e => .next (useLeaf team group o line e.leaf ((bits e.leaf 47 8 <<< 8) + va % e.size) s)
        | none =>
          .next (if tm.fault.any (fun f => f.asid == o.asid && f.va >>> 16 == va >>> 16) then s
            else s.askWalk none (dieOf tm.core) tm.part o.asid va)
  | _, _ => .next s

/-- A line request that waits for a walk, and its place in its core's line-request order (R188, R226): by issue, and within an
instruction by its lanes. -/
structure Waiter where
  team : Nat
  group : Nat
  op : MemOp
  line : Nat
  order : Nat

/-- Line requests of a partition that a walk of a page serves. -/
def State.waiters (s : State) (w : Walk) : List Waiter :=
  s.teams.flatMap (fun kt =>
    if kt.2.part ≠ w.part then [] else
    ((List.range kt.2.groups.length).zip kt.2.groups).flatMap (fun jg =>
      (jg.2.loads ++ jg.2.stores).flatMap (fun o =>
        if o.asid ≠ w.asid then [] else
        let lines := (o.elems.map (fun e => e.va / 128)).eraseDups
        ((List.range lines.length).zip lines).filterMap (fun kl =>
          if kl.2 >>> 9 == w.va >>> 16 && !(s.lineElems kt.2 jg.1 jg.2 o kl.2).isEmpty && !s.sentLater kt.2 jg.1 jg.2 o then
            some ⟨kt.1, jg.1, o, kl.2, 32 * o.id + kl.1⟩
          else none))))

/-- What a walk that ends gives the requests that waited for it beside the line requests: a prefetch is made, the others go on
with what the walk found when they are tried again (R191, R222). -/
def State.answerWalk (s : State) (w : Walk) : State :=
  w.askers.foldl (fun (s : State) k =>
    if k.kind = 5 ∨ k.kind = 6 then
      match s.team? k.a with
      | some tm => s.bring tm w.asid (k.kind == 5) k.b
      | none => s
    else { s with answers := s.answers ++ [⟨k, w.asid, w.va >>> 16⟩] }) s

/-- WALK_COMPLETES (R218–R223): one of the two walks that a slice has in progress ends. A leaf enters the translation cache; a
page that is not present faults the teams whose line requests wait, and a malformed entry is a protection violation. -/
def execWalkCompletes (walk : Nat) (s : State) : Out :=
  match s.walks.find? (fun w => w.id == walk) with
  | none => .next s
  | some w =>
    if !((s.walksOf w.slice).take 2).contains w then .next s
    else
      let found := s.walkAt w.slice w.part w.asid w.va
      let s1 := ({ s with walks := s.walks.filter (fun x => x.id != walk) }.walked w.slice w.part w.asid w.va).answerWalk w
      match found with
      | .leaf .. => .next s1
      | .notPresent level =>
        .next ((s.waiters w).foldl (fun (s : State) x =>
          s.pageFault x.team ⟨level, x.op.kind.faultKind, w.asid, x.line * 128, some x.order⟩) s1)
      | .violation => .next ((s.waiters w).foldl (fun (s : State) x =>
          s.accessFault x.team x.group x.op.addr x.op.idx
            (((x.op.elems.find? (fun e => e.va / 128 == x.line)).map (·.lane)).getD 0) (x.line * 128)) s1)

end Sys2Proof.Machine
end

