-- ==== Sys2Proof/Decode.lean ====
section
/-! DEFINITION. From words to instructions and back (R14–R19, R21, R25): a decoder that is total on any words and
rejects by name, the encoder, and the reading of one opcode-table word. -/

namespace Sys2Proof

/-- Why the decoder rejects words. -/
inductive DecodeError where
  /-- there is no word to read -/
  | truncated
  /-- bits 31:30 of word 0 are 0b11 (check 8 of R26) -/
  | header
  /-- the major opcode is unassigned (check 9 of R26) -/
  | unassigned (major : Nat)
deriving DecidableEq, Repr

/-- The length of an instruction in words, from bits 31:30 of its word 0 (R14); none where a header stands. -/
def wordCount (w0 : Word) : Option Nat :=
  match bits w0.toNat 31 30 with
  | 0 => some 1
  | 1 => some 2
  | 2 => some 3
  | _ => none

/-- The fields of word 0, word 1 and the literal (R15, R17, R19, R21). -/
def fieldsOf (w0 w1 : Word) (lit : Option Word) : Fields where
  gn := w0.getLsbD 21
  gp := w0.extractLsb' 18 3
  d := w1.extractLsb' 12 2 ++ w0.extractLsb' 12 6
  a := w1.extractLsb' 10 2 ++ w0.extractLsb' 6 6
  b := w1.extractLsb' 8 2 ++ w0.extractLsb' 0 6
  c := w1.extractLsb' 0 8
  te := w1.extractLsb' 14 3
  minor := w1.extractLsb' 17 7
  mod := w1.extractLsb' 24 8
  lit := lit

/-- The instruction of a major opcode (R25); MINOR 1:0 selects the form of MMA (R269). -/
def instrOf (major : Nat) (f : Fields) : Option Instr :=
  match major / 16 with
  | 0 =>
    match major % 16 with
    | 0 => some (.nop f)
    | 1 => some (.mov f)
    | 2 => some (.movi f)
    | 3 => some (.movx f)
    | 4 => some (.movxw f)
    | 5 => some (.getid f)
    | 6 => some (.sel f)
    | 7 => some (.plop f)
    | 8 => some (.iadd f)
    | 9 => some (.isub f)
    | 10 => some (.imul f)
    | 11 => some (.imulh f)
    | 12 => some (.imad f)
    | 13 => some (.imin f)
    | 14 => some (.imax f)
    | 15 => some (.iabs f)
    | _ => none
  | 1 =>
    match major % 16 with
    | 0 => some (.ineg f)
    | 1 => some (.lea f)
    | 2 => some (.icmp f)
    | 3 => some (.idot4 f)
    | 4 => some (.shl f)
    | 5 => some (.shr f)
    | 6 => some (.sar f)
    | 7 => some (.rot f)
    | 8 => some (.and f)
    | 9 => some (.or f)
    | 10 => some (.xor f)
    | 11 => some (.not f)
    | 12 => some (.lop3 f)
    | 13 => some (.popc f)
    | 14 => some (.clz f)
    | 15 => some (.brev f)
    | _ => none
  | 2 =>
    match major % 16 with
    | 0 => some (.bfx f)
    | 1 => some (.bfi f)
    | 2 => some (.bperm f)
    | 3 => some (.shfl f)
    | 4 => some (.vote f)
    | 5 => some (.gred f)
    | 6 => some (.matchLanes f)
    | 7 => some (.rng4 f)
    | 8 => some (.setfe f)
    | _ => none
  | 4 =>
    match major % 16 with
    | 0 => some (.fadd f)
    | 1 => some (.fsub f)
    | 2 => some (.fmul f)
    | 3 => some (.ffma f)
    | 4 => some (.fmin f)
    | 5 => some (.fmax f)
    | 6 => some (.fcmp f)
    | 7 => some (.fclass f)
    | 8 => some (.frnd f)
    | 9 => some (.hfma2 f)
    | 10 => some (.hadd2 f)
    | 11 => some (.hmul2 f)
    | _ => none
  | 5 =>
    match major % 16 with
    | 0 => some (.frcp f)
    | 1 => some (.frsq f)
    | 2 => some (.fsqrt f)
    | 3 => some (.fexp2 f)
    | 4 => some (.flog2 f)
    | 5 => some (.fsin f)
    | 6 => some (.fcos f)
    | 7 => some (.ftanh f)
    | _ => none
  | 6 =>
    match major % 16 with
    | 0 => some (.cvt f)
    | 1 => some (.cvtq f)
    | 2 => some (.pack6 f)
    | 3 => some (.unpk6 f)
    | 4 => some (.pack4 f)
    | 5 => some (.unpk4 f)
    | 6 => some (.pack8 f)
    | 7 => some (.unpk8 f)
    | 8 => some (.sclx f)
    | 9 => some (.fscl f)
    | _ => none
  | 8 =>
    match major % 16 with
    | 0 => some (.ld f)
    | 1 => some (.st f)
    | 2 => some (.ldq f)
    | 3 => some (.stq f)
    | 4 => some (.pfch f)
    | 5 => some (.atom f)
    | 6 => some (.red f)
    | 7 => some (.cas f)
    | 8 => some (.fence f)
    | 9 => some (.afence f)
    | 10 => some (.logv f)
    | _ => none
  | 10 =>
    match major % 16 with
    | 0 => some (.lds f)
    | 1 => some (.sts f)
    | 2 => some (.atoms f)
    | 3 => some (.ldw f)
    | 4 => some (.stw f)
    | 5 => some (.stx f)
    | 6 => some (.sbar f)
    | 7 => some (.join f)
    | 8 => some (.leave f)
    | 9 => some (.ldk f)
    | 10 => some (.stk f)
    | 11 => some (.atomk f)
    | 12 => some (.spill f)
    | 13 => some (.fill f)
    | 14 => some (.ldl f)
    | 15 => some (.stl f)
    | _ => none
  | 11 =>
    match major % 16 with
    | 0 => some (.bra f)
    | 1 => some (.brc f)
    | 2 => some (.brx f)
    | 3 => some (.call f)
    | 4 => some (.callx f)
    | 5 => some (.ret f)
    | 6 => some (.exit f)
    | 7 => some (.kset f)
    | 8 => some (.kwait f)
    | 9 => some (.yield f)
    | 10 => some (.bar f)
    | 11 => some (.spawn f)
    | 12 => some (.jadd f)
    | 13 => some (.launch f)
    | 14 => some (.preq f)
    | 15 => some (.trap f)
    | _ => none
  | 12 =>
    match major % 16 with
    | 0 => some (.tret f)
    | 1 => some (.brk f)
    | 2 => some (.crr f)
    | 3 => some (.crw f)
    | 4 => some (.gate f)
    | 5 => some (.gret f)
    | 6 => some (.publish f)
    | 7 => some (.time f)
    | 8 => some (.cyc f)
    | 9 => some (.seqw f)
    | 10 => some (.seqr f)
    | 11 => some (.halt f)
    | _ => none
  | 13 =>
    match major % 16 with
    | 0 => some (.cpy f)
    | 1 => some (.cpyt f)
    | 2 => some (.gthr f)
    | 3 => some (.sctr f)
    | 4 => some (.coll f)
    | 5 => some (.bin f)
    | 6 => some (.rel f)
    | 7 => some (.mirr f)
    | 8 => some (.fillz f)
    | 9 => some (.zmap f)
    | _ => none
  | 14 =>
    match major % 16 with
    | 0 =>
      match f.minor.toNat % 4 with
      | 0 => some (.mma f)
      | 1 => some (.mmaG f)
      | 2 => some (.mmaS f)
      | _ => some (.mmaGs f)
    | 1 => some (.tzero f)
    | 2 => some (.tld f)
    | 3 => some (.tst f)
    | 4 => some (.omap f)
    | 5 => some (.msig f)
    | 6 => some (.mwait f)
    | 7 => some (.mloop f)
    | 8 => some (.mend f)
    | 9 => some (.mnop f)
    | 10 => some (.tepi f)
    | _ => none
  | _ => none

/-- Read one instruction and the words after it. It decides which instruction stands there; whether its fields are
well formed is check 12 (`Instr.wellFormed`). -/
def decode : List Word → Except DecodeError (Instr × List Word)
  | [] => .error .truncated
  | w0 :: rest =>
    let major := bits w0.toNat 29 22
    let build := fun (w1 : Word) (lit : Option Word) (rest : List Word) =>
      match instrOf major (fieldsOf w0 w1 lit) with
      | some i => Except.ok (i, rest)
      | none => Except.error (DecodeError.unassigned major)
    match wordCount w0, rest with
    | some 1, rest => build 0 none rest
    | some 2, w1 :: rest => build w1 none rest
    | some 3, w1 :: lit :: rest => build w1 (some lit) rest
    | some _, _ => .error .truncated
    | none, _ => .error .header

/-- Word 1 of an instruction (R17). -/
def word1 (f : Fields) : Word :=
  f.mod ++ f.minor ++ f.te ++ f.d.extractLsb' 6 2 ++ f.a.extractLsb' 6 2 ++ f.b.extractLsb' 6 2 ++ f.c

/-- Word 0 of an instruction of a length code (R14, R15). -/
def word0 (len : BitVec 2) (major : Nat) (f : Fields) : Word :=
  len ++ BitVec.ofNat 8 major ++ BitVec.ofBool f.gn ++ f.gp ++ f.d.extractLsb' 0 6 ++ f.a.extractLsb' 0 6 ++
    f.b.extractLsb' 0 6

/-- The words of an instruction, in the shortest length (R35); no words for a device step. -/
def encode (i : Instr) : List Word :=
  match i.fields with
  | none => []
  | some f =>
    match f.lit with
    | some x => [word0 2 i.major f, word1 f, x]
    | none => if word1 f = 0 then [word0 0 i.major f] else [word0 1 i.major f, word1 f]

/-- The words of an opcode-table word: `nbits` bits of `w`, and above them words of zeros up to three words. -/
def tableWords (nbits w : Nat) : List Word :=
  (List.range 3).map (fun k => BitVec.ofNat 32 ((w % 2 ^ nbits) >>> (32 * k)))

/-- What the decoder reads from an opcode-table word. -/
def decodeTableWord (nbits w : Nat) : Option Instr :=
  match decode (tableWords nbits w) with
  | .ok (i, _) => some i
  | .error _ => none

end Sys2Proof
end

