-- ==== Sys2Proof/Machine/Turn.lean ====
section
/-! DEFINITION. Time, and the words that an issuer has next (log entry 1). -/

namespace Sys2Proof.Machine

/-- The ticks of an interval in which a cluster's clock runs: until the tick at which it stops (R395). -/
def Cluster.running (c : Cluster) (time dt : Nat) : Nat := if c.stopped then min dt (c.stopAt - time) else dt

/-- The edges that a cluster's clock would have in an interval. -/
def Cluster.edgesIn (c : Cluster) (time dt : Nat) : Nat := (c.fraction + c.running time dt * c.mhz) / 1000

/-- The cycles of a cluster's clock in an interval: its edges but those that a stretch withholds (R5, R396). -/
def Cluster.cyclesIn (c : Cluster) (time dt : Nat) : Nat := c.edgesIn time dt - c.edges

/-- A cluster's clock over an interval: the edges still to withhold and the half-issue window count down (R396). -/
def Cluster.pass (c : Cluster) (time dt : Nat) : Cluster :=
  { c with
    cycles := c.cycles + c.cyclesIn time dt
    edges := c.edges - c.edgesIn time dt
    halfLeft := c.halfLeft - c.cyclesIn time dt
    fraction := (c.fraction + c.running time dt * c.mhz) % 1000 }

/-- Time passes (R399): the time base rises, every cluster's cores count the cycles of their clock, and resident teams
count their residence (R389) and the budget of a raised request (R247). -/
def State.advance (s : State) (dt : Nat) : State :=
  if dt = 0 then s else
  let edges := fun (c : Cluster) => c.cyclesIn s.time dt
  { s with
    time := s.time + dt
    cores := (List.range s.cores.length).zip s.cores |>.map (fun (k, x) =>
      { x with cycles := x.cycles + edges (s.cluster (clusterOf k)) })
    clusters := s.clusters.map (fun c => c.pass s.time dt)
    teams := s.teams.map (fun kt => (kt.1, { kt.2 with
      resident := kt.2.resident + dt
      used := if kt.2.request then kt.2.used + edges (s.cluster (clusterOf kt.2.core)) else kt.2.used })) }

/-- The clause that an issuer has in progress. -/
def State.clauseOf (s : State) : Issuer → Option ClauseRun
  | .group t g => (s.group? t g).bind (·.clause)
  | .sequencer t => (s.team? t).bind (·.seq.clause)

/-- The words of the next instruction of the current issuer. -/
def State.current (s : State) : Option (List Word) :=
  (s.clauseOf s.cur).bind (fun r => r.insns[r.idx - 1]?)

end Sys2Proof.Machine
end

