-- ==== Sys2Proof/Machine/Ctrl.lean ====
section
/-! DEFINITION. The CTRL class: transfers, exits, reconvergence and team barriers, traps and returns, control registers,
counters, and the instructions that arm records (R68–R70, R81–R85, R242–R246, R251, R379–R384, R400). -/

namespace Sys2Proof.Machine

/-- Change the clause that an instruction belongs to. -/
def View.modRun (v : View) (f : ClauseRun → ClauseRun) (s : State) : State :=
  s.modGroup v.t v.gi (fun g => { g with clause := g.clause.map f })

/-- The instruction has no result: it is counted and retires. -/
def plain (v : View) (s : State) : Out := finish 1 1 (fun _ => {}) v s

/-! ## Transfers -/

/-- The offset target of a transfer (R81). -/
def View.offsetTarget (v : View) : Nat := wrap 52 ((v.run.addr : Int) + sext ((v.lit).getD 0) 32)

/-- A transfer (R81, R82): each executing thread goes to its target, if it has one, when the clause completes; a
misaligned target traps (R29). `link` writes the return address to D. -/
def transfer (i : Instr) (link : Bool) (target : View → Nat → Option Nat) (s : State) : Out :=
  frame i (fun v s =>
    let s := v.modRun (fun r => { r with targets := v.lanes.lanes.foldl (fun m l =>
      match target v l with | some x => Map.put m l x | none => m) r.targets }) s
    finish 1 1 (fun l =>
      match target v l with
      | some x =>
        if x % 4 ≠ 0 ∨ x >>> 52 ≠ 0 then { trap := some (6, x) }
        else if link then { regs := writesOf v.f.d.toNat v.run.next 2 } else {}
      | none => {}) v s) s

/-- BRA (R82). -/
def execBra (f : Fields) (s : State) : Out := transfer (.bra f) false (fun v _ => some v.offsetTarget) s

/-- The condition of BRC (R83): 0 eq, 1 ne, 2 lt, 3 le, 4 gt, 5 ge against zero. -/
def branchTaken (code cond x : Nat) : Bool :=
  let y := readInt (codeSigned code) (codeBits code) x
  match cond with
  | 0 => y == 0
  | 1 => y != 0
  | 2 => y < 0
  | 3 => y ≤ 0
  | 4 => 0 < y
  | _ => 0 ≤ y

/-- BRC (R83). -/
def execBrc (f : Fields) (s : State) : Out :=
  transfer (.brc f) false (fun v l =>
    if branchTaken f.minor.toNat f.mod.toNat (v.a l) then some v.offsetTarget else none) s

/-- BRX (R82). -/
def execBrx (f : Fields) (s : State) : Out := transfer (.brx f) false (fun v l => some (v.a l)) s
/-- RET (R83). -/
def execRet (f : Fields) (s : State) : Out := transfer (.ret f) false (fun v l => some (v.a l)) s
/-- CALL (R82). -/
def execCall (f : Fields) (s : State) : Out := transfer (.call f) true (fun v _ => some v.offsetTarget) s
/-- CALLX (R82). -/
def execCallx (f : Fields) (s : State) : Out := transfer (.callx f) true (fun v l => some (v.a l)) s

/-- EXIT (R84): the threads stop being live when the clause completes. -/
def execExit (f : Fields) (s : State) : Out :=
  frame (.exit f) (fun v s => plain v (v.modRun (fun r => { r with exited := r.exited ||| v.lanes }) s)) s

/-- YIELD (R85). -/
def execYield (f : Fields) (s : State) : Out :=
  frame (.yield f) (fun v s => plain v (v.modRun (fun r => { r with yielded := r.yielded || v.lanes != 0 }) s)) s

/-! ## Barriers -/

/-- KSET (R69). -/
def execKset (f : Fields) (s : State) : Out :=
  frame (.kset f) (fun v s =>
    let set := fun (m : LaneSet) =>
      match f.minor.toNat with
      | 0 => v.lanes
      | 1 => m ||| v.lanes
      | _ => m &&& ~~~ v.lanes
    let s := if v.lanes = 0 then s
      else s.modGroup v.t v.gi (fun g => ({ g with kmask := modNth set f.a.toNat g.kmask } : Group).releaseK)
    plain v s) s

/-- KWAIT (R70): members park when the clause completes. A thread that executes KWAIT on two barriers in one clause parks on
the last of them: R70 does not say (DESIGN CHOICE, log entry 87). -/
def execKwait (f : Fields) (s : State) : Out :=
  frame (.kwait f) (fun v s =>
    let mask := v.g.kmask.getD f.a.toNat 0
    plain v (v.modRun (fun r =>
      { r with parkOn := (v.lanes &&& mask).lanes.foldl (fun m l => Map.put m l f.a.toNat) r.parkOn }) s)) s

/-- A group's arrival at a team barrier in a core cycle (R243). -/
def Team.barArrive (tm : Team) (gi n cnt now : Nat) (only : Bool) : Team :=
  if ((tm.barriers[n]?).getD .fresh).bits.getLsbD gi then
    tm.modGroup gi (fun g => { g with holds := g.holds ++ [.bar n true cnt only] })
  else
    let tm := { tm with barriers := modNth (·.arrive (some gi) cnt now) n tm.barriers }
    let tm := if only then tm else tm.modGroup gi (fun g => { g with holds := g.holds ++ [.bar n false cnt false] })
    tm.checkBarrier n now 40

/-- BAR (R242, R243). -/
def execBar (f : Fields) (s : State) : Out :=
  frame (.bar f) (fun v s =>
    plain v (if v.lanes = 0 then s
      else s.modTeam v.t (fun tm => tm.barArrive v.gi f.a.toNat f.b.toNat (s.core tm.core).cycles (f.minor.toNat == 1)))) s

/-! ## Traps, returns and stops -/

/-- TRAP and BRK (R380): the saved PC is the next header, the index 0, the detail the code and the header. -/
def trapNow (i : Instr) (f : Fields) (cause : Nat) (s : State) : Out :=
  frame i (fun v s =>
    .next (retire v.t v.gi 1 (v.lanes.lanes.foldl (fun s l =>
      takeTrap v.t v.gi l v.run.trapVec v.run.next cause 0 ((v.run.addr % 2 ^ 52) <<< 12 ||| f.b.toNat) s) s))) s

/-- TRAP (R380). -/
def execTrap (f : Fields) (s : State) : Out := trapNow (.trap f) f 11 s
/-- BRK (R380). -/
def execBrk (f : Fields) (s : State) : Out := trapNow (.brk f) f 10 s

/-- TRET (R379): threads in trap mode return when the clause completes, the others take ILLEGAL. -/
def execTret (f : Fields) (s : State) : Out :=
  frame (.tret f) (fun v s =>
    let back := LaneSet.filter v.lanes (fun l => (v.g.thread l).trapMode)
    let s := v.modRun (fun r => { r with tret := r.tret ||| back }) s
    finish 1 1 (fun l => if back.getLsbD l then {} else { trap := some (1, 0) }) v s) s

/-- HALT (R381). -/
def execHalt (f : Fields) (s : State) : Out :=
  frame (.halt f) (fun v s =>
    plain v (if v.lanes = 0 then s
      else s.halt v.team.part 10 (s.coreUnit v.team)
        { UnitFault.of v.team v.g v.run.addr f.b.toNat (32 * v.gi + v.lanes.lanes.headD 0) with index := v.run.idx })) s

/-! ## Control registers -/

/-- The value of CR_HALT (R387). -/
def Partition.haltValue (p : Partition) : Nat := bit p.halted 63 + bit p.haltDone 62 + p.haltCause

/-- The value of CR_TRAP_CAUSE with PEND (R377). -/
def Thread.causeValue (th : Thread) : Nat := th.trapCause.toNat % 4096 + bit th.pend.isSome 16

/-- The value of a control register for a thread (R382); of a team register that which its clause uses (R384). -/
def crValue (v : View) (s : State) (n l : Nat) : Nat :=
  let th := v.g.thread l
  let p := s.part v.team.part
  match n with
  | 0x00 => th.fpFlags.toNat
  | 0x01 => bits th.trapPc.toNat 51 0
  | 0x02 => th.causeValue
  | 0x03 => th.trapDetail.toNat
  | 0x04 => th.trapScratch.toNat
  | 0x08 => v.run.fpMode
  | 0x09 => v.run.trapVec.toNat
  | 0x0A => v.team.resident
  | 0x10 => p.config.pieces0 * 2 ^ 16 + (p.config.pieces0 + p.config.pieces1)
  | 0x11 => s.holdWays
  | 0x12 => p.mirrCtl.toNat
  | 0x18 => s.assayCtl.toNat
  | 0x19 => s.epoch
  | 0x20 => p.haltValue
  | _ => s.assayCounts.getD (n - 0x1A) 0 % 2 ^ 64

/-- A long-latency value that a checked run logs (R326, R329): the same frame for CRR, TIME and CYC. -/
def readValue (i : Instr) (n : Nat) (logged : Bool) (value : View → State → Nat → Nat) (s : State) : Out :=
  frame i (fun v s0 =>
    if logged && logWaits v.team v.g then stall s0
    else
      let raw := v.lanes.lanes.map (fun l => (l, value v s0 l))
      let (vals, s) := if logged then lanesThroughLog v 4 1 v.lanes (fun l => Map.get raw l 0) s0 else (raw, s0)
      let s := countExec v.t v.gi v.lanes s
      let (id, s) := s.fresh
      .next (retire v.t v.gi 1
        (sendLong v id n .none v.lanes (vals.map (fun lx => (lx.1, wordsOf lx.2 n))) false [] s))) s

/-- CRR (R383). -/
def execCrr (f : Fields) (s : State) : Out :=
  readValue (.crr f) 2 (0x10 ≤ f.b.toNat) (fun v s l => crValue v s f.b.toNat l) s

/-- TIME (R400). -/
def execTime (f : Fields) (s : State) : Out := readValue (.time f) 2 true (fun _ s _ => s.time % 2 ^ 64) s
/-- CYC (R400). -/
def execCyc (f : Fields) (s : State) : Out :=
  readValue (.cyc f) 2 true (fun v s _ => (s.core v.team.core).cycles % 2 ^ 64) s

/-- The place of an issue in the order of R384: by the core cycle, and of one cycle by the slot. The numbers below 4,096 stand for
the writes that a restore brought back. -/
def View.issueOrder (v : View) (s : State) : Nat := 4096 + 4 * (s.core v.team.core).cycles + v.gi % 4

/-- One thread's write of a control register (R384); reserved bits and RO fields are ignored. A team register is written
when the clause completes. -/
def crWrite (v : View) (n l x : Nat) (s : State) : State :=
  let onThread := fun (g : Thread → Thread) => s.modThread v.t v.gi l g
  match n with
  | 0x00 => onThread (fun th => { th with fpFlags := th.fpFlags &&& ~~~ BitVec.ofNat 5 x })
  | 0x01 => onThread (fun th => { th with trapPc := BitVec.ofNat 64 (bits x 51 0) })
  | 0x02 => onThread (fun th => { th with trapCause := BitVec.ofNat 64 (bits x 11 0) })
  | 0x03 => onThread (fun th => { th with trapDetail := BitVec.ofNat 64 x })
  | 0x04 => onThread (fun th => { th with trapScratch := BitVec.ofNat 64 x })
  | 0x08 => v.modRun (fun r => { r with teamWrites := r.teamWrites ++ [(n, v.issueOrder s, x)] }) s
  | 0x09 => v.modRun (fun r => { r with teamWrites := r.teamWrites ++ [(n, v.issueOrder s, x)] }) s
  | _ => s

/-- CRW (R384). -/
def execCrw (f : Fields) (s : State) : Out :=
  frame (.crw f) (fun v s =>
    plain v (v.lanes.lanes.foldl (fun s l => crWrite v f.b.toNat l (v.a l) s) s)) s

/-- What a team has left of its pre-emption budget, in cycles; 0 when no request is raised (R247, R251). -/
def Team.budgetLeft (tm : Team) : Nat :=
  if tm.request then (if tm.lb.preempt = 0 then 50000 else tm.lb.preempt) - tm.used else 0

/-- PREQ (R251). -/
def execPreq (f : Fields) (s : State) : Out :=
  frame (.preq f) (fun v s0 =>
    if logWaits v.team v.g then stall s0
    else
      let raw := if f.minor.toNat = 1 then v.team.budgetLeft else if v.team.request then 1 else 0
      let (vals, s) := lanesThroughLog v 4 1 v.lanes (fun _ => raw) s0
      finish 1 2 (fun l =>
        if f.minor.toNat = 1 then out32 v (Map.get vals l 0)
        else { preds := [(f.d.toNat, Map.get vals l 0 != 0)] }) v s) s

/-! ## Records -/

/-- The record address of a thread, which must be aligned (R244, R245). -/
def recordReach (v : View) (l : Nat) : Except (Nat × Nat) Nat :=
  let x := v.a l
  if x % 32 ≠ 0 ∨ x >>> 52 ≠ 0 then .error (6, x) else .ok x

/-- A record access enters the thread's store signature (R335). -/
def signRecords (v : View) (rs : List (Nat × Nat)) (s : State) : State :=
  if v.team.mode = .unchecked then s
  else rs.foldl (fun s lx => s.modThread v.t v.gi lx.1 (fun th =>
    { th with ss := rotl64 th.ss 23 ^^^ chunkHash 0 0xFF lx.2 0 })) s

/-- The accesses of an instruction to team records enter their group's queue (R215, R244–R246): for each lane the record and its
two operands. -/
def sendRecords (v : View) (insn aop : Nat) (quiet : Bool) (rs : List (Nat × Nat)) (data cmp : Nat → Nat) (s : State) : State :=
  let cnts := cntsOf v.team v.g (LaneSet.ofList (rs.map Prod.fst))
  queueLocal v insn 1 6 aop quiet (rs.foldl (fun ps lx => addLocal 5 v.g.asid
    ⟨lx.1, lx.2, 32, data lx.1, cmp lx.1, Map.get cnts lx.1 0, none, false, false, 0⟩ ps) []) s

/-- JADD (R244): the additions wait in the group's queue; a replaying run makes none (R326). -/
def execJadd (f : Fields) (s : State) : Out :=
  frame (.jadd f) (fun v s0 =>
    let (good, bad) := splitReach v (recordReach v)
    let s := signRecords v good (trapLanes v bad s0)
    let s := countExec v.t v.gi (LaneSet.ofList (good.map Prod.fst)) s
    let (id, s) := s.fresh
    .next (retire v.t v.gi 1 (if v.team.replays then s
      else sendRecords v id 0 true good (fun l => v.b l % 2 ^ 32) (fun _ => 0) s))) s

/-- Write and arm a record for SPAWN (R246). Of vb and vc bits 51:0 count: the manual names no outcome for others (DESIGN CHOICE,
log entry 113). `unit` and `u` are what a failing access records (R388). -/
def State.spawn (s : State) (p asid rec block succ unit : Nat) (u : UnitFault) : Nat × State :=
  let bad := fun (x : Nat) => (0, s.halt p 2 unit { u with detail := x })
  match s.readBlock p asid block with
  | none => bad block
  | some raw =>
    match s.pinRead 0 p asid rec 32 with
    | none => bad rec
    | some bs =>
      let gone := s.gridOf p asid rec
      let s := (s.pinMeet 0 p u asid block 256).pinMeet 0 p u asid rec 32
      let old := Record.parse (ofLeBytes bs)
      let lb := LaunchBlock.parse raw
      if gone.isSome || old.arm || old.q then (1, s)
      else if lb.refused lb.code raw then (3, s)
      else
        let new : Record := { code := bits lb.code 51 0, prio := lb.prio, kind := false, arm := false, q := false
                              p := false, frame := block, succ := succ, join := 0, asid := asid, reserved := false }
        (s.devPut p 2 asid rec rec 32 new.value).arm p asid rec unit u

/-- LAUNCH and SPAWN (R245, R246): the accesses wait in the group's queue, and each thread receives a status when its own has
performed. -/
def armLanes (i : Instr) (aop : Nat) (data cmp : View → Nat → Nat) (s : State) : Out :=
  frame i (fun v s0 =>
    let (good, bad) := splitReach v (recordReach v)
    let s := signRecords v good (trapLanes v bad s0)
    let lanes := LaneSet.ofList (good.map Prod.fst)
    let s := countExec v.t v.gi lanes s
    let (id, s) := s.fresh
    .next (retire v.t v.gi 1
      (sendRecords v id aop false good (data v) (cmp v) (sendLong v id 1 .none lanes [] false [] s)))) s

/-- LAUNCH (R245). -/
def execLaunch (f : Fields) (s : State) : Out := armLanes (.launch f) 1 (fun _ _ => 0) (fun _ _ => 0) s

/-- SPAWN (R246). -/
def execSpawn (f : Fields) (s : State) : Out :=
  armLanes (.spawn f) 2 (fun v l => bits (v.operand v.form.b f.b.toNat l) 51 0) (fun v l => bits (v.c l) 51 0) s

end Sys2Proof.Machine
end

