-- ==== Sys2Proof/Machine/Land.lean ====
section
/-! DEFINITION. Long-latency results land (R97, R103–R106, R145). -/

namespace Sys2Proof.Machine

/-- Writes in flight to a register by instructions before an operation take effect before its result lands. -/
def applyEarlier (tm : Team) (gi seq reg : Nat) (g : Group) : Group :=
  match g.clause with
  | none => g
  | some r =>
    let (now, rest) := r.fly.partition (fun w => w.reg == reg && w.seq < seq)
    now.foldl (fun g w => applyFly tm gi w g) { g with clause := some { r with fly := rest } }

/-- The values that lanes write to a register, with the injected flip of R444 where it applies, and whether it does: a write
that fails R97 by itself takes no effect, and is not the one that the flip waits for. -/
def State.flipped (s : State) (tm : Team) (gi : Nat) (g : Group) (reg : Nat) (vals : Map Word) : Map Word × Bool :=
  if (shapeWrite (tm.shape gi reg) (Map.get g.regs reg []) vals).isNone then (vals, false)
  else (vals.map (fun lx => (lx.1, if s.injects tm gi lx.1 reg then flipWord s lx.2 else lx.2)),
        vals.any (fun lx => s.injects tm gi lx.1 reg))

/-- One register of a result is written under R97 (R105): the marked threads become full, or poisoned when no rule of
R97 is satisfied. The injected flip of R444 applies to the values. -/
def landReg (t gi seq reg : Nat) (vals : Map Word) (marks : LaneSet) (cnts : Map Nat) (s : State) : State :=
  match s.team? t with
  | none => s
  | some tm =>
    let s := s.modGroup t gi (applyEarlier tm gi seq reg)
    let (vals, hit) := match s.group? t gi with
      | some g => s.flipped tm gi g reg vals
      | none => (vals, false)
    let s := if hit then s.injected tm.copy else s
    s.modGroup t gi (fun g =>
      match shapeWrite (tm.shape gi reg) (Map.get g.regs reg []) vals with
      | none => { g with
          empty := Map.put g.empty reg (Map.get g.empty reg 0 &&& (~~~ marks ||| g.laterMarks seq reg))
          poison := Map.put g.poison reg (Map.get g.poison reg 0 ||| (marks &&& ~~~ g.laterMarks seq reg)) }
      | some _ =>
        let g := if vals.isEmpty then g else writeReg tm gi seq reg vals cnts g
        g.fill seq reg marks)

/-- The lanes of an operation whose words are fixed and not yet written. -/
def LongOp.ready (o : LongOp) : LaneSet := lanesOf o.results &&& ~~~ o.landed

/-- The lanes that a register of the operation receives now: in a G register each lane by itself, in a U or an A register
all together when the last is fixed (R189). -/
def landLanes (shape : Nat) (o : LongOp) : LaneSet :=
  if shape = 3 then o.ready else if lanesOf o.results = o.lanes then o.lanes else 0

/-- Lanes that write: not exited, and not turned away by an enabled flag (R84, R145). -/
def landing (g : Group) (o : LongOp) (m : LaneSet) : LaneSet :=
  LaneSet.filter m (fun l => (g.thread l).live && (Map.get o.flags l 0 &&& BitVec.ofNat 5 o.fpMode) == 0)

/-- Write what has arrived of an operation's registers. In a U or an A register the lanes that raise no enabled flag write for
all: R145 has the register keep its old contents for the marked threads that do, and R55 does not touch the others (DESIGN
CHOICE, log entry 111). -/
def landWords (t gi : Nat) (o : LongOp) (s : State) : State :=
  (List.range o.nregs).foldl (fun (s : State) k =>
    match s.team? t, s.group? t gi with
    | some tm, some g =>
      let shape := tm.shape gi (o.dst + k)
      let now := landLanes shape o
      let marks := ((g.ops.find? (fun x => x.id == o.id)).map (·.marks.getD k 0)).getD 0
      let mine := if shape = 3 then marks &&& now else marks
      if now = 0 ∨ mine = 0 then s
      else
        let writers := landing g o (if shape = 3 then mine else now)
        let vals := writers.lanes.map (fun l => (l, (Map.get o.results l []).getD k 0))
        landReg t gi o.id (o.dst + k) vals mine o.cnts s
    | _, _ => s) s

/-- A result that fails R97 waits for an earlier result that is pending on the same U or A register: that one stays
pending and the register stays empty (R106), so that what a read sees depends on program order alone. -/
def State.landWaits (s : State) (t gi : Nat) (o : LongOp) : Bool :=
  match s.team? t, s.group? t gi with
  | some tm, some g =>
    (List.range o.nregs).any (fun k =>
      let reg := o.dst + k
      let shape := tm.shape gi reg
      let now := landLanes shape o
      shape != 3 && now != 0 && o.marks.getD k 0 != 0 && g.earlierMarks o.id reg != 0 &&
      (shapeWrite shape (Map.get g.regs reg []) (s.flipped tm gi g reg ((landing g o now).lanes.map (fun l =>
        (l, (Map.get o.results l []).getD k 0)))).1).isNone)
  | _, _ => false

/-- A result lands: the words that are fixed are written, and the operation is gone when its last lane has landed. -/
def landOp (t gi id : Nat) (s : State) : State :=
  match (s.group? t gi).bind (fun g => g.ops.find? (fun o => o.id == id)) with
  | none => s
  | some o =>
    let s := landWords t gi o s
    let landed := o.landed ||| lanesOf o.results
    s.modGroup t gi (fun g =>
      let rest := if landed = o.lanes then g.ops.filter (fun x => x.id != id)
        else g.ops.map (fun x => if x.id = id then { x with landed := landed } else x)
      { g with ops := rest })

/-- A result that is fixed and has not landed is written (R105). -/
def landResult (t gi id : Nat) (s : State) : State :=
  match (s.group? t gi).bind (fun g => g.ops.find? (fun o => o.id == id)) with
  | some o => if o.sfu ∨ o.ready = 0 ∨ s.landWaits t gi o then s else landOp t gi id s
  | none => s

/-- The lanes of a special function whose result was not cancelled in every destination (R106). A pair of which one register has
been taken still sets its flags: R145 does not say (DESIGN CHOICE, log entry 112). -/
def LongOp.kept (o : LongOp) : LaneSet := o.lanes &&& o.marks.foldl (· ||| ·) 0

/-- SFU_RESULT_LANDS (R145): the threads set their flags; those with an enabled flag keep the old value and have a
pending ARITHMETIC trap, the others are written. Where two such results of one thread land before its next clause, the
thread takes one trap, and its detail is that of the later landing: R145 does not say which (DESIGN CHOICE, log entry
87). -/
def execSfuResultLands (team group op : Nat) (s : State) : Out :=
  match (s.group? team group).bind (fun g => (g.ops.find? (fun o => o.id == op)).map (fun o => (g, o))) with
  | some (g, o) =>
    if !o.sfu || s.landWaits team group o then .next s
    else
      let alive := LaneSet.filter o.kept (fun l => (g.thread l).live)
      let s := alive.lanes.foldl (fun (s : State) l =>
        let fl := Map.get o.flags l 0
        s.modThread team group l (fun th =>
          let th := { th with fpFlags := th.fpFlags ||| fl }
          if fl &&& BitVec.ofNat 5 o.fpMode = 0 then th
          else { th with pend := some (BitVec.ofNat 64 ((o.addr % 2 ^ 52) <<< 12 ||| o.idx <<< 8 ||| fl.toNat)) })) s
      .next (landOp team group op s)
  | none => .next s

end Sys2Proof.Machine
end

