-- ==== Sys2Proof/Machine/Gate.lean ====
section
/-! DEFINITION. Publishing code (R353–R360), and gates: the table entry, GATE, GRET, entry into a callee and completion
(R362–R372). -/

namespace Sys2Proof.Machine

/-! ## PUBLISH -/

/-- Publish the lines of physical ranges (R354): registrations are recalled and every instruction cache inside the scope
drops the lines; `tag` chooses the lines that a checked run tags instead (R360). -/
def State.publishRanges (s : State) (rs : List (Nat × Nat)) (scope origin : Nat) (tag : Nat → Bool)
    (mine : HeldLine → Bool) : State :=
  (rs.map (fun r => linesOf r.1 r.2)).flatten.eraseDups.foldl (fun (s : State) pa =>
    if tag pa then
      { s with heldLines := s.heldLines.map (fun h =>
          if mine h && h.pa == pa then { h with tag := some ⟨scope, origin⟩ } else h) }
    else ((s.recall pa 128).publishLine pa scope origin).dropCode pa scope origin) s

/-- A held line belongs to a resident run. -/
def HeldLine.ofTeam (h : HeldLine) (tm : Team) : Bool :=
  h.part == tm.part && h.record == tm.record && h.asid == tm.asid && h.index == tm.index && h.copy == tm.copy

/-- The range check of PUBLISH: a checked thread of a team without MID_PUBLISH traps (R354). -/
def publishReach (v : View) (l : Nat) : Except (Nat × Nat) (Option (Nat × Nat)) :=
  match rangeReach v l with
  | .ok (some xn) =>
    if v.team.mode != .unchecked && !v.g.inLogged l && !hasBit v.team.lb.flags 0 then .error (13, xn.1) else .ok (some xn)
  | r => r

/-- PUBLISH (R353, R354, R359, R360). -/
def execPublish (f : Fields) (s : State) : Out :=
  frame (.publish f) (fun v s0 =>
    let scope := f.d.toNat
    let checked := fun l => v.team.mode != .unchecked && !v.g.inLogged l
    let (good, bad) := splitReach v (publishReach v)
    let s := trapLanes v bad s0
    let ranges := good.filterMap (fun lr => lr.2.map (fun xn => (lr.1, xn.1, xn.2)))
    let s := ranges.foldl (fun (s : State) r =>
      if checked r.1 then s.modThread v.t v.gi r.1 (fun th =>
        { th with ss := rotl64 th.ss 23 ^^^ chunkHash 0 0 r.2.1 (r.2.2 + scope <<< 32) })
      else s) s
    let ranges := ranges.filter (fun r => !(v.team.mode == .trail && checked r.1))
    let s := countExec v.t v.gi (LaneSet.ofList (good.map Prod.fst)) s
    let (id, s) := s.fresh
    let s := if ranges.isEmpty then s else s.modGroup v.t v.gi (fun g => { g with pending := g.pending ++
      [{ id := id, addr := v.run.addr, idx := v.run.idx, kind := 2, lanes := LaneSet.ofList (ranges.map Prod.fst), scope := scope, pset := 2
         sset := if ranges.any (fun r => checked r.1) then 1 else 0, ranges := ranges, asid := g.asid }] })
    .next (retire v.t v.gi 1 s)) s

/-- PUBLISH_COMPLETE (R354): no fence keeps the PUBLISH back, earlier writes of its threads have performed; every line of the
range is marked. What misses its translation cache waits for its walk (R222), and units that have stopped serve it no more
(R386). -/
def execPublishComplete (team group fence : Nat) (s : State) : Out :=
  match s.pendingOf team group fence 2 with
  | some (tm, g, p) =>
    let k : Asker := ⟨4, team, p.id⟩
    if s.before team group tm g p || p.lanes.lanes.any (fun l => g.held p.id l 2) || s.unitDown tm.part (s.coreUnit tm) ||
        s.releasing tm then .next s
    else if !s.allKnown k (dieOf tm.core) tm.part p.asid p.pages then
      .next (s.askWalks k (dieOf tm.core) tm.part p.asid p.pages)
    else
      match p.ranges.find? (fun r => (s.rangePages (dieOf tm.core) tm.part p.asid r.2.1 r.2.2).isNone) with
      | some r => .next (((s.pendingFault team group p r.2.1).dropPending team group fence).spend k)
      | none =>
        let lines := s.ranged tm p
        if s.rangeDown tm.part lines then .next s
        else
          let mine := fun (h : HeldLine) => h.ofTeam tm
          let s1 := s.publishRanges lines p.scope tm.core
            (fun pa => p.sset == 1 && s.heldLines.any (fun h => mine h && h.pa == pa && !h.bytes.isEmpty)) mine
          .next ((s1.dropPending team group fence).spend k)
  | none => .next s

/-- The active cores of a partition, in ascending physical order. -/
def State.coresOf (s : State) (p : Nat) : List Nat :=
  (List.range 128).filter (fun c => (s.core c).active && (s.cluster (clusterOf c)).partition == some p)

/-- PUB_CTRL_GO (R358): a write of CR_PUB_CTRL; with GO it publishes the range at .DEV, at once, with the walks that it needs made
within it (DESIGN CHOICE, log entry 46); homes that have stopped serve it no more (R386). -/
def execPubCtrlGo (part : Nat) (value : Dword) (s : State) : Out :=
  let x := s.part part
  let w := value.toNat
  if x.pubBusy then .next s
  else
    let s := s.modPart part (fun x => { x with pubCtrl := BitVec.ofNat 64 (bits w 63 32 <<< 32 ||| bits w 15 0) })
    if !hasBit w 31 then .next s
    else
      let origin := (s.coresOf part).headD 0
      match s.rangePages (dieOf origin) part (bits w 15 0) x.pubVa.toNat ((bits w 63 32 + 1) * 128) with
      | none => .next (s.halt part 2 1023 { UnitFault.none with detail := x.pubVa.toNat, asid := bits w 15 0 })
      | some rs =>
        let lines := rs.map (·.1)
        .next (if s.rangeDown part lines then s else s.publishRanges lines 3 origin (fun _ => false) (fun _ => false))

/-! ## Gate entries -/

/-- A gate entry (R363). -/
structure GateEntry where
  pa : Nat
  pc : Nat
  handler : Nat
  base : Nat
  size : Nat
  nframes : Nat
  asid : Nat
  domain : Nat
  narg : Nat
  nret : Nat
  nreg : Nat
  slice : Nat
  fpMode : Nat
  attr : Nat
  scratch : Nat
  budget : Nat
  rest : Nat

/-- Read a gate entry from its 64 bytes (R363). -/
def GateEntry.parse (pa : Nat) (b : List Byte) : GateEntry where
  pa := pa
  pc := field b 0 8
  handler := field b 8 8
  base := field b 16 8
  size := field b 24 4
  nframes := field b 28 2
  asid := field b 30 2
  domain := field b 32 2
  narg := field b 34 1
  nret := field b 35 1
  nreg := field b 36 1
  slice := field b 37 1
  fpMode := field b 38 1
  attr := field b 39 1
  scratch := field b 40 4
  budget := field b 44 4
  rest := field b 48 16

/-- The words of registers in a frame and its other parts (R365, row 3). -/
def GateEntry.need (e : GateEntry) (tm : Team) (gi : Nat) : Nat :=
  roundUp (4096 + 4 * mapSize (tm.map gi) + 32 * 64 * e.slice + e.scratch) 4096

/-- The checks of R365 on a gate entry, in order: the status, 0 where all pass. -/
def GateEntry.status (e : GateEntry) (tm : Team) (gi : Nat) : Nat :=
  let badPc := fun (x : Nat) => x % 4 != 0 || x >>> 52 != 0
  if !hasBit e.attr 7 || bits e.attr 6 1 != 0 || e.rest != 0 || 64 < e.narg || 64 < e.nret || 32 < e.slice ||
      e.nframes == 0 || 32768 < e.nframes || e.base % 4096 != 0 || e.size % 4096 != 0 || e.scratch % 4096 != 0 ||
      badPc e.pc || badPc e.handler then 1
  else if e.nreg < max e.narg e.nret || (List.range e.nreg).any (fun n => tm.shape gi n != 3) then 2
  else if tm.lb.slice < e.slice || tm.lb.priv < tm.lb.groups * e.scratch || e.size < e.need tm gi then 3
  else 0

/-- The gate entry that a group's identifier and a gate number name (R362, R365), and the machine after it was read: a violation,
status 1, or the entry. `u` is what the homes record (R388). -/
def State.gateEntry (s : State) (p asid n : Nat) (u : UnitFault) : Except Unit (Option GateEntry) × State :=
  let d := (s.part p).gateDir.toNat
  let barred := fun (s : State) (pa : Nat) => homeOf pa == .nowhere || homeOf pa == .registers || s.refused pa
  if bits d 63 48 < asid then (.ok none, s)
  else
    let slot := (bits d 47 12 <<< 12) + 8 * asid
    if barred s slot then (.error (), s)
    else
      let (b, s) := s.physRead p u slot 8
      let e := ofLeBytes b
      if !hasBit e 0 || bits e 55 48 != 0 || bits e 5 1 != 0 || bits e 63 56 < n then (.ok none, s)
      else
        let pa := (bits e 47 6 <<< 6) + 64 * n
        if barred s pa then (.error (), s)
        else
          let (b, s) := s.physRead p u pa 64
          (.ok (some (GateEntry.parse pa b)), s)

/-! ## GATE and GRET -/

/-- GATE (R364, R365): the statuses decided at entry are kept, and the group waits for its entry. -/
def execGate (f : Fields) (s : State) : Out :=
  frame (.gate f) (fun v s =>
    if v.lanes = 0 then plain v s
    else
      let inTrap := LaneSet.filter v.lanes (fun l => (v.g.thread l).trapMode)
      let others := v.lanes &&& ~~~ inTrap
      let u := { UnitFault.of v.team v.g v.run.addr 0 (32 * v.gi + others.lanes.headD 0) with index := v.run.idx }
      let (found, s) := if others = 0 then (.ok none, s) else s.gateEntry v.team.part v.g.asid f.b.toNat u
      match found with
      | .error _ => plain v (s.violate v (s.part v.team.part).gateDir.toNat)
      | .ok entry =>
        let st := match entry with | some e => e.status v.team v.gi | none => 1
        let e := entry.getD (GateEntry.parse 0 [])
        let call : GateCall := {
          waiting := true, frame := 0, frameIndex := 0, callerAsid := v.g.asid, gate := f.b.toNat
          logged := hasBit e.attr 0, entered := if st = 0 then others else 0, named := v.lanes
          early := inTrap.lanes.map (fun l => (l, 6)) ++ (if st = 0 then [] else others.lanes.map (fun l => (l, st)))
          entryPa := e.pa, asid := e.asid, handler := e.handler, pc := e.pc, frameBase := e.base, frameSize := e.size
          nframes := e.nframes, narg := e.narg, nret := e.nret, slice := e.slice, fpMode := e.fpMode
          scratch := e.scratch, budget := if e.budget = 0 then 2 ^ 32 else e.budget, domain := e.domain
          dest := f.d.toNat, trapStatus := f.mod.getLsbD 0, addr := v.run.addr, idx := v.run.idx, next := v.run.next
          cnts := cntsOf v.team v.g v.lanes, regs := [], empty := [], poison := [], threads := [], pad := [] }
        plain v (s.modGroup v.t v.gi (fun g => { g with gate := some call }))) s

/-- GRET (R369). -/
def execGret (f : Fields) (s : State) : Out :=
  frame (.gret f) (fun v s =>
    let inside := LaneSet.filter v.lanes v.g.inCall
    let s := trapLanes v ((v.lanes &&& ~~~ inside).lanes.map (fun l => (l, (1, 0)))) s
    let s := countExec v.t v.gi inside s
    .next (retire v.t v.gi 1 (finishCall v.t v.gi (if f.minor.toNat = 1 then 4 else 0) inside s))) s

/-! ## Entry -/

/-- The lowest clear bit of a claim map (R366). -/
def freeFrame (map : List Byte) (n : Nat) : Option Nat :=
  (List.range n).find? (fun k => !(map.getD (k / 8) 0).getLsbD (k % 8))

/-- The bytes of a private array in a range, moved to start at 0. -/
def cutMap (m : Map Byte) (lo n : Nat) : Map Byte := m.filter (fun ab => lo ≤ ab.1 && ab.1 < lo + n)

/-- Replace a range of a private array by what was cut from it. -/
def restoreMap (m saved : Map Byte) (lo n : Nat) : Map Byte :=
  saved.foldl (fun m ab => Map.put m ab.1 ab.2) (m.filter (fun ab => !(lo ≤ ab.1 && ab.1 < lo + n)))

/-- What a group saves of one entering thread (R366). -/
def saveThread (tm : Team) (gi l : Nat) (g : Group) (c : GateCall) : GateThread :=
  let th := g.thread l
  { lane := l, next := c.next, preds := th.preds, fpFlags := th.fpFlags, trapPc := th.trapPc, trapCause := th.trapCause
    trapDetail := th.trapDetail, trapScratch := th.trapScratch, pend := th.pend
    slice := cutMap (Map.get tm.slices (32 * gi + l) []) (64 * tm.lb.slice - 64 * c.slice) (64 * c.slice) }

/-- An entering thread in the callee (R366). -/
def enterThread (c : GateCall) (th : Thread) : Thread :=
  { th with
    pc := c.pc, idx := 0, preds := 0, fpFlags := 0, trapPc := 0, trapCause := 0, trapDetail := 0, trapScratch := 0
    pend := none, budget := c.budget, status := none }

/-- Zero the slice bytes of entering threads and the callee scratch (R366). -/
def zeroCallee (gi : Nat) (c : GateCall) (tm : Team) : Team :=
  let tm := c.entered.lanes.foldl (fun (tm : Team) l =>
    sliceWrite (32 * gi + l) (64 * tm.lb.slice - 64 * c.slice) (List.replicate (64 * c.slice) 0) tm) tm
  { tm with pad := padPut tm.pad (tm.lb.priv - (gi + 1) * c.scratch) (List.replicate c.scratch 0) }

/-- Steps 3 to 5 of R366. -/
def enterCall (gi k : Nat) (c : GateCall) (tm : Team) : Team :=
  let saved := fun {α : Type} (m : Map α) => m.filter (fun kv => c.narg ≤ kv.1)
  let kept := fun {α : Type} (m : Map α) => m.filter (fun kv => kv.1 < c.narg)
  let scratch := cutMap tm.pad (tm.lb.priv - (gi + 1) * c.scratch) c.scratch
  let tm' := zeroCallee gi c tm
  tm'.modGroup gi (fun g =>
    let c := { c with
      waiting := false, frameIndex := k, frame := c.frameBase + 4096 + k * c.frameSize
      regs := saved g.regs, empty := saved g.empty, poison := saved g.poison
      threads := c.entered.lanes.map (fun l => saveThread tm gi l g c), pad := scratch }
    c.entered.lanes.foldl (fun (g : Group) l => g.modThread l (enterThread c))
      { g with
        regs := kept g.regs, empty := kept g.empty, poison := kept g.poison
        asid := c.asid, rotation := 0, gate := some c })

/-! ## Completion -/

/-- The lanes of a G register's map state that come from the frame. -/
def mixLanes (e : LaneSet) (callee frame : LaneSet) : LaneSet := (callee &&& e) ||| (frame &&& ~~~ e)

/-- One register at completion (R370): `st` gives the status of each entered lane. -/
def gateReg (c : GateCall) (st : Nat → Nat) (n : Nat) (g : Group) : Group :=
  let e := c.entered
  let g := if max c.narg c.nret ≤ n then
      { g with
        regs := match Map.get? c.regs n with | some w => Map.put g.regs n w | none => Map.del g.regs n
        empty := Map.put g.empty n (Map.get c.empty n 0)
        poison := Map.put g.poison n (Map.get c.poison n 0) }
    else if c.narg ≤ n then
      { g with
        regs := Map.put g.regs n ((List.range 32).map (fun l =>
          if e.getLsbD l then readWords 3 (Map.get g.regs n []) l else readWords 3 (Map.get c.regs n []) l))
        empty := Map.put g.empty n (mixLanes e (Map.get g.empty n 0) (Map.get c.empty n 0))
        poison := Map.put g.poison n (mixLanes e (Map.get g.poison n 0) (Map.get c.poison n 0)) }
    else g
  let zero := LaneSet.filter e (fun l => (n < c.nret && st l != 0) || (c.nret ≤ n && n < c.narg))
  if zero = 0 then g
  else { g with
    regs := Map.put g.regs n ((List.range 32).map (fun l =>
      if zero.getLsbD l then 0 else readWords 3 (Map.get g.regs n []) l))
    empty := Map.put g.empty n (Map.get g.empty n 0 &&& ~~~ zero)
    poison := Map.put g.poison n (Map.get g.poison n 0 &&& ~~~ zero) }

/-- The state that each entered thread gets back (R370). -/
def backThread (x : GateThread) (th : Thread) : Thread :=
  { th with
    pc := x.next, idx := 0, trapMode := false, preds := x.preds, fpFlags := x.fpFlags, trapPc := x.trapPc
    trapCause := x.trapCause, trapDetail := x.trapDetail, trapScratch := x.trapScratch, pend := x.pend, status := none }

/-- Write the statuses of a call to D in the live threads of S, with the injected flip of R444, or make them all take SHAPE
(R370). -/
def gateStatus (t gi : Nat) (c : GateCall) (st : Nat → Nat) (s : State) : State :=
  match s.team? t, s.group? t gi with
  | some tm, some g =>
    let lanes := (c.named &&& g.live).lanes
    let (vals, hit) := s.flipped tm gi g c.dest (lanes.map (fun l => (l, BitVec.ofNat 32 (st l))))
    let s := if hit then s.injected tm.copy else s
    match shapeWrite (tm.shape gi c.dest) (Map.get g.regs c.dest []) vals with
    | none => lanes.foldl (fun s l => takeTrap t gi l tm.trapVec c.next 3 0 c.dest s) s
    | some _ =>
      let (id, s) := s.fresh
      let s := if vals.isEmpty then s else s.modGroup t gi (writeReg tm gi id c.dest vals c.cnts)
      if c.trapStatus then
        (lanes.filter (fun l => st l != 0)).foldl (fun s l =>
          takeTrap t gi l tm.trapVec c.next 9 0 ((c.addr % 2 ^ 52) <<< 12 ||| st l) s) s
      else s
  | _, _ => s

/-- The call of a group ends (R370): registers, threads, slices and scratch go back, the frame is released, and the
statuses are written last. Argument and return registers are signed as the GATE's writes (R372). -/
def endCall (t gi : Nat) (c : GateCall) (st : Nat → Nat) (s : State) : State :=
  match s.team? t with
  | none => s
  | some tm =>
    let map := (List.range 256).filter (fun n => tm.shape gi n != 0)
    let s := if c.threads.isEmpty then s else s.modTeam t (fun tm =>
      let lo := 64 * tm.lb.slice - 64 * c.slice
      let tm := c.threads.foldl (fun (tm : Team) x =>
        let key := 32 * gi + x.lane
        { tm with slices := Map.put tm.slices key (restoreMap (Map.get tm.slices key []) x.slice lo (64 * c.slice)) }) tm
      let tm := { tm with pad := restoreMap tm.pad c.pad (tm.lb.priv - (gi + 1) * c.scratch) c.scratch }
      tm.modGroup gi (fun g =>
        let g := map.foldl (fun g n => gateReg c st n g) g
        c.threads.foldl (fun (g : Group) x => g.modThread x.lane (backThread x)) g))
    let s := s.modGroup t gi (fun g =>
      let g := { g with asid := c.callerAsid, gate := none, rotation := 0 }
      (List.range c.narg).foldl (fun g n => signLanes tm gi n c.entered c.cnts g) g)
    gateStatus t gi c st s

/-- The status of a lane at completion: decided at entry, or the thread's own. -/
def GateCall.statusOf (c : GateCall) (g : Group) (l : Nat) : Nat :=
  match Map.get? c.early l with
  | some x => x
  | none => ((g.thread l).status).getD 0

/-- The kind-2 values that a replaying run takes for a logged call (R372): NRET registers and the status of a lane. -/
def takeCall (t gi l : Nat) (c : GateCall) (s : State) : (List Nat × Nat) × State :=
  let (vs, s) := (List.range c.nret).foldl (fun (acc : List Nat × State) _ =>
    let (x, s) := takeLog t gi l 2 acc.2
    (acc.1 ++ [x], s)) ([], s)
  let (x, s) := takeLog t gi l 2 s
  ((vs, x), s)

/-- A logged call in a replaying run (R372): nothing is entered, and the writes of R370 are applied from the log. -/
def replayCall (t gi : Nat) (c : GateCall) (s : State) : State :=
  let (vals, s) := c.entered.lanes.foldl (fun (acc : Map (List Nat × Nat) × State) l =>
    let (x, s) := takeCall t gi l c acc.2
    (acc.1 ++ [(l, x)], s)) ([], s)
  let st := fun l => match Map.get? c.early l with | some x => x | none => (Map.get vals l ([], 0)).2
  let s := s.modGroup t gi (fun g =>
    let g := (List.range c.nret).foldl (fun (g : Group) n =>
      { g with
        regs := Map.put g.regs n ((List.range 32).map (fun l =>
          match Map.get? vals l with
          | some x => BitVec.ofNat 32 (x.1.getD n 0)
          | none => readWords 3 (Map.get g.regs n []) l))
        empty := Map.put g.empty n (Map.get g.empty n 0 &&& ~~~ c.entered)
        poison := Map.put g.poison n (Map.get g.poison n 0 &&& ~~~ c.entered) }) g
    (List.range (max c.narg c.nret)).foldl (fun g n => if n < c.nret then gateReg { c with narg := max c.narg c.nret } st n g
      else gateReg c st n g) g)
  endCall t gi { c with threads := [] } st s

/-- Change the claim map's bit of a frame (R363), as the core of the team reaches it; none when the page fails. -/
def State.claim (s : State) (die p : Nat) (c : GateCall) (k : Nat) (on : Bool) : Option State :=
  match s.pinRead die p c.asid (c.frameBase + k / 8) 1 with
  | some [b] => s.pinWrite die p c.asid (c.frameBase + k / 8)
      [if on then b ||| (1#8 <<< (k % 8)) else b &&& ~~~ (1#8 <<< (k % 8))]
  | _ => none

/-- A protection violation that a group's gate call meets (R365, R370, R388). -/
def State.callFault (s : State) (t gi : Nat) (c : GateCall) (va : Nat) : State :=
  s.accessFault t gi c.addr c.idx (c.named.lanes.headD 0) va

/-- A home of some bytes of a call's pinned pages has stopped serving the partition (R386). -/
def State.frameDown (s : State) (die p asid va n : Nat) : Bool :=
  (pageChunks va n).any (fun k => ((s.pinned die p asid k.1).map (fun x => s.rangeDown p [(x.pa, k.2)])).getD false)

/-- The group has nothing pending that GATE's entry and completion wait for (R366, R370), and its accesses to private bytes,
which the entry and the completion move, have performed; around a logged callee of a checked run its stores have left the
queue too. -/
def Group.settledFor (g : Group) (tm : Team) (c : GateCall) : Bool :=
  g.clause.isNone && g.ops.isEmpty && g.locals.all (fun o => o.space != 1) &&
  (!(c.logged && tm.mode != .unchecked) || g.stores.isEmpty)

/-- GATE_ENTRY (R366): when the group's results have landed and a frame is free, the callee is entered; a call that
nobody enters completes at once (R365), and a logged call of a replaying run is taken from the log (R372). -/
def execGateEntry (team group : Nat) (s : State) : Out :=
  match s.team? team, s.group? team group with
  | some tm, some g =>
    match g.gate with
    | none => .next s
    | some c =>
      if !c.waiting || !g.settledFor tm c || s.stopped tm then .next s
      else if c.entered = 0 then .next (endCall team group c (c.statusOf g) s)
      else if c.logged && tm.replays then .next (replayCall team group c s)
      else
        let die := dieOf tm.core
        let u := { UnitFault.of tm g c.addr 0 (32 * group + c.named.lanes.headD 0) with index := c.idx }
        let n := (c.nframes + 7) / 8
        match s.pinRead die tm.part c.asid c.frameBase n with
        | none => .next (s.callFault team group c c.frameBase)
        | some map =>
          match freeFrame map c.nframes with
          | none => .next s
          | some k =>
            let frame := c.frameBase + 4096 + k * c.frameSize
            if s.frameDown die tm.part c.asid c.frameBase n || s.frameDown die tm.part c.asid frame c.frameSize then .next s
            else
              let s := s.pinMeet die tm.part u c.asid c.frameBase n
              let bytes := (List.range c.frameSize).map (fun i => Config.privateByte s.nonce (frame + i))
              match (s.claim die tm.part c k true).bind (fun s => s.pinWrite die tm.part c.asid frame bytes) with
              | none => .next (s.callFault team group c frame)
              | some s => .next ({ s with nonce := s.nonce + 1 }.modTeam team (enterCall group k c))
  | _, _ => .next s

/-- GATE_COMPLETION (R370): every entered thread has finished and the results have landed; the frame is read back and released,
under the callee's identifier (R363); a lead logs a logged call's values (R372). -/
def execGateCompletion (team group : Nat) (s : State) : Out :=
  match s.team? team, s.group? team group with
  | some tm, some g =>
    match g.gate with
    | none => .next s
    | some c =>
      if c.waiting || !g.settledFor tm c || s.stopped tm || c.entered.lanes.any (fun l => (g.thread l).status.isNone) then
        .next s
      else
        let die := dieOf tm.core
        let u := { UnitFault.of tm g c.addr 0 (32 * group + c.named.lanes.headD 0) with index := c.idx }
        match (pageChunks c.frame c.frameSize).find? (fun k => (s.pinned die tm.part c.asid k.1).isNone) with
        | some k => .next (s.callFault team group c k.1)
        | none =>
          if s.frameDown die tm.part c.asid c.frame c.frameSize ||
              s.frameDown die tm.part c.asid (c.frameBase + c.frameIndex / 8) 1 then .next s
          else
            match (s.pinMeet die tm.part u c.asid c.frame c.frameSize).claim die tm.part c c.frameIndex false with
            | none => .next (s.callFault team group c c.frameBase)
            | some s =>
              let st := c.statusOf g
              let s := if c.logged && tm.mode == .lead then
                  c.entered.lanes.foldl (fun s l =>
                    let entry := fun (x : Nat) =>
                      addLog team ⟨x, 32 * group + l, 2, 0, Map.get c.cnts l 0 % 2 ^ 32, []⟩
                    let s := (List.range c.nret).foldl (fun s n =>
                      entry (if st l = 0 then (readReg tm group g n l).toNat else 0) s) s
                    entry (st l) s) s
                else s
              .next (endCall team group c st s)
  | _, _ => .next s

end Sys2Proof.Machine
end

