-- ==== Sys2Proof/Machine/Hold.lean ====
section
/-! DEFINITION. What a checked run sees and keeps of global memory: its held lines, the recency of a line, the stamp
that a forwarded read sets (R183, R185, R326–R331). -/

namespace Sys2Proof.Machine

/-- A run keeps its global stores as held lines (R326). -/
def Team.keepsHeld (tm : Team) : Bool := tm.mode == .lead || tm.mode == .third

/-- A byte that the run holds at a physical address (R183). -/
def State.heldByte (s : State) (tm : Team) (pa : Nat) : Option Byte :=
  if tm.keepsHeld then
    (s.heldLines.find? (fun h => h.ofTeam tm && h.pa == pa / 128 * 128)).bind (fun h => Map.get? h.bytes pa)
  else none

/-- A byte as a run reads it: its held byte, or the home's. -/
def State.runByte (s : State) (tm : Team) (view pa : Nat) : Byte := (s.heldByte tm pa).getD (s.homeByte view pa)

/-- A line is recent for a grid of an epoch (R327, R328). -/
def State.recentFor (s : State) (epoch pa : Nat) : Bool :=
  !isDram pa || (Map.get s.stamps (pa >>> 7) 0 + 2 ^ 16 - epoch) % 2 ^ 16 < 2 ^ 15

/-- A line is recent for a run (R327, R328). -/
def State.recent (s : State) (tm : Team) (pa : Nat) : Bool := s.recentFor tm.epoch pa

/-- Put bytes of one line into a run's held line, which loses its tag (R183, R360); none when every held way of the set
is in use (R185). A held line takes a way of its set from the ordinary lines (R184). The host unit, which is the home of a
line of the host window, has no ways, and the manual gives it no limit: the model has none there (DESIGN CHOICE, log entry
94). -/
def State.holdBytes (s : State) (tm : Team) (view pa : Nat) (bs : List Byte) : Option State :=
  let line := pa / 128 * 128
  let mine := fun (h : HeldLine) => h.ofTeam tm && h.pa == line
  let put := fun (m : Map Byte) => ((List.range bs.length).zip bs).foldl (fun m ib => Map.put m (pa + ib.1) ib.2) m
  if s.heldLines.any mine then
    let again (h : HeldLine) : HeldLine := { h with view := view, bytes := put h.bytes, tag := none }
    some { s with heldLines := modifyFirst mine again s.heldLines }
  else if isDram line && decide (s.holdWays ≤ s.heldWays line) then none
  else
    let s := if isDram line then s.freeWay line else s
    some { s with heldLines := s.heldLines ++
      [⟨line, view, tm.part, tm.record, tm.asid, tm.index, tm.copy, put [], none⟩] }

/-- A store of a run to bytes of one line of global memory (R183, R326, R340): held for a lead or a third run, discarded
in a trail, at the home otherwise. It is not performed where no way is left or the page cannot be held: the reason for which the
run then becomes unchecked. -/
def State.runStore (s : State) (tm : Team) (leaf pa : Nat) (bs : List Byte) : Except Nat State :=
  let hold := match s.holdBytes tm (s.viewOf leaf pa) pa bs with
    | some s => .ok s
    | none => .error 3
  match tm.mode with
  | .unchecked => .ok (s.homeWrite (s.viewOf leaf pa) pa bs)
  | .trail => .ok s
  | .lead => if !hasBit leaf 7 || hasBit leaf 5 then .error 4 else hold
  | .third => hold

end Sys2Proof.Machine
end

