-- ==== Sys2Proof/Machine/Engine.lean ====
section
/-! DEFINITION. Engine commands from issue to acceptance, and the instructions that wait for them (R290–R296, R304, R311,
R312). -/

namespace Sys2Proof.Machine

/-! ## Streams and queues -/

/-- The engine code of an ENGINE major (R290): 0 copy/gather, 1 collective, 2 binning. -/
def engineOf (major : Nat) : Nat :=
  if major = 0xD4 ∨ major = 0xD7 then 1 else if major = 0xD5 ∨ major = 0xD6 then 2 else 0

/-- A stream of a group (R291). -/
def Group.stream (g : Group) (e : Nat) : Stream := (g.streams[e]?).getD ⟨0, 0, 0, []⟩

/-- Change a stream of a group. -/
def Group.modStream (g : Group) (e : Nat) (f : Stream → Stream) : Group := { g with streams := modNth f e g.streams }

/-- A command waits in a queue (R294). -/
def Command.waits (c : Command) : Bool := c.state ≤ 1

/-- There is room for another command of a team in its quota and in the share of its slot or core (R294). -/
def State.hasRoom (s : State) (t gi : Nat) (tm : Team) (e : Nat) : Bool :=
  let queued := s.commands.filter (fun c => c.waits && c.engine == e)
  let mine := (queued.filter (fun c => c.team == t)).length
  let share := queued.filter (fun c => c.core == tm.core)
  if e = 0 then mine < 16 && (share.filter (fun c => c.slot == gi % 4)).length < 16
  else mine < 8 && share.length < 8

/-- The copy/gather queue of a core holds more than three-quarters of its entries (R71, R294). -/
def State.cgCrowded (s : State) (core : Nat) : Bool :=
  48 < (s.commands.filter (fun c => c.state == 1 && c.engine == 0 && c.core == core)).length

/-! ## Extents -/

/-- Why an extent of a command is refused: outside its allotment, or a window that is no member's (R158, R171). -/
inductive BadExtent where
  | outside
  | stranger
deriving DecidableEq, Repr

/-- The team whose window a window address of a team names, if it is the team's own or a member's (R164, R171). -/
def State.windowOf (s : State) (t : Nat) (tm : Team) (x : Nat) : Option (Nat × Team) :=
  if tm.lb.win = 0 then none
  else if bits x 19 18 = s.position tm.core then some (t, tm)
  else
    (s.coreAt (clusterOf tm.core) (bits x 19 18)).bind (fun c =>
      (s.windowAt c).bind (fun ko =>
        if tm.sharing.isSome && ko.2.sharing == tm.sharing then some ko else none))

/-- An extent of n bytes of a kind lies in its allotment (R158, R296). -/
def State.extent (s : State) (t : Nat) (tm : Team) (kind x n : Nat) : Option BadExtent :=
  let cfg := (s.part tm.part).config
  match kind with
  | 1 => if tm.ownsPad x n then none else some .outside
  | 2 =>
    match s.windowOf t tm x with
    | some ko => if bits x 17 0 + n ≤ ko.2.lb.win then none else some .outside
    | none => if tm.replays && tm.lb.win != 0 then none else some .stranger
  | 3 => if x + n ≤ (cfg.pieces0 + cfg.pieces1) * 0x40000 then none else some .outside
  | _ => none

/-! ## Issue -/

/-- The address operand of a kind at issue (R293, R296): misaligned, too large, or a non-zero upper half. -/
def badAddress (kind x : Nat) : Option (Nat × Nat) :=
  if x % 4 ≠ 0 then some (6, x)
  else if kind = 0 then (if x >>> 52 ≠ 0 then some (6, x) else none)
  else if x >>> 32 ≠ 0 then some (localTrap (x % 2 ^ 32) 0)
  else none

/-- A length or an offset that is not a multiple of 4 (R293). -/
def badFour (x : Nat) : Option (Nat × Nat) := if x % 4 ≠ 0 then some (6, x) else none

/-- An extent that is known at issue (R293). -/
def badExtent (v : View) (s : State) (kind x n : Nat) : Option (Nat × Nat) :=
  if n = 0 then none
  else
    match s.extent v.t v.team kind x n with
    | some .outside => some (localTrap (x % 2 ^ 32) 0)
    | some .stranger => some (localTrap (x % 2 ^ 32) 1)
    | none => none

/-- The first failing check of a list. -/
def firstTrap (cs : List (Option (Nat × Nat))) : Option (Nat × Nat) := cs.findSome? id

/-- The checks of R293 on the scalar operands a, b and c of a form. -/
def commandCheck (v : View) (s : State) (major a b c : Nat) : Option (Nat × Nat) :=
  let dk := v.f.minor.toNat % 4
  let sk := v.f.minor.toNat / 4 % 4
  let held := v.f.mod.getLsbD 7
  let known := fun (kind x n : Nat) => if held then none else badExtent v s kind x n
  match major with
  | 0xD0 => firstTrap [badAddress dk a, badAddress sk b, badFour c, known dk a c, known sk b c]
  | 0xD1 => firstTrap [badAddress dk a, badAddress sk b, badFour c]
  | 0xD2 => firstTrap [badAddress dk a, badAddress sk b, badFour c]
  | 0xD3 => firstTrap [badAddress dk a, badAddress sk b, badFour c]
  | 0xD5 => badFour c
  | 0xD7 => firstTrap [badAddress 0 a, badFour b, badFour c]
  | 0xD8 => firstTrap [badAddress dk a, badFour b, known dk a b]
  | 0xD9 => firstTrap [badFour a, badFour b, badFour c, known 1 c 32]
  | _ => none

/-- The sources that the leader of a command reads, and those that every executing thread reads (R293). -/
def commandSources (f : Fields) (k : Form) (major : Nat) : List (Nat × Bool) × List (Nat × Bool) :=
  if major = 0xD5 then (sources f { k with a := .unused, b := .unused }, sources f { k with c := .unused })
  else (sources f k, [])

/-- An ENGINE-class instruction (R293): one command for the issue, sent under the ticket that D receives. -/
def sendCommand (i : Instr) (s : State) : Out :=
  let major := i.major
  frameWith (fun f k => (commandSources f k major).2) i (fun v s0 =>
    match v.lanes.lanes with
    | [] => plain v s0
    | l :: _ =>
      let srcs := (commandSources v.f v.form major).1
      if blocked v.g (1#32 <<< l) srcs then stall s0
      else
        let a := v.a l
        let b := (v.lit.filter (fun _ => major == 0xD6)).getD (v.operand v.form.b v.f.b.toNat l)
        let c := v.c l
        match firstTrap [readTrap v.g l srcs, commandCheck v s0 major a b c] with
        | some cause => .next (retire v.t v.gi 1 (trapLanes v (v.lanes.lanes.map (fun l => (l, cause))) s0))
        | none =>
          let e := engineOf major
          if !s0.hasRoom v.t v.gi v.team e then stall s0
          else
            let n := (v.g.stream e).issued + 1
            let (id, s) := s0.fresh
            let items := if major = 0xD5 then v.lanes.lanes.map (fun l => (v.a l, v.b l)) else []
            let cmd : Command := {
              id := id, team := v.t, part := v.team.part, group := v.gi, lanes := v.lanes, engine := e, major := major
              minor := v.f.minor.toNat, mod := v.f.mod.toNat, ticket := n
              a := if major = 0xD5 then 0 else a, b := if major = 0xD5 then 0 else b, c := c
              lit := v.lit, asid := v.g.asid, slot := v.gi % 4, core := v.team.core
              held := v.f.mod.getLsbD 7, patch := none, items := items, dest := none, state := 0, todo := [], code := 0, written := [] }
            let s := { s with commands := s.commands ++ [cmd] }
            let s := s.modGroup v.t v.gi (fun g => g.modStream e (fun x => { x with issued := n }))
            finish 1 2 (fun _ => { regs := writesOf v.f.d.toNat n 2 }) v s) s

/-- CPY (R299). -/
def execCpy (f : Fields) (s : State) : Out := sendCommand (.cpy f) s
/-- CPYT (R300, R301). -/
def execCpyt (f : Fields) (s : State) : Out := sendCommand (.cpyt f) s
/-- GTHR (R300, R301). -/
def execGthr (f : Fields) (s : State) : Out := sendCommand (.gthr f) s
/-- SCTR (R300, R301). -/
def execSctr (f : Fields) (s : State) : Out := sendCommand (.sctr f) s
/-- COLL (R309). -/
def execColl (f : Fields) (s : State) : Out := sendCommand (.coll f) s
/-- BIN (R306). -/
def execBin (f : Fields) (s : State) : Out := sendCommand (.bin f) s
/-- REL (R307). -/
def execRel (f : Fields) (s : State) : Out := sendCommand (.rel f) s
/-- MIRR (R310). -/
def execMirr (f : Fields) (s : State) : Out := sendCommand (.mirr f) s
/-- FILLZ (R299). -/
def execFillz (f : Fields) (s : State) : Out := sendCommand (.fillz f) s
/-- ZMAP (R303). -/
def execZmap (f : Fields) (s : State) : Out := sendCommand (.zmap f) s

/-! ## Waiting and reading -/

/-- The physical address of the entry of a collective name, and whether the table has it (R308). -/
def State.collAt (s : State) (part name : Nat) : Option Nat :=
  let t := (s.part part).collTable.toNat
  let pa := (bits t 47 12 <<< 12) + 64 * name
  if bits t 63 48 < name ∨ homeOf pa = .nowhere ∨ homeOf pa = .registers then none else some pa

/-- The buffers that a collective name gives its ranks: virtual ranges (R308). -/
def State.collBuffers (s : State) (part name : Nat) : List (Nat × Nat) :=
  match s.collAt part name with
  | none => []
  | some pa =>
    let b := s.homeBytes 0 pa 64
    let p := min 4096 (field b 0 2)
    let n := field b 4 4 * (codeBits (field b 2 1) / 8)
    (List.range p).flatMap (fun r =>
      [((field b 8 8 + r * field b 24 8) % 2 ^ 52, n), ((field b 16 8 + r * field b 24 8) % 2 ^ 52, n * p)])

/-- A core invalidates its unregistered L1 sectors of the buffers of a collective (R208). -/
def State.dropBuffers (s : State) (tm : Team) (name asid : Nat) : State :=
  (s.collBuffers tm.part name).foldl (fun (s : State) r =>
    (pageChunks r.1 r.2).foldl (fun (s : State) c =>
      match s.walk tm.part asid (c.1 % 2 ^ 52) with
      | .leaf _ pa _ => s.modCore tm.core (fun k => k.dropFree (s.registrations.filter (fun x => x.core == tm.core)) pa c.2)
      | _ => s) s) s

/-- A group observes the completions of its collective stream (R208). -/
def State.observe (s : State) (t gi : Nat) : State :=
  match s.team? t, s.group? t gi with
  | some tm, some g =>
    ((g.stream 1).seen.foldl (fun (s : State) x => s.dropBuffers tm x.2.1 x.2.2) s).modGroup t gi
      (fun g => g.modStream 1 (fun x => { x with seen := [] }))
  | _, _ => s

/-- SEQW (R311): a blocked read until the group's sequence number has reached every executing thread's value; observing
a collective drops the core's unregistered L1 sectors of its buffers (R208). It waits at issue for a fence that keeps back
its threads' engine accesses (R196, R203). -/
def execSeqw (f : Fields) (s : State) : Out :=
  frame (.seqw f) (fun v s =>
    let e := f.minor.toNat
    if v.g.fenced v.lanes 4 || v.lanes.lanes.any (fun l => (v.g.stream e).done < v.a l) then stall s
    else plain v (if e = 1 ∧ v.lanes ≠ 0 then s.observe v.t v.gi else s)) s

/-- SEQR (R312): the sequence number or the error word, through the log of a checked run. It waits at issue for a fence that
keeps back its threads' engine accesses (R196, R203). -/
def execSeqr (f : Fields) (s : State) : Out :=
  frame (.seqr f) (fun v s0 =>
    if v.g.fenced v.lanes 4 || logWaits v.team v.g then stall s0
    else
      let e := f.minor.toNat % 4
      let x := v.g.stream e
      let (vals, s) := lanesThroughLog v 4 1 v.lanes (fun _ => if f.minor.getLsbD 2 then x.err else x.done) s0
      let s := if f.minor.getLsbD 3 ∧ v.lanes ≠ 0
        then s.modGroup v.t v.gi (fun g => g.modStream e (fun x => { x with err := 0 })) else s
      finish 1 2 (fun l => { regs := writesOf f.d.toNat (Map.get vals l 0) 2 }) v s) s

/-! ## Acceptance -/

/-- Change a command. -/
def State.modCommand (s : State) (id : Nat) (f : Command → Command) : State :=
  { s with commands := s.commands.map (fun c => if c.id = id then f c else c) }

/-- A command by its number. -/
def State.command? (s : State) (id : Nat) : Option Command := s.commands.find? (fun c => c.id == id)

/-- A command may be accepted as far as its own group goes: the group's earlier commands have been accepted (R293), and no
fence of its threads keeps it back (R203). -/
def State.acceptable (s : State) (c : Command) : Bool :=
  c.state == 0 && !s.commands.any (fun x => x.team == c.team && x.group == c.group && x.id < c.id && x.state == 0) &&
  (match s.group? c.team c.group with
   | some g => !c.lanes.lanes.any (fun l => g.held c.id l 4)
   | none => true)

/-- The place of a command's slot among the slots that share its queue, and how many they are (R294). -/
def Command.slotPlace (c : Command) : Nat × Nat := if c.engine = 0 then (c.slot, 4) else (4 * (c.core % 4) + c.slot, 16)

/-- Two commands share a queue (R294). -/
def Command.sameQueue (c x : Command) : Bool :=
  c.engine == x.engine && (if c.engine = 0 then c.core == x.core else clusterOf c.core == clusterOf x.core)

/-- The slot whose command a queue accepted last (R294). -/
def State.lastAccepted (s : State) (c : Command) : Nat :=
  let k := s.cluster (clusterOf c.core)
  match c.engine with
  | 0 => k.cgRotation.getD (c.core % 4) 3
  | 1 => k.collRotation
  | _ => k.binRotation

/-- It is the command's turn in its queue's rotation (R293, R294): of the acceptable commands none stands in a slot that comes
before its own, and none of its own slot was issued before it. -/
def State.acceptTurn (s : State) (c : Command) : Bool :=
  let turn := fun (x : Command) => (x.slotPlace.1 + x.slotPlace.2 - 1 - s.lastAccepted c) % x.slotPlace.2
  s.commands.all (fun x => x.id == c.id || !x.sameQueue c || !s.acceptable x ||
    decide (turn c < turn x ∨ (turn c = turn x ∧ c.id < x.id)))

/-- The rotations of acceptance move on (R293, R294). -/
def State.rotateQueue (s : State) (c : Command) : State :=
  s.modCluster (clusterOf c.core) (fun x =>
    match c.engine with
    | 0 => { x with cgRotation := modNth (fun _ => c.slot) (c.core % 4) x.cgRotation }
    | 1 => { x with collRotation := 4 * (c.core % 4) + c.slot }
    | _ => { x with binRotation := 4 * (c.core % 4) + c.slot })

/-- COMMAND_ACCEPT (R293, R294): the group's earlier commands have been accepted, and it is its slot's turn; the command stands
last in its queue. -/
def execCommandAccept (command : Nat) (s : State) : Out :=
  match s.command? command with
  | none => .next s
  | some c =>
    if !s.acceptable c || !s.acceptTurn c then .next s
    else
      let s := s.rotateQueue c
      .next { s with commands := s.commands.filter (fun x => x.id != command) ++ [{ c with state := 1 }] }

end Sys2Proof.Machine
end

