-- ==== Sys2Proof/Machine/EngineRun.lean ====
section
/-! DEFINITION. Engine commands from start to completion: copies, gathers and scatters, zero bitmaps, binning, release,
mirrors and collectives (R292, R297–R310, R315–R318, R337). -/

namespace Sys2Proof.Machine

/-! ## Plans -/

/-- An issued field times the patched count (R304); code 2 above 2^32 − 1. -/
def Command.patched (c : Command) (x : Nat) : Except Nat Nat :=
  let y := x * c.patch.getD 1
  if 2 ^ 32 ≤ y then .error 2 else .ok y

/-- The error code of an extent at start (R297). -/
def extentCode : Option BadExtent → Nat
  | none => 0
  | some .outside => 1
  | some .stranger => 7

/-- The eight words of a descriptor (R300, R303). -/
def descriptor (tm : Team) (off : Nat) : Except Nat (List Nat) :=
  if off % 16 ≠ 0 then .error 2
  else if !tm.ownsPad off 32 then .error 1
  else .ok ((List.range 8).map (fun k => ofLeBytes (padBytes tm.padNonce tm.pad (off + 4 * k) 4)))

/-- The rows of a copy, each with its destination, source and length; code 2 past an address space, code 1 or 7 outside
an allotment (R297, R301). -/
def State.checkRows (s : State) (t : Nat) (tm : Team) (dk sk : Nat) (rows : List Piece) : Except Nat (List Piece) :=
  let top := fun (kind : Nat) => if kind = 0 then 2 ^ 52 else 2 ^ 32
  let far := rows.any (fun r => top dk ≤ r.dst || (dk == 0 && 2 ^ 52 < r.dst + r.len) ||
    (sk < 4 && (top sk ≤ r.src || (sk == 0 && 2 ^ 52 < r.src + r.len))))
  if far then .error 2
  else
    let bad := rows.findSome? (fun r =>
      let x := extentCode (s.extent t tm dk r.dst r.len)
      let y := if sk < 4 then extentCode (s.extent t tm sk r.src r.len) else 0
      if x ≠ 0 then some x else if y ≠ 0 then some y else none)
    match bad with
    | some code => .error code
    | none => .ok rows

/-- The rows that a copy form moves (R299–R301), or its error code. -/
def State.copyRows (s : State) (t : Nat) (tm : Team) (c : Command) : Except Nat (List Piece) := do
  let dk := c.minor % 4
  let sk := if c.major = 0xD8 then 4 else c.minor / 4 % 4
  if c.patch = some 0 then return []
  match c.major with
  | 0xD0 =>
    let n ← c.patched c.c
    if n = 0 then return [] else s.checkRows t tm dk sk [⟨dk, c.a, sk, c.b, n⟩]
  | 0xD8 =>
    let n ← c.patched c.b
    if n = 0 then return [] else s.checkRows t tm dk sk [⟨dk, c.a, sk, 0, n⟩]
  | _ =>
    let w ← descriptor tm c.c
    let at' := fun k => w.getD k 0
    let row := at' 0
    let n ← c.patched (at' 1)
    let cpyt := c.major == 0xD1
    let reserved := if cpyt then [3] else [3, 5, 7]
    if row < 4 || 2 ^ 20 < row || row % 4 != 0 || reserved.any (fun k => at' k != 0) ||
        [4, 5, 6, 7].any (fun k => at' k % 4 != 0) then throw 2
    if cpyt then
      s.checkRows t tm dk sk ((List.range (at' 2)).flatMap (fun z => (List.range n).map (fun y =>
        ⟨dk, c.a + z * at' 7 + y * at' 6, sk, c.b + z * at' 5 + y * at' 4, row⟩)))
    else
      let idx := at' 2
      if idx % 4 ≠ 0 then throw 2
      if !tm.ownsPad idx (4 * n) then throw 1
      s.checkRows t tm dk sk ((List.range n).filterMap (fun j =>
        let x := ofLeBytes (padBytes tm.padNonce tm.pad (idx + 4 * j) 4)
        if x = 0xFFFFFFFF then none
        else if c.major = 0xD2 then some ⟨dk, c.a + j * at' 6, sk, c.b + x * at' 4, row⟩
        else some ⟨dk, c.a + x * at' 6, sk, c.b + j * at' 4, row⟩))

/-- Cut a row into pieces that cross no 128-byte line at either side. -/
def cutRow : Nat → Piece → List Piece
  | 0, _ => []
  | k + 1, r =>
    if r.len = 0 then [] else
    let n := min r.len (min (128 - r.dst % 128) (if r.sk = 4 then 128 else 128 - r.src % 128))
    { r with len := n } :: cutRow k { r with dst := r.dst + n, src := r.src + n, len := r.len - n }

/-! ## Accesses -/

/-- The stop-record index of the engine that runs a command (R388). -/
def State.engineUnit (s : State) (c : Command) : Nat :=
  match c.engine with
  | 0 => 256 + (s.core c.core).logical
  | 1 => 384 + (s.cluster (clusterOf c.core)).logical
  | _ => 416 + (s.cluster (clusterOf c.core)).logical

/-- A global access of an engine is translated by the slices of its die (R221, R298): a leaf with R or W, not strongly
ordered. -/
def State.engineWalk (s : State) (c : Command) (write : Bool) (va : Nat) : WalkEnd :=
  match s.translate (dieOf c.core) c.part c.asid va with
  | .leaf e pa n =>
    if hasBit e (if write then 3 else 2) && !hasBit e 5 && (isDram pa || homeOf pa == .host) && !s.refused pa
    then .leaf e pa n else .violation
  | w => w

/-- The entry of kind 6 that a replaying run takes for a piece of a command (R331). -/
def State.pieceEntry (s : State) (tm : Team) (c : Command) (va : Nat) : Option LogEntry :=
  if tm.replays then
    (s.checkedOf tm).bind (fun k => k.entries.find? (fun e => e.kind == 6 && e.thread == 0x8000 + c.group &&
      e.flag == c.engine && e.cnt == c.ticket % 2 ^ 32 && e.value == va / 128 * 128))
  else none

/-- The global addresses that a piece translates. -/
def State.pieceVas (s : State) (tm : Team) (c : Command) (p : Piece) : List Nat :=
  (if p.sk = 0 ∧ (s.pieceEntry tm c p.src).isNone then [p.src] else []) ++
  (if p.dk = 0 ∧ tm.mode ≠ .trail then [p.dst] else [])

/-- Why a piece cannot be moved now: the address, and what its translation met. -/
def State.pieceFault (s : State) (tm : Team) (c : Command) (p : Piece) : Option (Bool × Nat × WalkEnd) :=
  let side := fun (write : Bool) (va : Nat) =>
    match s.engineWalk c write va with
    | .leaf .. => none
    | w => some (write, va, w)
  let r := if p.sk = 0 ∧ (s.pieceEntry tm c p.src).isNone then side false p.src else none
  match r with
  | some x => some x
  | none => if p.dk = 0 ∧ tm.mode ≠ .trail then side true p.dst else none

/-- A home that a piece needs has stopped (R386). -/
def State.pieceDown (s : State) (tm : Team) (c : Command) (p : Piece) : Bool :=
  let down := fun (write : Bool) (va : Nat) =>
    match s.engineWalk c write va with
    | .leaf _ pa _ => s.unitDown c.part (s.homeUnit pa)
    | _ => false
  (p.sk == 0 && (s.pieceEntry tm c p.src).isNone && down false p.src) || (p.dk == 0 && tm.mode != .trail && down true p.dst)

/-- The 128 bytes of the line of a global source for a run, at its home or from the log. -/
def State.sourceLine (s : State) (tm : Team) (c : Command) (va : Nat) : List Byte :=
  match s.pieceEntry tm c va with
  | some e => e.piece
  | none =>
    match s.engineWalk c false va with
    | .leaf e pa _ => (List.range 128).map (fun i => s.runByte tm (s.viewOf e pa) (pa / 128 * 128 + i))
    | _ => []

/-- The lead logs a piece whose line is recent or holds bytes of the team; a replaying run that reads a recent line
without an entry becomes unchecked (R329, R331). The line enters the L2. -/
def State.logPiece (s : State) (t : Nat) (c : Command) (va : Nat) : State :=
  match s.team? t with
  | none => s
  | some tm =>
    if (s.pieceEntry tm c va).isSome then s
    else
      match s.engineWalk c false va with
      | .leaf _ pa _ =>
        let line := pa / 128 * 128
        let u := { UnitFault.none with addr := line, record := tm.record, asid := c.asid }
        let s := (s.translated (dieOf c.core) c.part c.asid va).serve c.part (s.homeUnit pa) u
        let s := (s.readAtHome line 128).consume c.part { u with detail := va } line 128
        let logged := s.recent tm pa || (List.range 128).any (fun i => (s.heldByte tm (line + i)).isSome)
        if tm.mode = .lead ∧ logged then
          addLog t ⟨va / 128 * 128, 0x8000 + c.group, 6, c.engine, c.ticket % 2 ^ 32, s.sourceLine tm c va⟩ s
        else if tm.replays ∧ s.recent tm pa then s.uncheck tm 2
        else s
      | _ => s

/-- The bytes that a piece reads. -/
def State.pieceBytes (s : State) (t : Nat) (tm : Team) (c : Command) (p : Piece) : List Byte :=
  match p.sk with
  | 0 => ((s.sourceLine tm c p.src).drop (p.src % 128)).take p.len
  | 1 => padBytes tm.padNonce tm.pad p.src p.len
  | 2 =>
    match s.windowOf t tm p.src with
    | some ko => Memory.getBytes ko.2.visible (bits p.src 17 0) p.len
    | none => (List.range p.len).map (fun i => Config.freeByte tm.padNonce (2 ^ 40 + p.src + i))
  | 3 => Memory.getBytes s.kpad (tm.part * 2 ^ 26 + p.src) p.len
  | _ => List.replicate p.len 0

/-- Bytes that a command leaves written enter its signature (R337). -/
def Command.wrote (c : Command) (kind a : Nat) (bs : List Byte) : Command :=
  { c with written := ((List.range bs.length).zip bs).foldl (fun m ib =>
      Map.put m (kind * 2 ^ 60 + a + ib.1) ib.2.toNat) c.written }

/-- Write the bytes of a piece (R326), or the reason for which its run becomes unchecked first (R340). A suspended command whose
team a save has taken out of its sharing group drops the pieces that it still had for another member's window, with no error code:
R171 and R315 do not say what becomes of them (DESIGN CHOICE, log entry 98). -/
def State.putPiece (s : State) (t : Nat) (c : Command) (p : Piece) (bs : List Byte) : Except Nat State :=
  match s.team? t with
  | none => .ok s
  | some tm =>
    let sign := fun (s : State) => if tm.mode = .unchecked then s else s.modCommand c.id (fun c => c.wrote p.dk p.dst bs)
    match p.dk with
    | 0 =>
      if tm.mode = .trail then .ok (sign s)
      else
        match s.engineWalk c true p.dst with
        | .leaf e pa _ =>
          let u := { UnitFault.none with addr := pa, record := tm.record, asid := c.asid }
          (((s.translated (dieOf c.core) c.part c.asid p.dst).serve c.part (s.homeUnit pa) u).runStore tm e pa bs).map sign
        | _ => .ok s
    | 1 => .ok (sign (s.modTeam t (fun tm => { tm with pad := padPut tm.pad p.dst bs })))
    | 2 =>
      if tm.replays then .ok (sign s)
      else
        match s.windowOf t tm p.dst with
        | some ko => .ok (sign (s.modTeam ko.1 (fun o =>
          if hasBit c.mod 5 then { o with shadow := Memory.putBytes o.shadow (bits p.dst 17 0) bs }
          else { o with visible := Memory.putBytes o.visible (bits p.dst 17 0) bs })))
        | none => .ok (sign s)
    | _ => .ok (sign (if tm.replays then s else { s with kpad := Memory.putBytes s.kpad (tm.part * 2 ^ 26 + p.dst) bs }))

/-- Write the bytes of pieces in order; from one on for which the run becomes unchecked, they stay (R340, R341). -/
def State.putPieces (s : State) (t : Nat) (tm : Team) (c : Command) (pbs : List (Piece × List Byte)) : State × List Piece :=
  pbs.foldl (fun (acc : State × List Piece) pb =>
    if !acc.2.isEmpty then (acc.1, acc.2 ++ [pb.1])
    else
      match acc.1.putPiece t c pb.1 pb.2 with
      | .ok s => (s, [])
      | .error reason => (acc.1.uncheck tm reason, [pb.1])) (s, [])

/-- Insert a number into a rising list without repeats. -/
def insertNat (x : Nat) : List Nat → List Nat
  | [] => [x]
  | y :: ys => if x < y then x :: y :: ys else if x = y then y :: ys else y :: insertNat x ys

/-- A protection violation of an engine (R298, R388). -/
def State.engineViolation (s : State) (t : Nat) (c : Command) (va : Nat) : State :=
  match s.team? t with
  | some tm =>
    if tm.replays then s.diverge t
    else s.halt c.part 2 (s.engineUnit c)
      { UnitFault.none with addr := c.ticket, detail := va, record := tm.record, asid := c.asid }
  | none => s.halt c.part 2 (s.engineUnit c) { UnitFault.none with addr := c.ticket, detail := va, asid := c.asid }

/-- Move the first of the rows that a command has left, or all of them at once in a checked run, whose log holds the pieces of a
command in one order (R292, R299–R302, R315, R330): the sources are read, then the writes are made. A piece whose page is not known
waits for its walk (R222), a page that is not present suspends the command at that piece, a home that has stopped keeps it there
(R386), and anything else is a protection violation. -/
def State.movePieces (s : State) (t : Nat) (c : Command) (rows : List Piece) : State :=
  match s.team? t with
  | none => s
  | some tm =>
    let k : Asker := ⟨3, c.id, 0⟩
    let alone := tm.mode == .unchecked
    let now := if alone then rows.take 1 else rows
    let pieces := now.flatMap (fun r => cutRow (r.len + 1) r)
    let known := fun (s : State) (p : Piece) => s.allKnown k (dieOf c.core) c.part c.asid (s.pieceVas tm c p)
    let fine := fun (p : Piece) => known s p && (s.pieceFault tm c p).isNone && !s.pieceDown tm c p
    let good := if alone || pieces.all fine then pieces.takeWhile fine else []
    let bad := pieces.find? (fun p => !fine p)
    let rest := if good.isEmpty && !alone then rows else pieces.drop good.length ++ rows.drop now.length
    let lines := (good.filter (fun p => p.sk == 0)).foldl (fun ls p => insertNat (p.src / 128 * 128) ls) []
    let s := lines.foldl (fun (s : State) va => s.logPiece t c va) s
    match s.team? t with
    | none => s
    | some tm =>
      let data := good.map (fun p => s.pieceBytes t tm c p)
      let (s, left) := s.putPieces t tm c (good.zip data)
      let rest := left ++ rest
      let stay := fun (s : State) => s.modCommand c.id (fun c => { c with state := 2, todo := rest })
      match rest.head?, bad with
      | none, _ => s.modCommand c.id (fun c => { c with state := 4, todo := [] })
      | some _, none => stay s
      | some _, some p =>
        if !left.isEmpty then stay s
        else if !known s p then
          stay (s.askWalks k (dieOf c.core) c.part c.asid
            ((if alone then [p] else pieces).flatMap (s.pieceVas tm c)))
        else
          match s.pieceFault tm c p with
          | some (write, va, .notPresent level) =>
            (s.modCommand c.id (fun c => { c with state := 3, todo := rest })).pageFault t
              ⟨level, if write then 1 else 0, c.asid, va / 128 * 128, none⟩
          | some (_, va, _) => (s.modCommand c.id (fun c => { c with state := 4, todo := [] })).engineViolation t c va
          | none => stay s

/-! ## Zero bitmaps -/

/-- K of the MMA class of a format code (R264, R270); 0 for a format of no class. -/
def mmaK (fmt : Nat) : Nat :=
  if fmt ≤ 1 ∨ fmt = 7 then 64 else if fmt = 5 ∨ fmt = 6 then 32 else if fmt ≤ 4 ∨ fmt = 8 then 128 else 0

/-- The width in bits of a format code (R264). -/
def matWidth (fmt : Nat) : Nat :=
  match fmt with
  | 2 => 6
  | 3 => 6
  | 4 => 4
  | 5 => 16
  | 6 => 16
  | 8 => 4
  | 9 => 32
  | 10 => 32
  | _ => 8

/-- The swizzled row-relative byte of a row (R265). -/
def swizzle (swz x o : Nat) : Nat := if swz = 0 then o else o ^^^ ((x % 2 ^ swz) <<< 4)

/-- Scratchpad bytes that a ZMAP writes: halfword address and value, or its error code (R303). -/
def zmapPlan (tm : Team) (c : Command) : Except Nat (List (Nat × Nat)) := do
  let w ← descriptor tm c.c
  let at' := fun k => w.getD k 0
  let fmt := at' 0
  let (m, nw, koff, pitch) := (at' 1, at' 2, at' 3, at' 4)
  let code := bits fmt 3 0
  let k := mmaK code
  if k = 0 || bits fmt 31 11 != 0 || bits fmt 7 6 != 0 || hasBit fmt 9 || m % 8 != 0 || koff % k != 0 ||
      pitch % 16 != 0 || at' 5 != 0 || at' 6 != 0 || at' 7 != 0 then throw 2
  let width := matWidth code
  let swz := bits fmt 5 4
  let addr := fun (x e byte : Nat) => c.a + x * pitch + swizzle swz x (width * e / 8 + byte)
  let zero := fun (x e : Nat) =>
    let v := ofLeBytes ((List.range width).map (fun b => padGet tm.padNonce tm.pad (addr x e b)))
    let sign := if code = 7 ∨ code = 8 then 0 else 1
    (List.range 8).all (fun j => bits v (width * j + width - 1 - sign) (width * j) == 0)
  let places := (List.range nw).flatMap (fun win => (List.range (m / 8)).map (fun b => (win, b)))
  let inside := places.all (fun wb =>
    tm.ownsPad (c.b + 2 * (m / 8) * (koff / k + wb.1) + 2 * wb.2) 2 &&
    (List.range 8).all (fun r => (List.range (k / 8)).all (fun j => (List.range width).all (fun byte =>
      tm.ownsPad (addr (8 * wb.2 + r) (koff + wb.1 * k + 8 * j) byte) 1))))
  if !inside then throw 1
  return places.map (fun wb =>
    (c.b + 2 * (m / 8) * (koff / k + wb.1) + 2 * wb.2,
     (List.range (k / 8)).foldl (fun n j =>
       if (List.range 8).all (fun r => zero (8 * wb.2 + r) (koff + wb.1 * k + 8 * j)) then n + 2 ^ j else n) 0))

/-! ## Binning -/

/-- The header of a bin table: NDEST, CAP and PBASE, or code 6 (R305). -/
def binTable (tm : Team) (off : Nat) : Except Nat (Nat × Nat × Nat) :=
  let w := fun k => ofLeBytes (padBytes tm.padNonce tm.pad (off + 4 * k) 4)
  if off % 16 ≠ 0 ∨ !tm.ownsPad off 16 then .error 6
  else
    let (ndest, cap, pbase) := (w 0, w 1, w 2)
    if ndest = 0 ∨ 4096 < ndest ∨ 2 ^ 24 < cap ∨ 4096 < pbase + ndest ∨ !tm.ownsPad off (16 + 4 * ndest + 4 * cap * ndest)
    then .error 6 else .ok (ndest, cap, pbase)

/-- Write a word of the private scratchpad for a command. -/
def State.binPut (s : State) (t : Nat) (c : Command) (a x : Nat) : State :=
  let s := s.modTeam t (fun tm => { tm with pad := padPut tm.pad a (leBytes x 4) })
  s.modCommand c.id (fun c => c.wrote 1 a (leBytes x 4))

/-- Read a word of the private scratchpad. -/
def State.binGet (s : State) (t a : Nat) : Nat :=
  match s.team? t with
  | some tm => ofLeBytes (padBytes tm.padNonce tm.pad a 4)
  | none => 0

/-- BIN at its start (R306). -/
def State.runBin (s : State) (t : Nat) (c : Command) (ndest cap pbase : Nat) : State :=
  let off := c.c
  let s := c.items.foldl (fun (s : State) di =>
    let d := di.1 % 2 ^ 32
    if ndest ≤ d then s
    else
      let n := s.binGet t (off + 16 + 4 * d)
      let s := s.binPut t c (off + 16 + 4 * d) ((n + 1) % 2 ^ 32)
      if n < cap then s.binPut t c (off + 16 + 4 * ndest + 4 * (cap * d + n)) (di.2 % 2 ^ 32)
      else s.binPut t c (off + 12) ((s.binGet t (off + 12) + 1) % 2 ^ 32)) s
  if hasBit c.minor 0 then
    { s with commands := s.commands.map (fun h =>
        let slot := (h.lit.getD 0) % 4096
        if h.team == t && h.held && pbase ≤ slot && slot < pbase + ndest then
          { h with patch := some (min (s.binGet t (off + 16 + 4 * (slot - pbase))) cap) }
        else h) }
  else s

/-- REL at its start (R307). -/
def State.runRel (s : State) (t : Nat) (c : Command) : State :=
  let top := min (c.a + c.b) 4096
  { s with commands := s.commands.map (fun h =>
      let slot := (h.lit.getD 0) % 4096
      if h.team == t && h.held && h.state == 1 && c.a ≤ slot && slot < top then { h with held := false } else h) }

/-! ## Collectives and mirrors -/

/-- An entry of the collective table (R308). -/
structure CollEntry where
  p : Nat
  typ : Nat
  e : Nat
  send : Nat
  recv : Nat
  span : Nat
  rmap : Nat

/-- Read the entry of a name; none past LAST or outside memory. -/
def State.collEntry (s : State) (part name : Nat) : Option CollEntry :=
  (s.collAt part name).map (fun pa =>
    let b := s.homeBytes 0 pa 64
    { p := field b 0 2, typ := field b 2 1, e := field b 4 4, send := field b 8 8, recv := field b 16 8
      span := field b 24 8, rmap := field b 32 8 })

/-- The fabric device number of a rank (R308). -/
def State.rankDevice (s : State) (x : CollEntry) (rank : Nat) : Nat := bits (s.readPhys (x.rmap + 8 * rank) 8) 17 0

/-- The name of a COLL. -/
def Command.name (c : Command) : Nat := bits (c.lit.getD 0) 31 16

/-- Reading the table entry of a name and the device numbers of its ranks does at their homes what an LDQ does there (R184, R308). -/
def State.collMeet (s : State) (c : Command) : State :=
  match s.collAt c.part c.name with
  | none => s
  | some pa =>
    let u := { UnitFault.none with addr := pa, asid := c.asid }
    let map := field (s.homeBytes 0 pa 64) 32 8
    let ranks := min 4096 (field (s.homeBytes 0 pa 64) 0 2)
    let s := (s.physRead c.part u pa 64).2
    if homeOf map = .nowhere ∨ homeOf map = .registers then s else (s.physRead c.part u map (8 * ranks)).2

/-- A rank lies on another device (R308); the number of this one is the fabric's (log entry 99). -/
def State.rankAway (s : State) (x : CollEntry) (rank : Nat) : Bool := s.rankDevice x rank != Config.deviceNumber % 2 ^ 18

/-- A type that a collective op takes (R309): the reducing ops need one of eight types, the others a whole byte size. -/
def collType (op typ : Nat) : Bool :=
  if op ≤ 1 then [2, 6, 3, 7, 13, 14, 15, 16].contains typ else typ ≤ 22 && codeBits typ % 8 == 0

/-- The error code of a COLL at its start (R297, R309). -/
def State.collCode (s : State) (c : Command) : Nat :=
  match s.collEntry c.part c.name with
  | none => 3
  | some x =>
    let op := c.minor
    if x.p ≤ 1 ∨ 4096 < x.p ∨ !collType op x.typ ∨ ((op = 1 ∨ op = 4) ∧ x.e % x.p ≠ 0) then 3
    else if x.p ≤ c.a then 4 else 0

/-- One step of a reduction (R309), the value so far first. -/
def reduceStep (op typ a b : Nat) : Nat :=
  if codeInt typ then
    match op with
    | 0 => (a + b) % 2 ^ codeBits typ
    | _ => atomicNew typ op a b 0
  else
    match op with
    | 0 => (fAdd (fmtOf typ) 0 0 false false a b).1
    | 1 => (fMinMax (fmtOf typ) false a b).1
    | _ => (fMinMax (fmtOf typ) true a b).1

/-- The elements that rank p receives from the sends of all ranks (R309). -/
def collResult (op red typ p e : Nat) (sends : List (List Nat)) (rank : Nat) : List Nat :=
  let at' := fun (q j : Nat) => (sends.getD q []).getD j 0
  let reduce := fun (j : Nat) => (List.range (p - 1)).foldl (fun a q => reduceStep red typ a (at' (q + 1) j)) (at' 0 j)
  match op with
  | 0 => (List.range e).map reduce
  | 1 => (List.range (e / p)).map (fun j => reduce (rank * (e / p) + j))
  | 2 => (List.range p).flatMap (fun q => (List.range e).map (at' q))
  | 3 => (List.range e).map (at' 0)
  | _ => (List.range p).flatMap (fun q => (List.range (e / p)).map (fun j => at' q (rank * (e / p) + j)))

/-- The first waiting COLL of each rank of a name. -/
def State.collRanks (s : State) (part name p : Nat) : Option (List CollWait) :=
  (List.range p).foldr (fun r acc =>
    match acc, s.collWaits.find? (fun w => w.part == part && w.name == name && w.rank == r) with
    | some ws, some w => some (w :: ws)
    | _, _ => none) (some [])

/-- A byte that the lead that issued a command holds, resident or saved (R183). -/
def State.leadByte (s : State) (c : Command) (pa : Nat) : Option Byte :=
  match s.team? c.team with
  | some tm => s.heldByte tm pa
  | none =>
    (s.saved.find? (fun t => t.key == c.team && t.mode == .lead)).bind (fun t =>
      (s.heldLines.find? (fun h => h.part == t.part && h.record == t.record && h.asid == t.asid && h.index == t.index &&
        h.copy == t.copy && h.pa == pa / 128 * 128)).bind (fun h => Map.get? h.bytes pa))

/-- A page of a collective or mirror command (R298, R308, R310): pinned and not strongly ordered, as the slices of its engine's die
give it (R221). -/
def State.commandPage (s : State) (c : Command) (va : Nat) : Option Xlat :=
  (s.pinned (dieOf c.core) c.part c.asid va).filter (fun x => !hasBit x.leaf 5)

/-- The bytes that a collective or mirror command reads in its pages, with what its own lead holds; none when a page
fails R298 or R308. -/
def State.commandBytes (s : State) (c : Command) (va n : Nat) : Option (List Byte) :=
  (pageChunks va n).foldr (fun k acc =>
    match acc, s.commandPage c k.1 with
    | some bs, some x =>
      some ((List.range k.2).map (fun i => (s.leadByte c (x.pa + i)).getD (s.homeByte (s.viewOf x.leaf x.pa) (x.pa + i))) ++ bs)
    | _, _ => none) (some [])

/-- The checked team whose lead issued a command, resident or saved. -/
def State.leadOf (s : State) (c : Command) : Option Checked :=
  match s.team? c.team with
  | some tm => if tm.mode = .lead then s.checkedOf tm else none
  | none =>
    (s.saved.find? (fun t => t.key == c.team && t.mode == .lead)).bind (fun t =>
      s.checked.find? (fun k => k.part == t.part && k.record == t.record && k.asid == t.asid && k.index == t.index &&
        k.stage < 3))

/-- What the reads of a collective or mirror command do at the homes of a virtual range: an LDQ's effects there (R184, R186,
R298, R327), and in the lead's log the pieces whose line is recent or holds its bytes (R329). -/
def State.commandReads (s : State) (c : Command) (va n : Nat) : State :=
  (linesOf va n).foldl (fun (s : State) line =>
    match s.commandPage c line with
    | none => s
    | some x =>
      let pa := x.pa / 128 * 128
      let u := { UnitFault.none with addr := pa, asid := c.asid, record := ((s.leadOf c).map (·.record)).getD 0 }
      let s := (s.serve c.part (s.homeUnit pa) u)
      let s := if isDram pa then (s.readAtHome pa 128).consume c.part { u with detail := line } pa 128 else s
      match s.leadOf c with
      | none => s
      | some k =>
        let held := (List.range 128).any (fun i => (s.leadByte c (pa + i)).isSome)
        if held || s.recentFor k.epoch pa then
          s.appendLog k ⟨line, 0x8000 + c.group, 6, c.engine, c.ticket % 2 ^ 32, (s.commandBytes c line 128).getD []⟩
        else s) s

/-- The elements of a rank's send buffer; none when a page fails R308. -/
def State.collSend (s : State) (c : Command) (x : CollEntry) (rank : Nat) : Option (List Nat) :=
  let n := codeBits x.typ / 8
  (s.commandBytes c ((x.send + rank * x.span) % 2 ^ 52) (x.e * n)).map (fun bs =>
    (List.range x.e).map (fun j => field bs (j * n) n))

/-- The requester number of the engine of a command (R390). -/
def Command.requester (c : Command) : Nat :=
  match c.engine with
  | 0 => 16 + c.core % 4
  | 1 => 24
  | _ => 25

/-- A requester asks its cluster's arbiter, at most one request at a time (R390). -/
def State.ask (s : State) (cluster who size prio team command : Nat) : State :=
  s.modCluster cluster (fun x =>
    if x.requests.any (fun r => r.requester == who) then x
    else { x with requests := x.requests ++ [⟨who, size, prio, x.cycles, false, team, command⟩] })

/-- The reservation of a command has been granted. -/
def State.granted (s : State) (c : Command) : Bool :=
  (s.cluster (clusterOf c.core)).holdings.any (fun h => h.command == c.id)

/-- Writes that a participant made before its COLL have not all completed (R208): counted as a FENCE with pset W counts them. -/
def State.priorWrites (s : State) (c : Command) : Bool :=
  let p : Pending := { id := c.id, addr := 0, idx := 0, kind := 0, lanes := c.lanes, scope := 3, pset := 2, sset := 0, ranges := [], asid := c.asid }
  match s.team? c.team, s.group? c.team c.group with
  | some tm, some g => s.before c.team c.group tm g p
  | _, _ => (s.saved.filter (fun t => t.key == c.team)).any (fun t =>
      (((t.groups[c.group]?).map (·.stores)).getD []).any (fun o =>
        o.id < c.id && o.elems.any (fun e => !e.done && c.lanes.getLsbD e.lane)))

/-- The packets that carry n bytes to a device, of at most 256 flits of 64 bytes (R403). -/
def State.sendPackets (s : State) (c : Command) (dest off : Nat) (data : List Byte) (n : Nat) : State :=
  let k := (n + 16383) / 16384
  { s with
    nextId := s.nextId + k
    packets := s.packets ++ (List.range k).map (fun i =>
      { id := s.nextId + i, part := c.part, command := c.id, dest := dest, escape := false, since := s.time
        off := off + 16384 * i, data := (data.drop (16384 * i)).take 16384 }) }

/-- A command whose packets have all been acknowledged has finished its accesses (R404). -/
def State.packetsDone (s : State) (command : Nat) : State :=
  if s.packets.any (fun p => p.command == command) then s
  else s.modCommand command (fun c => { c with state := 4 })

/-- The pages of a byte range that wraps nowhere. -/
def pagesOf (va n : Nat) : List Nat := (pageChunks va n).map (·.1)

/-- A home of some bytes that a collective or mirror command reaches has stopped serving its partition (R386). -/
def State.commandDown (s : State) (c : Command) (va n : Nat) : Bool :=
  (pageChunks va n).any (fun k => ((s.commandPage c k.1).map (fun x => s.rangeDown c.part [(x.pa, k.2)])).getD false)

/-- The bytes that a rank of an instance sends and those that it receives (R308, R309): first address and length of each. -/
def CollEntry.buffers (x : CollEntry) (op rank : Nat) : (Nat × Nat) × (Nat × Nat) :=
  let n := codeBits x.typ / 8
  let out := if op = 1 then x.e / x.p else if op = 2 then x.e * x.p else x.e
  (((x.send + rank * x.span) % 2 ^ 52, x.e * n), ((x.recv + rank * x.span) % 2 ^ 52, out * n))

/-- The local commands of an instance that its start waits for (R208, R222, R386, R390): each holds its reservation, its engine and
the homes that it reaches serve, its participants' earlier writes have been made, and it knows its pages. -/
def State.collWaiting (s : State) (x : CollEntry) (c : Command) : Bool :=
  let (a, b) := x.buffers c.minor c.a
  !s.granted c || s.unitDown c.part (s.engineUnit c) || s.priorWrites c ||
  !s.allKnown ⟨3, c.id, 0⟩ (dieOf c.core) c.part c.asid (pagesOf a.1 a.2 ++ pagesOf b.1 b.2) ||
  s.commandDown c a.1 a.2 || s.commandDown c b.1 b.2

/-- A local command of an instance asks for the walks of its pages (R222). -/
def State.collAsk (s : State) (x : CollEntry) (c : Command) : State :=
  let (a, b) := x.buffers c.minor c.a
  s.askWalks ⟨3, c.id, 0⟩ (dieOf c.core) c.part c.asid (pagesOf a.1 a.2 ++ pagesOf b.1 b.2)

/-- COLL_INSTANCE_START (R208, R309, R386, R390): when the first waiting COLL of every rank is there and none of the local ones has
to wait, the results are written; the sends for ranks on other devices go out, and the commands finish when those have been
acknowledged. -/
def execCollInstanceStart (part name : Nat) (s : State) : Out :=
  match s.collEntry part name with
  | none => .next s
  | some x =>
    match s.collRanks part name x.p with
    | none => .next s
    | some ws =>
      let cmds := ws.filterMap (fun w => s.command? w.command)
      match cmds.head? with
      | none => .next s
      | some c0 =>
        if cmds.any (s.collWaiting x) then .next (cmds.foldl (fun (s : State) c => s.collAsk x c) s)
        else
          let n := codeBits x.typ / 8
          let recvAt := fun (r : Nat) => (x.buffers 0 r).2.1
          let s1 := { s with collWaits := s.collWaits.filter (fun w => !ws.contains w) }
          let s1 := cmds.foldl (fun (s : State) c =>
            (s.collMeet c).commandReads c (x.buffers c.minor c.a).1.1 (x.buffers c.minor c.a).1.2) s1
          match cmds.find? (fun c => (s.collSend c x c.a).isNone) with
          | some c => .next (s1.engineViolation c.team c (x.buffers c.minor c.a).1.1)
          | none =>
            let vals := ws.map (fun w =>
              match s.command? w.command with
              | some c => (s.collSend c x c.a).getD []
              | none => w.elems)
            let away := (List.range x.p).filter (s.rankAway x)
            .next (cmds.foldl (fun (s : State) c =>
              let out := (collResult c0.minor (bits c0.mod 5 4) x.typ x.p x.e vals c.a).flatMap (fun y => leBytes y n)
              let bad := (pageChunks (recvAt c.a) out.length).any (fun k => (s.commandPage c k.1).isNone)
              match (if bad then none else s.pinWrite (dieOf c.core) c.part c.asid (recvAt c.a) out) with
              | some s =>
                (away.foldl (fun (s : State) r => s.sendPackets c (s.rankDevice x r) 0 [] (x.e * n)) s).packetsDone c.id
              | none => s.engineViolation c.team c (recvAt c.a)) s1)

/-- Ports of the fabric that are in the state that a test asks for. -/
def State.anyPort (s : State) (ports : List Nat) (ok : Nat → Bool) : Bool :=
  ports.any (fun k => ((s.ports[k % 12]?).map (fun p => ok p.mode)).getD false)

/-- Packets for a device have a route (R404): a minimal port that has not been removed, or the port of the escape channel. The
fabric's shape is not the manual's (log entry 99). -/
def State.routed (s : State) (dest : Nat) : Bool :=
  s.anyPort (Config.escapePort dest :: Config.minimalPorts dest) (· != 3)

/-- The mirror region that this device has written for a partition in a partner device (R310). -/
def State.mirror (s : State) (dest part : Nat) : Mirror := Map.get s.mirrors (8 * dest + part) ⟨[], []⟩

/-- Change a mirror region. -/
def State.modMirror (s : State) (dest part : Nat) (f : Mirror → Mirror) : State :=
  { s with mirrors := Map.put s.mirrors (8 * dest + part) (f (s.mirror dest part)) }

/-- The error code of a MIRR at its start, or its length (R310). -/
def State.mirrPlan (s : State) (c : Command) : Except Nat Nat :=
  match c.patched c.c with
  | .error e => .error e
  | .ok n =>
    let size := bits (s.part c.part).mirrCtl.toNat 63 32
    if size = 0 ∨ size * 65536 < c.b + n then .error 5 else .ok n

/-! ## Cuts -/

/-- The cut identifier of a MIRR (R310). -/
def Command.cutId (c : Command) : Nat := bits (c.lit.getD 0) 31 16

/-- A MIRR that starts belongs to the cut of its identifier, and begins it where no other MIRR of it has (R407; log entry 100). -/
def State.beginCut (s : State) (c : Command) : State :=
  s.modPart c.part (fun x =>
    if x.cuts.any (fun k => k.id == c.cutId) then x else { x with cuts := x.cuts ++ [⟨c.cutId, s.time, false⟩] })

/-- The copy interval of R407 in whole seconds: the nearest integer to √(2 × C × M), clamped to 1–600, for a cut of so many
ticks, with M of 3,600 × H / N seconds. -/
def copySeconds (ticks hours devices : Nat) : Nat :=
  max 1 ((List.range 600).filter (fun k =>
    (2 * k + 1) * (2 * k + 1) * 1000000000 * devices ≤ 4 * 7200 * ticks * hours)).length

/-- The copy interval of a partition is set afresh (R407). -/
def State.setInterval (s : State) (p : Nat) : State :=
  { s.modPart p (fun x => { x with
      copyInterval := copySeconds x.cutTicks (Config.fleetHours s.nonce) (Config.jobDevices s.nonce p) }) with
    nonce := s.nonce + 1 }

/-- A MIRR of a cut has completed (R407, R411). After the last one a cut none of whose MIRRs failed is complete: Gritus measures it
and reports the partition as secured where its partner stands on another feed. After every cut the copy interval is set afresh from
the last complete one. -/
def State.endCut (s : State) (c : Command) : State :=
  let more := s.commands.any (fun x => x.major == 0xD7 && x.part == c.part && x.cutId == c.cutId)
  match (s.part c.part).cuts.find? (fun k => k.id == c.cutId) with
  | none => s
  | some k =>
    let rest := fun (x : Partition) => x.cuts.filter (fun k => k.id != c.cutId)
    if more then
      (if c.code = 0 then s else s.modPart c.part (fun x => { x with cuts := rest x ++ [{ k with failed := true }] }))
    else if k.failed || c.code ≠ 0 then (s.modPart c.part (fun x => { x with cuts := rest x })).setInterval c.part
    else
      (s.modPart c.part (fun x => { x with
        cuts := rest x, cutTicks := s.time - k.start, secured := x.secured || !hasBit x.mirrCtl.toNat 31 })).setInterval c.part

/-- The blocks of the mirror region that a MIRR has written take its cut identifier as their tag (R310, R406). -/
def State.tagBlocks (s : State) (c : Command) (dest n : Nat) : State :=
  let blocks := if n = 0 then [] else (List.range ((c.b + n - 1) / 65536 + 1 - c.b / 65536)).map (c.b / 65536 + ·)
  s.modMirror dest c.part (fun m => { m with tags := blocks.foldl (fun t k => Map.put t k c.cutId) m.tags })

/-- What the completion of a MIRR does beside its stream (R310, R406, R407): one that its run did not perform does nothing. -/
def State.mirrDone (s : State) (c : Command) : State :=
  if c.major ≠ 0xD7 then s
  else
    let s := match c.dest, c.patched c.c with
      | some dest, .ok n => if c.code = 0 then s.tagBlocks c dest n else s
      | _, _ => s
    if c.dest.isSome || c.code ≠ 0 then s.endCut c else s

/-! ## Start -/

/-- The order of R292 and R306 lets a command start. -/
def State.mayStart (s : State) (c : Command) : Bool :=
  let stream := s.commands.filter (fun x => x.team == c.team && x.group == c.group && x.engine == c.engine &&
    x.ticket < c.ticket)
  let ahead := s.commands.takeWhile (fun x => x.id != c.id)
  (if c.engine = 2 ∨ hasBit c.mod 6 then stream.isEmpty else stream.all (fun x => 2 ≤ x.state)) &&
  (c.engine != 0 || (s.commands.filter (fun x => x.team == c.team && x.engine == 0 && 2 ≤ x.state)).length < 8) &&
  (c.major != 0xD5 || !ahead.any (fun x => x.major == 0xD5 && x.team == c.team && x.c == c.c && x.state == 1))

/-- The mode of the run that issued a command, resident or saved; none when the run is gone. -/
def State.commandMode (s : State) (c : Command) : Option RunMode :=
  match s.team? c.team with
  | some tm => some tm.mode
  | none => (s.saved.find? (fun t => t.key == c.team)).map (·.mode)

/-- The accesses of a command from its start (R297); a copy or gather starts with all its rows to move, and its accesses follow
(R292). -/
def State.startWork (s : State) (c : Command) : State :=
  let fail := fun (code : Nat) => s.modCommand c.id (fun c => { c with state := 4, code := code })
  let running := s.modCommand c.id (fun c => { c with state := 2 })
  let done := fun (s : State) => s.modCommand c.id (fun c => { c with state := 4 })
  match c.major with
  | 0xD4 =>
    let code := s.collCode c
    let running := running.collMeet c
    if code ≠ 0 then running.modCommand c.id (fun c => { c with state := 4, code := code })
    else { running with collWaits := running.collWaits ++ [⟨c.part, c.name, c.a, c.id, []⟩] }
  | 0xD7 =>
    match s.mirrPlan c with
    | .error code => (s.beginCut c).modCommand c.id (fun c => { c with state := 4, code := code })
    | .ok n =>
      let dest := bits (s.part c.part).mirrCtl.toNat 17 0
      let s := s.beginCut c
      let running := (s.modCommand c.id (fun c => { c with state := 2, dest := some dest }))
      if n = 0 then done (s.modCommand c.id (fun c => { c with dest := some dest }))
      else if !s.routed dest then (s.modCommand c.id (fun c => { c with state := 4, code := 5 }))
      else
        let t := (running.commandReads c c.a n)
        match s.commandBytes c c.a n with
        | none => t.engineViolation c.team c c.a
        | some bs => t.sendPackets c dest c.b bs n
  | 0xD6 => done (s.runRel c.team c)
  | _ =>
    match s.team? c.team with
    | none => s
    | some tm =>
      if c.major = 0xD5 then
        match binTable tm c.c with
        | .error code => fail code
        | .ok (ndest, cap, pbase) => done (s.runBin c.team c ndest cap pbase)
      else if c.major = 0xD9 then
        match zmapPlan tm c with
        | .error code => fail code
        | .ok ws => done (ws.foldl (fun (s : State) ax =>
            (s.modTeam c.team (fun tm => { tm with pad := padPut tm.pad ax.1 (leBytes ax.2 2) })).modCommand c.id
              (fun c => c.wrote 1 ax.1 (leBytes ax.2 2))) s)
      else
        match s.copyRows c.team tm c with
        | .error code => fail code
        | .ok rows => s.modCommand c.id (fun c => { c with state := if rows.isEmpty then 4 else 2, todo := rows })

/-- The level of the team that issued a command, resident or saved (R240, R391). -/
def State.commandLevel (s : State) (c : Command) : Nat :=
  match s.team? c.team with
  | some tm => s.levelOf tm
  | none =>
    ((s.saved.find? (fun t => t.key == c.team)).bind (fun t => (s.grid? t.part t.asid t.record).map (·.prio))).getD 0

/-- A MIRR waits before it starts for the walks of its pages (R222), and for homes that have stopped (R386). -/
def State.mirrWaits (s : State) (c : Command) : Option (List Nat) :=
  match s.mirrPlan c with
  | .ok n =>
    let pages := pagesOf c.a n
    if c.major != 0xD7 || (s.allKnown ⟨3, c.id, 0⟩ (dieOf c.core) c.part c.asid pages && !s.commandDown c c.a n) then none
    else some pages
  | .error _ => none

/-- What a command may do at its unit (R292, R297, R315, R326, R390), `away` where its team is being saved or gone: it waits while
its clock stands (R395) or its run releases what it held (R341), it is done with nothing performed in a replaying run, it asks for
its reservation, it goes on with its rows, or it starts. -/
def State.drive (s : State) (c : Command) (mode : RunMode) (away : Bool) : State :=
  let collective := c.major == 0xD4 || c.major == 0xD7
  let record := ((s.team? c.team).map (·.record)).getD 0
  let asking := s.ask (clusterOf c.core) c.requester 2 (s.commandLevel c) c.team c.id
  if s.unitDown c.part (s.engineUnit c) || s.clockStopped c.core || ((s.team? c.team).map s.releasing).getD false then s
  else if c.state = 2 then (if c.engine = 0 ∧ s.granted c then s.movePieces c.team c c.todo else if s.granted c then s else asking)
  else if (away && !collective) || (c.state ≠ 3 && (c.state ≠ 1 || c.held || !s.mayStart c)) then s
  else if collective && (mode == .trail || mode == .third) then s.modCommand c.id (fun c => { c with state := 4 })
  else if !s.granted c then asking
  else if c.state = 3 then s.movePieces c.team c c.todo
  else
    match s.mirrWaits c with
    | some pages => s.askWalks ⟨3, c.id, 0⟩ (dieOf c.core) c.part c.asid pages
    | none =>
      (s.serve c.part (s.engineUnit c) { UnitFault.none with record := record, asid := c.asid, addr := c.ticket }).startWork c

/-- COMMAND_START (R292, R297, R315): a command whose order lets it start asks for its reservation, and starts once it is
granted; one that has started goes on with its next row, a suspended one resumes. A collective of a team that has ended goes
on for the other ranks (R317). -/
def execCommandStart (command : Nat) (s : State) : Out :=
  match s.command? command with
  | none => .next s
  | some c =>
    let away := match s.team? c.team with
      | none => true
      | some tm => c.engine == 0 && (tm.fault.isSome || tm.save != 0)
    .next (s.drive c ((s.commandMode c).getD .unchecked) away)

/-! ## Completion -/

/-- What a command adds to its run's engine sum (R337). -/
def Command.signature (c : Command) : Nat :=
  let operands := (match c.major with
    | 0xD4 => [c.a]
    | 0xD5 => [c.c]
    | 0xD6 => if c.lit.isSome then [c.a] else [c.a, c.b]
    | 0xD8 => [c.a, c.b * c.patch.getD 1]
    | 0xD0 => [c.a, c.b, c.c * c.patch.getD 1]
    | 0xD7 => [c.a, c.b, c.c * c.patch.getD 1]
    | _ => [c.a, c.b, c.c]) ++ c.lit.toList
  let e := fmix ((c.group <<< 48) ^^^ (c.engine <<< 40) ^^^ c.ticket)
  let e := operands.foldl (fun e o => fmix (rotl64 e 23 ^^^ o)) e
  let chunks := c.written.foldl (fun ks kb => insertNat (kb.1 / 8) ks) []
  chunks.foldl (fun e k =>
    let here := c.written.filter (fun kb => kb.1 / 8 == k)
    let mask := here.foldl (fun m kb => m + 2 ^ (kb.1 % 8)) 0
    let data := here.foldl (fun d kb => d + kb.2 * 2 ^ (8 * (kb.1 % 8))) 0
    rotl64 e 23 ^^^ chunkHash (8 * k / 2 ^ 60) mask (8 * k % 2 ^ 60) data) e

/-- A stream of a group after the completion of a command (R291, R297). -/
def Stream.complete (x : Stream) (c : Command) : Stream :=
  { x with
    done := c.ticket
    seen := if c.major = 0xD4 ∧ c.code = 0 then x.seen ++ [(c.ticket, c.name, c.asid)] else x.seen
    err := if c.code ≠ 0 ∧ x.err = 0 then (c.ticket % 2 ^ 56) * 256 + c.code else x.err }

/-- The place of a group's stream counts in a save image (R316). -/
def groupBlockAt (slot gi : Nat) : Nat := slot + 64 + 4096 + 4096 * gi

/-- COMMAND_COMPLETION (R291): every lower ticket of the stream has completed; the sequence number and the error word are
written, in the group or in its saved block (R316). A run that has ended takes nothing (R317). A MIRR's blocks take their tags
(R310), and after a cut its measures (R407). -/
def execCommandCompletion (command : Nat) (s : State) : Out :=
  match s.command? command with
  | none => .next s
  | some c =>
    let lower := s.commands.any (fun x => x.team == c.team && x.group == c.group && x.engine == c.engine &&
      x.ticket < c.ticket)
    if c.state ≠ 4 ∨ lower then .next s
    else
      let s := (({ s with commands := s.commands.filter (fun x => x.id != command) }).spend ⟨3, command, 0⟩).mirrDone c
      match s.team? c.team with
      | some tm =>
        .next (s.modTeam c.team (fun tm' => { tm'.modGroup c.group (fun g => g.modStream c.engine (·.complete c)) with
          engineSum := if tm.mode = .unchecked then 0 else (tm'.engineSum + c.signature) % 2 ^ 64 }))
      | none =>
        match s.saved.find? (fun t => t.key == c.team) with
        | some t =>
          let g := (t.groups[c.group]?).getD (Group.launch 0 0 0)
          let x := (g.stream c.engine).complete c
          let noted := fun (y : SavedTeam) => if y.key = c.team then
            { y with groups := modNth (fun g => g.modStream c.engine (·.complete c)) c.group y.groups } else y
          let s := { s with saved := s.saved.map noted }
          let base := groupBlockAt t.slot c.group
          let s := match t.mode, s.checked.find? (fun k => k.part == t.part && k.record == t.record &&
              k.asid == t.asid && k.index == t.index && k.stage < 3) with
            | .unchecked, _ => s
            | _, none => s
            | _, some k =>
              let (b, s) := s.devRead t.part 4 t.asid t.record (k.logBase + 8 + 32 * t.copy) 8
              s.devPut t.part 4 t.asid t.record (k.logBase + 8 + 32 * t.copy) 8 ((ofLeBytes b + c.signature) % 2 ^ 64)
          let s := s.devWrite t.part 4 t.asid t.record (base + 0xE48 + 16 * c.engine) (leBytes x.done 8)
          .next (s.devWrite t.part 4 t.asid t.record (base + 0xE70 + 8 * c.engine) (leBytes x.err 8))
        | none => .next s

end Sys2Proof.Machine
end

