-- ==== Sys2Proof/Machine/Matrix.lean ====
section
/-! DEFINITION. The matrix sequencer's instructions (R57, R58, R258–R288): operand maps, tiles, multiply-accumulate,
epilogues, barrier arrivals and loops. -/

namespace Sys2Proof.Machine

/-! ## The sequencer's frame -/

/-- Change the sequencer of a team. -/
def State.modSeq (s : State) (t : Nat) (f : Sequencer → Sequencer) : State :=
  s.modTeam t (fun tm => { tm with seq := f tm.seq })

/-- A failure of the stream halts the partition (R260). -/
def matrixHalt (t : Nat) (addr idx code : Nat) (s : State) : State :=
  match s.team? t with
  | some tm => s.halt tm.part 8 (128 + s.coreUnit tm)
      { UnitFault.none with addr := addr, detail := code, index := idx, record := tm.record, asid := tm.asid }
  | none => s

/-- The sequencer's instruction has been executed: the next one follows, or the next clause. -/
def Sequencer.advance (q : Sequencer) (r : ClauseRun) : Sequencer :=
  if r.insns.length ≤ r.idx then { q with pc := r.next, idx := 0, clause := none }
  else { q with idx := r.idx + 1, clause := some { r with idx := r.idx + 1 } }

/-- The current instruction retires. -/
def seqRetire (t : Nat) (r : ClauseRun) (s : State) : State := s.modSeq t (·.advance r)

/-- The sequencer of a team issues nothing: its unit (R386, R388) or its team has stopped; a macro-operation that has been granted
goes on to its end when its team is to be saved (R286, R391). -/
def State.seqStopped (s : State) (tm : Team) : Bool :=
  s.unitDown tm.part (128 + s.coreUnit tm) || (if tm.seq.res = 2 then s.clockStopped tm.core else s.stopped tm)

/-- A macro-operation has been granted that will start or go on (R284): none starts after the last group has ended. -/
def Team.macroGranted (tm : Team) : Bool := tm.seq.res == 2 && (tm.liveGroups != 0 || tm.seq.row != 0)

/-- The frame of a matrix instruction (R259, R260): the sequencer must run and be free, and the team must have a group that
has not ended (R284); a guard other than 0b0111 fails with code 1. -/
def matFrame (i : Instr) (effect : Nat → Team → ClauseRun → Fields → State → Out) (s : State) : Out :=
  match s.cur, i.fields with
  | .sequencer t, some f =>
    match s.team? t with
    | none => .next s
    | some tm =>
      match tm.seq.clause with
      | none => .next s
      | some r =>
        if s.seqStopped tm || tm.seq.mode != 0 || tm.seq.busy || (tm.liveGroups == 0 && tm.seq.row == 0) then stall s
        else if f.gn || f.gp != 7 then stall (matrixHalt t r.addr r.idx 1 s)
        else effect t tm r f s
  | _, _ => .next s

/-- A sequencer is ready to start a macro-operation: MMA, TZERO, TLD, TST or TEPI stands next in its stream (R390). -/
def State.macroReady (s : State) (tm : Team) : Bool :=
  !s.seqStopped tm && tm.seq.mode == 0 && !tm.seq.busy && tm.liveGroups != 0 &&
  match tm.seq.clause.bind (fun r => r.insns[r.idx - 1]?) with
  | some (w :: _) => [0xE0, 0xE1, 0xE2, 0xE3, 0xEA].contains (bits w.toNat 29 22)
  | _ => false

/-- The core's matrix engine requests for a team next (R390): of the core's sequencers that are ready, in rotation by
placement after the one served last, it is the first. -/
def State.matrixTurn (s : State) (tm : Team) : Bool :=
  let last := (s.core tm.core).matrixLast
  let rank := fun (x : Team) => (if last < x.order then 0 else 1, x.order)
  s.teams.all (fun kt => kt.2.core != tm.core || kt.2.order == tm.order || !s.macroReady kt.2 ||
    decide ((rank tm).1 < (rank kt.2).1 ∨ ((rank tm).1 = (rank kt.2).1 ∧ (rank tm).2 < (rank kt.2).2)))

/-- A macro-operation (R259, R285): it asks for its reservation through the core's matrix engine and starts once it is
granted; its checks come first, and a failing one leaves no effect. While `more` holds of it, it goes on after the effect. -/
def macroOp (i : Instr) (size : Team → Fields → Nat) (check : State → Nat → Team → Fields → Option Nat)
    (effect : State → Nat → Team → Fields → State) (s : State) (more : Team → Bool := fun _ => false) : Out :=
  matFrame i (fun t tm r f s =>
    match (if tm.seq.row = 0 then check s t tm f else none) with
    | some code => stall (matrixHalt t r.addr r.idx code s)
    | none =>
      if tm.seq.res = 2 && more tm then stall (effect s t tm f)
      else if tm.seq.res = 2 then
        .next (seqRetire t r ((effect s t tm f).modSeq t (fun q => { q with res := 0, busy := true })))
      else
        let c := clusterOf tm.core
        let who := 20 + tm.core % 4
        if tm.seq.res = 1 ∨ (s.cluster c).requests.any (fun q => q.requester == who) ∨ !s.matrixTurn tm then stall s
        else stall ((s.ask c who (size tm f) (s.levelOf tm) t 0).modSeq t (fun q => { q with res := 1 }))) s

/-! ## Maps and elements -/

/-- An operand map of a team. -/
def Team.om (tm : Team) (n : Nat) : OperandMap := (tm.seq.om[n]?).getD ⟨0, 0, 0, 0, 0, 0⟩

/-- Change an operand map. -/
def Sequencer.modMap (q : Sequencer) (n : Nat) (f : OperandMap → OperandMap) : Sequencer :=
  { q with om := modNth f n q.om }

/-- FORMAT, MX, WIN, SHADOW and SWZ of a map (R264). -/
def OperandMap.format (m : OperandMap) : Nat := bits m.fmt 3 0
/-- MX of a map. -/
def OperandMap.mx (m : OperandMap) : Bool := hasBit m.fmt 8
/-- WIN of a map. -/
def OperandMap.win (m : OperandMap) : Bool := hasBit m.fmt 9
/-- SWZ of a map. -/
def OperandMap.swz (m : OperandMap) : Nat := bits m.fmt 5 4
/-- Bits of an element of a map. -/
def OperandMap.width (m : OperandMap) : Nat := matWidth m.format

/-- The address of a row-relative byte of row x (R265). -/
def OperandMap.byteAt (m : OperandMap) (x o : Nat) : Nat := m.base + x * m.pitch + swizzle m.swz x o

/-- The row-relative bytes of n elements from element k, which start on a byte. -/
def OperandMap.rowBytes (m : OperandMap) (k n : Nat) : List Nat :=
  (List.range ((m.width * n + 7) / 8)).map (fun i => m.width * k / 8 + i)

/-- The bits of element k of row x. -/
def elementBits (tm : Team) (m : OperandMap) (x k : Nat) : Nat :=
  let w := m.width
  let first := w * k / 8
  let n := (w * k + w + 7) / 8 - first
  ofLeBytes ((List.range n).map (fun i => padGet tm.padNonce tm.pad (m.byteAt x (first + i)))) >>> (w * k % 8) % 2 ^ w

/-- The scale byte of element k of row x (R266). -/
def scaleAt (m : OperandMap) (x k : Nat) : Nat := m.sbase + x * m.spitch + k / 32

/-- The type code of R24 of a floating-point format code (R264). -/
def matType (fmt : Nat) : Nat :=
  match fmt with
  | 5 => 16
  | 6 => 15
  | 9 => 14
  | _ => 17 + fmt

/-- An integer format. -/
def matInt (fmt : Nat) : Bool := fmt == 7 || fmt == 8 || fmt == 10

/-- The value of element k of row x with its scale (R266). -/
def elementValue (tm : Team) (m : OperandMap) (x k : Nat) : FVal :=
  let v := decodeFloat (fmtOf (matType m.format)) (elementBits tm m x k)
  if m.mx then
    let e := (padGet tm.padNonce tm.pad (scaleAt m x k)).toNat
    if e = 255 then .nan false
    else
      match v with
      | .num n q p => .num n q (p + e - 127)
      | v => v
  else v

/-- The value of an integer element. -/
def elementInt (tm : Team) (m : OperandMap) (x k : Nat) : Int := sext (elementBits tm m x k) m.width

/-- A map's fixed conditions at use: KOFF a multiple of 32 (R263). -/
def OperandMap.useOk (m : OperandMap) : Bool := m.koff % 32 == 0

/-- The K window of n elements of a row lies below Q, with its scales (R265, R266). -/
def windowOk (tm : Team) (m : OperandMap) (x n : Nat) : Bool :=
  (m.rowBytes m.koff n).all (fun o => tm.ownsPad (m.byteAt x o) 1) &&
  (!m.mx || (List.range n).all (fun k => tm.ownsPad (scaleAt m x (m.koff + k)) 1))

/-- A tile word's key: slot, row, column (R261). -/
def tileKey (slot row col : Nat) : Nat := slot * 4096 + row * 64 + col

/-- A tile word. -/
def Team.tile (tm : Team) (slot row col : Nat) : Nat := (Map.get tm.tiles (tileKey slot row col) 0).toNat

/-- Write a tile word. -/
def Team.putTile (tm : Team) (key x : Nat) : Team := { tm with tiles := Map.put tm.tiles key (BitVec.ofNat 32 x) }

/-- The slots from d for c slots are the team's (R262). -/
def slotsOk (tm : Team) (d c : Nat) : Bool := d + c ≤ tm.lb.tiles

/-- The first failing check. -/
def firstFail (cs : List (Bool × Nat)) : Option Nat := (cs.find? (fun c => !c.1)).map Prod.snd

/-! ## MMA -/

/-- A product of two element values (R57). -/
def product (a b : FVal) : FVal :=
  match a, b with
  | .nan s, _ => .nan s
  | _, .nan s => .nan s
  | .inf n, b => if b.isZero then .nan false else .inf (n != b.neg)
  | a, .inf n => if a.isZero then .nan false else .inf (n != a.neg)
  | .num n p e, .num m q f => .num (n != m) (p * q) (e + f)

/-- One K-step of floating-point products into a .f32 accumulator (R57, R58). -/
def floatStep (acc : Nat) (ps : List FVal) : Nat :=
  let f := fmtOf 14
  let a := decodeFloat f acc
  let infs := ps.filter FVal.isInf
  if a.isNan then acc
  else if ps.any FVal.isNan then qnan f
  else
    match infs with
    | x :: rest =>
      if rest.any (fun y => y.neg != x.neg) || (a.isInf && a.neg != x.neg) then qnan f else infBits f x.neg
    | [] =>
      if ps.all FVal.isZero || a.isInf then acc
      else
        let sum := ps.foldl (fun d p => d.add p.dy) a.dy
        if sum.num = 0 then 0 else (roundSat f 0 0 false false sum).1

/-- M, N, the forms, the offsets of an MMA (R269). -/
structure MmaShape where
  d : Nat
  m : Nat
  n : Nat
  gather : Bool
  skip : Bool
  zero : Bool
  adva : Bool
  advb : Bool
  ioff : Nat
  zoff : Nat

/-- The shape of an MMA's fields (R269). -/
def mmaShape (f : Fields) : MmaShape where
  d := f.d.toNat
  m := 64 * 2 ^ (f.minor.toNat / 4 % 4)
  n := if f.mod.toNat % 64 = 0 then 1024 else 16 * (f.mod.toNat % 64)
  gather := f.minor.getLsbD 0
  skip := f.minor.getLsbD 1
  zero := f.minor.getLsbD 4
  adva := f.mod.getLsbD 6
  advb := f.mod.getLsbD 7
  ioff := 16 * bits (Forms.litNat f) 15 0
  zoff := 16 * bits (Forms.litNat f) 31 16

/-- The MMA class of a format code (R264): 1 F8, 2 F6/F4, 3 BF16, 4 F16, 5 I8, 6 I4, 0 none. -/
def mmaClass (fmt : Nat) : Nat :=
  if fmt ≤ 1 then 1 else if fmt ≤ 4 then 2 else if fmt = 5 then 3 else if fmt = 6 then 4
  else if fmt = 7 then 5 else if fmt = 8 then 6 else 0

/-- MX stands only on a format that allows it (R264). -/
def OperandMap.mxOk (m : OperandMap) : Bool := !m.mx || m.format ≤ 4

/-- The reservation of an MMA (R285). -/
def mmaSize (tm : Team) (f : Fields) : Nat :=
  let x := mmaShape f
  let k := mmaClass (tm.om f.a.toNat).format
  let unit := if k = 1 ∨ k = 5 then 14 else if k = 3 ∨ k = 4 then 12 else 16
  ceilDiv (unit * min x.n 96) 96 + if x.gather then 1 else 0

/-- Scratchpad halfword. -/
def Team.half (tm : Team) (a : Nat) : Nat := ofLeBytes (padBytes tm.padNonce tm.pad a 2)

/-- The row of the A map that result row m takes (R273). -/
def mmaRow (tm : Team) (x : MmaShape) (m : Nat) : Nat := if x.gather then tm.half (x.ioff + 2 * m) else m

/-- The address of a band's halfword of the zero-block bitmap (R272). -/
def bandAt (x : MmaShape) (a : OperandMap) (k band : Nat) : Nat := x.zoff + 2 * (x.m / 8) * (a.koff / k) + 2 * band

/-- The checks of an MMA, in the order 4, 2, 6, 3 (R260, R265, R270). -/
def mmaCheck (_ : State) (_ : Nat) (tm : Team) (f : Fields) : Option Nat :=
  let x := mmaShape f
  let a := tm.om f.a.toNat
  let b := tm.om f.b.toNat
  let k := mmaK a.format
  firstFail [
    (mmaClass a.format != 0 && mmaClass a.format == mmaClass b.format && !a.win && !b.win && a.mxOk && b.mxOk, 4),
    (slotsOk tm x.d (ceilDiv x.m 64 * ceilDiv x.n 64), 2),
    (a.useOk && b.useOk &&
      (!x.gather || tm.ownsPad x.ioff (2 * x.m)) &&
      (!x.skip || (List.range (x.m / 8)).all (fun band => tm.ownsPad (bandAt x a k band) 2)) &&
      (List.range x.m).all (fun m => windowOk tm a (mmaRow tm x m) k) &&
      (List.range x.n).all (fun n => windowOk tm b n k), 3)]

/-- K-step s of a band is skipped (R272). -/
def skipped (fmt bitmap s : Nat) : Bool :=
  match mmaK fmt with
  | 64 => hasBit bitmap s
  | 32 => hasBit bitmap (s / 2)
  | _ => hasBit bitmap (2 * s) && hasBit bitmap (2 * s + 1)

/-- Fold the K-steps of one element of the result that are not skipped (R271, R272). -/
def kSteps {α : Type} (size : Nat) (skip : Nat → Bool) (f : Nat → List α → Nat) (ps : List α) (acc : Nat) : Nat :=
  (List.range 8).foldl (fun acc s => if skip s then acc else f acc ((ps.drop (s * size)).take size)) acc

/-- A row's window of K elements of a map, as a function gives each. -/
def OperandMap.window {α : Type} (m : OperandMap) (k : Nat) (f : Nat → α) : List α :=
  (List.range k).map (fun j => f (m.koff + j))

/-- An integer K-step into an accumulator that wraps (R271). -/
def intStep (acc : Nat) (ps : List Int) : Nat := wrap 32 ((acc : Int) + ps.sum)

/-- The tile word of element (m, n) (R262). -/
def mmaKey (x : MmaShape) (m n : Nat) : Nat :=
  tileKey (x.d + m / 64 * ceilDiv x.n 64 + n / 64) (m % 64) (n % 64)

/-- The tile words that an MMA writes (R271): one element for each row of A, which may be gathered, and each row of B. -/
def mmaWords {α β : Type} (tm : Team) (x : MmaShape) (a b : OperandMap) (value : OperandMap → Nat → Nat → α)
    (times : α → α → β) (step : Nat → List β → Nat) : List (Nat × Nat) :=
  let k := mmaK a.format
  let bs := (List.range x.n).map (fun n => (n, b.window k (value b n)))
  (List.range x.m).flatMap (fun m =>
    let row := mmaRow tm x m
    let xs := a.window k (value a row)
    let bitmap := if x.skip then tm.half (bandAt x a k (m / 8)) else 0
    bs.map (fun ny =>
      let key := mmaKey x m ny.1
      let acc := if x.zero then 0 else (Map.get tm.tiles key 0).toNat
      (key, kSteps (k / 8) (fun s => x.skip && skipped a.format bitmap s) step (List.zipWith times xs ny.2) acc)))

/-- The effect of an MMA (R271). -/
def mmaEffect (s : State) (t : Nat) (tm : Team) (f : Fields) : State :=
  let x := mmaShape f
  let a := tm.om f.a.toNat
  let b := tm.om f.b.toNat
  let words :=
    if matInt a.format then mmaWords tm x a b (elementInt tm) (· * ·) intStep
    else mmaWords tm x a b (elementValue tm) product floatStep
  let s := s.modTeam t (fun tm => words.foldl (fun (tm : Team) kw => tm.putTile kw.1 kw.2) tm)
  let bump := fun (n : Nat) (q : Sequencer) => q.modMap n (fun m => { m with koff := (m.koff + mmaK a.format) % 2 ^ 32 })
  let s := if x.adva then s.modSeq t (bump f.a.toNat) else s
  if x.advb then s.modSeq t (bump f.b.toNat) else s

/-- MMA (R269, R271). -/
def execMma (f : Fields) (s : State) : Out := macroOp (.mma f) mmaSize mmaCheck mmaEffect s
/-- MMA.G (R269, R273). -/
def execMmaG (f : Fields) (s : State) : Out := macroOp (.mmaG f) mmaSize mmaCheck mmaEffect s
/-- MMA.S (R269, R272). -/
def execMmaS (f : Fields) (s : State) : Out := macroOp (.mmaS f) mmaSize mmaCheck mmaEffect s
/-- MMA.GS (R269, R272, R273). -/
def execMmaGs (f : Fields) (s : State) : Out := macroOp (.mmaGs f) mmaSize mmaCheck mmaEffect s

/-! ## Tiles -/

/-- The places of a tile slot in row order and then column order. -/
def tilePlaces : List (Nat × Nat) := (List.range 64).flatMap (fun r => (List.range 64).map (fun c => (r, c)))

/-- TZERO (R276). -/
def execTzero (f : Fields) (s : State) : Out :=
  macroOp (.tzero f) (fun _ _ => 1)
    (fun _ _ tm f => firstFail [(slotsOk tm f.d.toNat f.b.toNat, 2)])
    (fun s t _ f => s.modTeam t (fun tm =>
      { tm with tiles := tm.tiles.filter (fun kv =>
          !(f.d.toNat * 4096 ≤ kv.1 && kv.1 < (f.d.toNat + f.b.toNat) * 4096)) })) s

/-- Formats that TLD and TST take (R264). -/
def loadable (fmt : Nat) : Bool := fmt ≤ 1 || (5 ≤ fmt && fmt ≤ 7) || fmt == 9 || fmt == 10

/-- .adv adds 64 to KOFF (R277, R278). -/
def advance64 (s : State) (t : Nat) (f : Fields) : State :=
  if f.mod.getLsbD 6 then
    s.modSeq t (fun q => q.modMap f.a.toNat (fun m => { m with koff := (m.koff + 64) % 2 ^ 32 }))
  else s

/-- The tile word that an element becomes (R277). -/
def tldWord (fmt x : Nat) : Nat :=
  if fmt = 9 ∨ fmt = 10 then x else if fmt = 7 then wrap 32 (sext x 8) else (convert 14 (matType fmt) 0 0 false 0 x).1

/-- TLD (R277). -/
def execTld (f : Fields) (s : State) : Out :=
  macroOp (.tld f) (fun _ _ => 3)
    (fun _ _ tm f =>
      let m := tm.om f.a.toNat
      firstFail [(loadable m.format && !m.mx && !m.win, 4), (slotsOk tm f.d.toNat 1, 2),
        (m.useOk && (List.range 64).all (fun x => windowOk tm m x 64), 3)])
    (fun s t tm f =>
      let m := tm.om f.a.toNat
      let words := tilePlaces.map (fun rc =>
        (tileKey f.d.toNat rc.1 rc.2, tldWord m.format (elementBits tm m rc.1 (m.koff + rc.2))))
      advance64 (s.modTeam t (fun tm => words.foldl (fun (tm : Team) kw => tm.putTile kw.1 kw.2) tm)) t f) s

/-- The element that a tile word becomes (R278). -/
def tstBits (fmt mode : Nat) (sat : Bool) (x : Nat) : Nat :=
  if fmt = 9 ∨ fmt = 10 then x
  else if fmt = 7 then wrap 8 (if sat then clamp true 8 (sext x 32) else sext x 32)
  else (convert (matType fmt) 14 mode 0 sat 0 x).1

/-- The window offset of a row-relative byte of a window map (R263, R278). -/
def OperandMap.windowAt (m : OperandMap) (x o : Nat) : Nat :=
  bits m.base 17 0 + x * m.pitch + swizzle m.swz x o

/-- The checks of TST (R278). -/
def tstCheck (s : State) (t : Nat) (tm : Team) (f : Fields) : Option Nat :=
  let m := tm.om f.a.toNat
  let target := s.windowOf t tm m.base
  let bytes := m.rowBytes m.koff 64
  firstFail [
    (loadable m.format && !m.mx, 4),
    (slotsOk tm f.d.toNat 1, 2),
    (!m.win || target.isSome || (tm.replays && tm.lb.win != 0), 6),
    (m.useOk && (if m.win then
        (match target with
         | some ko => (List.range 64).all (fun x => bytes.all (fun o => m.windowAt x o < ko.2.lb.win))
         | none => true)
      else (List.range 64).all (fun x => windowOk tm m x 64)), 3)]

/-- Write one element of TST (R278, R281): a window write of a replaying run is suppressed (R326). -/
def tstPut (t : Nat) (tm : Team) (m : OperandMap) (x k bitsOf : Nat) (s : State) : State :=
  let w := m.width
  let bs := leBytes bitsOf (w / 8)
  let places := (List.range (w / 8)).map (fun i => w * k / 8 + i)
  (places.zip bs).foldl (fun (s : State) ob =>
    if m.win then
      if tm.replays then s
      else
        match s.windowOf t tm m.base with
        | some ko => s.modTeam ko.1 (fun o =>
          if hasBit m.fmt 10 then { o with shadow := Memory.put o.shadow (m.windowAt x ob.1) ob.2 }
          else { o with visible := Memory.put o.visible (m.windowAt x ob.1) ob.2 })
        | none => s
    else s.modTeam t (fun tm => { tm with pad := Map.put tm.pad (m.byteAt x ob.1) ob.2 })) s

/-- One row of TST (R278): its elements in column order; after the last row the map moves on. -/
def tstRow (s : State) (t : Nat) (tm : Team) (f : Fields) : State :=
  let m := tm.om f.a.toNat
  let x := tm.seq.row
  let s := (List.range 64).foldl (fun s k =>
    tstPut t tm m x (m.koff + k) (tstBits m.format (f.mod.toNat % 8) (f.mod.getLsbD 3) (tm.tile f.d.toNat x k)) s) s
  if x < 63 then s.modSeq t (fun q => { q with row := x + 1 }) else advance64 (s.modSeq t (fun q => { q with row := 0 })) t f

/-- TST (R278): its rows are stored one after the other, so that another agent may see some of them (R314). -/
def execTst (f : Fields) (s : State) : Out :=
  macroOp (.tst f) (fun _ _ => 3) tstCheck tstRow s (fun tm => decide (tm.seq.row < 63))

/-- A vector element of TEPI in .f32 (R279). -/
def vectorAt (tm : Team) (m : OperandMap) (col : Nat) : Nat :=
  let x := elementBits tm m 0 (m.koff + col)
  if m.format = 9 then x else (convert 14 (matType m.format) 0 0 false 0 x).1

/-- A map that TEPI may read (R279). -/
def vectorOk (m : OperandMap) : Bool := (m.format == 5 || m.format == 6 || m.format == 9) && !m.mx && !m.win

/-- The activation of TEPI (R279): 0 none, 1 relu, 2 tanh, 3 sigm, 4 silu. -/
def activation (act y : Nat) : Nat :=
  let f := fmtOf 14
  match act with
  | 0 => y
  | 1 =>
    match decodeFloat f y with
    | .nan _ => quiet f y
    | v => if v.neg || v.isZero then 0 else y
  | 2 => (special 7 f 0 false false y).1
  | 3 => (special 8 f 0 false false y).1
  | _ => (special 9 f 0 false false y).1

/-- TEPI (R279). -/
def execTepi (f : Fields) (s : State) : Out :=
  let scl := f.minor.getLsbD 3
  let bias := f.minor.getLsbD 4
  macroOp (.tepi f) (fun _ _ => 3)
    (fun _ _ tm f =>
      let a := tm.om f.a.toNat
      let b := tm.om f.b.toNat
      firstFail [((!scl || vectorOk a) && (!bias || vectorOk b), 4), (slotsOk tm f.d.toNat 1, 2),
        ((!scl || (a.useOk && windowOk tm a 0 64)) && (!bias || (b.useOk && windowOk tm b 0 64)), 3)])
    (fun s t tm f =>
      let words := tilePlaces.map (fun rc =>
        let x := tm.tile f.d.toNat rc.1 rc.2
        let sc := if scl then vectorAt tm (tm.om f.a.toNat) rc.2 else 0x3F800000
        let c := if bias then vectorAt tm (tm.om f.b.toNat) rc.2 else 0
        let y := if !scl && !bias then x else (fFma (fmtOf 14) 0 false false x sc c).1
        (tileKey f.d.toNat rc.1 rc.2, activation (f.minor.toNat % 8) y))
      s.modTeam t (fun tm => words.foldl (fun (tm : Team) kw => tm.putTile kw.1 kw.2) tm)) s

/-! ## Maps, barriers, loops -/

/-- Write a field of a map (R263, R275). -/
def OperandMap.set (m : OperandMap) (code x : Nat) : OperandMap :=
  match code with
  | 0 => { m with base := x }
  | 1 => { m with pitch := x }
  | 2 => { m with koff := x }
  | 3 => { m with fmt := x }
  | 4 => { m with sbase := x }
  | _ => { m with spitch := x }

/-- OMAP (R275). -/
def execOmap (f : Fields) (s : State) : Out :=
  let code := f.minor.toNat
  let x := match f.lit with | some w => w.toNat | none => f.b.toNat
  matFrame (.omap f) (fun t _ r f s =>
    match firstFail [(code != 3 || (bits x 31 11 == 0 && bits x 7 6 == 0 && bits x 3 0 ≤ 10), 4),
        (1 < code || x % 16 == 0, 3)] with
    | some c => stall (matrixHalt t r.addr r.idx c s)
    | none => .next (seqRetire t r (s.modSeq t (fun q => q.modMap f.d.toNat (·.set code x))))) s

/-- The sequencer's arrival at a team barrier (R280): held while its bit is set in the current phase, and then made by the
completion of that phase; MWAIT then waits. -/
def seqArrive (i : Instr) (waits : Bool) (s : State) : Out :=
  matFrame i (fun t tm r f s =>
    let n := f.a.toNat
    let now := (s.core tm.core).cycles
    if tm.seq.arrived then .next ((seqRetire t r s).modSeq t (fun q => { q with arrived := false }))
    else if ((tm.barriers[n]?).getD .fresh).seq then
      stall (s.modSeq t (fun q => { q with mode := 2, barrier := n, held := some (f.b.toNat, waits) }))
    else
      let s := seqRetire t r s
      .next (s.modTeam t (fun tm =>
        let q := tm.seq
        let tm := { tm with
          barriers := modNth (·.arrive none f.b.toNat now) n tm.barriers
          seq := if waits then { q with mode := 1, barrier := n } else q }
        tm.checkBarrier n now 40))) s

/-- MSIG (R280). -/
def execMsig (f : Fields) (s : State) : Out := seqArrive (.msig f) false s
/-- MWAIT (R280). -/
def execMwait (f : Fields) (s : State) : Out := seqArrive (.mwait f) true s

/-- MLOOP (R282): a count of 0 in the field is 256. -/
def execMloop (f : Fields) (s : State) : Out :=
  matFrame (.mloop f) (fun t tm r f s =>
    let n := f.d.toNat
    let count := if f.b.toNat = 0 then 256 else f.b.toNat
    let x := tm.seq.lc.getD n 0 + 1
    .next (s.modSeq t (fun q =>
      if x < count then
        { q with
          lc := modNth (fun _ => x) n q.lc
          pc := wrap 52 ((r.addr : Int) + sext (Forms.litNat f) 32), idx := 0, clause := none }
      else { q with lc := modNth (fun _ => 0) n q.lc, pc := r.next, idx := 0, clause := none }))) s

/-- MEND (R283). -/
def execMend (f : Fields) (s : State) : Out :=
  matFrame (.mend f) (fun t _ _ _ s => .next (s.modSeq t (fun q => { q with mode := 3, clause := none }))) s

/-- MNOP (R283). -/
def execMnop (f : Fields) (s : State) : Out :=
  matFrame (.mnop f) (fun t _ r _ s => .next (seqRetire t r s)) s

/-- MATRIX_OP_COMPLETE (R259, R285): the cycles of a macro-operation have passed; its reservation returns to the arbiter. -/
def execMatrixOpComplete (team : Nat) (s : State) : Out :=
  match s.team? team with
  | some tm =>
    if !tm.seq.busy then .next s
    else
      .next ((s.modSeq team (fun q => { q with busy := false })).modCluster (clusterOf tm.core) (fun x =>
        { x with holdings := x.holdings.filter (fun h => !(h.requester == 20 + tm.core % 4 && h.team == team)) }))
  | none => .next s

end Sys2Proof.Machine
end

