-- ==== Sys2Proof/Machine/Clause.lean ====
section
/-! DEFINITION. Which clause issues and how it is decoded (R7–R13, R26–R30, R63–R73, R78, R99, R256–R260, R352, R379):
eligibility, the order within a slot, the checks of R26 and what a failing one raises. -/

namespace Sys2Proof.Machine

/-! ## Decoding a clause -/

/-- Why a clause is not decoded: a fetch that fails at an instruction index (0 the header) on a line, a failing format
check, or an illegal instruction (R26, R27). `upTo` is the address after the last word that was fetched. -/
inductive ClauseFault where
  | fetch (upTo index line : Nat) (f : Fetch)
  | format (upTo check index : Nat)
  | illegal (upTo index : Nat)

/-- The address after the last word that was fetched. -/
def ClauseFault.upTo : ClauseFault → Nat
  | .fetch a _ _ _ => a
  | .format a _ _ => a
  | .illegal a _ => a

/-- The line whose fetch failed. -/
def ClauseFault.failing : ClauseFault → List Nat
  | .fetch _ _ line _ => [line]
  | _ => []

/-- Fetch words one after another. A clause that runs past the top of the 52-bit address space goes on at address 0, and
so does its next header: R8 gives no address there (DESIGN CHOICE, log entry 87). -/
def State.fetchWords (s : State) (p core asid addr index : Nat) : Nat → Except ClauseFault (List Word)
  | 0 => .ok []
  | n + 1 =>
    match s.fetchWord p core asid (addr % 2 ^ 52) with
    | .error f => .error (.fetch addr index (addr % 2 ^ 52 / 128 * 128) f)
    | .ok w =>
      match s.fetchWords p core asid (addr + 4) index n with
      | .ok ws => .ok (w :: ws)
      | .error e => .error e

/-- One instruction at an address (checks 7 to 12 of R26): its words, all fetched before its other checks but the one of
word 0's bits 31:30, which tells how many there are. `absent` are registers that the role lacks. -/
def State.fetchInsn (s : State) (p core asid addr index : Nat) (cls : Nat) (last : Bool) (absent : Nat → Bool) :
    Except ClauseFault (List Word) :=
  match s.fetchWords p core asid addr index 1 with
  | .error e => .error e
  | .ok ws =>
    match ws.head?.bind wordCount with
    | none => .error (.format (addr + 4) 8 index)
    | some n =>
      match s.fetchWords p core asid addr index n with
      | .error e => .error e
      | .ok ws =>
        let upTo := addr + 4 * n
        let major := ((ws.head?.map (fun w => bits w.toNat 29 22)).getD 0)
        match instrOf major (fieldsOf 0 0 none) with
        | none => .error (.illegal upTo index)
        | some i =>
          if classOf major ≠ cls then .error (.format upTo 10 index)
          else if i.ender && !last then .error (.format upTo 11 index)
          else
            match decode ws with
            | .error _ => .error (.illegal upTo index)
            | .ok (i, _) =>
              if !i.wellFormed || i.registers.any absent then .error (.illegal upTo index) else .ok ws

/-- The instructions of a clause from an index on (R26): their words and the address after the last. -/
def State.fetchInsns (s : State) (p core asid addr index count cls : Nat) (absent : Nat → Bool) :
    Nat → Except ClauseFault (List (List Word) × Nat)
  | 0 => .ok ([], addr)
  | n + 1 =>
    match s.fetchInsn p core asid addr index cls (index == count) absent with
    | .error e => .error e
    | .ok ws =>
      match s.fetchInsns p core asid (addr + 4 * ws.length) (index + 1) count cls absent n with
      | .error e => .error e
      | .ok (rest, next) => .ok (ws :: rest, next)

/-- A decoded clause: its header, its instructions' words, the next header. -/
structure Decoded where
  header : Word
  insns : List (List Word)
  next : Nat

/-- COUNT, CLASS, WAIT, Y of a header (R7). -/
def headerCount (w : Nat) : Nat := bits w 29 26
/-- CLASS of a header. -/
def headerClass (w : Nat) : Nat := bits w 25 23
/-- WAIT of a header. -/
def headerWait (w : Nat) : Nat := bits w 18 11
/-- Y of a header. -/
def headerY (w : Nat) : Bool := hasBit w 0

/-- The checks of R26 in order. The matrix stream requires CLASS 6, a group any other (R9, R260). -/
def State.decodeClause (s : State) (p core asid addr : Nat) (stream : Bool) (absent : Nat → Bool) :
    Except ClauseFault Decoded :=
  match s.fetchWord p core asid addr with
  | .error f => .error (.fetch addr 0 (addr / 128 * 128) f)
  | .ok h =>
    let w := h.toNat
    if bits w 31 30 ≠ 3 then .error (.format (addr + 4) 2 0)
    else if headerCount w = 0 then .error (.format (addr + 4) 3 0)
    else if headerClass w = 7 then .error (.format (addr + 4) 4 0)
    else if bits w 18 17 ≠ 0 then .error (.format (addr + 4) 5 0)
    else if (headerClass w == 6) != stream then .error (.format (addr + 4) 6 0)
    else
      match s.fetchInsns p core asid (addr + 4) 1 (headerCount w) (headerClass w) absent (headerCount w) with
      | .error e => .error e
      | .ok (ws, next) => .ok ⟨h, ws, next % 2 ^ 52⟩

/-- The lines that the fetch of a clause from an address misses in the instruction cache of a core. -/
def State.codeMisses (s : State) (core asid addr upTo : Nat) (failing : List Nat) : List Nat :=
  ((linesOf addr ((upTo + 2 ^ 52 - addr) % 2 ^ 52)).map (· % 2 ^ 52) ++ failing).filter (fun va =>
    !(s.core core).icache.any (fun l => l.va == va && l.asid == asid))

/-- The lines that a clause misses, as far as it was decoded. -/
def State.clauseMisses (s : State) (core asid addr : Nat) (found : Except ClauseFault Decoded) : List Nat :=
  match found with
  | .error f => s.codeMisses core asid addr f.upTo f.failing
  | .ok d => s.codeMisses core asid addr d.next []

/-- The lines of a range of code enter the instruction cache of a core where they were fetched (R348, R351); the home reports
`u` of them (R186, R388). -/
def State.cacheCode (s : State) (u : UnitFault) (p core asid addr upTo : Nat) : State :=
  (linesOf addr ((upTo + 2 ^ 52 - addr) % 2 ^ 52)).foldl (fun (s : State) line =>
    let va := line % 2 ^ 52
    match s.fetchLine p core asid va with
    | .line bs pa false =>
      let s := s.fillLine p core asid va (.line bs pa false)
      (s.serve p (s.homeUnit pa) { u with addr := pa }).consume p { u with detail := va } pa 128
    | _ => s) s

/-! ## Eligibility -/

/-- A WAIT condition of R11 does not hold yet. -/
def State.waitsOn (s : State) (t gi : Nat) (g : Group) (wait : Nat) : Bool :=
  (hasBit wait 0 && (g.ops.any (fun o => o.wait == .ld) || !g.loads.isEmpty)) ||
  (hasBit wait 1 && !g.stores.isEmpty) ||
  (hasBit wait 2 && s.commands.any (fun c => c.team == t && c.group == gi && c.state == 0)) ||
  (hasBit wait 3 && g.ops.any (fun o => o.wait == .sfu)) ||
  (hasBit wait 4 && g.locals.any (fun o => o.space == 1 || o.space == 3 || (o.space == 2 && o.kind == 0))) ||
  (hasBit wait 5 && g.locals.any (fun o => o.space == 4 || (o.space == 2 && o.kind != 0)))

/-- The load slots and store-queue entries that the words of an instruction take (R178, R187). -/
def slotsTaken (ws : List Word) : Nat × Nat :=
  match (ws.head?.map (fun w => bits w.toNat 29 22)).getD 0 with
  | 0x80 => (1, 0)
  | 0x82 => (1, 0)
  | 0x8A => (1, 0)
  | 0x81 => (0, 1)
  | 0x83 => (0, 1)
  | 0x86 => (0, 1)
  | 0x85 => (1, 1)
  | 0x87 => (1, 1)
  | _ => (0, 0)

/-- A MEM clause finds its load slots and store-queue entries free (R187). -/
def Group.hasSlots (g : Group) (ws : List (List Word)) : Bool :=
  let need := ws.foldl (fun n w => (n.1 + (slotsTaken w).1, n.2 + (slotsTaken w).2)) (0, 0)
  (g.ops.filter (fun o => o.wait == .ld)).length + need.1 ≤ 32 && g.stores.length + need.2 ≤ 16

/-- The entry that a group would issue, and whether it comes from the tail (R65, R67, R85). -/
def State.nextEntry (s : State) (tm : Team) (g : Group) : Option (Entry × Bool) :=
  match s.frontier tm g with
  | [] => none
  | [e] => some (e, false)
  | e :: e' :: _ => if g.tailNext || 1024 ≤ g.rotation then some (e', true) else some (e, false)

/-- The header word at an address, where it can be read. -/
def State.headerAt (s : State) (tm : Team) (g : Group) (addr : Nat) : Option Nat :=
  match s.fetchWord tm.part tm.core g.asid addr with
  | .ok w => if bits w.toNat 31 30 = 3 then some w.toNat else none
  | .error _ => none

/-- A group has stopped for a raised request at the clause it would issue (R248, R85). -/
def State.stopsAt (s : State) (tm : Team) (g : Group) (e : Entry) : Bool :=
  tm.request && (g.saveNext || ((s.headerAt tm g e.pc).map headerY).getD false)

/-- A fence whose successors include instruction fetches, or an AFENCE, keeps back the threads of an entry (R203, R209, R210). -/
def Group.fetchFenced (g : Group) (lanes : LaneSet) : Bool :=
  g.pending.any (fun p => (p.lanes &&& lanes) != 0 && (p.kind == 1 || (p.kind == 0 && hasBit p.sset 3)))

/-- The clause that a group would issue is eligible but for its vector pipe (R12, R65, R195, R199, R204, R243, R248, R249). -/
def State.ready (s : State) (t gi : Nat) (tm : Team) (g : Group) : Option (Entry × Bool) :=
  if s.stopped tm || g.clause.isSome || !g.holds.isEmpty then none
  else
    match s.nextEntry tm g with
    | none => none
    | some (e, tail) =>
      if s.stopsAt tm g e || g.fetchFenced e.lanes || (s.fetchPasses t gi tm g e.pc e.lanes).isNone then none
      else
        match s.headerAt tm g e.pc with
        | some w =>
          if s.waitsOn t gi g (headerWait w) then none
          else if headerClass w = 2 then
            match s.decodeClause tm.part tm.core g.asid e.pc false (fun _ => false) with
            | .ok d => if g.hasSlots d.insns then some (e, tail) else none
            | .error _ => some (e, tail)
          else some (e, tail)
        | none => some (e, tail)

/-- The class of the clause of an entry needs the vector pipe (R390). -/
def State.vectorAt (s : State) (tm : Team) (g : Group) (e : Entry) : Bool :=
  match s.headerAt tm g e.pc with
  | some w => headerClass w ≤ 1
  | none => false

/-! ## Choosing a group -/

/-- A candidate of a slot. -/
structure Candidate where
  t : Nat
  gi : Nat
  tm : Team
  g : Group
  entry : Entry
  tail : Bool

/-- A slot of a core. -/
def Core.slot (c : Core) (n : Nat) : Slot := (c.slots[n]?).getD ⟨false, none, false, 0, none⟩

/-- The vector pipe of a slot is asleep (R390): 512 cycles have passed since its last instruction or its last waking. -/
def Core.sleeps (c : Core) (slot : Nat) : Bool := (c.slot slot).asleep || decide ((c.slot slot).lastVector + 512 ≤ c.cycles)

/-- The groups of a slot that are ready. -/
def State.candidates (s : State) (core slot : Nat) : List Candidate :=
  s.teams.flatMap (fun kt =>
    if kt.2.core ≠ core then [] else
    (List.range kt.2.groups.length).filterMap (fun gi =>
      if gi % 4 ≠ slot then none else
      match kt.2.groups[gi]? with
      | none => none
      | some g => (s.ready kt.1 gi kt.2 g).map (fun et => ⟨kt.1, gi, kt.2, g, et.1, et.2⟩)))

/-- A producer group (R61). -/
def Candidate.producer (c : Candidate) : Bool := c.gi < c.tm.lb.nprod

/-- The least candidate of a list by a key, with ties to the earlier placement and the lower group index. -/
def leastBy (key : Candidate → Nat) : List Candidate → Option Candidate
  | [] => none
  | c :: cs =>
    match leastBy key cs with
    | none => some c
    | some d =>
      let k := fun (x : Candidate) => (key x, x.tm.order, x.gi)
      let (a, b) := (k c, k d)
      if a.1 < b.1 ∨ (a.1 = b.1 ∧ (a.2.1 < b.2.1 ∨ (a.2.1 = b.2.1 ∧ a.2.2 < b.2.2))) then some c else some d

/-- Consumer order (R72): the highest urgency. -/
def pickConsumer (cs : List Candidate) : Option Candidate := leastBy (fun c => 256 - c.g.urgency) cs

/-- Producer order (R73): the greedy choice, otherwise the group whose last issue lies furthest back. -/
def pickProducer (greedy : Option (Nat × Nat)) (cs : List Candidate) : Option Candidate :=
  match cs.find? (fun c => greedy == some (c.t, c.gi) && c.g.issuedOnce) with
  | some c => some c
  | none => leastBy (fun c => 256 * c.g.lastIssue + c.g.rank) cs

/-- The choice of R71 among ready candidates. -/
def State.choose (s : State) (core slot : Nat) (cs : List Candidate) : Option Candidate :=
  let c := s.core core
  let x := c.slot slot
  let old := cs.filter (fun k => match k.g.since with | some n => n + 4096 ≤ c.cycles | none => false)
  match leastBy (fun k => k.g.since.getD 0) old with
  | some k => some k
  | none =>
    let prod := cs.filter Candidate.producer
    let cons := cs.filter (fun k => !k.producer)
    let first := !s.cgCrowded core && !x.lastProducer
    match (if first then pickProducer x.greedy prod else pickConsumer cons) with
    | some k => some k
    | none => if first then pickConsumer cons else pickProducer x.greedy prod

/-! ## Issue -/

/-- A group issues an entry: what the order among the groups of a slot remembers of it (R67, R71, R73), the accesses that its fetch
passes (R199), and the record that the core serves (R388). -/
def Candidate.noteIssue (c : Candidate) (s : State) : State :=
  let passed := (s.fetchPasses c.t c.gi c.tm c.g c.entry.pc c.entry.lanes).getD []
  let s := s.modGroup c.t c.gi (fun g => { g.pass passed with
    lastIssue := s.issues, issuedOnce := true, since := none, tailNext := g.tailNext && !c.tail })
  let s := s.modTeam c.t (fun tm => { tm with issued := true })
  let issued (x : Slot) : Slot :=
    { x with lastProducer := c.producer, greedy := if c.producer then some (c.t, c.gi) else x.greedy, ask := none }
  let s := s.modCore c.tm.core (fun k => { k with slots := modNth issued (c.gi % 4) k.slots })
  let s := s.serve c.tm.part (s.coreUnit c.tm)
    (UnitFault.of c.tm c.g c.entry.pc 0 (32 * c.gi + c.entry.lanes.lanes.headD 0))
  { s with issues := s.issues + 1, cur := .group c.t c.gi }

/-- A group's threads of an entry raise a trap at decode (R26–R28, R352): the entry has issued, and the rotation counter
moves by R67. -/
def trapEntry (c : Candidate) (pc index cause detail : Nat) (s : State) : State :=
  let before := tailKey (s.frontier c.tm c.g)
  let s := c.entry.lanes.lanes.foldl (fun s l => takeTrap c.t c.gi l c.tm.trapVec pc cause index detail s)
    (c.noteIssue s)
  s.countIssue c.t c.gi before c.tail false false

/-- The fate of a clause that is not decoded (R26, R226, R352). -/
def clauseFault (c : Candidate) (f : ClauseFault) (s : State) : State :=
  match f with
  | .format _ check index => trapEntry c c.entry.pc index 2 check s
  | .illegal _ index => trapEntry c c.entry.pc index 1 0 s
  | .fetch _ index line .unpublished => trapEntry c c.entry.pc index 7 line s
  | .fetch _ _ line (.notPresent level) => s.pageFault c.t ⟨level, 3, c.g.asid, line, none⟩
  | .fetch _ index line _ => s.accessFault c.t c.gi c.entry.pc index (c.entry.lanes.lanes.headD 0) line

/-- The shared pipe that a clause takes (R78): the special-function pipe, or the memory-access collector. -/
def clausePipe (header : Word) (insns : List (List Word)) : Option Bool :=
  let cls := headerClass header.toNat
  if cls = 2 ∨ cls = 3 then some false
  else if insns.any (fun ws => (ws.head?.map (fun w => bits w.toNat 29 22 / 16 == 5)).getD false) then some true
  else none

/-- The group starts its clause (R54, R67, R71, R73, R74, R78, R384). -/
def startClause (c : Candidate) (d : Decoded) (core slot : Nat) (s : State) : State :=
  let call := match c.g.gate with | some k => !k.waiting | none => false
  let run : ClauseRun := {
    header := d.header, addr := c.entry.pc, insns := d.insns, next := d.next, idx := max 1 c.entry.idx, nominal := 0
    issuing := c.entry.lanes, active := c.entry.lanes
    fpMode := if call then (c.g.gate.map (·.fpMode)).getD 0 else c.tm.fpMode
    trapVec := c.tm.trapVec, targets := [], parkOn := [], tret := 0, exited := 0, yielded := false, fly := []
    predFly := [], tailBefore := tailKey (s.frontier c.tm c.g), fromTail := c.tail, teamWrites := [], counted := false }
  let s := (c.noteIssue s).modGroup c.t c.gi (fun g => { g with clause := some run })
  match clausePipe d.header d.insns with
  | some false => s.modCore core (fun k => { k with memRotation := slot })
  | some true => s.modCore core (fun k => { k with sfuRotation := slot })
  | none => s

/-! ## Shared pipes -/

/-- The slot has a clause in progress. -/
def State.slotBusy (s : State) (core slot : Nat) : Bool :=
  s.teams.any (fun kt => kt.2.core == core && !s.quiesced kt.2 &&
    (List.range kt.2.groups.length).any (fun gi => gi % 4 == slot && ((kt.2.groups[gi]?).bind (·.clause)).isSome))

/-- A slot holds a shared pipe: its clause in progress takes it (R78). -/
def State.holdsPipe (s : State) (core slot : Nat) (pipe : Bool) : Bool :=
  s.teams.any (fun kt => kt.2.core == core && !s.quiesced kt.2 &&
    (List.range kt.2.groups.length).any (fun gi => gi % 4 == slot &&
      (match (kt.2.groups[gi]?).bind (·.clause) with
       | some r => clausePipe r.header r.insns == some pipe
       | none => false)))

/-- What a slot may issue next: its choice among the ready groups, without those that a sleeping pipe keeps back (R71,
R390). -/
def State.slotChoice (s : State) (core slot : Nat) : Option Candidate :=
  let all := s.candidates core slot
  s.choose core slot (if (s.core core).sleeps slot then all.filter (fun c => !s.vectorAt c.tm c.g c.entry) else all)

/-- The request for a pipe that a slot makes or would make now: the pipe, and the group that it would start (R78). A group whose code
waits for a walk makes none. -/
def State.wantsPipe (s : State) (core slot : Nat) : Option (Bool × Candidate) :=
  if s.slotBusy core slot then none
  else
    (s.slotChoice core slot).bind (fun c =>
      let found := s.decodeClause c.tm.part core c.g.asid c.entry.pc false (fun r => c.tm.shape c.gi r == 0)
      if !s.allKnown ⟨0, c.t, c.gi⟩ (dieOf core) c.tm.part c.g.asid (s.clauseMisses core c.g.asid c.entry.pc found) then none
      else
        match found with
        | .ok d => (clausePipe d.header d.insns).map (fun p => (p, c))
        | .error _ => none)

/-- The core cycle of a slot's request of a pipe for a group, which it makes now where it has none. -/
def Core.askedAt (c : Core) (slot : Nat) (pipe : Bool) (k : Candidate) : Nat :=
  match (c.slot slot).ask with
  | some (p, n, t, gi) => if p = pipe ∧ t = k.t ∧ gi = k.gi then n else c.cycles
  | none => c.cycles

/-- The grant of a shared pipe goes to a slot for a group (R78): no slot holds it, and no other slot that requests it has waited
longer or, of equal wait, comes first after the slot granted last. -/
def State.pipeGranted (s : State) (core slot : Nat) (pipe : Bool) (c : Candidate) : Bool :=
  let x := s.core core
  let last := if pipe then x.sfuRotation else x.memRotation
  let turn := fun (k : Nat) => (k + 3 - last % 4) % 4
  let mine := x.askedAt slot pipe c
  (List.range 4).all (fun k => k == slot ||
    (!s.holdsPipe core k pipe &&
      (match s.wantsPipe core k with
       | some (p, rival) =>
         p != pipe || decide (mine < x.askedAt k pipe rival ∨ (mine = x.askedAt k pipe rival ∧ turn slot < turn k))
       | none => true)))

/-- A slot requests a pipe for a group and goes on waiting (R78). -/
def State.askPipe (s : State) (core slot : Nat) (pipe : Bool) (c : Candidate) : State :=
  s.modCore core (fun x => { x with
    slots := modNth (fun y => { y with ask := some (pipe, x.askedAt slot pipe c, c.t, c.gi) }) slot x.slots })

/-- The chosen group issues the entry: threads with a pending ARITHMETIC trap take it first (R145); a PC that is not a
multiple of 4 is misaligned (log entry 23). Code that misses its translation cache waits for its walk (R222), and a clause that takes
a shared pipe starts when the pipe is granted (R78). -/
def issueEntry (c : Candidate) (core slot : Nat) (s : State) : State :=
  let due := LaneSet.filter c.entry.lanes (fun l => (c.g.thread l).pend.isSome)
  if due ≠ 0 then
    let before := tailKey (s.frontier c.tm c.g)
    let s := due.lanes.foldl (fun s l =>
      let detail := (((c.g.thread l).pend).map (·.toNat)).getD 0
      takeTrap c.t c.gi l c.tm.trapVec c.entry.pc 5 0 detail (s.modThread c.t c.gi l (fun th => { th with pend := none }))) s
    s.countIssue c.t c.gi before false false true
  else if c.entry.pc % 4 ≠ 0 ∨ c.entry.pc >>> 52 ≠ 0 then trapEntry c c.entry.pc 0 6 c.entry.pc s
  else
    let k : Asker := ⟨0, c.t, c.gi⟩
    let u := UnitFault.of c.tm c.g 0 0 (32 * c.gi + c.entry.lanes.lanes.headD 0)
    let found := s.decodeClause c.tm.part core c.g.asid c.entry.pc false (fun r => c.tm.shape c.gi r == 0)
    let misses := s.clauseMisses core c.g.asid c.entry.pc found
    if !s.allKnown k (dieOf core) c.tm.part c.g.asid misses then s.askWalks k (dieOf core) c.tm.part c.g.asid misses
    else
      match found with
      | .error f => clauseFault c f ((s.cacheCode u c.tm.part core c.g.asid c.entry.pc f.upTo).spend k)
      | .ok d =>
        let s := (s.cacheCode u c.tm.part core c.g.asid c.entry.pc d.next).spend k
        if headerCount d.header.toNat < c.entry.idx then trapEntry c c.entry.pc 0 2 3 s
        else
          match clausePipe d.header d.insns with
          | some pipe => if s.pipeGranted core slot pipe c then startClause c d core slot s else s.askPipe core slot pipe c
          | none => startClause c d core slot s

/-- The clause that a group would issue is eligible (R12): it is ready, and a vector pipe that it needs is awake (R390). -/
def State.eligible (s : State) (t gi : Nat) (tm : Team) (g : Group) : Bool :=
  match s.ready t gi tm g with
  | some (e, _) => !((s.core tm.core).sleeps (gi % 4) && s.vectorAt tm g e)
  | none => false

/-- Note the core cycle from which each group has been eligible (R12, R71): before time passes, a group whose clause is
eligible keeps the cycle that it has, or takes the present one. -/
def State.noteEligible (s : State) : State :=
  { s with teams := s.teams.map (fun kt =>
      (kt.1, { kt.2 with groups := (List.range kt.2.groups.length).zip kt.2.groups |>.map (fun (gi, g) =>
        if s.eligible kt.1 gi kt.2 g then { g with since := some (g.since.getD (s.core kt.2.core).cycles) }
        else { g with since := none }) })) }

/-- Time passes for the machine. -/
def State.passTime (s : State) (dt : Nat) : State := if dt = 0 then s else s.noteEligible.advance dt

/-- The sequencer of a team fetches its next clause (R258–R260). -/
def decodeStream (t : Nat) (tm : Team) (s : State) : State :=
  let q := tm.seq
  if q.pc % 4 ≠ 0 then matrixHalt t q.pc 0 1 s
  else
    let u := { UnitFault.none with record := tm.record, asid := tm.asid }
    let found := s.decodeClause tm.part tm.core tm.asid q.pc true (fun _ => false)
    let upTo := match found with | .error f => f.upTo | .ok d => d.next
    let k : Asker := ⟨1, t, 0⟩
    let misses := s.clauseMisses tm.core tm.asid q.pc found
    if !s.allKnown k (dieOf tm.core) tm.part tm.asid misses then s.askWalks k (dieOf tm.core) tm.part tm.asid misses
    else
    let s := (s.cacheCode u tm.part tm.core tm.asid q.pc upTo).spend k
    let fail := fun (index code : Nat) => matrixHalt t q.pc index code s
    match found with
    | .error (.format _ _ index) => fail index 1
    | .error (.illegal _ index) => fail index 1
    | .error (.fetch _ index _ .unpublished) => fail index 5
    | .error (.fetch _ _ line (.notPresent level)) => s.pageFault t ⟨level, 4, tm.asid, line, none⟩
    | .error (.fetch _ index line _) =>
      if tm.replays then s.diverge t
      else s.halt tm.part 2 (128 + s.coreUnit tm) { u with addr := q.pc, detail := line, index := index }
    | .ok d =>
      let run : ClauseRun := {
        header := d.header, addr := q.pc, insns := d.insns, next := d.next, idx := max 1 q.idx, nominal := 0
        issuing := 0, active := 0, fpMode := 0, trapVec := 0, targets := [], parkOn := [], tret := 0, exited := 0
        yielded := false, fly := [], predFly := [], tailBefore := [], fromTail := false, teamWrites := [], counted := false }
      if headerCount d.header.toNat < q.idx then fail 0 1
      else
        let s := s.serve tm.part (128 + s.coreUnit tm) { u with addr := q.pc }
        { s.modSeq t (fun q => { q with clause := some run, idx := run.idx }) with cur := .sequencer t }

/-- The sequencer of a team is ready to fetch; after the last group has ended it starts nothing more (R284). -/
def State.streamReady (s : State) (tm : Team) : Bool :=
  tm.seq.mode == 0 && tm.seq.clause.isNone && !tm.seq.busy && !s.seqStopped tm && tm.liveGroups != 0

/-- CLAUSE_DECODE (R26, R65, R71): a slot of a core chooses a group and decodes its clause; a number from 4 on stands for
the matrix sequencer of the core's team of that place. A slot whose pipe sleeps asks to wake it for a group that would
issue a clause of it, whatever other group it issues (R390). -/
def execClauseDecode (core slot : Nat) (s : State) : Out :=
  if 4 ≤ slot then
    match (s.teams.filter (fun kt => kt.2.core == core))[slot - 4]? with
    | some (t, tm) => .next (if s.streamReady tm then decodeStream t tm s else s)
    | none => .next s
  else if s.slotBusy core slot then .next s
  else
    let all := s.candidates core slot
    let asleep := (s.core core).sleeps slot
    let who := 4 * (core % 4) + slot
    let s :=
      match (if asleep then all.filter (fun c => s.vectorAt c.tm c.g c.entry) else []) with
      | [] => s
      | c :: _ =>
        if (s.cluster (clusterOf core)).holdings.any (fun h => h.requester == who) then s
        else s.ask (clusterOf core) who 4 (s.levelOf c.tm) c.t 0
    match s.slotChoice core slot with
    | some c => .next (issueEntry c core slot s)
    | none => .next s

end Sys2Proof.Machine
end

