-- ==== Sys2Proof/Machine/Power.lean ====
section
/-! DEFINITION. Current reservations, sleeping pipes, operating classes, boost leases and droop (R390–R398). -/

namespace Sys2Proof.Machine

/-! ## The arbiter -/

/-- USED of CR_CUR_BUDGET (R397). -/
def Cluster.used (c : Cluster) : Nat := c.holdings.foldl (fun n h => n + h.size) 0

/-- One request comes before another (R391). -/
def Current.before (a b : Current) : Bool :=
  if a.urgent != b.urgent then a.urgent
  else if a.urgent then a.since < b.since
  else if a.prio ≠ b.prio then b.prio < a.prio
  else a.since < b.since

/-- The first request of a list in the order of R391. -/
def firstRequest : List Current → Option Current
  | [] => none
  | r :: rs =>
    match firstRequest rs with
    | none => some r
    | some q => if q.before r then some q else some r

/-- The request that the arbiter grants next (R391): the oldest urgent one, once it fits, and nothing else while one waits;
without one, the first in order of those that fit. -/
def Cluster.grantable (c : Cluster) : Option Current :=
  let fits := fun (r : Current) => r.size + c.used ≤ c.cap
  if c.requests.any (·.urgent) then (firstRequest c.requests).filter fits
  else firstRequest (c.requests.filter fits)

/-- The requests of a cluster that have waited 1,024 of its cycles are urgent (R391). -/
def Cluster.aged (c : Cluster) : Cluster :=
  { c with requests := c.requests.map (fun r => if r.since + 1024 ≤ c.cycles then { r with urgent := true } else r) }

/-- RESERVATION_GRANT (R391): the request becomes a holding; a matrix sequencer may start its macro-operation, and its
core's rotation goes on after it (R390). -/
def execReservationGrant (cluster : Nat) (s : State) : Out :=
  match (s.cluster cluster).aged.grantable with
  | none => .next s
  | some r =>
    let matrix := 20 ≤ r.requester && r.requester < 24
    let s := s.modCluster cluster (fun c => let c := c.aged; { c with
      requests := c.requests.filter (· != r)
      holdings := c.holdings ++ [r] })
    .next (if matrix then
        match s.team? r.team with
        | some tm => (s.modCore tm.core (fun c => { c with matrixLast := tm.order })).modSeq r.team
            (fun q => if q.res = 1 then { q with res := 2 } else q)
        | none => s
      else s)

/-- RESERVATION_URGENT (R391): a request that has waited 1,024 cycles of its cluster. -/
def execReservationUrgent (cluster requester : Nat) (s : State) : Out :=
  .next (s.modCluster cluster (fun c => { c with requests := c.requests.map (fun r =>
    if r.requester = requester ∧ r.since + 1024 ≤ c.cycles then { r with urgent := true } else r) }))

/-- The work that a holding serves has ended (R390). -/
def State.holdingOver (s : State) (cluster : Nat) (h : Current) : Bool :=
  if h.requester < 16 then !(s.core (4 * cluster + h.requester / 4)).sleeps (h.requester % 4)
  else if 20 ≤ h.requester && h.requester < 24 then
    match s.team? h.team with
    | some tm => !tm.seq.busy && tm.seq.res != 2
    | none => true
  else
    match s.command? h.command with
    | some c => c.state == 4
    | none => true

/-- RESERVATION_RETURN (R390): holdings whose work has ended return to the arbiter. -/
def execReservationReturn (cluster requester : Nat) (s : State) : Out :=
  .next (s.modCluster cluster (fun c => { c with
    holdings := c.holdings.filter (fun h => !(h.requester == requester && s.holdingOver cluster h)) }))

/-- ENGINE_RESERVATION_RENEW (R390): a running command returns its reservation and requests it again, once its engine has no other
request waiting. -/
def execEngineReservationRenew (cluster requester : Nat) (s : State) : Out :=
  let c := s.cluster cluster
  match c.holdings.find? (fun h => h.requester == requester && h.command != 0 && !s.holdingOver cluster h) with
  | some h =>
    let again := if c.requests.any (fun r => r.requester == requester) then [] else [{ h with since := c.cycles, urgent := false }]
    .next (s.modCluster cluster (fun c => { c with
      holdings := c.holdings.filter (· != h)
      requests := c.requests ++ again }))
  | none => .next s

/-- PIPE_SLEEP (R390): the slot has issued no ALU- or FPU-class instruction for 512 cycles. -/
def execPipeSleep (core slot : Nat) (s : State) : Out :=
  .next (s.modCore core (fun c => { c with slots := modNth (fun x =>
    if x.lastVector + 512 ≤ c.cycles then { x with asleep := true } else x) slot c.slots }))

/-- PIPE_WAKE (R390): the pipe's reservation has been granted and its blocks have woken. -/
def execPipeWake (core slot : Nat) (s : State) : Out :=
  let who := 4 * (core % 4) + slot
  if (s.cluster (clusterOf core)).holdings.any (fun h => h.requester == who) then
    .next ((s.modCore core (fun c => { c with
      slots := modNth (fun x => { x with asleep := false, lastVector := c.cycles }) slot c.slots })).modCluster
      (clusterOf core) (fun c => { c with holdings := c.holdings.filter (fun h => h.requester != who) }))
  else .next s

/-! ## Classes and leases -/

/-- The clock of a class in MHz (R393). -/
def classMhz (cls : Nat) (boost : Bool) : Nat :=
  match cls with
  | 0 => if boost then 1550 else 1250
  | 1 => 1100
  | 2 => 950
  | _ => 800

/-- The voltage of a cluster changes first with the clock running, for a time that the manual does not state (a free value, log
entry 88), and then its clock stops (R395). -/
def Cluster.stopClock (c : Cluster) (time nonce : Nat) : Cluster :=
  { c with stopped := true, stopAt := if c.stopped then c.stopAt else time + Config.voltageTicks nonce c.logical }

/-- A cluster enters or leaves the boost pool (R395). A move that begins during another only changes the frequency at which the
clock restarts. -/
def Cluster.toBoost (c : Cluster) (on : Bool) (time nonce : Nat) : Cluster :=
  if c.boost = on then c else { c.stopClock time nonce with boost := on, nextMhz := classMhz c.cls on }

/-- POOL_CLASS_WRITE (R393): a write of CR_POOL; a new class waits for the cluster to empty. -/
def execPoolClassWrite (cluster : Nat) (value : Dword) (s : State) : Out :=
  .next (s.modCluster cluster (fun c =>
    let k := bits value.toNat 1 0
    { c with nextCls := k, moving := k != c.cls }))

/-- An empty cluster takes its new class (R393), its clock at once or at the end of the stop that it is in, and stands in the
boost pool or not (R394, R395). -/
def Cluster.settle (c : Cluster) (leased : Bool) (time nonce : Nat) : Cluster :=
  let was := c.boost
  let c := { c with cls := c.nextCls, moving := false }
  let c := if was || c.stopped then { c with nextMhz := classMhz c.cls c.boost }
    else { c with mhz := classMhz c.cls false, nextMhz := classMhz c.cls false }
  c.toBoost (leased && c.cls == 0) time nonce

/-- POOL_MOVE (R393, R394): an empty cluster takes its new class; it leaves the boost pool, or enters it where its partition
holds a lease, by a move of R395. -/
def execPoolMove (cluster : Nat) (s : State) : Out :=
  if s.teams.any (fun kt => clusterOf kt.2.core == cluster) then .next s
  else
    .next (s.modCluster cluster (fun c =>
      if !c.moving then c
      else c.settle (match c.partition with | some p => (s.part p).lease != 0 | none => false) s.time s.nonce))

/-- Change every cluster of a partition. -/
def State.modClusters (s : State) (p : Nat) (f : Cluster → Cluster) : State :=
  { s with clusters := s.clusters.map (fun c => if c.partition = some p then f c else c) }

/-- The lease of a partition ends (R395), and with it the boost interrupt (R402). -/
def State.endLease (s : State) (p : Nat) : State :=
  { (s.modPart p (fun x => ({ x with lease := 0, boostState := 0 } : Partition).clear 2)).modClusters p
      (fun c => c.toBoost false s.time s.nonce) with nonce := s.nonce + 1 }

/-- The reason to refuse a lease (R394), in the order of its table; 0 for none. -/
def State.boostReason (s : State) (p dur : Nat) (holds : Bool) : Nat :=
  if !holds then 1
  else if dur = 0 ∨ 50000 < dur then 2
  else if (s.part p).lease ≠ 0 then 3
  else if !s.clusters.any (fun c => c.partition == some p && c.cls == 0) then 4
  else 0

/-- BOOST_REQUEST (R394, R398): a write of CR_BOOST_REQ; whether the envelope of the device holds the lease is the
arbiter's own answer. -/
def execBoostRequest (part : Nat) (value : Dword) (envelopeHolds : Bool) (s : State) : Out :=
  let w := value.toNat
  if hasBit w 31 then .next (if (s.part part).lease = 0 then s else s.endLease part)
  else
    let dur := bits w 47 32
    let r := s.boostReason part dur envelopeHolds
    if r ≠ 0 then .next (s.modPart part (fun x => { x with boostState := 3, boostReason := r }))
    else
      .next { (s.modPart part (fun x => { x with
        lease := 1, boostState := 1, boostReason := 0, boostEnd := (s.time + 1000 * dur) % 2 ^ 64 })).modClusters part
        (fun c => if c.cls = 0 then c.toBoost true s.time s.nonce else c) with nonce := s.nonce + 1 }

/-- BOOST_CANCEL (R395): a write with CANCEL ends the held lease. -/
def execBoostCancel (part : Nat) (value : Dword) (s : State) : Out :=
  .next (if hasBit value.toNat 31 ∧ (s.part part).lease ≠ 0 then s.endLease part else s)

/-- BOOST_REVOKE (R395): the lease goes under notice and the boost interrupt is raised. -/
def execBoostRevoke (part : Nat) (s : State) : Out :=
  .next (s.modPart part (fun x =>
    if x.lease = 1 then
      ({ x with lease := 2, boostState := 2, boostEnd := (s.time + 200000) % 2 ^ 64 } : Partition).raise 2
    else x))

/-- BOOST_LEASE_END (R395): the time base has reached CR_BOOST_END. -/
def execBoostLeaseEnd (part : Nat) (s : State) : Out :=
  .next (if (s.part part).lease ≠ 0 ∧ (s.part part).boostEnd ≤ s.time then s.endLease part else s)

/-- A cluster whose clock restarts, at the end of its stop. -/
def Cluster.restarted (c : Cluster) : Cluster := { c with stopped := false, mhz := c.nextMhz, fraction := 0 }

/-- CLOCK_RESTART (R5, R395): a clock that has stopped for 2,000 ticks runs again at its new frequency, from the end of those
ticks; its cores, the budgets of its teams' requests (R247) and what a droop withholds (R396) count the cycles since. -/
def execClockRestart (cluster : Nat) (s : State) : Out :=
  let c := s.cluster cluster
  if c.stopped ∧ c.stopAt + 2000 ≤ s.time then
    let late := s.time - (c.stopAt + 2000)
    let n := c.restarted.cyclesIn s.time late
    .next { (s.modCluster cluster (fun c => c.restarted.pass s.time late)) with
      cores := (List.range s.cores.length).zip s.cores |>.map (fun (k, x) =>
        if clusterOf k = cluster then { x with cycles := x.cycles + n } else x)
      teams := s.teams.map (fun kt =>
        if clusterOf kt.2.core = cluster ∧ kt.2.request then (kt.1, { kt.2 with used := kt.2.used + n }) else kt) }
  else .next s

/-! ## Droop -/

/-- DROOP_ALARM (R396): a dip of more than 2 × THRESH mV; a THRESH of 0 raises none (R397). An alarm in a stretch only
counts; otherwise the next STRETCH edges are withheld, and the window of HALF cycles follows them. -/
def execDroopAlarm (cluster dipMillivolts : Nat) (s : State) : Out :=
  .next (s.modCluster cluster (fun c =>
    if c.thresh = 0 ∨ dipMillivolts ≤ 2 * c.thresh then c
    else
      let c := { c with alarms := (c.alarms + 1) % 2 ^ 64 }
      if c.edges ≠ 0 then c
      else { c with edges := c.stretch, halfLeft := c.half, droop := if c.stretch = 0 then 2 else 1 }))

/-- STRETCH_END (R396): the edges have been withheld, and the half-issue window has begun. -/
def execStretchEnd (cluster : Nat) (s : State) : Out :=
  .next (s.modCluster cluster (fun c => if c.droop = 1 ∧ c.edges = 0 then { c with droop := 2 } else c))

/-- HALF_ISSUE_WINDOW_END (R396): the window's cycles have passed. -/
def execHalfIssueWindowEnd (cluster : Nat) (s : State) : Out :=
  .next (s.modCluster cluster (fun c => if c.droop = 2 ∧ c.halfLeft = 0 then { c with droop := 0 } else c))

end Sys2Proof.Machine
end

