-- ==== Sys2Proof/Machine/Image.lean ====
section
/-! DEFINITION. The save image (R252–R254, R286, R316, R346, R371): the bytes that a save writes and the team that a
restore makes from them and from what the device keeps of the saved team. -/

namespace Sys2Proof.Machine

/-- A byte list padded with zeros to a length. -/
def padTo (n : Nat) (bs : List Byte) : List Byte := bs ++ List.replicate (n - bs.length) 0

/-! ## Writing -/

/-- The slot header (R252). -/
def slotHeader (r : Record) (index copy cause : Nat) : List Byte :=
  padTo 64 (leBytes r.value 32 ++ leBytes index 4 ++ leBytes copy 1 ++ leBytes cause 1 ++ leBytes 0 2 ++
    leBytes (index + 1) 4)

/-- One barrier's 16 bytes (R252). -/
def Barrier.image (b : Barrier) : List Byte :=
  padTo 16 (leBytes b.expect 1 ++ leBytes b.count 1 ++ leBytes (bit b.counted 0) 1 ++ leBytes 0 1 ++
    leBytes b.bits.toNat 4 ++ leBytes (bit b.seq 0) 1)

/-- The sequencer's 576 bytes (R286). -/
def Sequencer.image (q : Sequencer) : List Byte :=
  padTo 64 (leBytes q.pc 8 ++ leBytes q.idx 1 ++ leBytes q.mode 1 ++ leBytes q.barrier 1 ++ leBytes 0 1 ++
    q.lc.flatMap (fun x => leBytes x 2)) ++
  q.om.flatMap (fun m => padTo 32 (leBytes m.base 4 ++ leBytes m.pitch 4 ++ leBytes m.koff 4 ++ leBytes m.fmt 4 ++
    leBytes m.sbase 4 ++ leBytes m.spitch 4))

/-- The engine command area holds a layout that only the device reads; it is zero when no command is written (R316). -/
def commandArea (nonce slot count : Nat) : List Byte :=
  (List.range 768).map (fun i => if i < 32 * count then Config.privateByte nonce (slot + 0xC40 + i) else 0)

/-- The team block (R252, R316). -/
def Team.blockImage (tm : Team) (nonce slot commands : Nat) : List Byte :=
  padTo 4096 (
    padTo 0xC00 (
      padTo 0x800 (
        tm.barriers.flatMap Barrier.image ++
        (List.range 8).flatMap (fun k => (List.range 32).flatMap (fun j =>
          leBytes (((tm.groups[j]?).map (fun g => (g.kmask.getD k 0).toNat)).getD 0) 4)) ++
        leBytes tm.fpMode 4 ++ leBytes 0 4 ++ leBytes tm.trapVec.toNat 8 ++ leBytes tm.resident 8) ++
      tm.seq.image) ++
    commandArea nonce slot commands)

/-- The state code of a register for a lane (R253): 0 full, 1 empty, 2 poisoned. -/
def Group.regState (g : Group) (l n : Nat) : Nat :=
  if (Map.get g.empty n 0).getLsbD l then 1 else if (Map.get g.poison n 0).getLsbD l then 2 else 0

/-- A thread record (R249, R253, R377): of a thread for which no clause was cut the index is 0. The index at which such a thread
resumes a clause alone (R379) is kept by the device beside the image (DEDUCED, log entry 87). -/
def Group.threadImage (g : Group) (l : Nat) : List Byte :=
  let th := g.thread l
  let parked := bit th.parked.isSome 2 + 16 * th.parked.getD 0
  leBytes th.pc 8 ++ leBytes (bit th.live 0 + bit th.trapMode 1 + parked) 1 ++ leBytes th.preds.toNat 1 ++
  leBytes (match g.clause with
    | some r => if r.active.getLsbD l then r.idx else 0
    | none => 0) 1 ++ leBytes 0 1 ++ leBytes th.fpFlags.toNat 4 ++
  leBytes th.trapPc.toNat 8 ++ leBytes (th.trapCause.toNat % 4096 + bit th.pend.isSome 16) 8 ++
  leBytes th.trapDetail.toNat 8 ++ leBytes th.trapScratch.toNat 8 ++
  leBytes ((List.range 256).foldl (fun x n => x + g.regState l n * 4 ^ n) 0) 64

/-- The gate state of a group (R371). -/
def Group.gateImage (g : Group) : List Byte :=
  match g.gate with
  | none => List.replicate 48 0
  | some c =>
    let done := LaneSet.filter c.entered (fun l => (g.thread l).status.isSome)
    padTo 48 (leBytes c.frame 8 ++ leBytes c.callerAsid 2 ++ leBytes c.gate 2 ++ leBytes (bit c.logged 0) 1 ++
      leBytes 0 3 ++ leBytes c.entered.toNat 4 ++ leBytes done.toNat 4 ++ leBytes c.entryPa 8)

/-- The hold state of a group (R253): 1 at BAR, 2 at SBAR. -/
def Group.holdCode (g : Group) : Nat := if g.holds.contains .sbar then 2 else if g.holds.isEmpty then 0 else 1

/-- The slot rank of a group (R253): how many groups of its slot issued before it. -/
def Team.slotRank (tm : Team) (gi : Nat) : Nat :=
  let key := fun (j : Nat) => match tm.groups[j]? with | some g => (g.lastIssue, g.rank, j) | none => (0, 0, j)
  let less := fun (a b : Nat × Nat × Nat) =>
    a.1 < b.1 || (a.1 == b.1 && (a.2.1 < b.2.1 || (a.2.1 == b.2.1 && a.2.2 < b.2.2)))
  ((List.range tm.groups.length).filter (fun j => j % 4 == gi % 4 && less (key j) (key gi))).length

/-- A group block (R253, R316, R371). -/
def Team.groupImage (tm : Team) (gi : Nat) (g : Group) : List Byte :=
  let stream := fun (e : Nat) => g.stream e
  padTo 4096 (
    padTo 0xE40 (
      padTo 16 (leBytes g.rotation 4 ++ leBytes g.urgency 1 ++ leBytes (tm.slotRank gi) 1 ++ leBytes g.holdCode 1 ++
        leBytes g.asid 2) ++
      g.gateImage ++ allLanes.flatMap g.threadImage) ++
    (List.range 3).flatMap (fun e => leBytes (stream e).issued 8 ++ leBytes (stream e).done 8) ++
    (List.range 3).flatMap (fun e => leBytes (stream e).err 8))

/-- A register area (R254). -/
def Team.regImage (tm : Team) (gi : Nat) (g : Group) : List Byte :=
  let bs := (List.range 256).flatMap (fun n =>
    let ws := Map.get g.regs n []
    (List.range (shapeWords (tm.shape gi n))).flatMap (fun k => leBytes (ws.getD k 0).toNat 4))
  padTo (roundUp bs.length 64) bs

/-- The writes of a cut clause that are not visible yet, and the state that a save keeps under R195, stand in in-flight
blocks that only the device reads; a block with nothing is zero (R252). -/
def Group.flightImage (g : Group) (nonce at_ : Nat) : List Byte :=
  let quiet := g.clause.isNone && g.ops.isEmpty && g.stores.isEmpty && g.locals.isEmpty
  (List.range 32768).map (fun i => if quiet then 0 else Config.privateByte nonce (at_ + i))

/-- A whole image (R252): `cause` as in the header, `commands` how many commands the area holds. -/
def Team.image (tm : Team) (nonce : Nat) (r : Record) (cause commands : Nat) : List Byte :=
  let groups := (List.range tm.groups.length).zip tm.groups
  let head := slotHeader r tm.index tm.copy cause ++ tm.blockImage nonce tm.slot commands ++
    groups.flatMap (fun jg => tm.groupImage jg.1 jg.2) ++ groups.flatMap (fun jg => tm.regImage jg.1 jg.2)
  let flight := groups.flatMap (fun jg => jg.2.flightImage nonce (tm.slot + head.length + 32768 * jg.1))
  let slices := (List.range (32 * tm.groups.length)).flatMap (fun k => sliceBytes tm k 0 (64 * tm.lb.slice))
  let pads := padBytes tm.padNonce tm.pad 0 tm.lb.priv ++ Memory.getBytes tm.visible 0 tm.lb.win ++
    Memory.getBytes tm.shadow 0 tm.lb.win
  let tiles := (List.range (4096 * tm.lb.tiles)).flatMap (fun k => leBytes (Map.get tm.tiles k 0).toNat 4)
  padTo tm.lb.stride (head ++ flight ++ slices ++ pads ++ tiles)

/-- The issue orders of a team's writes of its team registers as ranks, below the numbers of any core's cycles: what a save keeps
of them (R384). -/
def Team.rankOrders (tm : Team) : Team :=
  let pending := tm.groups.flatMap (fun g => (g.clause.map (fun r => r.teamWrites.map (fun w => w.2.1))).getD [])
  let all := (tm.fpOrder :: tm.vecOrder :: pending).foldl (fun ns n => insertNat n ns) []
  let rank := fun (n : Nat) => placeOf n all
  { tm with
    fpOrder := rank tm.fpOrder
    vecOrder := rank tm.vecOrder
    groups := tm.groups.map (fun g => { g with clause := g.clause.map (fun r =>
      { r with teamWrites := r.teamWrites.map (fun w => (w.1, rank w.2.1, w.2.2)) }) }) }

/-! ## Reading -/

/-- Read a barrier; arrivals stand in group order (log entry 24). -/
def Barrier.parse (b : List Byte) : Barrier where
  expect := field b 0 1
  count := field b 1 1
  counted := hasBit (field b 2 1) 0
  bits := BitVec.ofNat 32 (field b 4 4)
  seq := hasBit (field b 8 1) 0
  order := (LaneSet.lanes (BitVec.ofNat 32 (field b 4 4))).map (fun j => (j, 0))

/-- Read the sequencer's state. -/
def Sequencer.parse (b : List Byte) : Sequencer where
  pc := field b 0 8
  idx := field b 8 1
  mode := field b 9 1
  barrier := field b 10 1
  lc := (List.range 4).map (fun k => field b (12 + 2 * k) 2)
  om := (List.range 16).map (fun k =>
    let o := 64 + 32 * k
    ⟨field b o 4, field b (o + 4) 4, field b (o + 8) 4, field b (o + 12) 4, field b (o + 16) 4, field b (o + 20) 4⟩)
  res := 0
  busy := false
  row := 0
  held := none
  arrived := false
  clause := none

/-- Read a thread record over what the device keeps of the thread, the index at which it resumes among it. -/
def Thread.parse (th : Thread) (b : List Byte) : Thread :=
  let f := field b 8 1
  let c := field b 24 8
  { th with
    pc := field b 0 8
    live := hasBit f 0
    trapMode := hasBit f 1
    parked := if hasBit f 2 then some (bits f 6 4) else none
    preds := BitVec.ofNat 7 (field b 9 1)
    fpFlags := BitVec.ofNat 5 (field b 12 4)
    trapPc := BitVec.ofNat 64 (bits (field b 16 8) 51 0)
    trapCause := BitVec.ofNat 64 (c % 4096)
    trapDetail := BitVec.ofNat 64 (field b 32 8)
    trapScratch := BitVec.ofNat 64 (field b 40 8)
    pend := if hasBit c 16 then th.pend else none }

/-- The lanes whose register n has a state code in the group block. -/
def stateLanes (b : List Byte) (n code : Nat) : LaneSet :=
  LaneSet.ofList (allLanes.filter (fun l => bits (field b (64 + 112 * l + 48 + n / 4) 1) (2 * (n % 4) + 1) (2 * (n % 4)) == code))

/-- Read the registers of a role's map from a register area: the words that each register takes, in order. -/
def parseRegs (shape : Nat → Nat) (b : List Byte) : List Nat → Nat → Map (List Word) → Map (List Word)
  | [], _, m => m
  | n :: ns, o, m =>
    let k := shapeWords (shape n)
    if k = 0 then parseRegs shape b ns o m
    else parseRegs shape b ns (o + 4 * k)
      (Map.put m n ((List.range k).map (fun j => BitVec.ofNat 32 (field b (o + 4 * j) 4))))

/-- Read a group from its block and its register area, over what the device keeps of it. -/
def Group.parse (g : Group) (lb : LaunchBlock) (gi stamp : Nat) (kmask : List LaneSet) (b regs : List Byte) : Group :=
  let shape := fun (n : Nat) => bits (lb.groupMap gi) (2 * n + 1) (2 * n)
  let present := (List.range 256).filter (fun n => shape n != 0)
  let states := fun (code : Nat) => present.foldl (fun (m : Map LaneSet) n =>
    let x := stateLanes b n code
    if x = 0 then m else Map.put m n x) []
  { g with
    threads := (List.range 32).map (fun l => (g.thread l).parse ((b.drop (64 + 112 * l)).take 112))
    regs := parseRegs shape regs (List.range 256) 0 []
    empty := states 1
    poison := states 2
    rotation := field b 0 4
    urgency := field b 4 1
    rank := field b 5 1
    lastIssue := stamp
    since := none
    issuedOnce := false
    holds := if field b 6 1 = 0 then [] else g.holds
    asid := field b 7 2
    kmask := kmask
    streams := (List.range 3).map (fun e =>
      ⟨field b (0xE40 + 16 * e) 8, field b (0xE48 + 16 * e) 8, field b (0xE70 + 8 * e) 8, (g.stream e).seen⟩)
    tailNext := g.tailNext
    saveNext := false }

/-- Where the parts of an image start (R252): register areas, in-flight blocks, slices, private bytes, tiles. -/
def LaunchBlock.areaAt (lb : LaunchBlock) (gi : Nat) : Nat :=
  64 + 4096 + 4096 * lb.groups +
    (List.range gi).foldl (fun n j => n + roundUp (4 * mapSize (lb.groupMap j)) 64) 0

/-- The team that a restore makes (R255, R287): the image's bytes over what the device keeps. -/
def SavedTeam.restore (x : SavedTeam) (lb : LaunchBlock) (core order stamp : Nat) (b : List Byte) : Team :=
  let tb := (b.drop 64).take 4096
  let slices := lb.areaAt lb.groups + 32768 * lb.groups
  let pad := slices + lb.sliceBytes
  let tiles := pad + lb.priv + 2 * lb.win
  let part := fun (o n : Nat) => (b.drop o).take n
  { part := x.part, core := core, record := x.record, asid := x.asid, index := x.index, slot := x.slot, copy := x.copy
    mode := x.mode, epoch := x.epoch, order := order, lb := lb
    fpMode := field tb 0x500 4 % 256, fpOrder := x.fpOrder
    trapVec := BitVec.ofNat 64 (field tb 0x508 8), vecOrder := x.vecOrder
    resident := field tb 0x510 8
    barriers := (List.range 16).map (fun n => Barrier.parse ((tb.drop (16 * n)).take 16))
    request := false, used := 0, save := 0, fault := none
    padNonce := x.padNonce
    pad := padPut [] 0 (part pad lb.priv)
    visible := Memory.putBytes [] 0 (part (pad + lb.priv) lb.win)
    shadow := Memory.putBytes [] 0 (part (pad + lb.priv + lb.win) lb.win)
    slices := (List.range (32 * lb.groups)).map (fun k => (k, padPut [] 0 (part (slices + 64 * lb.slice * k) (64 * lb.slice))))
    tiles := (List.range (4096 * lb.tiles)).foldl (fun m k =>
      let w := field b (tiles + 4 * k) 4
      if w = 0 then m else Map.put m k (BitVec.ofNat 32 w)) []
    seq := { Sequencer.parse ((tb.drop 0x800).take 576) with held := x.held, arrived := x.arrived }
    sharing := none, leaving := 0, sbarReady := false
    groups := (List.range lb.groups).map (fun gi =>
      ((x.groups[gi]?).getD (Group.launch lb.code x.asid stamp)).parse lb gi stamp
        ((List.range 8).map (fun k => BitVec.ofNat 32 (field tb (0x100 + 4 * (32 * k + gi)) 4)))
        (part (64 + 4096 + 4096 * gi) 4096)
        (part (lb.areaAt gi) (4 * mapSize (lb.groupMap gi))))
    engineSum := 0, coreSet := [], issued := false, diverged := x.diverged, resend := 0 }

/-! ## Run state of a checked run -/

/-- Write a run's engine sum, core set and thread states into its block of the log area (R346). -/
def State.putRunState (s : State) (tm : Team) : State :=
  match tm.mode, s.checkedOf tm with
  | .unchecked, _ => s
  | _, none => s
  | _, some c =>
    let cores := if tm.issued && !tm.coreSet.contains tm.core then tm.coreSet ++ [tm.core] else tm.coreSet
    let s := s.devPut c.part 4 c.asid c.record (c.logBase + 8 + 32 * tm.copy) 8 tm.engineSum
    let s := s.devWrite c.part 4 c.asid c.record (c.logBase + 8 + 32 * tm.copy + 24)
      ((List.range 4).map (fun k => BitVec.ofNat 8 (cores.getD k 255)))
    s.devWrite c.part 4 c.asid c.record (c.logBase + 0x80 + 1024 * c.groups * tm.copy)
      (tm.groups.zip (List.range tm.groups.length) |>.flatMap (fun gj => allLanes.flatMap (fun l =>
        let th := gj.1.thread l
        let pos := if tm.mode = .lead then (c.entries.filter (fun e => e.thread == 32 * gj.2 + l && e.kind != 6)).length
          else th.pos
        leBytes th.ss 8 ++ leBytes th.rs 8 ++ leBytes th.cnt 8 ++ leBytes pos 8)))

/-- Read them back (R346). -/
def State.getRunState (s : State) (tm : Team) : Team × State :=
  match tm.mode, s.checkedOf tm with
  | .unchecked, _ => (tm, s)
  | _, none => (tm, s)
  | _, some c =>
    let (head, s) := s.devRead c.part 4 c.asid c.record (c.logBase + 8 + 32 * tm.copy) 32
    let (runs, s) := s.devRead c.part 4 c.asid c.record (c.logBase + 0x80 + 1024 * c.groups * tm.copy) (1024 * c.groups)
    ({ tm with
      engineSum := field head 0 8
      coreSet := ((List.range 4).map (fun k => field head (24 + k) 1)).filter (· != 255)
      groups := (List.range tm.groups.length).zip tm.groups |>.map (fun (gi, g) =>
        { g with threads := (List.range 32).zip g.threads |>.map (fun (l, th) =>
          let o := 32 * (32 * gi + l)
          { th with ss := field runs o 8, rs := field runs (o + 8) 8, cnt := field runs (o + 16) 8
                    pos := field runs (o + 24) 8 }) }) }, s)

end Sys2Proof.Machine
end

