-- ==== Sys2Proof/Machine/Sched.lean ====
section
/-! DEFINITION. The scheduler (R233–R241, R247–R257, R321–R325, R342): kicks, placement and restore, pre-emption, saves,
the fault ring, shootdowns, bank swaps and leaves, and the end of a team. -/

namespace Sys2Proof.Machine

/-! ## Kicks and requests -/

/-- The compute dies are in reset: the first stage has found no image that passes (R461, R464). -/
def State.diesHeld (s : State) : Bool := s.mgmt.bootStatus.getLsbD 5

/-- KICK (R235, R245): a write of CR_KICK. Without a configuration every kick is refused (R410); a halted partition arms
nothing (R386), and neither do dies in reset. -/
def execKick (part : Nat) (record : Dword) (s : State) : Out :=
  let p := s.part part
  let rec_ := bits record.toNat 51 0
  let status := fun (n : Nat) (s : State) => s.modPart part (fun x => { x with schedStatus := n })
  if s.diesHeld then .next s
  else if s.configuration = 0 then .next (status 5 s)
  else if p.halted then .next s
  else if rec_ % 32 ≠ 0 then .next (status 2 s)
  else
    let (st, s) := s.arm part p.kickAsid rec_ 1023 UnitFault.none
    .next (if (s.part part).halted then s else status st s)

/-- Raise a team's request flag (R247). -/
def Team.raise (tm : Team) : Team := if tm.request then tm else { tm with request := true, used := 0 }

/-- PREEMPT (R247): a write of CR_PREEMPT raises the flag of every team on the logical core that it names. -/
def execPreempt (_ : Nat) (value : Dword) (s : State) : Out :=
  match s.logicalCore (bits value.toNat 6 0) with
  | none => .next s
  | some c => .next { s with teams := s.teams.map (fun kt =>
      if kt.2.core = c then (kt.1, kt.2.raise) else kt) }

/-! ## Where a team fits -/

/-- A core is held by a scrub that has not completed (R468). -/
def State.scrubs (s : State) (core : Nat) : Bool :=
  s.partitions.any (fun p => p.scrubHolds && p.scrubHeld.cores.contains core)

/-- A core belongs to a partition's pool of an operating class (R240, R393, R468). -/
def State.inPool (s : State) (p cls core : Nat) : Bool :=
  let c := s.core core
  let k := s.cluster (clusterOf core)
  c.inUse && k.partition == some p && k.cls == cls && !k.moving && !s.scrubs core

/-- A launch block's team fits a core beside its resident teams but `without` (R60, R61, R101, R115, R153, R240). -/
def State.fits (s : State) (lb : LaunchBlock) (core without : Nat) : Bool :=
  let mine := s.teams.filter (fun kt => kt.2.core == core && kt.1 != without)
  let sum := fun (f : LaunchBlock → Nat) => mine.foldl (fun n kt => n + f kt.2.lb) (f lb)
  (List.range 4).all (fun k => sum (·.slotGroups k) ≤ 16 && sum (·.slotBudget k) ≤ 32768) &&
  sum (·.sliceBytes) ≤ 0x80000 && sum (·.padBytes) ≤ 0x80000 && sum (·.tiles) ≤ 64 &&
  (lb.win == 0 || mine.all (fun kt => kt.2.lb.win == 0))

/-- The core that takes a team: the lowest-numbered that fits outside a core set, of a cluster without such a core where
there is one (R240, R325). -/
def State.coreFor (s : State) (p : Nat) (lb : LaunchBlock) (apart : List Nat) : Option Nat :=
  let fit := ((List.range 128).filterMap s.logicalCore).filter (fun c =>
    !apart.contains c && s.inPool p lb.cls c && s.fits lb c 0)
  match fit.find? (fun c => !apart.any (fun a => clusterOf a == clusterOf c)) with
  | some c => some c
  | none => fit.head?

/-! ## Dispensing -/

/-- A team's level checks it (R321). -/
def Grid.samples (g : Grid) (n : Nat) : Bool :=
  g.lb.redund == 11 || (1 ≤ g.lb.redund && g.lb.redund ≤ 10 && (n + g.record >>> 5) % 2 ^ g.lb.redund == 0)

/-- A slice on a die of a partition has more than three-quarters of its held capacity in use (R342). -/
def State.heldFull (s : State) (p : Nat) : Bool :=
  let dies := ((s.coresOf p).map dieOf).eraseDups
  let there := (s.heldLines.filter (fun h => isDram h.pa && dies.contains (dieOfPa h.pa))).map
    (fun h => 48 * dieOfPa h.pa + s.homeSlice h.pa)
  there.eraseDups.any (fun k => 3 * s.holdWays * 1024 < 4 * (there.filter (· == k)).length)

/-- A slice on a die of a partition is about to be retired (R412). -/
def State.retiringFor (s : State) (p : Nat) : Bool := (s.coresOf p).any (fun c => s.retiring.any (fun k => k.1 == dieOf c))

/-- The checked team that a dispensed lead starts (R329, R330). -/
def Grid.checked (g : Grid) (n : Nat) : Checked where
  part := g.part
  record := g.record
  asid := g.asid
  index := n
  epoch := g.epoch
  slotBase := g.lb.slotAddr 0 n
  stride := g.lb.stride
  slots := g.lb.slots
  slot := n % g.lb.slots
  logBase := g.lb.logbase + n % g.lb.slots * g.lb.logsize
  logSize := g.lb.logsize
  groups := g.lb.groups
  level := g.prio
  stage := 0
  reason := 0
  used := 0
  entries := []
  ended := false
  lead := none
  trail := none
  third := none
  verdict := none

/-- The run that a team of a grid starts with (R321, R330, R340, R345, R444). -/
def State.dispense (s : State) (g : Grid) (n : Nat) : RunMode × State :=
  if !g.samples n then (.unchecked, s)
  else
    let c := g.checked n
    let room := 0x80 + 3072 * g.lb.groups + 16 ≤ g.lb.logsize
    let head := fun (status reason : Nat) (s : State) => if g.lb.logsize < 8 then s else
      s.devWrite g.part 4 g.asid g.record c.logBase (leBytes g.epoch 2 ++ leBytes status 1 ++ leBytes reason 1 ++ leBytes 0 4)
    if !s.assayCtl.getLsbD 0 then (.unchecked, head 4 7 (s.assayCount 5))
    else if !room then (.unchecked, head 4 8 (s.assayCount 5))
    else
      let s := head 0 0 (s.assayCount 0)
      let s := if s.inject.getLsbD 63 ∧ s.target.isNone then
        { s with target := some ⟨g.part, g.record, g.asid, n, []⟩ } else s
      (.lead, { s with checked := s.checked ++ [c] })

/-- A team at its launch state (R63, R94, R154, R239, R258, R378). -/
def Team.launch (p core record asid index slot copy order stamp nonce epoch : Nat) (mode : RunMode) (lb : LaunchBlock) :
    Team where
  part := p
  core := core
  record := record
  asid := asid
  index := index
  slot := slot
  copy := copy
  mode := mode
  epoch := epoch
  order := order
  lb := lb
  fpMode := lb.fpmode
  fpOrder := 0
  trapVec := 0
  vecOrder := 0
  resident := 0
  barriers := List.replicate 16 Barrier.fresh
  request := false
  used := 0
  save := 0
  fault := none
  padNonce := nonce
  pad := []
  visible := []
  shadow := []
  slices := []
  tiles := []
  seq := Sequencer.launch lb.mstream
  sharing := none
  leaving := 0
  sbarReady := false
  groups := List.replicate lb.groups (Group.launch lb.code asid stamp)
  engineSum := 0
  coreSet := []
  issued := false
  diverged := false
  resend := 0

/-- A run starts on a core at its launch state; the core's L1 gives up what R204 invalidates. -/
def State.startRun (s : State) (g : Grid) (n core copy : Nat) (mode : RunMode) : State :=
  let (key, s) := s.fresh
  let tm := Team.launch g.part core g.record g.asid n (g.lb.slotAddr copy n) copy key s.issues s.nonce g.epoch mode g.lb
  { s with teams := Map.put s.teams key tm, nonce := s.nonce + 1, issues := s.issues + 1 }.selfInvalidate core

/-! ## Placement -/

/-- What becomes of a record that the scheduler tries (R239, R240). -/
inductive Try where
  | placed (s : State)
  | skip
  | block (lb : LaunchBlock)

/-- The run copy's core sets that bar a run from a core (R325). -/
def Checked.apart (c : Checked) (copy : Nat) : List Nat :=
  ((if 1 ≤ copy then (c.lead.map (·.cores)).getD [] else []) ++ (if 2 ≤ copy then (c.trail.map (·.cores)).getD [] else []))

/-- An entry is removed from a ready queue (R234). -/
def State.dequeue (s : State) (p : Nat) (e : Nat × Nat) : State := s.modPart p (·.unqueue e)

/-- A restored team's commands enter their queue again (R316). -/
def SavedTeam.commandsOn (x : SavedTeam) (core : Nat) : List Command := x.commands.map (fun c => { c with core := core })

/-- The fence that a restored group behaves as if it had executed (R204). -/
def Group.restoreFence (id : Nat) (g : Group) : Group :=
  if g.loads.isEmpty && g.stores.isEmpty && g.locals.isEmpty && g.pending.isEmpty then g
  else
    { g with pending := g.pending ++
        [{ id := id, addr := 0, idx := 0, kind := 0, lanes := BitVec.allOnes 32, scope := 3, pset := 23, sset := 23, ranges := [], asid := g.asid }] }

/-- Try to restore a saved team (R168, R195, R204, R255, R323, R325, R346): nothing of it issues before what it brings back
has been sent and the fences that it brings back are complete. -/
def State.tryRestore (s : State) (p : Nat) (x : SavedTeam) (g : Grid) : Try :=
  let c := s.checked.find? (fun c => c.part == p && c.record == x.record && c.asid == x.asid && c.index == x.index &&
    c.stage < 3)
  let apart := if x.copy = 0 then [] else (c.map (fun c => c.apart x.copy)).getD []
  match s.coreFor p g.lb apart with
  | none => if x.copy = 0 then .block g.lb else .skip
  | some core =>
    match s.pinRead 0 p x.asid x.slot g.lb.stride with
    | none => .placed (s.halt p 4 1023 { UnitFault.none with detail := x.slot, asid := x.asid, record := x.slot })
    | some bs =>
      let s := s.pinMeet 0 p { UnitFault.none with record := x.slot, asid := x.asid } x.asid x.slot g.lb.stride
      let tm := x.restore g.lb core s.nextId s.issues bs
      let tm := ({ tm with groups := tm.groups.map (Group.restoreFence s.nextId), resend := s.nextId } : Team).checkSbar
      let (tm, s) := s.getRunState tm
      if tm.mode ≠ .unchecked ∧ 4 ≤ tm.coreSet.length ∧ !tm.coreSet.contains core then .placed (s.uncheck tm 5)
      else
        let s := s.dequeue p (x.slot, x.asid)
        .placed ({ s with
          teams := Map.put s.teams x.key tm
          saved := s.saved.filter (fun y => y.key != x.key)
          commands := s.commands ++ x.commandsOn core
          nextId := s.nextId + 1, issues := s.issues + 1 }.selfInvalidate core)

/-- Try a run record that has not run yet (R324, R325). -/
def State.tryRun (s : State) (p : Nat) (e : Nat × Nat) (c : Checked) (g : Grid) : Try :=
  match s.coreFor p g.lb (c.apart c.stage) with
  | none => .skip
  | some core =>
    .placed ((s.dequeue p e).startRun g c.index core c.stage (if c.stage = 1 then .trail else .third))

/-- Try the next team of a grid record (R239, R240, R342). -/
def State.tryGrid (s : State) (p : Nat) (e : Nat × Nat) (g : Grid) : Try :=
  let n := g.next
  let owners := (List.range g.lb.copies).map (fun c => s.pinRead 0 p g.asid (g.lb.slotAddr c n + 40) 4)
  let u := { UnitFault.none with record := g.record, asid := g.asid }
  let s := (List.range g.lb.copies).foldl (fun (s : State) c => s.pinMeet 0 p u g.asid (g.lb.slotAddr c n + 40) 4) s
  if owners.any (·.isNone) then
    .placed (s.halt p 4 1023 { UnitFault.none with record := g.record, asid := g.asid })
  else if owners.any (fun o => o.map ofLeBytes != some 0) then .skip
  else if g.samples n && s.assayCtl.getLsbD 0 && (s.heldFull p || s.retiringFor p) then .skip
  else
    match s.coreFor p g.lb [] with
    | none => .block g.lb
    | some core =>
      let s := if n + 1 = g.lb.teams then s.dequeue p e else s
      let s := s.modGrid p g.asid g.record (fun g => { g with next := n + 1 })
      let s := s.devPut p 4 g.asid g.record (g.lb.savebase + 8) 4 (n + 1)
      let s := s.devPut p 4 g.asid g.record (g.lb.slotAddr 0 n + 32) 4 n
      let s := s.devPut p 4 g.asid g.record (g.lb.slotAddr 0 n + 36) 2 0
      let s := s.devPut p 4 g.asid g.record (g.lb.slotAddr 0 n + 40) 4 (n + 1)
      let (mode, s) := s.dispense g n
      .placed (s.startRun g n core 0 mode)

/-- Try one entry of a ready queue. -/
def State.tryEntry (s : State) (p : Nat) (e : Nat × Nat) : Try :=
  match s.saved.find? (fun x => x.part == p && x.slot == e.1 && x.asid == e.2 && !x.pend) with
  | some x =>
    match s.grid? p x.asid x.record with
    | some g => s.tryRestore p x g
    | none => .skip
  | none =>
    match s.checked.find? (fun c => c.part == p && c.asid == e.2 && (c.stage == 1 || c.stage == 2) &&
        c.slotBase + c.stage * c.slots * c.stride == e.1) with
    | some c =>
      match s.grid? p c.asid c.record with
      | some g => s.tryRun p e c g
      | none => .skip
    | none =>
      match s.grid? p e.2 e.1 with
      | some g => s.tryGrid p e g
      | none => .skip

/-- The better of two teams to ask (R240): the lower level, then the later placement. -/
def lowerTeam (level : Nat → Team → Nat) (best : Option (Nat × Team)) (kt : Nat × Team) : Option (Nat × Team) :=
  match best with
  | none => some kt
  | some b =>
    if level kt.1 kt.2 < level b.1 b.2 ∨ (level kt.1 kt.2 = level b.1 b.2 ∧ b.2.order < kt.2.order) then some kt
    else some b

/-- A record that fits no core asks one team of a lower level to leave (R240). -/
def State.askRoom (s : State) (p level : Nat) (lb : LaunchBlock) : State :=
  let out := match (s.part p).preemptOut with | some k => (s.team? k).isSome | none => false
  if out then s
  else
    let able := s.teams.filter (fun kt => kt.2.part == p && s.levelOf kt.2 < level && s.inPool p lb.cls kt.2.core &&
      s.fits lb kt.2.core kt.1)
    match able.foldl (lowerTeam (fun _ tm => s.levelOf tm)) none with
    | none => s
    | some (k, _) => (s.modTeam k Team.raise).modPart p (fun x => { x with preemptOut := some k })

/-- Try entries in order until one is placed or blocks (R240). -/
def State.placeFirst (s : State) (p : Nat) : List (Nat × (Nat × Nat)) → State
  | [] => s
  | (level, e) :: rest =>
    match s.tryEntry p e with
    | .placed s => s
    | .skip => s.placeFirst p rest
    | .block lb => s.askRoom p level lb

/-- The entries of a partition's ready queues, the highest level first (R240). -/
def Partition.entries (x : Partition) : List (Nat × (Nat × Nat)) :=
  (List.range 12).reverse.flatMap (fun l => (x.queues.getD l []).map (fun e => (l, e)))

/-- TEAM_PLACEMENT (R239, R240, R255): the partition's scheduler places one team, or asks another to make room. -/
def execTeamPlacement (part : Nat) (s : State) : Out :=
  let x := s.part part
  if x.halted || x.paused || s.diesHeld then .next s else .next (s.placeFirst part x.entries)

/-! ## Sharing groups -/

/-- The banks of a team swap (R168). -/
def Team.swap (tm : Team) : Team := { tm.releaseSbar with visible := tm.shadow, shadow := [] }

/-- Every STX of a team has been accepted (R168). -/
def Team.stxDone (tm : Team) : Bool := tm.groups.all (fun g => g.locals.all (·.space != 4))

/-- SBAR_SWAP (R168): every member of the sharing group has arrived, their STX have been accepted, and all banks swap at
once. -/
def execSbarSwap (team : Nat) (s : State) : Out :=
  match s.team? team with
  | none => .next s
  | some tm =>
    if !tm.sbarReady then .next s
    else
      match tm.sharing with
      | none => .next (if tm.stxDone then s.modTeam team Team.swap else s)
      | some k =>
        let members := (((s.cluster (clusterOf tm.core)).sharing[k]?).map (·.members)).getD []
        if members.all (fun m => ((s.team? m).map (fun x => x.sbarReady && x.stxDone)).getD true) then
          .next (members.foldl (fun s m => s.modTeam m Team.swap) s)
        else .next s

/-- A team leaves its sharing group (R172). -/
def State.leaveSharing (s : State) (team : Nat) : State :=
  match s.team? team with
  | none => s
  | some tm =>
    if tm.sharing.isNone then s
    else
      (s.modCluster (clusterOf tm.core) (fun c => { c with
        sharing := c.sharing.map (fun g => { g with members := g.members.filter (· != team) }) })).modTeam team
        (fun tm => { tm.swap with sharing := none, leaving := 0 })

/-- A command of a team that is not being saved has been admitted to a window of a team, at its issue or at its start, and has
not finished there (R171, R293, R297). -/
def State.windowCommand (s : State) (target : Nat) (c : Command) : Bool :=
  let dk := c.minor % 4
  let sk := if c.major = 0xD8 then 4 else c.minor / 4 % 4
  let admitted := 2 ≤ c.state || ((c.major == 0xD0 || c.major == 0xD8) && !hasBit c.mod 7)
  let names := fun (tm : Team) (x : Nat) => ((s.windowOf c.team tm x).map (·.1)) == some target
  match s.team? c.team with
  | some tm =>
    c.engine == 0 && c.state != 4 && admitted && tm.fault.isNone && tm.save == 0 &&
    ((dk == 2 && names tm c.a) || (sk == 2 && names tm c.b) ||
      c.todo.any (fun p => (p.dk == 2 && names tm p.dst) || (p.sk == 2 && names tm p.src)))
  | none => false

/-- Accesses to the window of a team in a sharing group, and its own STX and commands in the others' windows, that have not
performed (R171, R172). What a team that waits to be saved cannot perform before its restore is not waited for. -/
def State.windowBusy (s : State) (team : Nat) (tm : Team) : Bool :=
  tm.sharing.isSome &&
  (!tm.stxDone ||
   s.teams.any (fun kt => kt.1 != team && ((List.range kt.2.groups.length).zip kt.2.groups).any (fun ig =>
     ig.2.locals.any (fun o => (o.space == 2 || o.space == 4) && o.target == team &&
       (kt.2.fault.isNone || (s.localReady kt.1 ig.1 kt.2 ig.2 o).isSome)))) ||
   s.commands.any (fun c => (c.team != team && s.windowCommand team c) ||
     (c.team == team && s.teams.any (fun kt => kt.1 != team && s.windowCommand kt.1 c))))

/-- LEAVE_COMPLETE (R167, R171): the window controller serves the leaves of a cluster in arrival order; the accesses that were
admitted have performed. The cores acknowledge the revocation together, in this step: the manual gives no moment to each (DESIGN
CHOICE, log entry 115). -/
def execLeaveComplete (team : Nat) (s : State) : Out :=
  match s.team? team with
  | none => .next s
  | some tm =>
    let first := s.teams.all (fun kt => clusterOf kt.2.core != clusterOf tm.core || kt.2.leaving == 0 ||
      tm.leaving ≤ kt.2.leaving)
    .next (if tm.leaving ≠ 0 ∧ first ∧ !s.windowBusy team tm then s.leaveSharing team else s)

/-! ## Saves -/

/-- A group has stopped for a raised request (R248). One that had stopped at a barrier issues again where the barrier completes
before the save begins: the manual does not say that it stays (DESIGN CHOICE, log entry 116). -/
def State.groupStopped (s : State) (tm : Team) (g : Group) : Bool :=
  g.clause.isNone &&
  (g.live == 0 || !g.holds.isEmpty || g.live.lanes.all (fun l => (g.thread l).parked.isSome) ||
   (match s.nextEntry tm g with | some (e, _) => s.stopsAt tm g e | none => false))

/-- A save may begin: the flag is raised, no save is in progress, and some group has not ended. -/
def State.maySave (s : State) (tm : Team) : Bool :=
  tm.request && tm.save == 0 && tm.fault.isNone && !(s.part tm.part).halted && tm.liveGroups != 0

/-- VOLUNTARY_SAVE (R248): every group of a requested team has stopped. -/
def execVoluntarySave (team : Nat) (s : State) : Out :=
  match s.team? team with
  | none => .next s
  | some tm =>
    if s.maySave tm && tm.groups.all (s.groupStopped tm) then .next (s.modTeam team (fun tm => { tm with save := 1 }))
    else .next s

/-- FORCED_SAVE (R249): the budget has run out; every group stops at its instruction boundary. -/
def execForcedSave (team : Nat) (s : State) : Out :=
  match s.team? team with
  | none => .next s
  | some tm =>
    if s.maySave tm && tm.budgetLeft == 0 then .next (s.modTeam team (fun tm => { tm with save := 2 })) else .next s

/-- What every save waits for of the team's engines and its sequencer (R286, R316, R391): no macro-operation runs or has been
granted, every started copy or gather has completed or is suspended, every accepted BIN and REL has completed. -/
def State.enginesRest (s : State) (team : Nat) (tm : Team) : Bool :=
  !tm.seq.busy && !tm.macroGranted &&
  s.commands.all (fun c => c.team != team ||
    (match c.engine with
     | 0 => c.state != 2 && (c.state != 4 || s.commands.any (fun x => x.team == team && x.group == c.group &&
         x.engine == 0 && x.ticket < c.ticket && x.state == 3))
     | 1 => true
     | _ => c.state == 0))

/-- What a save of another cause waits for too (R172, R250): landings, store queues, accesses of the arrays, acceptance, and
what a leave waits for. -/
def State.drained (s : State) (team : Nat) (tm : Team) : Bool :=
  tm.groups.all (fun g => g.ops.isEmpty && g.stores.isEmpty && g.locals.isEmpty) && !s.windowBusy team tm &&
  s.commands.all (fun c => c.team != team || c.state != 0)

/-- What a page-not-present save waits for (R195, R257): requests that have passed translation and can be performed, and
their landings. -/
def State.settledRequests (s : State) (t : Nat) (tm : Team) (gi : Nat) (g : Group) : Bool :=
  g.ops.all (fun o => o.sfu || o.ready == 0) &&
  g.loads.all (fun o => o.elems.all (fun e => e.done || e.xl.isNone || (s.loadReady t gi tm g o e).isNone)) &&
  (s.nextStore t gi tm g).isNone && g.locals.all (fun o => (s.localReady t gi tm g o).isNone)

/-- Forget the translations of elements that have not been performed: they are sent again after the restore (R195). -/
def Group.unsend (g : Group) : Group :=
  let clear := fun (ops : List MemOp) => ops.map (fun o =>
    { o with elems := o.elems.map (fun e => if e.done then e else { e with xl := none }) })
  { g with loads := clear g.loads, stores := clear g.stores }

/-- A group at its save: the writes that the next instruction of a cut clause would see have taken effect (R254), and the
rotation counter counts the clause's issue (R67, R253). -/
def State.cutGroup (s : State) (tm : Team) (gi : Nat) (g : Group) : Group :=
  (match g.clause with
   | none => g
   | some r =>
     let g := settle tm gi r.nominal g
     let turn := nextRotation r.fromTail (tailKey (s.frontier tm g) == r.tailBefore) g.rotation
     if r.counted then g
     else
       let cut := g.clause.map (fun (r : ClauseRun) => { r with counted := true })
       { g with rotation := turn, clause := cut }).unsend

/-- The saved record of a team (R250, R257). -/
def Grid.savedRecord (g : Grid) (slot : Nat) (parked : Bool) : Record where
  code := g.code
  prio := g.prio
  kind := true
  arm := false
  q := !parked
  p := parked
  frame := slot
  succ := g.record
  join := 0
  asid := g.asid
  reserved := false

/-- The commands of a team that its image takes (R316). -/
def Command.saved (c : Command) (team : Nat) : Bool := c.team == team && c.engine != 1

/-- Write the image of a team and take the team from its core (R250, R252, R346); nothing is saved when a page of the
save area fails (R229). -/
def State.writeSave (s : State) (team : Nat) (tm : Team) (g : Grid) (cause : Nat) : State :=
  let parked := cause == 3
  let s := s.leaveSharing team
  let tm := (s.team? team).getD tm
  let groups := (List.range tm.groups.length).zip tm.groups |>.map (fun (gi, g) => s.cutGroup tm gi g)
  let tm := ({ tm with groups := groups } : Team).rankOrders
  let mine := s.commands.filter (·.saved team)
  match s.pinWrite 0 tm.part tm.asid tm.slot (tm.image s.nonce (g.savedRecord tm.slot parked) cause mine.length) with
  | none => s.halt tm.part 4 1023 { UnitFault.none with detail := tm.slot, record := tm.record, asid := tm.asid }
  | some s =>
    let s := s.putRunState tm
    let kept : SavedTeam := {
      key := team, part := tm.part, asid := tm.asid, slot := tm.slot, record := tm.record, index := tm.index
      copy := tm.copy, mode := tm.mode, epoch := tm.epoch, padNonce := tm.padNonce, groups := tm.groups
      commands := mine, held := tm.seq.held, arrived := tm.seq.arrived, fpOrder := tm.fpOrder, vecOrder := tm.vecOrder
      diverged := tm.diverged, pend := parked }
    let s := s.dropTeam team
    { s with
      saved := s.saved ++ [kept]
      commands := s.commands.filter (fun c => !c.saved team)
      nonce := s.nonce + 1 }

/-- SAVE_IMAGE_WRITE (R250): the waits are over; the image is written, and the saved record enters its ready queue. -/
def execSaveImageWrite (team : Nat) (s : State) : Out :=
  match s.team? team with
  | none => .next s
  | some tm =>
    match s.grid? tm.part tm.asid tm.record with
    | none => .next s
    | some g =>
      if tm.save = 0 || tm.fault.isSome || (s.part tm.part).halted || !s.drained team tm || !s.enginesRest team tm then
        .next s
      else
        let s := s.writeSave team tm g tm.save
        if (s.part tm.part).halted then .next s
        else .next (s.runRec (.enqueue tm.part g.prio tm.slot tm.asid false))

/-! ## The fault ring -/

/-- A fault entry without its sequence number (R226). -/
def State.faultEntry (s : State) (tm : Team) (f : PageFault) : List Byte :=
  leBytes tm.slot 8 ++ leBytes (f.va / 128 * 128) 8 ++ leBytes f.asid 2 ++ leBytes f.kind 1 ++ leBytes f.level 1 ++
  leBytes (s.core tm.core).logical 4

/-- Write waiting fault entries in save order while the ring has room (R226, R227). -/
def State.flushFaults (s : State) (p : Nat) : List Parked → State
  | [] => s
  | k :: rest =>
    if k.written then s.flushFaults p rest
    else
      let x := s.part p
      let size := 2 ^ (bits x.faultRing.toNat 51 48 + 6)
      if (x.faultWrite + 2 ^ 32 - x.faultRead) % 2 ^ 32 = size then s
      else
        let s := s.putRing p ((bits x.faultRing.toNat 47 12 <<< 12) + 32 * (x.faultWrite % size))
          (k.entry ++ leBytes x.faultSeq 8)
        let s := s.modPart p (fun x => ({ x with
          faultWrite := (x.faultWrite + 1) % 2 ^ 32
          faultSeq := x.faultSeq + 1
          parked := x.parked.map (fun y => if y.slot = k.slot ∧ y.asid = k.asid then
            { y with written := true, seq := x.faultSeq } else y) } : Partition).raise 0)
        s.flushFaults p rest

/-- PAGE_NOT_PRESENT_SAVE (R226, R257): the team is saved and parked, and its fault entry is written or waits. -/
def execPageNotPresentSave (team : Nat) (s : State) : Out :=
  match s.team? team with
  | none => .next s
  | some tm =>
    match tm.fault, s.grid? tm.part tm.asid tm.record with
    | some f, some g =>
      if (s.part tm.part).halted || !s.enginesRest team tm || s.windowBusy team tm ||
          !((List.range tm.groups.length).zip tm.groups).all (fun ig => s.settledRequests team tm ig.1 ig.2) then .next s
      else
        let entry := s.faultEntry tm f
        let s := s.writeSave team tm g 3
        if (s.part tm.part).halted then .next s
        else
          let s := s.modPart tm.part (fun x => { x with parked := x.parked ++ [⟨tm.slot, tm.asid, entry, 0, false⟩] })
          .next (s.flushFaults tm.part (s.part tm.part).parked)
    | _, _ => .next s

/-- FAULT_RING_READ_ADVANCE (R227, R402): READ is written; waiting entries follow, and the fault interrupt is cleared. -/
def execFaultRingReadAdvance (part : Nat) (read : Word) (s : State) : Out :=
  if (s.part part).faultRead = read.toNat then .next s
  else
    let s := s.modPart part (fun x => ({ x with faultRead := read.toNat } : Partition).clear 0)
    .next (s.flushFaults part (s.part part).parked)

/-- FAULT_RESUME (R228, R257): a parked record whose entry has been written becomes ready. Of two records of one address, parked under
different identifiers, the one that was saved first does: the register carries an address only (DESIGN CHOICE, log entry 117). -/
def execFaultResume (part : Nat) (record : Dword) (s : State) : Out :=
  let x := s.part part
  match x.parked.find? (fun k => k.slot == record.toNat && k.written) with
  | none => .next s
  | some k =>
    if x.halted then .next s
    else
      let level := ((s.saved.find? (fun t => t.part == part && t.slot == k.slot && t.asid == k.asid)).bind
        (fun t => s.grid? part t.asid t.record)).map (·.prio)
      let s := s.modPart part (fun x => { x with parked := x.parked.filter (· != k) })
      let (bs, s) := s.devRead part 4 k.asid k.slot k.slot 32
      let s := s.devPut part 4 k.asid k.slot k.slot 32 { Record.parse (ofLeBytes bs) with p := false, q := true }.value
      let s := { s with saved := s.saved.map (fun t =>
        if t.part = part ∧ t.slot = k.slot ∧ t.asid = k.asid then { t with pend := false } else t) }
      .next (if (s.part part).halted then s else s.runRec (.enqueue part (level.getD 0) k.slot k.asid false))

/-! ## Shootdowns -/

/-- An address of an identifier lies in the range of the shootdown in progress (R224). -/
def Partition.shoots (x : Partition) (asid va : Nat) : Bool :=
  x.shootRange.1 == asid && x.shootRange.2.1 ≤ va >>> 16 && va >>> 16 < x.shootRange.2.2

/-- A leaf that covers some page of the range. -/
def Partition.shootsPage (x : Partition) (asid va size : Nat) : Bool :=
  x.shootRange.1 == asid && va >>> 16 < x.shootRange.2.2 && x.shootRange.2.1 * 65536 < va + size

/-- A pointer of a walk cache that leads to some page of the range: its table maps the addresses above its prefix (R218,
R225). -/
def Partition.shootsPtr (x : Partition) (w : WalkPtr) : Bool :=
  let up := match w.level with | 0 => 52 | 1 => 39 | 2 => 30 | _ => 21
  x.shootsPage w.asid (w.va <<< up) (2 ^ up)

/-- A shootdown of a partition still removes what covers an address (R225): nothing new of the range enters an L1. -/
def State.shooting (s : State) (p asid va : Nat) : Bool := (s.part p).shootBusy && (s.part p).shoots asid va

/-- One core of a partition removes the lines of a shootdown (R225). -/
def State.shootCore (s : State) (x : Partition) (core : Nat) : State :=
  let lines := (s.core core).l1.filter (fun l => x.shoots l.asid l.va)
  let s := (s.registrations.filter (fun r => r.core == core &&
    lines.any (fun l => r.pa < l.pa + 128 && l.pa < r.pa + r.size))).foldl State.giveUp s
  s.modCore core (fun c => { c with
    l1 := c.l1.filter (fun l => !x.shoots l.asid l.va)
    icache := c.icache.filter (fun l => !x.shoots l.asid l.va) })

/-- The line requests of a partition that the shootdown waits for (R225): translated, and not performed or not landed. A result that
has arrived and not landed counts where its group runs under the identifier, whatever its address was: a line number past all
lines stands for it. -/
def State.shotRequests (s : State) (p : Nat) (x : Partition) : List ShotRequest :=
  s.teams.flatMap (fun kt =>
    if kt.2.part ≠ p then [] else
    ((List.range kt.2.groups.length).zip kt.2.groups).flatMap (fun ig =>
      (ig.2.loads ++ ig.2.stores).flatMap (fun o =>
        ((o.elems.filter (fun e => e.xl.isSome && x.shoots o.asid e.va)).map (fun e => e.va / 128)).eraseDups.map
          (fun line => ⟨kt.1, ig.1, o.id, line⟩)) ++
      (if ig.2.asid = x.shootRange.1 then ig.2.ops.filter (fun o => o.wait == .ld && o.ready != 0) else []).map
        (fun o => ⟨kt.1, ig.1, o.id, 2 ^ 52⟩)))

/-- A line request that a shootdown waits for is still outstanding (R225): an element of it has not performed, or a result of
its instruction has not landed. -/
def State.shotOpen (s : State) (r : ShotRequest) : Bool :=
  match s.group? r.team r.group with
  | none => false
  | some g =>
    (g.loads ++ g.stores).any (fun o => o.id == r.op && o.elems.any (fun e => e.va / 128 == r.line && !e.done)) ||
    g.ops.any (fun o => o.id == r.op && o.ready != 0)

/-- SHOOTDOWN_START (R224, R225): a write of CR_SHOOT_CTRL; with GO the entries of the range are removed, and the requests that
were translated with them are noted. -/
def execShootdownStart (part : Nat) (ctrl : Dword) (s : State) : Out :=
  let x := s.part part
  let w := ctrl.toNat
  if x.shootBusy && hasBit w 31 then .next s
  else
    let s := s.modPart part (fun x => { x with shootCtrl := BitVec.ofNat 64 (bits w 63 32 <<< 32 ||| bits w 16 0) })
    if !hasBit w 31 then .next s
    else
      let first := bits x.shootVa.toNat 51 16
      let range := (bits w 15 0, if hasBit w 16 then (0, 2 ^ 36) else (first, first + bits w 63 32 + 1))
      let x := { x with shootRange := range }
      let waits := s.shotRequests part x
      let s := s.modPart part (fun x => { x with shootBusy := true, shootRange := range, shootWaits := waits })
      let s := (s.coresOf part).foldl (fun s c => s.shootCore x c) s
      .next { s with
        tlb := s.tlb.filter (fun e => !(e.part == part && x.shootsPage e.asid e.va e.size))
        walkCache := s.walkCache.filter (fun w => !(w.part == part && x.shootsPtr w)) }

/-- SHOOTDOWN_COMPLETE (R225): every request that was translated with a removed entry has performed and its landings are
written. -/
def execShootdownComplete (part : Nat) (s : State) : Out :=
  let x := s.part part
  let busy := x.shootWaits.any s.shotOpen
  .next (if x.shootBusy && !busy then s.modPart part (fun x => { x with shootBusy := false, shootWaits := [] }) else s)

/-! ## The end of a team -/

/-- A run's final signatures and core set (R338). -/
def Team.result (tm : Team) : RunResult :=
  let ths := tm.groups.flatMap (·.threads)
  { engine := tm.engineSum
    ss := (ths.foldl (fun n th => n + th.ss) tm.engineSum) % 2 ^ 64
    rs := (ths.foldl (fun n th => n + th.rs) 0) % 2 ^ 64
    cores := if tm.issued && !tm.coreSet.contains tm.core then tm.coreSet ++ [tm.core] else tm.coreSet
    cnts := ths.map (·.cnt)
    diverged := tm.diverged }

/-- Everything that a team's end waits for has happened (R172, R204, R284, R317, R324): its accesses have performed, its
commands have been accepted, and its copy/gather, BIN and REL commands have completed; those of a checked run all have. -/
def State.mayEnd (s : State) (team : Nat) (tm : Team) : Bool :=
  tm.groups.all (fun g => g.live == 0 && g.clause.isNone && g.loads.isEmpty && g.stores.isEmpty && g.locals.isEmpty &&
    g.gate.isNone && g.pending.all (fun p => p.kind == 0)) &&
  !tm.seq.busy && !tm.macroGranted && !s.windowBusy team tm && !s.releasing tm &&
  s.commands.all (fun c => c.team != team ||
    (c.state != 0 && (c.held || (c.engine == 1 && tm.mode == .unchecked))))

/-- The resources of a run go back (R241, R317): held commands are discarded, and of a run that replays all are. -/
def State.reclaim (s : State) (team : Nat) : State :=
  let replays := ((s.team? team).map (·.replays)).getD false
  let s := (s.leaveSharing team).dropTeam team
  { s with commands := s.commands.filter (fun c => c.team != team || (c.engine == 1 && !c.held && !replays)) }

/-- TEAM_END (R241): the last group of an unchecked team, or of a trail or third run, has ended, or the run has diverged
(R338); a lead ends by LEAD_END. -/
def execTeamEnd (team : Nat) (s : State) : Out :=
  match s.team? team with
  | none => .next s
  | some tm =>
    let finished := s.mayEnd team tm || tm.diverged
    if (s.part tm.part).halted || !finished || tm.mode == .lead then .next s
    else if tm.mode = .unchecked then
      .next ((s.reclaim team).runRec (.ended tm.part tm.asid tm.record tm.index))
    else
      .next ((s.reclaim team).modChecked tm (fun c =>
        if tm.mode = .trail then { c with trail := some tm.result, ended := true }
        else { c with third := some tm.result, ended := true }))

end Sys2Proof.Machine
end

