-- ==== Sys2Proof/Machine/Wear.lean ====
section
/-! DEFINITION. The health record, fencing and deconfiguration, and ageing (R344, R409, R410, R413, R468). -/

namespace Sys2Proof.Machine

/-! ## The health record -/

/-- A 128-bit map over the physical cores. -/
def State.coreMap (s : State) (p : Core → Bool) : Nat :=
  ((List.range s.cores.length).zip s.cores).foldl (fun n kc => n + bit (p kc.2) kc.1) 0

/-- The 64 KiB units of the ranges that a scrub holds. -/
def ScrubSet.rangeUnits (x : ScrubSet) : Nat := x.ranges.foldl (fun n r => n + r.2) 0

/-- The quarantined cores and 64 KiB units (R468). -/
def State.quarantined (s : State) : Nat × Nat :=
  (List.range 8).foldl (fun (n : Nat × Nat) p =>
    let x := s.part p
    if x.scrubQuar then (n.1 + x.scrubHeld.cores.length, n.2 + x.scrubHeld.rangeUnits) else n) (0, 0)

/-- Bytes 0 to 399 of the health record (R413). -/
def State.healthBytes (s : State) (seq : Nat) : List Byte :=
  let retired := fun (die : Nat) => (s.retired.filter (fun k => k.1 == die)).length
  let q := s.quarantined
  padTo 400 (
    leBytes seq 8 ++ leBytes s.configuration 1 ++ leBytes (retired 0 + 16 * retired 1) 1 ++ leBytes s.health.feed 2 ++
    leBytes (s.coreMap (·.fenced)) 16 ++ leBytes (s.coreMap (·.deactivated)) 16 ++
    leBytes (((List.range s.cores.length).zip s.cores).foldl (fun n kc => n + kc.2.demerits * 16 ^ kc.1) 0) 64 ++
    s.cores.map (fun c => BitVec.ofNat 8 c.margin) ++
    s.assayCounts.flatMap (fun n => leBytes n 8) ++
    leBytes s.health.released 8 ++ leBytes s.health.corrected 8 ++ leBytes q.1 1 ++ leBytes q.2 3)

/-- Gritus rewrites the record: SEQ rises, and the signature is the device's own (R413; log entry 15). -/
def State.rewriteHealth (s : State) : State :=
  let seq := s.health.seq + 1
  { s with
    health := { s.health with
      seq := seq
      record := s.healthBytes seq ++ (List.range 96).map (fun k => Config.spdmByte s.nonce k) }
    nonce := s.nonce + 1 }

/-- HEALTH_RECORD_REWRITE (R413). -/
def execHealthRecordRewrite (s : State) : Out := .next s.rewriteHealth

/-! ## Fencing and deconfiguration -/

/-- Every team on a core is asked to save itself (R344, R410). -/
def State.drainCore (s : State) (core : Nat) : State :=
  { s with teams := s.teams.map (fun kt => if kt.2.core = core then (kt.1, kt.2.raise) else kt) }

/-- One of the 24 units of 64 KiB of a core's arrays is zeroed under a team (R415, R468): 8 of the scratchpad, then 16 of the
tile store. Where the team's allotment stands in them is not the manual's (log entry 68). -/
def Team.zeroUnit (tm : Team) (k : Nat) : Team :=
  if k < 8 then
    let tm := { tm with pad := padPut tm.pad (65536 * k) (List.replicate (min 65536 (tm.lb.priv - 65536 * k)) 0) }
    if k = 7 then { tm with visible := [], shadow := [] } else tm
  else { tm with tiles := tm.tiles.filter (fun kv => kv.1 / 16384 != k - 8) }

/-- A unit of a core's arrays is zeroed under its teams. -/
def State.zeroUnit (s : State) (core k : Nat) : State :=
  { s with teams := s.teams.map (fun kt => if kt.2.core = core then (kt.1, kt.2.zeroUnit k) else kt) }

/-- The scratchpad and tile store of a core are zeroed under its teams (R415, R468). -/
def State.zeroArrays (s : State) (core : Nat) : State := (List.range 24).foldl (fun s k => s.zeroUnit core k) s

/-- Deactivate a healthy core: it is drained (R410). -/
def State.deactivate (s : State) (core : Nat) : State :=
  (s.modCore core (fun c => { c with deactivated := true })).drainCore core

/-- The cores in use of a set of physical positions. -/
def State.used (s : State) (ps : List Nat) : Nat := (ps.filter (fun p => (s.core p).inUse)).length

/-- The cores of a cluster and of a sector. -/
def clusterCores (c : Nat) : List Nat := (List.range 4).map (4 * c + ·)
/-- The cores of a sector. -/
def sectorCores (k : Nat) : List Nat := (List.range 32).map (32 * k + ·)

/-- Clusters that a fencing leaves with one core are deactivated (R410). -/
def State.dropLone (s : State) : State :=
  (List.range 32).foldl (fun s c =>
    if s.used (clusterCores c) = 1 then
      ((clusterCores c).filter (fun p => (s.core p).inUse)).foldl State.deactivate s
    else s) s

/-- Insert a core by its margin, then its number. -/
def insertMargin (s : State) (p : Nat) : List Nat → List Nat
  | [] => [p]
  | q :: qs =>
    if (s.core p).margin < (s.core q).margin ∨ ((s.core p).margin = (s.core q).margin ∧ p < q) then p :: q :: qs
    else q :: insertMargin s p qs

/-- Deactivate cores of least margin down to a count, within the limits of R2. -/
def State.reduceTo (s : State) (n : Nat) : List Nat → State
  | [] => s
  | p :: ps =>
    if s.used (List.range 128) ≤ n then s
    else if 24 < s.used (sectorCores (sectorOf p)) ∧ 2 < s.used (clusterCores (clusterOf p)) then
      (s.deactivate p).reduceTo n ps
    else s.reduceTo n ps

/-- The cores in use by rising margin. -/
def State.byMargin (s : State) : List Nat :=
  ((List.range 128).filter (fun p => (s.core p).inUse)).foldl (fun l p => insertMargin s p l) []

/-- The device moves to the largest published configuration that can be met, or to none (R2, R410). -/
def State.reconfigure (s : State) : State :=
  let s := s.dropLone
  let legal := (List.range 4).all (fun k => 24 ≤ s.used (sectorCores k))
  let tries := [128, 120, 112, 104, 96].filterMap (fun n =>
    let t := s.reduceTo n s.byMargin
    if legal && t.used (List.range 128) == n then some { t with configuration := n } else none)
  match tries.head? with
  | some t => t
  | none =>
    (List.range 8).foldl (fun (s : State) p =>
      if (s.part p).configured then s.halt p 11 1023 UnitFault.none else s) { s with configuration := 0 }

/-- A core is fenced (R344, R410, R415): it drains, the configuration shrinks, and the record is rewritten. -/
def State.fence (s : State) (core : Nat) : State :=
  if (s.core core).fenced then s
  else
    let s := if s.scrubs core then s.zeroArrays core else s
    let s := (s.modCore core (fun c => { c with fenced := true })).drainCore core
    s.reconfigure.rewriteHealth

/-- A demerit of a core (R344). -/
def State.demerit (s : State) (core : Nat) : State :=
  let decay := bits s.assayCtl.toNat 7 2
  let s := s.modCore core (fun c => { c with demerits := min 15 (c.demerits + 1), deadline := s.time + 2 ^ decay })
  if bits s.assayCtl.toNat 11 8 ≤ (s.core core).demerits then
    s.fence core
  else s

/-- DEMERIT_DECAY (R344): the time base has reached the core's deadline. -/
def execDemeritDecay (core : Nat) (s : State) : Out :=
  .next (s.modCore core (fun c =>
    if c.demerits = 0 ∨ s.time < c.deadline then c
    else if c.demerits = 1 then { c with demerits := 0, deadline := 0 }
    else { c with demerits := c.demerits - 1, deadline := c.deadline + 2 ^ bits s.assayCtl.toNat 7 2 }))

/-! ## Ageing -/

/-- The least of a list of margins. -/
def leastMargin : List Int → Option Int
  | [] => none
  | x :: xs => some (xs.foldl min x)

/-- The cores of a cluster take the margins that their monitors report (R409, R410). -/
def State.noteMargins (s : State) (cluster : Nat) (report : Nat → Option Int) (ps : List Nat) : State :=
  ps.foldl (fun (s : State) p =>
    match report p with
    | none => s
    | some x => s.modCore p (fun c => { c with
        margin := (min 255 (max 0 x)).toNat
        exhausted := c.exhausted || (x < 0 && (s.cluster cluster).add == 60) })) s

/-- The guard-band of a cluster follows the least margin of its cores in use, and its clock stops for the change (R395, R409). -/
def State.recalibrate (s : State) (cluster : Nat) : Option Int → State
  | none => s
  | some m =>
    { s.modCluster cluster (fun c =>
        { c.stopClock s.time s.nonce with add := (min 60 (max 0 (30 - m))).toNat }) with nonce := s.nonce + 1 }

/-- RECALIBRATION (R409): the monitors of a cluster's cores report their margins by physical core; the guard-band follows the
cores in use, the clock stops for the change, and an exhausted core is fenced (R410). -/
def execRecalibration (cluster : Nat) (margins : List (Nat × Int)) (s : State) : Out :=
  let all := clusterCores cluster
  let report := fun (p : Nat) => leastMargin ((margins.filter (fun m => m.1 == p)).map (·.2))
  let s := (s.recalibrate cluster (leastMargin ((all.filter (fun p => (s.core p).inUse)).filterMap report))).noteMargins
    cluster report all
  .next ((all.filter (fun p => (s.core p).exhausted)).foldl State.fence s)

end Sys2Proof.Machine
end

