-- ==== Sys2Proof/Machine/Vote.lean ====
section
/-! DEFINITION. The assay unit's events (R324, R338, R339, R443): the end of a lead, the comparison of runs, and the
injection register. -/

namespace Sys2Proof.Machine

/-- Write a run's final signatures and core set into the log area (R330). -/
def State.putResult (s : State) (c : Checked) (copy : Nat) (r : RunResult) : State :=
  s.devWrite c.part 4 c.asid c.record (c.logBase + 8 + 32 * copy)
    (leBytes r.engine 8 ++ leBytes r.ss 8 ++ leBytes r.rs 8 ++ (List.range 4).map (fun k => BitVec.ofNat 8 (r.cores.getD k 255)))

/-- Queue a run that has not run yet (R324): its record stands in its slot copy, with CAUSE 0. -/
def State.queueRun (s : State) (c : Checked) (copy : Nat) : State :=
  match s.grid? c.part c.asid c.record with
  | none => s
  | some g =>
    let slot := c.slotBase + copy * c.slots * c.stride
    let s := s.devWrite c.part 4 c.asid c.record slot (slotHeader (g.savedRecord slot false) c.index copy 0)
    s.runRec (.enqueue c.part g.prio slot c.asid false)

/-- Change a checked team. -/
def State.setChecked (s : State) (c : Checked) (f : Checked → Checked) : State :=
  { s with checked := modifyFirst (fun x => x.part == c.part && x.record == c.record && x.asid == c.asid &&
      x.index == c.index && x.stage < 3) f s.checked }

/-- LEAD_END (R324): the lead's last group has ended; its writes, its log and its signatures are in place, its core
resources go back, and the trail is queued. -/
def execLeadEnd (team : Nat) (s : State) : Out :=
  match s.team? team with
  | none => .next s
  | some tm =>
    match s.checkedOf tm with
    | none => .next s
    | some c =>
      if (s.part tm.part).halted || tm.mode != .lead || !s.mayEnd team tm then .next s
      else
        let s := s.putResult c 0 tm.result
        let s := (s.reclaim team).setChecked c (fun c => { c with stage := 1, lead := some tm.result, ended := false })
        let s := s.logStatus c 1 0
        .next (s.queueRun c 1)

/-- Two runs match (R338, R339): neither has diverged and both signatures are equal. -/
def RunResult.agrees (a b : RunResult) : Bool := !a.diverged && !b.diverged && a.ss == b.ss && a.rs == b.rs

/-- A checked team has been decided (R339): a held line of the winner is released; after the last one the other run's are
discarded, the losers' cores receive demerits, and the team ends. A team that has become unchecked has its lead's lines
released by policy, which the health record counts, and ends where its run is over (R341, R413). -/
def State.settleVote (s : State) (c : Checked) (v : Verdict) : State :=
  match s.releaseOne c v.winner with
  | some s => if c.stage = 4 then { s with health := { s.health with released := s.health.released + 1 } } else s
  | none =>
    if c.stage = 4 then
      let this : Checked → Bool := fun x => x == c
      let s := (s.discardRun c v.other)
      let s := { s with checked := modifyFirst this (fun x => { x with verdict := none }) s.checked }
      if c.ended then s.runRec (.ended c.part c.asid c.record c.index) else s
    else
    let s := v.losers.foldl State.demerit (s.discardRun c v.other)
    let s := (s.setChecked c (fun c => { c with stage := 3, verdict := none })).logStatus c 3 0
    s.runRec (.ended c.part c.asid c.record c.index)

/-- The comparison decides for a run (R339). -/
def State.decideFor (s : State) (c : Checked) (winner other : Nat) (losers : List Nat) : State :=
  s.setChecked c (fun c => { c with verdict := some ⟨winner, other, losers⟩ })

/-- RUN_COMPARE (R339, R341): a trail or a third run has ended and is compared; then the winner's lines, or those of a lead that
has become unchecked, are released one after the other, so that an observer may see any subset of them meanwhile (R214). -/
def execRunCompare (checked : Nat) (s : State) : Out :=
  match s.checked[checked]? with
  | none => .next s
  | some c =>
    if (s.part c.part).halted then .next s
    else
      match c.verdict with
      | some v => .next (s.settleVote c v)
      | none =>
      if !c.ended then .next s else
      match c.stage, c.lead, c.trail, c.third with
      | 1, some a, some b, _ =>
        let s := s.putResult c 1 b
        if a.agrees b then .next ((s.assayCount 1).decideFor c 0 2 [])
        else
          let s := (s.assayCount 2).setChecked c (fun c => { c with stage := 2, ended := false })
          .next ((s.logStatus c 2 0).queueRun c 2)
      | 2, some a, some b, some d =>
        let s := s.putResult c 2 d
        if d.agrees a then .next ((s.assayCount 4).decideFor c 0 2 b.cores)
        else if d.agrees b then .next ((s.assayCount 3).decideFor c 2 0 a.cores)
        else
          let s := ((s.discardRun c 0).discardRun c 2).disarmFor c.part c.record c.asid c.index
          .next (s.halt c.part 5 1023 { UnitFault.none with record := c.record, asid := c.asid })
      | _, _, _, _ => .next s

/-- The fields of CR_ASSAY_INJECT that a write sets (R443). -/
def injectMask : Dword := 0x871FFF000000FFFF

/-- A write of CR_ASSAY_INJECT (R443): while it is armed only a write of ARM = 0 has an effect. -/
def State.injectWrite (s : State) (value : Dword) : State :=
  if s.inject.getLsbD 63 then
    (if value.getLsbD 63 then s else { s with inject := s.inject &&& ~~~ (1#64 <<< 63), target := none })
  else { s with inject := value &&& injectMask }

/-- INJECT_ARM (R443): a write of the register, which arms it where it is not armed. -/
def execInjectArm (value : Dword) (s : State) : Out := .next (s.injectWrite value)

/-- INJECT_DISARM (R443): a write of ARM = 0 to an armed register disarms it and changes no other field. -/
def execInjectDisarm (value : Dword) (s : State) : Out := .next (s.injectWrite value)

end Sys2Proof.Machine
end

