-- ==== Sys2Proof/Machine/Halts.lean ====
section
/-! DEFINITION. Halting a partition from outside, the stop of its units and their records, and the watchdog (R385–R389). -/

namespace Sys2Proof.Machine

/-- EXTERNAL_HALT (R387): a write of CR_HALT; EXT halts the partition. -/
def execExternalHalt (part : Nat) (value : Dword) (s : State) : Out :=
  .next (if value.getLsbD 8 then s.halt part 11 1023 UnitFault.none else s)

/-- The stop-record indexes of a partition's units (R388): its cores in use, their sequencers and copy/gather engines, the
collective and binning engines of its clusters, the active slices, the host unit (log entry 25). -/
def State.unitsOf (s : State) (p : Nat) : List Nat :=
  let cores := ((List.range 128).filter (fun c => (s.core c).inUse && (s.cluster (clusterOf c)).partition == some p)).map
    (fun c => (s.core c).logical)
  let clusters := ((List.range 32).filter (fun c => (s.cluster c).partition == some p && s.clusterUsed c)).map
    (fun c => (s.cluster c).logical)
  cores ++ cores.map (128 + ·) ++ cores.map (256 + ·) ++ clusters.map (384 + ·) ++ clusters.map (416 + ·) ++
    (s.slices 0).map (448 + ·) ++ (s.slices 1).map (496 + ·) ++ [544]

/-- The unit kind of a stop-record index (R388). -/
def unitKind (n : Nat) : Nat :=
  if n < 128 then 1 else if n < 256 then 2 else if n < 384 then 3 else if n < 416 then 4 else if n < 448 then 5
  else if n < 544 then 6 else if n = 544 then 7 else 8

/-- A 64-byte stop record (R388). -/
def stopRecord (cause kind flags index time : Nat) (u : UnitFault) : List Byte :=
  padTo 64 (leBytes cause 1 ++ leBytes kind 1 ++ leBytes flags 1 ++ leBytes 0 1 ++ leBytes index 4 ++ leBytes time 8 ++
    leBytes u.addr 8 ++ leBytes u.detail 8 ++ leBytes u.record 8 ++ leBytes u.asid 2 ++ leBytes u.domain 2 ++
    leBytes u.index 1 ++ leBytes u.trapCause 1 ++ leBytes u.thread 2)

/-- Write a stop record where V = 1 (R387, R388). -/
def State.putStop (s : State) (p place : Nat) (bs : List Byte) : State :=
  let a := (s.part p).stopArea.toNat
  if hasBit a 0 then s.putPhys ((bits a 47 16 <<< 16) + 64 * place) bs else s

/-- UNIT_STOP (R386–R388): a unit of a halted partition stops and writes its record, and lines held since the halt are
discarded; after the last unit the summary is written and DONE is set. `late` says that it did not stop within 512 cycles. -/
def execUnitStop (part index : Nat) (late : Bool) (s : State) : Out :=
  let x := s.part part
  let units := s.unitsOf part
  if !x.halted || x.stopped.contains index || !units.contains index then .next s
  else
    let own := Map.get? x.unitFaults index
    let u := own.getD (Map.get x.served index UnitFault.none)
    let u := match x.watched with
      | some (n, record, asid) => if n = index then { u with record := record, asid := asid } else u
      | none => u
    let s := { s with heldLines := s.heldLines.filter (fun h => h.part != part) }
    let s := s.putStop part index
      (stopRecord ((own.map (·.cause)).getD 0) (unitKind index) (bit own.isSome 0 + bit late 1) index s.time u)
    let s := s.modPart part (fun x => { x with stopped := x.stopped ++ [index] })
    if units.all (fun n => (s.part part).stopped.contains n) then
      let origin := x.haltIndex == 1023
      let u := if origin then Map.get x.unitFaults 1023 UnitFault.none else UnitFault.none
      let s := s.putStop part 1023 (stopRecord x.haltCause 8 (bit origin 0) x.haltIndex s.time u)
      .next (s.modPart part (fun x => { x with haltDone := true }))
    else .next s

/-- WATCHDOG_EXPIRY (R389): a team's residence count has reached the limit; its core's record names it. -/
def execWatchdogExpiry (team : Nat) (s : State) : Out :=
  match s.team? team with
  | none => .next s
  | some tm =>
    let limit := (s.part tm.part).watchdog
    if limit = 0 ∨ tm.resident < limit * 2 ^ 24 ∨ (s.part tm.part).halted then .next s
    else
      let s := s.modPart tm.part (fun x => { x with watched := some (s.coreUnit tm, tm.record, tm.asid) })
      .next (s.halt tm.part 6 1023 { UnitFault.none with record := tm.record, asid := tm.asid })

end Sys2Proof.Machine
end

