-- ==== Sys2Proof/Machine/Lanes.lean ====
section
/-! DEFINITION. Instructions that act among the executing threads of one issue: identifiers, votes, shuffles, reductions,
matches and packing (R86–R91, R151, R152). -/

namespace Sys2Proof.Machine

/-- A 64-bit type code of R24. -/
def isWide (code : Nat) : Bool := code == 3 || code == 7 || code == 11 || code == 13

/-- The number that GETID returns for a unit below a bound (R1): its own while it is in use. The number that a unit out of
use still holds is never returned; what a team that drains there reads is a free value among the others, which may be the number
of a unit in use (DESIGN CHOICE, log entry 89). -/
def unitNumber (used : Nat → Bool) (number : Nat → Nat) (bound unit nonce sel : Nat) : Nat :=
  if used unit then number unit
  else
    let free := (List.range bound).filter (fun n => !(List.range bound).any (fun u => !used u && number u == n))
    free.getD (Config.unitNumber nonce sel % free.length) bound

/-- The value of a GETID selector (R87) for a lane. -/
def getidValue (v : View) (s : State) (sel l : Nat) : Nat :=
  let tm := v.team
  let lb := tm.lb
  match sel with
  | 0 => l
  | 1 => v.gi
  | 2 => if v.gi < lb.nprod then 0 else 1
  | 3 => if v.gi < lb.nprod then v.gi else v.gi - lb.nprod
  | 4 => tm.index % lb.gridx
  | 5 => tm.index / lb.gridx % lb.gridy
  | 6 => tm.index / (lb.gridx * lb.gridy)
  | 7 => lb.gridx
  | 8 => lb.gridy
  | 9 => lb.gridz
  | 10 => lb.groups
  | 11 => lb.nprod
  | 12 => unitNumber (fun c => (s.core c).inUse) (fun c => (s.core c).logical) 128 tm.core s.nextId 12
  | 13 => unitNumber s.clusterUsed (fun k => (s.cluster k).logical) 32 (clusterOf tm.core) s.nextId 13
  | 14 => sectorOf tm.core
  | 15 => tm.part
  | 16 => v.gi % 4
  | _ => 32 * v.gi + l

/-- GETID (R87): selectors 12 to 16 go through the log of a checked run (R326). -/
def execGetid (f : Fields) (s : State) : Out :=
  let sel := f.minor.toNat
  frame (.getid f) (fun v s0 =>
    if 12 ≤ sel ∧ sel ≤ 16 ∧ v.team.mode ≠ .unchecked then
      if logWaits v.team v.g then stall s0
      else
        let (vals, s) := lanesThroughLog v 4 1 v.lanes (getidValue v s0 sel) s0
        finish 1 2 (fun l => out32 v (Map.get vals l 0)) v s
    else finish 1 2 (fun l => out32 v (getidValue v s0 sel l)) v s0) s

/-- VOTE (R88). -/
def execVote (f : Fields) (s : State) : Out :=
  vec (.vote f) 1 3 (fun v _ =>
    let q := fun l => v.p l f.a.toNat != f.mod.getLsbD 0
    let set := v.lanes.lanes
    match f.minor.toNat with
    | 0 => out32 v (LaneSet.ofList (set.filter q)).toNat
    | 1 => { preds := [(f.d.toNat, set.all q)] }
    | 2 => { preds := [(f.d.toNat, set.any q)] }
    | _ => { preds := [(f.d.toNat, set.all q || !set.any q)] }) s

/-- The lane that SHFL reads for a lane, if it is valid (R89). -/
def shflLane (mode w l b : Nat) : Option Nat :=
  let base := l - l % w
  match mode with
  | 0 => some (base + b % w)
  | 1 => if b ≤ 31 ∧ base + b ≤ l then some (l - b) else none
  | 2 => if b ≤ 31 ∧ l + b < base + w then some (l + b) else none
  | _ => some (l ^^^ b % w)

/-- SHFL (R89). -/
def execShfl (f : Fields) (s : State) : Out :=
  let m := f.minor.toNat
  let wide := isWide (m % 32)
  vec (.shfl f) (if wide then 2 else 1) (if wide then 5 else 4) (fun v l =>
    let u := match shflLane (m / 32) (32 >>> f.mod.toNat) l (v.b l) with
      | some j => if v.lanes.has j then j else l
      | none => l
    outN v (v.a u) (if wide then 64 else 32)) s

/-! ## GRED -/

/-- The reduction of an integer or bit type (R90): 0 add, 1 min, 2 max, 3 amax, 4 and, 5 or, 6 xor. -/
def reduceInt (op : Nat) (signed sat : Bool) (n : Nat) (xs : List Nat) : Nat :=
  let vs := xs.map (readInt signed n)
  match op with
  | 0 => let x := vs.foldl (· + ·) 0; wrap n (if sat then clamp signed n x else x)
  | 1 => wrap n (vs.foldl min (typeMax signed n))
  | 2 => wrap n (vs.foldl max (typeMin signed n))
  | 3 => vs.foldl (fun m x => max m x.natAbs) 0
  | 4 => xs.foldl (· &&& ·) (2 ^ n - 1)
  | 5 => xs.foldl (· ||| ·) 0
  | _ => xs.foldl (· ^^^ ·) 0

/-- The exact sum of finite values and infinities, rounded once (R90). -/
def reduceSum (f : Fmt) (mode : Nat) (sat : Bool) (xs : List Nat) : Nat :=
  let vs := xs.map (decodeFloat f)
  let pos := vs.any (fun x => x.isInf && !x.neg)
  let neg := vs.any (fun x => x.isInf && x.neg)
  if pos && neg then qnan f
  else if pos then infBits f false
  else if neg then infBits f true
  else
    let sum := vs.foldl (fun (d : Dy) x => d.add x.dy) ⟨0, 0, false⟩
    if sum.num = 0 then zeroBits f (vs.all (fun x => x.isZero && x.neg))
    else (roundSat f mode 0 sat false sum).1

/-- The reduction of a floating-point type (R90). -/
def reduceFloat (f : Fmt) (op mode : Nat) (sat : Bool) (xs : List Nat) : Nat :=
  let abs := fun x => x % 2 ^ (f.e + f.m)
  match xs.find? (fun x => (decodeFloat f x).isNan) with
  | some x => if op = 3 then abs (quiet f x) else quiet f x
  | none =>
    match op, xs with
    | 0, _ => reduceSum f mode sat xs
    | 1, x :: rest => rest.foldl (fun m y => if fLess f true y m then y else m) x
    | 2, x :: rest => rest.foldl (fun m y => if fLess f true m y then y else m) x
    | _, _ => (xs.map abs).foldl max 0

/-- GRED (R90): every executing thread receives the same result. -/
def execGred (f : Fields) (s : State) : Out :=
  let code := f.minor.toNat
  let wide := isWide code
  let o := f.mod.toNat
  let n := if wide then 64 else 32
  vec (.gred f) (if wide then 2 else 1) (if wide then 12 else if code = 14 then 10 else 8) (fun v _ =>
    let xs := v.lanes.lanes.map v.a
    outN v (if code = 13 ∨ code = 14 then reduceFloat (fmtOf code) (o / 16) (o % 8) (o / 8 % 2 == 1) xs
      else reduceInt (o / 16) (code == 2 || code == 3) (o / 8 % 2 == 1) n xs) n) s

/-- MATCH (R91). -/
def execMatchLanes (f : Fields) (s : State) : Out :=
  let m := f.minor.toNat
  let wide := isWide (m % 32)
  vec (.matchLanes f) (if wide then 2 else 1) (if wide then 7 else 6) (fun v l =>
    let set := v.lanes.lanes
    if m < 32 then out32 v (LaneSet.ofList (set.filter (fun u => v.a u == v.a l))).toNat
    else
      let e := set.all (fun u => v.a u == v.a l)
      { out32 v (if e then v.lanes.toNat else 0) with preds := [(f.c.toNat, e)] }) s

/-! ## Packing -/

/-- An element of a lane: its low n bits, or 0 outside the executing threads (R151). -/
def packElem (v : View) (n l : Nat) : Nat := if v.lanes.has l then v.a l % 2 ^ n else 0

/-- PACKn (R151): lane j receives `per` elements of n bits, as far as the 32 elements go. -/
def packLanes (i : Instr) (n per : Nat) (s : State) : Out :=
  vec i 1 4 (fun v l =>
    out32 v (if l < 32 / per then
      (List.range per).foldl (fun x k => x + packElem v n (per * l + k) * 2 ^ (n * k)) 0 else 0)) s

/-- UNPKn (R152): each thread takes its element from the lane that packs it. -/
def unpackLanes (i : Instr) (f : Fields) (n per : Nat) (s : State) : Out :=
  vec i 1 4 (fun v l =>
    let src := if v.lanes.has (l / per) then v.a (l / per) else 0
    let x := src >>> (n * (l % per)) % 2 ^ n
    out32 v (if f.minor.toNat = 1 then wrap 32 (sext x n) else x)) s

/-- PACK6 (R151). -/
def execPack6 (f : Fields) (s : State) : Out := packLanes (.pack6 f) 6 4 s
/-- UNPK6 (R152). -/
def execUnpk6 (f : Fields) (s : State) : Out := unpackLanes (.unpk6 f) f 6 4 s
/-- PACK4 (R151). -/
def execPack4 (f : Fields) (s : State) : Out := packLanes (.pack4 f) 4 8 s
/-- UNPK4 (R152). -/
def execUnpk4 (f : Fields) (s : State) : Out := unpackLanes (.unpk4 f) f 4 8 s
/-- PACK8 (R151). -/
def execPack8 (f : Fields) (s : State) : Out := packLanes (.pack8 f) 8 4 s
/-- UNPK8 (R152). -/
def execUnpk8 (f : Fields) (s : State) : Out := unpackLanes (.unpk8 f) f 8 4 s

end Sys2Proof.Machine
end

