-- ==== Sys2Proof/Machine/Crypto.lean ====
section
/-! DEFINITION. SHA-384 and the check of an ECDSA P-384 signature (R459, R462, R463), after the standards that the manual
names (log entry 14). -/

namespace Sys2Proof.Machine

/-! ## SHA-384 -/

/-- The 80 constants of SHA-384 (R459). -/
def shaK : List Dword :=
  [0x428A2F98D728AE22, 0x7137449123EF65CD, 0xB5C0FBCFEC4D3B2F, 0xE9B5DBA58189DBBC,
   0x3956C25BF348B538, 0x59F111F1B605D019, 0x923F82A4AF194F9B, 0xAB1C5ED5DA6D8118,
   0xD807AA98A3030242, 0x12835B0145706FBE, 0x243185BE4EE4B28C, 0x550C7DC3D5FFB4E2,
   0x72BE5D74F27B896F, 0x80DEB1FE3B1696B1, 0x9BDC06A725C71235, 0xC19BF174CF692694,
   0xE49B69C19EF14AD2, 0xEFBE4786384F25E3, 0x0FC19DC68B8CD5B5, 0x240CA1CC77AC9C65] ++
  [0x2DE92C6F592B0275, 0x4A7484AA6EA6E483, 0x5CB0A9DCBD41FBD4, 0x76F988DA831153B5,
   0x983E5152EE66DFAB, 0xA831C66D2DB43210, 0xB00327C898FB213F, 0xBF597FC7BEEF0EE4,
   0xC6E00BF33DA88FC2, 0xD5A79147930AA725, 0x06CA6351E003826F, 0x142929670A0E6E70,
   0x27B70A8546D22FFC, 0x2E1B21385C26C926, 0x4D2C6DFC5AC42AED, 0x53380D139D95B3DF,
   0x650A73548BAF63DE, 0x766A0ABB3C77B2A8, 0x81C2C92E47EDAEE6, 0x92722C851482353B] ++
  [0xA2BFE8A14CF10364, 0xA81A664BBC423001, 0xC24B8B70D0F89791, 0xC76C51A30654BE30,
   0xD192E819D6EF5218, 0xD69906245565A910, 0xF40E35855771202A, 0x106AA07032BBD1B8,
   0x19A4C116B8D2D0C8, 0x1E376C085141AB53, 0x2748774CDF8EEB99, 0x34B0BCB5E19B48A8,
   0x391C0CB3C5C95A63, 0x4ED8AA4AE3418ACB, 0x5B9CCA4F7763E373, 0x682E6FF3D6B2B8A3,
   0x748F82EE5DEFB2FC, 0x78A5636F43172F60, 0x84C87814A1F0AB72, 0x8CC702081A6439EC] ++
  [0x90BEFFFA23631E28, 0xA4506CEBDE82BDE9, 0xBEF9A3F7B2C67915, 0xC67178F2E372532B,
   0xCA273ECEEA26619C, 0xD186B8C721C0C207, 0xEADA7DD6CDE0EB1E, 0xF57D4F7FEE6ED178,
   0x06F067AA72176FBA, 0x0A637DC5A2C898A6, 0x113F9804BEF90DAE, 0x1B710B35131C471B,
   0x28DB77F523047D84, 0x32CAAB7B40C72493, 0x3C9EBE0A15C9BEBC, 0x431D67C49C100D4C,
   0x4CC5D4BECB3E42B6, 0x597F299CFC657E2A, 0x5FCB6FAB3AD6FAEC, 0x6C44198C4A475817]

/-- The eight initial values of SHA-384 (R459). -/
def shaIv : List Dword :=
  [0xCBBB9D5DC1059ED8, 0x629A292A367CD507, 0x9159015A3070DD17, 0x152FECD8F70E5939,
   0x67332667FFC00B31, 0x8EB44A8768581511, 0xDB0C2E0D64F98FA7, 0x47B5481DBEFA4FA4]

/-- The functions of FIPS 180-4 on 64-bit words: σ0, σ1, Σ0, Σ1. -/
def sha512Sig0 (x : Dword) : Dword := x.rotateRight 1 ^^^ x.rotateRight 8 ^^^ (x >>> 7)
/-- σ1. -/
def sha512Sig1 (x : Dword) : Dword := x.rotateRight 19 ^^^ x.rotateRight 61 ^^^ (x >>> 6)
/-- Σ0. -/
def sha512Sum0 (x : Dword) : Dword := x.rotateRight 28 ^^^ x.rotateRight 34 ^^^ x.rotateRight 39
/-- Σ1. -/
def sha512Sum1 (x : Dword) : Dword := x.rotateRight 14 ^^^ x.rotateRight 18 ^^^ x.rotateRight 41

/-- The message schedule of a block of 16 words. -/
def shaSchedule (block : List Dword) : List Dword :=
  (List.range 64).foldl (fun (ws : List Dword) i =>
    ws ++ [sha512Sig1 (ws.getD (i + 14) 0) + ws.getD (i + 9) 0 + sha512Sig0 (ws.getD (i + 1) 0) + ws.getD i 0]) block

/-- One round over the eight working words. -/
def shaRound (v : List Dword) (kw : Dword × Dword) : List Dword :=
  match v with
  | [a, b, c, d, e, f, g, h] =>
    let t1 := h + sha512Sum1 e + ((e &&& f) ^^^ (~~~ e &&& g)) + kw.1 + kw.2
    let t2 := sha512Sum0 a + ((a &&& b) ^^^ (a &&& c) ^^^ (b &&& c))
    [t1 + t2, a, b, c, d + t1, e, f, g]
  | _ => v

/-- One block enters the state. -/
def shaBlock (state block : List Dword) : List Dword :=
  (state.zip ((shaK.zip (shaSchedule block)).foldl shaRound state)).map (fun p => p.1 + p.2)

/-- The big-endian doublewords of bytes, n of them. -/
def beDwords (bs : List Byte) (n : Nat) : List Dword :=
  (List.range n).map (fun k => BitVec.ofNat 64 (ofBeBytes ((bs.drop (8 * k)).take 8)))

/-- SHA-384 of bytes, as six doublewords with byte 0 in bits 63:56 of the first (R461, R463). -/
def sha384 (bs : List Byte) : List Dword :=
  let zeros := (128 - (bs.length + 17) % 128) % 128
  let padded := bs ++ [0x80#8] ++ List.replicate zeros 0#8 ++ (leBytes (8 * bs.length) 16).reverse
  ((List.range (padded.length / 128)).foldl (fun st k => shaBlock st (beDwords (padded.drop (128 * k)) 16)) shaIv).take 6

/-! ## ECDSA P-384 -/

/-- The field of P-384. -/
def p384 : Nat := 2 ^ 384 - 2 ^ 128 - 2 ^ 96 + 2 ^ 32 - 1
/-- The order of its base point. -/
def n384 : Nat :=
  0xFFFFFFFFFFFFFFFFFFFFFFFFFFFFFFFFFFFFFFFFFFFFFFFFC7634D81F4372DDF581A0DB248B0A77AECEC196ACCC52973
/-- The constant of its curve, y² = x³ − 3x + b. -/
def b384 : Nat :=
  0xB3312FA7E23EE7E4988E056BE3F82D19181D9C6EFE8141120314088F5013875AC656398D8A2ED19D2A85C8EDD3EC2AEF
/-- Its base point. -/
def g384 : Nat × Nat :=
  (0xAA87CA22BE8B05378EB1C71EF320AD746E1D3B628BA79B9859F741E082542A385502F25DBF55296C3A545E3872760AB7,
   0x3617DE4A96262C6F5D9E98BF9292DC29F8F41DBD289A147CE9DA3113B5F0B8C00A60B1CE1D7E819D7A431D7C90EA0E5F)

/-- x^e mod m, over the low bits of e. -/
def powMod (m : Nat) : Nat → Nat → Nat → Nat
  | 0, _, _ => 1
  | k + 1, x, e => powMod m k (x * x % m) (e / 2) * (if e % 2 = 1 then x else 1) % m

/-- The inverse modulo a prime below 2^384. -/
def invMod (m x : Nat) : Nat := powMod m 384 (x % m) (m - 2)

/-- The sum of two points of the curve; none is the point at infinity. -/
def addPoint (a b : Option (Nat × Nat)) : Option (Nat × Nat) :=
  match a, b with
  | none, _ => b
  | _, none => a
  | some (x1, y1), some (x2, y2) =>
    let m := p384
    if x1 = x2 ∧ (y1 + y2) % m = 0 then none
    else
      let l := if x1 = x2 then (3 * x1 * x1 + (m - 3)) * invMod m (2 * y1) % m
        else (y2 + m - y1) * invMod m (x2 + m - x1) % m
      let x3 := (l * l + 2 * m - x1 - x2) % m
      some (x3, (l * (x1 + m - x3) + m - y1) % m)

/-- A multiple of a point, over the low bits of the factor. -/
def mulPoint : Nat → Nat → Option (Nat × Nat) → Option (Nat × Nat)
  | 0, _, _ => none
  | k + 1, n, a =>
    let rest := mulPoint k (n / 2) (addPoint a a)
    if n % 2 = 1 then addPoint a rest else rest

/-- A public key is a point of the curve. -/
def validKey (q : Nat × Nat) : Bool :=
  q.1 < p384 && q.2 < p384 && (q.2 * q.2) % p384 == (q.1 * q.1 * q.1 + (p384 - 3) * q.1 + b384) % p384

/-- The signature (r, s) of a 384-bit digest verifies under a key (R462). -/
def ecdsaVerify (q : Nat × Nat) (digest r s : Nat) : Bool :=
  validKey q && 0 < r && r < n384 && 0 < s && s < n384 &&
  (let w := invMod n384 s
   match addPoint (mulPoint 384 (digest * w % n384) (some g384)) (mulPoint 384 (r * w % n384) (some q)) with
   | some (x, _) => x % n384 == r
   | none => false)

end Sys2Proof.Machine
end

