-- ==== Sys2Proof/Machine/Platform.lean ====
section
/-! DEFINITION. What Gritus and the fabric do to the machine (R1, R402–R416, R467, R468): partitions, numbering, slice
retirement, partners, ports and packets, scrubs, a device reset. -/

namespace Sys2Proof.Machine

/-! ## Numbering and partitions -/

/-- The cores in use before a physical position, and the clusters in use before one (R1). -/
def State.denseCore (s : State) (core : Nat) : Nat := s.used (List.range core)

/-- The dense number of a cluster (R1). -/
def State.denseCluster (s : State) (cluster : Nat) : Nat :=
  ((List.range cluster).filter (fun c => s.used (clusterCores c) != 0)).length

/-- Assign every logical number afresh (R1); a unit out of use has none. -/
def State.renumber (s : State) : State :=
  { s with
    cores := (List.range s.cores.length).zip s.cores |>.map (fun (k, c) =>
      { c with active := c.inUse, logical := if c.inUse then s.denseCore k else c.logical })
    clusters := (List.range s.clusters.length).zip s.clusters |>.map (fun (k, c) =>
      { c with logical := if s.used (clusterCores k) != 0 then s.denseCluster k else c.logical }) }

/-- A partition has a unit whose number would change (R410). -/
def State.numbersMove (s : State) (p : Nat) : Bool :=
  (List.range 32).any (fun k => (s.cluster k).partition == some p &&
    (s.used (clusterCores k) != 0 && (s.cluster k).logical != s.denseCluster k ||
     (clusterCores k).any (fun c => (s.core c).active && ((s.core c).logical != s.denseCore c || !(s.core c).inUse))))

/-- What a halted partition held is gone when Gritus reconfigures it: teams, grids, saved records, commands (log
entry 26). -/
def State.emptyPartition (s : State) (p : Nat) : State :=
  let s := (s.teams.filter (fun kt => kt.2.part == p)).foldl (fun s kt => s.dropTeam kt.1) s
  { s with
    grids := s.grids.filter (·.part != p)
    saved := s.saved.filter (·.part != p)
    checked := s.checked.filter (·.part != p)
    heldLines := s.heldLines.filter (·.part != p)
    commands := s.commands.filter (·.part != p)
    collWaits := s.collWaits.filter (·.part != p)
    packets := s.packets.filter (·.part != p)
    walks := s.walks.filter (·.part != p) }

/-- A halted partition runs again: its halt controller with what its units served (R388), its queues and its fault ring's
pointers start afresh (R387, R226). -/
def Partition.restart (x : Partition) : Partition :=
  { x with
    halted := false, haltDone := false, haltCause := 0, haltIndex := 1023, watched := none, unitFaults := [], served := [], stopped := []
    irqs := x.irqs.filter (· != 1), faultRead := 0, faultWrite := 0, faultSeq := 0, parked := []
    rqRead := List.replicate 12 0, rqWrite := List.replicate 12 0, queues := List.replicate 12 [], preemptOut := none }

/-- Clear a halt on reconfiguration (R387). -/
def State.clearHalt (s : State) (p : Nat) : State :=
  if (s.part p).halted && (s.part p).haltDone then (s.emptyPartition p).modPart p Partition.restart else s

/-- A partition holds no resident team, or has halted and stopped (R411). -/
def State.quiet (s : State) (p : Nat) : Bool :=
  ((s.part p).halted && (s.part p).haltDone) || (!(s.part p).halted && !s.teams.any (fun kt => kt.2.part == p))

/-- PARTITION_RECONFIGURE (R1, R410): placement stops and resident teams are asked to save themselves; once every
partition whose numbers change is empty, the numbers are assigned afresh and placement resumes. -/
def execPartitionReconfigure (parts : List Nat) (s : State) : Out :=
  let s := parts.foldl (fun (s : State) p => s.modPart p (fun x => { x with paused := true })) s
  let s := { s with teams := s.teams.map (fun kt => if parts.contains kt.2.part then (kt.1, kt.2.raise) else kt) }
  let due := (List.range 8).filter (fun p => (s.part p).paused || s.numbersMove p)
  if due.all (fun p => (s.part p).paused && s.quiet p) then
    let s := (due.foldl State.clearHalt s).renumber
    .next (due.foldl (fun (s : State) p => s.modPart p (fun x => { x with paused := false })) s)
  else .next s

/-- A configuration that Gritus may set for a partition (R401, R402, R411, R415): four or more whole clusters that are in use and
belong to no other partition, pieces within the die's 128, no cluster, piece or key slot that a scrub still holds, one of the 8
virtual functions that no other partition has, and a vector of its 64 for each of the four interrupts. -/
def State.mayConfigure (s : State) (p : Nat) (cfg : PartitionConfig) : Bool :=
  let rest := (List.range 8).filter (· != p)
  let others := rest.filter (fun q => (s.part q).configured)
  let held := rest.filter (fun q => (s.part q).scrubHolds)
  let pieces := fun (die : Nat) (f : PartitionConfig → Nat) =>
    (held.filter (fun q => !(s.part q).configured)).foldl
      (fun n q => n + ((s.part q).scrubHeld.pieces.filter (fun x => x.2 == die)).length)
      (others.foldl (fun n q => n + f (s.part q).config) (f cfg))
  p < 8 &&
  4 ≤ cfg.clusters.length && cfg.clusters == cfg.clusters.eraseDups &&
  cfg.clusters.all (fun k => k < 32 && s.used (clusterCores k) != 0 &&
    ((s.cluster k).partition.isNone || (s.cluster k).partition == some p) &&
    (clusterCores k).all (fun c => !s.scrubs c)) &&
  pieces 0 (·.pieces0) ≤ 128 && pieces 1 (·.pieces1) ≤ 128 &&
  cfg.keySlots.all (fun k => k.1 < 2 && k.2 < 256 && others.all (fun q => !(s.part q).config.keySlots.contains k) &&
    held.all (fun q => !(s.part q).scrubHeld.keys.contains k)) &&
  cfg.function < 8 && others.all (fun q => (s.part q).config.function != cfg.function) &&
  cfg.vectors.length == 4 && cfg.vectors.all (· < 64) &&
  !(s.part p).scrubHolds

/-- PARTITION_CONFIGURE (R411, R226): the partition's clusters, pieces, key slots, function and interrupt vectors. The bytes of
the chip scratchpad are kept by the partition and the offset that they were written at, so a piece that Gritus reassigns shows
its new owner none of the bytes of the old one (R156; DESIGN CHOICE, log entry 97). A cluster that leaves or joins a partition
that holds a lease leaves or joins the boost pool (R394, R395). A device whose management core has passed no image keeps its dies
in reset (R464). -/
def execPartitionConfigure (part : Nat) (cfg : PartitionConfig) (s : State) : Out :=
  if s.diesHeld || !s.quiet part || !s.mayConfigure part cfg then .next s
  else
    let s := s.clearHalt part
    let leased := (s.part part).lease != 0
    let owner := fun (k : Nat) (c : Cluster) =>
      if cfg.clusters.contains k then
        ({ c with partition := some part } : Cluster).toBoost (leased && c.cls == 0) s.time s.nonce
      else if c.partition = some part then ({ c with partition := none } : Cluster).toBoost false s.time s.nonce
      else c
    let s := { s with nonce := s.nonce + 1, clusters := ((List.range s.clusters.length).zip s.clusters).map (fun (kc : Nat × Cluster) => owner kc.1 kc.2) }
    .next (s.modPart part (fun x => { x with
      configured := true, config := cfg, faultRead := 0, faultWrite := 0, faultSeq := 0 }))

/-! ## Live maintenance -/

/-- The image of the A/B pair that does not run (R411). -/
def Mgmt.inactive (m : Mgmt) : Nat := 1 - m.running

/-- The digest of an image in the flash (R463); none where its LEN is out of range. -/
def imageDigest (flash : List Host.Cell) (image : Nat) : List Dword :=
  let len := ofBeBytes (Memory.getBytes flash (0x1000000 * image + 16) 8)
  if 0xFFFF00 < len then [] else sha384 (Memory.getBytes flash (0x1000000 * image) (128 + len))

/-- FIRMWARE_UPDATE (R411, R460, R463): the management core writes a part of the image that does not run and measures that image
as it now stands (log entry 102); the next management-core reset tries it first. -/
def execFirmwareUpdate (offset : Nat) (image : List Byte) (s : State) : Out :=
  let m := s.mgmt
  if !m.jumped ∨ offset % 8 ≠ 0 ∨ image.length % 8 ≠ 0 ∨ 0x1000000 < offset + image.length then .next s
  else
    let flash := Memory.putBytes m.flash (0x1000000 * m.inactive + offset) image
    .next { s with mgmt := { m with
      flash := flash, measured := imageDigest flash m.inactive, bootSel := BitVec.ofNat 64 m.inactive } }

/-- A slice holds a page of a scrub in progress (R412). -/
def State.scrubsSlice (s : State) (die slice : Nat) : Bool :=
  s.partitions.any (fun x => x.scrubHolds && x.scrubHeld.ranges.any (fun r =>
    (List.range (128 * r.2)).any (fun k =>
      let pa := r.1 + 512 * k
      dieOfPa pa == die && s.homeSlice pa == slice)))

/-- SLICE_RETIREMENT (R412): no new checked lead is placed in a partition on the die from now on; once the slice holds no held
line and no page of a scrub, it is retired and its lines move to their new homes, where they take the ways of others if they
must. -/
def execSliceRetirement (die slice : Nat) (s : State) : Out :=
  let here := fun (pa : Nat) => dieOfPa pa == die && s.homeSlice pa == slice
  if 2 ≤ die ∨ 48 ≤ slice ∨ s.retired.contains (die, slice) ∨ 8 ≤ (s.retired.filter (fun k => k.1 == die)).length then
    .next s
  else if s.heldLines.any (fun h => isDram h.pa && here h.pa) ∨ s.scrubsSlice die slice then
    .next (if s.retiring.contains (die, slice) then s else { s with retiring := s.retiring ++ [(die, slice)] })
  else
    let lines := s.l2.filter (fun l => here (l <<< 7))
    let t := { s with
      retired := s.retired ++ [(die, slice)], retiring := s.retiring.filter (· != (die, slice))
      l2 := s.l2.filter (fun l => !lines.contains l) }
    .next ((lines.map (· <<< 7)).foldl State.intoL2 t).rewriteHealth

/-! ## Partners -/

/-- PARTNER_PAIRING (R405, R310, R411): refused on one feed without an override; an overridden pairing sets CO. The partition is
reported as not secured until its first complete cut on the new partner, and on one feed for good; a cut in progress is complete on
neither partner (log entry 100). -/
def execPartnerPairing (part partner : Nat) (partnerFeed : Half) (override : Bool) (size : Nat) (s : State) : Out :=
  let same := partnerFeed.toNat == s.health.feed
  if same && !override then .next s
  else .next (s.modPart part (fun x => { x with
    mirrCtl := BitVec.ofNat 64 (size % 2 ^ 32 * 2 ^ 32 + bit same 31 + partner % 2 ^ 18)
    secured := false, cuts := x.cuts.map (fun k => { k with failed := true }) }))

/-- PARTNER_RESTORE (R406): accepted only when every block of the range carries the cut identifier; the blocks' bytes are
the answer. -/
def execPartnerRestore (part first count cut : Nat) (s : State) : Out :=
  let m := s.mirror (bits (s.part part).mirrCtl.toNat 17 0) part
  if (List.range count).all (fun k => Map.get? m.tags (first + k) == some cut) then
    .next { s with reply := (List.range (65536 * count)).map (fun i => Map.get m.bytes (65536 * first + i) 0) }
  else .next { s with reply := [] }

/-! ## Fabric -/

/-- Change a fabric port. -/
def State.modPort (s : State) (n : Nat) (f : Port → Port) : State := { s with ports := modNth f n s.ports }

/-- FABRIC_PORT_FAILURE (R404): a port in use retrains once; one that fails again is down. -/
def execFabricPortFailure (port : Nat) (s : State) : Out :=
  .next (s.modPort port (fun p =>
    if p.mode = 0 then { p with mode := 1, since := s.time }
    else if p.mode = 1 then { p with mode := 2 }
    else p))

/-- PORT_RETRAIN_COMPLETE (R404). -/
def execPortRetrainComplete (port : Nat) (s : State) : Out :=
  .next (s.modPort port (fun p => if p.mode = 1 then { p with mode := 0, missed := 0 } else p))

/-- A MIRR that waits for a device without a route completes with code 5 (R404). -/
def State.cutOff (s : State) : State :=
  let lost := s.commands.filter (fun c => c.state == 2 && (c.dest.map (fun d => !s.routed d)).getD false)
  { s with
    packets := s.packets.filter (fun p => !lost.any (fun c => c.id == p.command))
    commands := s.commands.map (fun c => if lost.any (fun x => x.id == c.id) then { c with state := 4, code := 5 } else c) }

/-- PORT_REMOVAL (R404): a port still down after 10,000,000 ticks leaves the routing. -/
def execPortRemoval (port : Nat) (s : State) : Out :=
  .next (s.modPort port (fun p =>
    if (p.mode = 1 ∨ p.mode = 2) ∧ p.since + 10000000 ≤ s.time then { p with mode := 3 } else p)).cutOff

/-- MISSED_HEARTBEAT (R408): the neighbour of a port has missed a link heartbeat. -/
def execMissedHeartbeat (port : Nat) (s : State) : Out :=
  .next (s.modPort port (fun p => { p with missed := p.missed + 1 }))

/-- A packet may leave the ordinary channels (R403, R404): its head has waited ESCAPE router cycles, or no minimal port is
left. -/
def State.mayEscape (s : State) (p : Packet) : Bool :=
  let wait := (s.part p.part).escapeWait
  wait == 0 || wait ≤ Config.routerCycles (s.time - p.since) || !s.anyPort (Config.minimalPorts p.dest) (· != 3)

/-- ESCAPE_ENTRY (R403): a packet that no minimal output has taken enters the escape channel and stays there. -/
def execEscapeEntry (packet : Nat) (s : State) : Out :=
  .next { s with packets := s.packets.map (fun p =>
    if p.id = packet ∧ s.mayEscape p then { p with escape := true } else p) }

/-- A packet may arrive (R403, R404): on the ordinary channels over a minimal port that is up; on the escape channel over its
port, after every packet that was sent before it to the same device and took that channel. -/
def State.mayArrive (s : State) (p : Packet) : Bool :=
  if p.escape then
    s.anyPort [Config.escapePort p.dest] (· == 0) &&
    !(s.packets.takeWhile (fun x => x.id != p.id)).any (fun x => x.escape && x.dest == p.dest)
  else s.anyPort (Config.minimalPorts p.dest) (· == 0)

/-- The elements of a rank on another device arrive for its COLL (R308, R309). -/
def State.rankArrives (s : State) (part name rank : Nat) (data : List Byte) : State :=
  match s.collEntry part name with
  | none => s
  | some x =>
    let n := codeBits x.typ / 8
    if rank < x.p ∧ s.rankAway x rank ∧ data.length = x.e * n then
      { s with collWaits := s.collWaits ++
          [⟨part, name, rank, 0, (List.range x.e).map (fun j => field data (j * n) n)⟩] }
    else s

/-- FABRIC_PACKET (R309, R310, R386, R403, R404): a packet of this device, whose unit has not stopped, arrives and its home acknowledges it; what it carries of a
MIRR then stands in the mirror region, and the command finishes after its last packet. Or the elements of a rank on another
device arrive here. -/
def execFabricPacket (arrival : FabricArrival) (s : State) : Out :=
  match arrival with
  | .rank part name rank data => .next (if (s.part part).haltDone then s else s.rankArrives part name rank data)
  | .ours packet =>
    match s.packets.find? (fun p => p.id == packet) with
    | none => .next s
    | some p =>
      if !s.mayArrive p || ((s.command? p.command).map (fun c => s.unitDown c.part (s.engineUnit c))).getD false then .next s
      else
        let s := { s with packets := s.packets.filter (fun x => x.id != packet) }
        .next ((s.modMirror p.dest p.part (fun m => { m with bytes := padPut m.bytes p.off p.data })).packetsDone p.command)

/-! ## Scrubs -/

/-- What the scrub registers of a partition name (R467, R468): key slots, cores of the partition, its pieces, ranges. -/
def State.scrubNames (s : State) (p : Nat) (ctl : Dword) : ScrubSet :=
  let x := s.part p
  let v := ctl.toNat
  let mapped := fun (c : Nat) => if c < 64 then x.scrubCores0.getLsbD c else x.scrubCores1.getLsbD (c - 64)
  { keys := ([0, 1].filter (hasBit v)).map (fun d => (d, bits v 15 8))
    cores := (List.range 128).filter (fun c => mapped c && (s.cluster (clusterOf c)).partition == some p)
    pieces := (((List.range (bits v 47 40)).map (bits v 39 32 + ·)).filter
      (fun n => n < x.config.pieces0 + x.config.pieces1)).map (fun n => (n, if n < x.config.pieces0 then 0 else 1))
    ranges := (x.scrubRanges.take (min 8 (bits v 19 16))).map (fun r => (bits r.toNat 47 16 <<< 16, bits r.toNat 63 48)) }

/-- The resources of two scrubs, each once. -/
def ScrubSet.union (x y : ScrubSet) : ScrubSet where
  keys := (x.keys ++ y.keys).eraseDups
  cores := (x.cores ++ y.cores).eraseDups
  pieces := (x.pieces ++ y.pieces).eraseDups
  ranges := (x.ranges ++ y.ranges).eraseDups

/-- A write of CR_SCRUB_CTL (R467, R468): a GO starts the engine at phase 0 over what the registers name then; it is ignored
while a scrub runs that is not a restart. After a reset the restart scrubs what is quarantined as well (R416), whatever the
registers name by then (log entry 68); the health record is rewritten where that quarantines more (R413). -/
def State.scrubWrite (s : State) (p : Nat) (value : Dword) : State :=
  let x := s.part p
  let ctl := value &&& 0x0000FFFF000FFF03
  if !value.getLsbD 63 then s.modPart p (fun x => { x with scrubCtl := ctl })
  else if !x.scrubDone && !x.scrubQuar then s
  else
    let held := if x.scrubQuar then x.scrubHeld.union (s.scrubNames p ctl) else s.scrubNames p ctl
    let s := s.modPart p (fun x =>
      let x := { x with
        scrubCtl := ctl, scrubDone := false, scrubOn := true, scrubPhase := 0, scrubUnits := 0, scrubHeld := held }
      if x.scrubQuar then x.raise 3 else x)
    if x.scrubQuar && held != x.scrubHeld then s.rewriteHealth else s

/-- SCRUB_GO (R468). -/
def execScrubGo (part : Nat) (value : Dword) (s : State) : Out := .next (s.scrubWrite part value)

/-- The 64 KiB units of a phase of a scrub (R468). -/
def ScrubSet.work (x : ScrubSet) (phase : Nat) : Nat :=
  match phase with
  | 0 => 0
  | 1 => 24 * x.cores.length
  | 2 => 4 * x.pieces.length
  | _ => x.rangeUnits

/-- The first address of a unit among ranges, in their order. -/
def unitOf : List (Nat × Nat) → Nat → Option Nat
  | [], _ => none
  | r :: rs, k => if k < r.2 then some (r.1 + 0x10000 * k) else unitOf rs (k - r.2)

/-- A scrub zeroes one unit (R415, R468). -/
def State.scrubUnit (s : State) (part phase k : Nat) : State :=
  let x := (s.part part).scrubHeld
  match phase with
  | 1 =>
    match x.cores[k / 24]? with
    | some core => s.zeroUnit core (k % 24)
    | none => s
  | 2 =>
    match x.pieces[k / 4]? with
    | some n =>
      let first := part * 2 ^ 26 + 0x40000 * n.1 + 0x10000 * (k % 4)
      { s with kpad := s.kpad.filter (fun c => !(first ≤ c.1 && c.1 < first + 0x10000)) }
    | none => s
  | _ =>
    match unitOf x.ranges k with
    | some base => if isDram base then s.zeroLines base 0x10000 else s
    | none => s

/-- SCRUB_PHASE_END (R415, R468): the engine zeroes the next unit of its phase; after the last one the next phase begins, and
after phase 3 DONE is set, QUAR clears and the scrub interrupt is raised (R417). -/
def execScrubPhaseEnd (part : Nat) (s : State) : Out :=
  let x := s.part part
  if !x.scrubOn then .next s
  else if x.scrubUnits < x.scrubHeld.work x.scrubPhase then
    .next ((s.scrubUnit part x.scrubPhase x.scrubUnits).modPart part (fun x => { x with scrubUnits := x.scrubUnits + 1 }))
  else if x.scrubPhase < 3 then
    let s := if x.scrubPhase ≠ 0 then s
      else { s with keys := x.scrubHeld.keys.foldl (fun k d => Map.del k (256 * d.1 + d.2)) s.keys }
    .next (s.modPart part (fun x => { x with scrubPhase := x.scrubPhase + 1, scrubUnits := 0 }))
  else
    let s := s.modPart part (fun y => ({ y with
      scrubDone := true, scrubQuar := false, scrubOn := false, scrubHeld := ⟨[], [], [], []⟩ } : Partition).raise 3)
    .next (if x.scrubQuar then s.rewriteHealth else s)

/-- CR_SCRUB_PROGRESS (R415). -/
def Partition.progress (x : Partition) : Nat :=
  bit x.scrubDone 63 + bit x.scrubQuar 62 + x.scrubPhase * 2 ^ 58 + x.scrubUnits % 2 ^ 32

/-- SCRUB_PROGRESS_READ (R402): a read of CR_SCRUB_PROGRESS clears the scrub interrupt. -/
def execScrubProgressRead (part : Nat) (s : State) : Out := .next (s.modPart part (·.clear 3))

/-! ## Resets -/

/-- A partition after a device reset (R416, R467): the scrub registers keep their values, and a scrub that was running
leaves its resources quarantined. -/
def Partition.afterReset (x : Partition) : Partition :=
  let cut := x.scrubHolds
  { Partition.reset with
    scrubCores0 := x.scrubCores0, scrubCores1 := x.scrubCores1, scrubCtl := x.scrubCtl, scrubRanges := x.scrubRanges
    scrubDone := !cut, scrubQuar := cut, scrubHeld := if cut then x.scrubHeld else ⟨[], [], [], []⟩ }

/-- The management core after its reset (R459, R461, R462): what is kept stays; SRAM is undefined. -/
def Mgmt.afterReset (m : Mgmt) (nonce : Nat) : Mgmt :=
  { Mgmt.reset with
    flash := m.flash, bootSel := m.bootSel, verFloor := m.verFloor, imageKey := m.imageKey, sramNonce := nonce }

/-- DEVICE_RESET (R416, R343, R413): memory, the flash, the fuses, fenced and deactivated cores, demerits, retired slices
and the health record outlast it; everything else is as after reset (log entry 27). -/
def execDeviceReset (s : State) : Out :=
  let s' : State := { State.reset with
    cores := (List.range s.cores.length).zip s.cores |>.map (fun (k, c) =>
      { Core.reset k with
        fenced := c.fenced, deactivated := c.deactivated, demerits := c.demerits
        deadline := if c.demerits = 0 then 0 else 2 ^ 42 })
    partitions := s.partitions.map Partition.afterReset
    dram := s.dram, hostMem := s.hostMem, cipher := s.cipher, errors := s.errors, soft := s.soft, retired := s.retired
    configuration := s.configuration
    mirrors := s.mirrors, health := s.health
    mgmt := s.mgmt.afterReset s.nonce, agenda := s.agenda
    nonce := s.nonce + 1, nextId := s.nextId, issues := s.issues }
  let s' := s'.renumber
  .next (if s.partitions.any (·.scrubOn) then s'.rewriteHealth else s')

end Sys2Proof.Machine
end

