-- ==== Sys2Proof/Machine/Regs.lean ====
section
/-! DEFINITION. The register blocks in the physical address space (R174, R190, R217, R235, R343, R387, R397, R409, R467): one
read and one write of a register, which every ordered access, host access and management-core access shares. -/

namespace Sys2Proof.Machine

/-- The machine after an event that always goes on. -/
def after (o : Out) (s : State) : State :=
  match o with
  | .next t => t
  | _ => s

/-! ## Where a register stands -/

/-- A register block: a partition's at an offset, the assay unit's, a logical cluster's, a core's wear register. -/
inductive RegAt where
  | partition (p off : Nat)
  | assay (off : Nat)
  | cluster (c off : Nat)
  | wear (core : Nat)
  | none
deriving DecidableEq, Repr

/-- The register that a physical doubleword address names (R217, R343, R397, R409). -/
def regAtPa (pa : Nat) : RegAt :=
  if 0xF00000100000 ≤ pa ∧ pa < 0xF00000108000 then .partition ((pa - 0xF00000100000) / 0x1000) (pa % 0x1000)
  else if 0xF00000200000 ≤ pa ∧ pa < 0xF00000200500 then .assay (pa - 0xF00000200000)
  else if 0xF00000300000 ≤ pa ∧ pa < 0xF00000302000 then .cluster ((pa - 0xF00000300000) / 0x100) (pa % 0x100)
  else if 0xF00000400000 ≤ pa ∧ pa < 0xF00000400400 then .wear ((pa - 0xF00000400000) / 8)
  else .none

/-- The physical cluster of a logical number (R1). -/
def State.logicalCluster (s : State) (c : Nat) : Option Nat :=
  (List.range 32).find? (fun k => s.used (clusterCores k) != 0 && (s.cluster k).logical == c)

/-! ## Reads -/

/-- The value of a register of a partition's block; write-only fields read as 0. -/
def State.partReg (s : State) (p off : Nat) : Nat :=
  let x := s.part p
  match off with
  | 0x00 => x.asTable.toNat
  | 0x10 => x.shootVa.toNat
  | 0x18 => x.shootCtrl.toNat + bit x.shootBusy 30
  | 0x20 => x.faultRing.toNat
  | 0x28 => x.faultRead * 2 ^ 32 + x.faultWrite
  | 0x40 => x.kickAsid
  | 0x50 => x.schedStatus
  | 0x60 => x.collTable.toNat
  | 0x68 => x.mirrCtl.toNat
  | 0x70 => x.gateDir.toNat
  | 0x78 => x.pubVa.toNat
  | 0x80 => x.pubCtrl.toNat + bit x.pubBusy 30
  | 0x88 => x.haltValue
  | 0x90 => x.stopArea.toNat
  | 0x98 => x.watchdog
  | 0xA8 => x.boostState * 2 ^ 8 + (if x.boostState = 3 then x.boostReason else 0)
  | 0xB0 => x.boostEnd
  | 0xB8 => s.time % 2 ^ 64
  | 0xC8 => x.escapeWait
  | 0xD0 => x.progress
  | 0xD8 => x.scrubCores0.toNat
  | 0xE0 => x.scrubCores1.toNat
  | 0xE8 => x.scrubCtl.toNat
  | _ =>
    if 0x100 ≤ off ∧ off < 0x1C0 then
      let l := (off - 0x100) / 0x10
      if off % 0x10 = 0 then (x.rqBase.getD l 0).toNat else x.rqRead.getD l 0 * 2 ^ 32 + x.rqWrite.getD l 0
    else if 0x1C0 ≤ off ∧ off < 0x200 then (x.scrubRanges.getD ((off - 0x1C0) / 8) 0).toNat
    else 0

/-- The value of a register of the assay block (R343, R345, R443). -/
def State.assayReg (s : State) (off : Nat) : Nat :=
  match off with
  | 0x00 => s.assayCtl.toNat
  | 0x08 => s.epoch
  | 0x40 => s.inject.toNat
  | _ =>
    if off < 0x40 then s.assayCounts.getD ((off - 0x10) / 8) 0 % 2 ^ 64
    else if 0x100 ≤ off then
      let c := s.core ((off - 0x100) / 8)
      c.demerits + bit c.fenced 8 + (if c.demerits = 0 then 0 else bits c.deadline 47 24 * 2 ^ 40)
    else 0

/-- The value of a register of a cluster's power block (R397). -/
def Cluster.reg (c : Cluster) (off : Nat) : Nat :=
  match off with
  | 0x00 => c.nextCls + bit c.boost 4 + bit c.moving 5
  | 0x08 => c.cap + c.used * 2 ^ 16
  | 0x10 => c.thresh
  | 0x18 => c.stretch
  | 0x20 => c.half
  | 0x28 => c.alarms
  | _ => 0

/-- CR_WEAR of a core (R409). -/
def State.wearReg (s : State) (core : Nat) : Nat :=
  let c := s.core core
  c.margin + bit c.exhausted 8 + (s.cluster (clusterOf core)).add * 2 ^ 16

/-- The value of the doubleword register at a physical address; an address that names none reads as 0 (log entry 29). -/
def State.regValue (s : State) (pa : Nat) : Nat :=
  match regAtPa pa with
  | .partition p off => s.partReg p off
  | .assay off => s.assayReg off
  | .cluster c off => ((s.logicalCluster c).map (fun k => (s.cluster k).reg off)).getD 0
  | .wear core => s.wearReg core
  | .none => 0

/-- An access to a register: 4 or 8 aligned bytes (R190). -/
def regShape (pa n : Nat) : Bool := (n == 4 || n == 8) && pa % n == 0

/-- Read a register (R190, R402): a read of CR_SCRUB_PROGRESS clears the scrub interrupt. -/
def State.regRead (s : State) (pa n : Nat) : Nat × State :=
  let x := s.regValue (pa / 8 * 8) >>> (8 * (pa % 8)) % 2 ^ (8 * n)
  match regAtPa (pa / 8 * 8) with
  | .partition p 0xD0 => (x, after (execScrubProgressRead p s) s)
  | _ => (x, s)

/-! ## Writes -/

/-- A write of a register of a partition's block: RW fields take their bits, reserved and RO fields ignore them (R6), and
a command field acts. -/
def State.writePart (s : State) (p off : Nat) (w : Dword) : State :=
  let v := w.toNat
  let field := fun (h l : Nat) => BitVec.ofNat 64 (bits v h l <<< l)
  match off with
  | 0x00 => s.modPart p (fun x => { x with asTable := field 63 12 })
  | 0x10 => s.modPart p (fun x => { x with shootVa := field 51 16 })
  | 0x18 => after (execShootdownStart p w s) s
  | 0x20 => s.modPart p (fun x => { x with faultRing := field 51 12 })
  | 0x28 => after (execFaultRingReadAdvance p (BitVec.ofNat 32 (bits v 63 32)) s) s
  | 0x30 => after (execFaultResume p w s) s
  | 0x40 => s.modPart p (fun x => { x with kickAsid := bits v 15 0 })
  | 0x48 => after (execKick p w s) s
  | 0x58 => after (execPreempt p w s) s
  | 0x60 => s.modPart p (fun x => { x with collTable := field 63 12 })
  | 0x70 => s.modPart p (fun x => { x with gateDir := field 63 12 })
  | 0x78 => s.modPart p (fun x => { x with pubVa := field 51 7 })
  | 0x80 => after (execPubCtrlGo p w s) s
  | 0x88 => after (execExternalHalt p w s) s
  | 0x90 => s.modPart p (fun x => { x with stopArea := field 47 16 ||| field 0 0 })
  | 0x98 => s.modPart p (fun x => { x with watchdog := bits v 15 0 })
  | 0xA0 => { after (execBoostRequest p w (Config.envelopeHolds s.nonce) s) s with nonce := s.nonce + 1 }
  | 0xC8 => s.modPart p (fun x => { x with escapeWait := bits v 15 0 })
  | 0xD8 => s.modPart p (fun x => { x with scrubCores0 := w })
  | 0xE0 => s.modPart p (fun x => { x with scrubCores1 := w })
  | 0xE8 => s.scrubWrite p w
  | _ =>
    if 0x100 ≤ off ∧ off < 0x1C0 then
      if off % 0x10 = 0 then
        s.modPart p (fun x => { x with rqBase := modNth (fun _ => field 51 12) ((off - 0x100) / 0x10) x.rqBase })
      else s
    else if 0x1C0 ≤ off ∧ off < 0x200 then
      s.modPart p (fun x => { x with scrubRanges := modNth (fun _ => field 63 16) ((off - 0x1C0) / 8) x.scrubRanges })
    else s

/-- A write of a register of the assay block (R345, R443): a THRESH of 0 leaves THRESH as it is. -/
def State.writeAssay (s : State) (off : Nat) (w : Dword) : State :=
  match off with
  | 0x00 =>
    let mask : Dword := if bits w.toNat 11 8 = 0 then 0x003 else 0xF03
    { s with assayCtl := (s.assayCtl &&& ~~~ mask) ||| (w &&& mask) }
  | 0x40 => if w.getLsbD 63 then after (execInjectArm w s) s else after (execInjectDisarm w s) s
  | _ => s

/-- A write of a register of a cluster's power block (R397); a CAP below 17 is ignored. -/
def State.writeCluster (s : State) (k off : Nat) (w : Dword) : State :=
  let v := w.toNat
  match off with
  | 0x00 => after (execPoolClassWrite k w s) s
  | 0x08 => if bits v 7 0 < 17 then s else s.modCluster k (fun c => { c with cap := bits v 7 0 })
  | 0x10 => s.modCluster k (fun c => { c with thresh := bits v 7 0 })
  | 0x18 => s.modCluster k (fun c => { c with stretch := bits v 3 0 })
  | 0x20 => s.modCluster k (fun c => { c with half := bits v 11 0 })
  | _ => s

/-- Write the doubleword register at a physical address; an address that names none takes nothing (log entry 29). -/
def State.regPut (s : State) (pa : Nat) (w : Dword) : State :=
  match regAtPa pa with
  | .partition p off => s.writePart p off w
  | .assay off => s.writeAssay off w
  | .cluster c off =>
    match s.logicalCluster c with
    | some k => s.writeCluster k off w
    | none => s
  | .wear _ => s
  | .none => s

/-- Write 4 or 8 bytes of a register: the other half of a doubleword is written with what it reads as (log entry 29). -/
def State.regWrite (s : State) (pa n x : Nat) : State :=
  let old := s.regValue (pa / 8 * 8)
  let w := if n = 8 then x
    else if pa % 8 = 0 then x % 2 ^ 32 + old / 2 ^ 32 * 2 ^ 32
    else old % 2 ^ 32 + x % 2 ^ 32 * 2 ^ 32
  s.regPut (pa / 8 * 8) (BitVec.ofNat 64 w)

/-- REGISTER_WRITE (R6): a write by system software or Gritus of a register, by its physical address or by its offset in
a partition's block; 0x11 is CR_HOLD_WAYS, whose only name is its control-register number (R185, R382; log entry 30). -/
def execRegisterWrite (part : Nat) (address : Nat) (value : Dword) (s : State) : Out :=
  if address = 0x11 then
    .next (if 8 < bits value.toNat 3 0 then s else { s with holdWays := bits value.toNat 3 0 })
  else if address % 8 ≠ 0 then .next s
  else if address < 0x1000 then .next (s.writePart part address value)
  else .next (s.regPut address value)

/-! ## The host -/

/-- What an access of the host through a partition's function meets at its home (R174, R401, R468): DRAM of an HDM range that
Gritus exposes for the partition, its register block, or nothing that serves it. A halt of the partition does not bar it: the
host reads the stop records and CR_HALT (R387). -/
def State.hostReach (s : State) (part pa n : Nat) : Bool :=
  n != 0 && (List.range n).all (fun i => !s.refused (pa + i)) &&
  (match homeOf pa with
   | .dram _ => isDram (pa + n - 1) && (s.part part).config.hdm.any (fun r => r.1 ≤ pa && pa + n ≤ r.1 + r.2)
   | .registers => regShape pa n
   | _ => false)

/-- Write bytes for an agent that sees plaintext at a physical address. -/
def State.plainWrite (s : State) (pa : Nat) (bs : List Byte) : State :=
  match homeOf pa with
  | .registers => s.regWrite pa bs.length (ofLeBytes bs)
  | _ => s.homeWrite 0 pa bs

/-- Read bytes for such an agent. -/
def State.plainRead (s : State) (pa n : Nat) : List Byte × State :=
  match homeOf pa with
  | .registers => let (x, s) := s.regRead pa n; (leBytes x n, s)
  | _ => (s.homeBytes 0 pa n, s.readAtHome pa n)

/-- HOST_WRITE (R213): a posted write of a PCIe requester becomes visible at its home; a write that its home does not
serve is dropped. -/
def execHostWrite (part : Nat) (_requester : Nat) (address : Nat) (data : List Byte) (s : State) : Out :=
  .next (if !s.hostReach part address data.length then s else s.plainWrite address data)

/-- HOST_READ (R213): the bytes are the answer; a read that its home does not serve ends as an Unsupported Request, an
empty answer. -/
def execHostRead (part : Nat) (_requester : Nat) (address size : Nat) (s : State) : Out :=
  if !s.hostReach part address size then .next { s with reply := [] }
  else
    let (bs, s) := s.plainRead address size
    .next { (if isDram address then s.consume part UnitFault.none address size else s) with reply := bs }

/-- What an AtomicOp writes over an old value (R401): a CAS that does not match writes nothing. -/
def hostAtomicNew (op : HostAtomicOp) (old operand compare size : Nat) : Option Nat :=
  match op with
  | .fetchAdd => some (old + operand)
  | .swap => some operand
  | .cas => if old = compare % 2 ^ (8 * size) then some operand else none

/-- HOST_ATOMIC (R401, R194): FetchAdd, Swap or CAS on 4, 8 or, for CAS, 16 aligned bytes at their home; the old value is
the answer. A CAS that does not match makes its line unpublished as well (R350). -/
def execHostAtomic (part : Nat) (op : HostAtomicOp) (address size : Nat) (operand compare : Nat) (s : State) : Out :=
  if !(size == 4 || size == 8 || (size == 16 && op == .cas)) || address % size != 0 ||
      !isDram address || !s.hostReach part address size then
    .next { s with reply := [] }
  else
    let s := (s.recall address size).consume part UnitFault.none address size
    let old := s.homeBytes 0 address size
    let t := match hostAtomicNew op (ofLeBytes old) operand compare size with
      | some x => s.homeWrite 0 address (leBytes x size)
      | none => s.touchLine address
    .next { t with reply := old }

end Sys2Proof.Machine
end

