-- ==== Sys2Proof/Machine/Rom.lean ====
section
/-! DEFINITION. The boot ROM of the management core (R459, R464). -/

namespace Sys2Proof.Machine

/-- The words of the first stage of R464, from address 0: its listing in uncompressed RISC-V encoding (log entry 13). -/
def romWords : List Nat :=
  [0x30000D37, 0x000D3D83, 0x001DFD93, 0x00200413, 0x018D9293, 0x28000737, 0x00570733, 0x00073303,
   0x012173B7, 0x91D3839B, 0x00D39393, 0xC2138393, 0x00D39393, 0x4F538393, 0x00C39393, 0xF5438393,
   0x14731663, 0x00873303, 0x010D3383, 0x14736063, 0x01073783, 0x07F7F313, 0x12031A63, 0x010003B7,
   0xF003839B, 0x12F3E463, 0x10000537, 0x0000FE37, 0x280E0E1B, 0x00800313, 0x000E3383, 0x00753023,
   0x008E0E13, 0x00850513, 0xFFF30313, 0xFE0316E3, 0x08078813, 0x00785493, 0x00070593, 0x10000537] ++
  [0x10C000EF, 0xFFF48493, 0xFE049AE3, 0x00058493, 0x100005B7, 0x40058593, 0x00058E13, 0x01000313,
   0x000E3023, 0x008E0E13, 0xFFF30313, 0xFE031AE3, 0x00100393, 0x03F39393, 0x0075B023, 0x00381393,
   0x0675BC23, 0x10000537, 0x0C4000EF, 0x10000E37, 0x100D0E93, 0x01200313, 0x000E3383, 0x007EB023,
   0x008E0E13, 0x008E8E93, 0xFFF30313, 0x00C00F13, 0x01E31463, 0x00048E13, 0xFE0310E3, 0x00100313,
   0x186D3823, 0x198D3303, 0xFFF30393, 0xFE038CE3, 0xFFE30393, 0x04039C63, 0x10000E37, 0x200D0E93] ++
  [0x00600313, 0x000E3383, 0x007EB023, 0x008E0E13, 0x008E8E93, 0xFFF30313, 0xFE0316E3, 0x00100313,
   0x03F31313, 0x226D3823, 0x010DE313, 0x006D3423, 0x01873303, 0x200003B7, 0x0803839B, 0x018D9293,
   0x005383B3, 0x00730333, 0x00030067, 0xFFF40413, 0x00040663, 0x001DCD93, 0xE79FF06F, 0x02000313,
   0x006D3423, 0x10500073, 0xFFDFF06F, 0x100012B7, 0x00028393, 0x01000313, 0x0005BE03, 0x01C3B023,
   0x00858593, 0x00838393, 0xFFF30313, 0xFE0316E3, 0x04000313, 0xFF03BE03, 0x107E1E13, 0xFC83BE83] ++
  [0x01DE0E33, 0xF883BE83, 0x106E9E93, 0x01DE0E33, 0xF803BE83, 0x01DE0E33, 0x01C3B023, 0x00838393,
   0xFFF30313, 0xFC0318E3, 0x00053903, 0x00853983, 0x01053A03, 0x01853A83, 0x02053B03, 0x02853B83,
   0x03053C03, 0x03853C83, 0x0000FF37, 0x00028393, 0x05000313, 0x105B1E13, 0x019E0E33, 0x017B7EB3,
   0xFFFB4F93, 0x018FFFB3, 0x01FECEB3, 0x01DE0E33, 0x000F3E83, 0x01DE0E33, 0x0003BE83, 0x01DE0E33,
   0x10491E93, 0x01397FB3, 0x01394633, 0x01467633, 0x00CFCFB3, 0x01FE8EB3, 0x000C0C93, 0x000B8C13] ++
  [0x000B0B93, 0x01CA8B33, 0x000A0A93, 0x00098A13, 0x00090993, 0x01DE0933, 0x008F0F13, 0x00838393,
   0xFFF30313, 0xF80318E3, 0x0122B023, 0x0132B423, 0x0142B823, 0x0152BC23, 0x0362B023, 0x0372B423,
   0x0382B823, 0x0392BC23, 0x00800313, 0x0002BE03, 0x00053E83, 0x01DE0E33, 0x01C53023, 0x00828293,
   0x00850513, 0xFFF30313, 0xFE0312E3, 0x00008067]


/-- A byte of the ROM: the first stage, the constants of SHA-384, and bytes that the manual does not give (log entry 13). -/
def romByte (a : Nat) : Byte :=
  if a < 4 * romWords.length then BitVec.ofNat 8 (romWords.getD (a / 4) 0 >>> (8 * (a % 4)))
  else if 0xF000 ≤ a ∧ a < 0xF280 then BitVec.ofNat 8 ((shaK.getD ((a - 0xF000) / 8) 0).toNat >>> (8 * (a % 8)))
  else if 0xF280 ≤ a ∧ a < 0xF2C0 then BitVec.ofNat 8 ((shaIv.getD ((a - 0xF280) / 8) 0).toNat >>> (8 * (a % 8)))
  else Config.freeByte 0 a

end Sys2Proof.Machine
end

