-- ==== Sys2Proof/Machine/Spdm.lean ====
section
/-! DEFINITION. What Gritus answers over SPDM (R413, R414, R466): measurements, sessions, key slots. What a response holds
beside the bytes that the manual gives is free (log entry 15). -/

namespace Sys2Proof.Machine

/-- A response becomes the device's latest answer. -/
def State.answer (s : State) (bs : List Byte) : State := { s with reply := bs, nonce := s.nonce + 1 }

/-- An ERROR response of version 1.3 (R413, R466). -/
def spdmError (code : Nat) : List Byte := [0x13#8, 0x7F#8, BitVec.ofNat 8 code, 0#8]

/-- Gritus answers only after the first stage has entered it (R466); otherwise there is no response. -/
def State.gritus (s : State) (act : State → State) : Out :=
  .next (if s.mgmt.jumped then act s else { s with reply := [] })

/-- A response whose contents the manual does not give: the version of the request and the response code, the request's
without its high bit. -/
def State.respond (s : State) (request : List Byte) (code : Nat) : State :=
  s.answer (request.headD 0x13#8 :: BitVec.ofNat 8 (code - 0x80) :: Config.spdmBody s.nonce)

/-- A request that belongs to a session: without one nothing changes and the response is an ERROR of a free code. -/
def State.sessionRequest (s : State) (request : List Byte) (code : Nat) (established : Bool)
    (f : Session → Option Session) : State :=
  match s.session with
  | some x =>
    if established && !x.established then s.answer (spdmError (Config.spdmByte s.nonce 0).toNat)
    else { s.respond request code with session := f x }
  | none => s.answer (spdmError (Config.spdmByte s.nonce 0).toNat)

/-! ## Requests at any time -/

/-- GET_VERSION (R413). -/
def execGetVersion (request : List Byte) (s : State) : Out := s.gritus (·.respond request 0x84)
/-- GET_CAPABILITIES (R413). -/
def execGetCapabilities (request : List Byte) (s : State) : Out := s.gritus (·.respond request 0xE1)
/-- NEGOTIATE_ALGORITHMS (R413). -/
def execNegotiateAlgorithms (request : List Byte) (s : State) : Out := s.gritus (·.respond request 0xE3)
/-- GET_DIGESTS (R413). -/
def execGetDigests (request : List Byte) (s : State) : Out := s.gritus (·.respond request 0x81)
/-- GET_CERTIFICATE (R413). -/
def execGetCertificate (request : List Byte) (s : State) : Out := s.gritus (·.respond request 0x82)
/-- CHALLENGE (R413). -/
def execChallenge (request : List Byte) (s : State) : Out := s.gritus (·.respond request 0x83)

/-- SPDM_UNSUPPORTED_REQUEST (R413): every other request is answered with ERROR code 0x07. -/
def execSpdmUnsupportedRequest (_ : Nat) (s : State) : Out := s.gritus (·.answer (spdmError 7))

/-! ## Measurements -/

/-- The bytes of a 384-bit value held as six doublewords, most significant byte first (R461). -/
def dwordBytes (ws : List Dword) : List Byte := ws.flatMap (fun w => (leBytes w.toNat 8).reverse)

/-- The 48 bytes of a measurement register are latched (R462). -/
def State.latch (s : State) (n : Nat) : State :=
  { s with mgmt := { s.mgmt with latches := Map.put s.mgmt.latches n (s.mgmt.meas.getD n (List.replicate 6 0)) } }

/-- One measurement block (R466): a value of a type. -/
def measBlock (index kind : Nat) (value : List Byte) : List Byte :=
  leBytes index 1 ++ leBytes 1 1 ++ leBytes (value.length + 3) 2 ++ leBytes kind 1 ++ leBytes value.length 2 ++ value

/-- Bit 7 of a value type says that the value is a raw bit stream; its low bits for the health record are not given
(log entry 15). -/
def State.measurement (s : State) (index : Nat) : List Byte :=
  if index = 0x10 then measBlock 0x10 (0x80 + (Config.spdmByte s.nonce 200).toNat % 128) s.health.record
  else measBlock index 1 (dwordBytes (s.mgmt.meas.getD (index - 1) (List.replicate 6 0)))

/-- The blocks that Param2 selects (R466); none for an invalid request. -/
def State.measurements (s : State) (param2 : Nat) : Option (List (List Byte)) :=
  if param2 = 0 then some []
  else if param2 ≤ 8 ∨ param2 = 0x10 then some [s.measurement param2]
  else if param2 = 0xFF then some (((List.range 8).map (· + 1) ++ [0x10]).map s.measurement)
  else none

/-- GET_MEASUREMENTS (R466): a request of version 0x13 with its RequesterContext. -/
def execGetMeasurements (signature : Bool) (param2 : Nat) (context : List Byte) (s : State) : Out :=
  s.gritus (fun s =>
    match s.measurements param2 with
    | none => s.answer (spdmError 1)
    | some blocks =>
      let record := blocks.flatten
      let s := if 1 ≤ param2 ∧ param2 ≤ 8 then s.latch (param2 - 1)
        else if param2 = 0xFF then (List.range 8).foldl State.latch s else s
      s.answer ([0x13#8, 0x60#8, if param2 = 0 then 9#8 else 0#8, 0#8] ++ leBytes blocks.length 1 ++
        leBytes record.length 3 ++ record ++ (List.range 32).map (Config.spdmByte s.nonce) ++ leBytes 0 2 ++ context ++
        (if signature then (List.range 96).map (fun k => Config.spdmByte s.nonce (32 + k)) else [])))

/-! ## Sessions -/

/-- KEY_EXCHANGE (R413, R414): a session begins, bound to the owner's partition. -/
def execKeyExchange (request : List Byte) (part : Nat) (s : State) : Out :=
  s.gritus (fun s => { s.respond request 0xE4 with session := some ⟨part, false, 0⟩ })

/-- FINISH (R413): the session is established. -/
def execFinish (request : List Byte) (s : State) : Out :=
  s.gritus (·.sessionRequest request 0xE5 false (fun x => some { x with established := true }))

/-- KEY_UPDATE (R413). -/
def execKeyUpdate (request : List Byte) (s : State) : Out :=
  s.gritus (·.sessionRequest request 0xE9 true (fun x => some { x with updates := x.updates + 1 }))

/-- HEARTBEAT (R413). -/
def execHeartbeat (request : List Byte) (s : State) : Out := s.gritus (·.sessionRequest request 0xE8 true some)

/-- END_SESSION (R413). -/
def execEndSession (request : List Byte) (s : State) : Out :=
  s.gritus (·.sessionRequest request 0xEC true (fun _ => none))

/-! ## Key slots -/

/-- The partition of the session in which a vendor request arrives (R414). -/
def State.sessionPart (s : State) (inSession : Bool) : Option Nat :=
  match s.session with
  | some x => if inSession && x.established then some x.part else none
  | none => none

/-- The status that bars a request for a key slot (R414): 2 out of range, 3 not the partition's, 0 neither. -/
def State.slotStatus (s : State) (part die slot : Nat) : Nat :=
  if 2 ≤ die then 2 else if (s.part part).config.keySlots.contains (die, slot) then 0 else 3

/-- VENDOR_KEY_LOAD (R414): opcode 0x01, die, slot, zero, and the 64 bytes of the key. -/
def execVendorKeyLoad (inSession : Bool) (payload : List Byte) (s : State) : Out :=
  s.gritus (fun s =>
    match s.sessionPart inSession with
    | none => s.answer (spdmError 7)
    | some part =>
      let die := field payload 1 1
      let slot := field payload 2 1
      let bar := s.slotStatus part die slot
      if field payload 0 1 ≠ 1 ∨ payload.length ≠ 68 ∨ field payload 3 1 ≠ 0 then s.answer (spdmError 7)
      else if bar ≠ 0 then s.answer [BitVec.ofNat 8 bar]
      else if (Map.get? s.keys (256 * die + slot)).isSome then s.answer [1#8]
      else { s.answer [0#8] with keys := Map.put s.keys (256 * die + slot) (field payload 4 64 + 1) })

/-- VENDOR_KEY_ZEROISE (R414): opcode 0x02, die, slot, zero. -/
def execVendorKeyZeroise (inSession : Bool) (payload : List Byte) (s : State) : Out :=
  s.gritus (fun s =>
    match s.sessionPart inSession with
    | none => s.answer (spdmError 7)
    | some part =>
      let die := field payload 1 1
      let slot := field payload 2 1
      let bar := s.slotStatus part die slot
      if field payload 0 1 ≠ 2 ∨ payload.length ≠ 4 ∨ field payload 3 1 ≠ 0 then s.answer (spdmError 7)
      else if bar ≠ 0 then s.answer [BitVec.ofNat 8 bar]
      else { s.answer [0#8] with keys := Map.del s.keys (256 * die + slot) })

end Sys2Proof.Machine
end

