-- ==== Sys2Proof/Machine/Mgmt.lean ====
section
/-! DEFINITION. The management core's address space and its registers (R459–R462, R468): the seal, measurements,
assignments, the flash, and the loads, stores and fetches of the core. -/

namespace Sys2Proof.Machine

/-- Change the management core. -/
def State.modMgmt (s : State) (f : Mgmt → Mgmt) : State := { s with mgmt := f s.mgmt }

/-! ## Events -/

/-- MGMT_RESET (R459, R461, R462): the first stage starts at address 0; what is kept stays, SRAM is undefined. -/
def execMgmtReset (s : State) : Out :=
  .next { s with mgmt := s.mgmt.afterReset s.nonce, nonce := s.nonce + 1, session := none }

/-- FLASH_PROGRAM (R460): an aligned doubleword store of the management core through the plain window, after the jump. -/
def execFlashProgram (address : Nat) (value : Dword) (s : State) : Out :=
  if s.mgmt.jumped ∧ address % 8 = 0 ∧ 0x20000000 ≤ address ∧ address < 0x22000000 then
    .next (s.modMgmt (fun m => { m with
      flash := Memory.putBytes m.flash (address - 0x20000000) (leBytes value.toNat 8) }))
  else .next s

/-- SEAL_VERIFY (R462): a GO makes the seal busy; it is ignored while the seal is busy. -/
def execSealVerify (value : Dword) (s : State) : Out :=
  .next (if value.getLsbD 0 ∧ s.mgmt.sealState ≠ 1 then s.modMgmt (fun m => { m with sealState := 1 }) else s)

/-- The number that doublewords make, the first one highest (R461). -/
def beNumber (ws : List Dword) : Nat := ws.foldl (fun x w => x * 2 ^ 64 + w.toNat) 0

/-- The seal's answer (R462): no valid key, or an r or s out of range, fails. -/
def Mgmt.sealPasses (m : Mgmt) : Bool :=
  match m.imageKey with
  | none => false
  | some q => ecdsaVerify q (beNumber m.sealDig) (beNumber (m.sealSig.take 6)) (beNumber (m.sealSig.drop 6))

/-- SEAL_RESULT (R462). -/
def execSealResult (s : State) : Out :=
  .next (if s.mgmt.sealState = 1 then
    s.modMgmt (fun m => { m with sealState := if m.sealPasses then 2 else 3 }) else s)

/-- MEAS_EXTEND (R462): MEAS[INDEX] := SHA-384(MEAS[INDEX] ‖ EXT). -/
def execMeasExtend (value : Dword) (s : State) : Out :=
  if !value.getLsbD 63 then .next s
  else
    let extend := fun (m : Mgmt) (x : List Dword) => sha384 (dwordBytes x ++ dwordBytes m.measExt)
    .next (s.modMgmt (fun m => { m with meas := modNth (extend m) (bits value.toNat 2 0) m.meas }))

/-- MEAS_LATCH (R462): a load of offset 0 of a measurement register. -/
def execMeasLatch (register : Nat) (s : State) : Out := .next (if register < 8 then s.latch register else s)

/-- The CODE of CR_ASSIGN_STAT for a core (R461): 2 quarantined, 1 a scrub that holds it runs, 3 out of use, 0 none. -/
def State.assignCode (s : State) (core : Nat) : Nat :=
  let held := fun (quar : Bool) => s.partitions.any (fun p => p.scrubHeld.cores.contains core &&
    (if quar then p.scrubQuar else !p.scrubDone && !p.scrubQuar))
  if held true then 2 else if held false then 1
  else if (s.core core).fenced || (s.core core).deactivated then 3 else 0

/-- ASSIGN (R461, R468): refused for a core of a scrub that runs, of a quarantine, or one out of use. -/
def execAssign (value : Dword) (s : State) : Out :=
  let core := bits value.toNat 6 0
  let code := s.assignCode core
  let s := s.modMgmt (fun m => { m with assignCode := code })
  .next (if code = 0 then s.modCore core (fun c => { c with context := some (bits value.toNat 15 8) }) else s)

/-! ## Registers -/

/-- The value of the management register at an offset (R461); an offset that names none reads as 0 (log entry 29). -/
def Mgmt.reg (m : Mgmt) (off : Nat) : Nat :=
  match off with
  | 0x000 => m.bootSel.toNat
  | 0x008 => m.bootStatus.toNat
  | 0x010 => m.verFloor.toNat
  | 0x198 => m.sealState
  | 0x308 => m.assignCode
  | _ =>
    if 0x400 ≤ off ∧ off < 0x600 then
      let n := (off - 0x400) / 0x40
      let k := off % 0x40 / 8
      let now := m.meas.getD n (List.replicate 6 0)
      ((if k = 0 then now else Map.get m.latches n now).getD k 0).toNat
    else 0

/-- Read a management register: offset 0 of a measurement register latches it. -/
def State.mgmtRead (s : State) (off : Nat) : Nat × State :=
  (s.mgmt.reg off,
   if 0x400 ≤ off ∧ off < 0x600 ∧ off % 0x40 = 0 then after (execMeasLatch ((off - 0x400) / 0x40) s) s else s)

/-- Write a management register (R461). -/
def State.mgmtWrite (s : State) (off : Nat) (w : Dword) : State :=
  match off with
  | 0x000 => s.modMgmt (fun m => { m with bootSel := w &&& 1 })
  | 0x008 => s.modMgmt (fun m => { m with bootStatus := w &&& 0x31 })
  | 0x190 => after (execSealVerify w s) s
  | 0x230 => after (execMeasExtend w s) s
  | 0x300 => after (execAssign w s) s
  | _ =>
    if 0x100 ≤ off ∧ off < 0x130 then
      s.modMgmt (fun m => { m with sealDig := modNth (fun _ => w) ((off - 0x100) / 8) m.sealDig })
    else if 0x130 ≤ off ∧ off < 0x190 then
      s.modMgmt (fun m => { m with sealSig := modNth (fun _ => w) ((off - 0x130) / 8) m.sealSig })
    else if 0x200 ≤ off ∧ off < 0x230 then
      s.modMgmt (fun m => { m with measExt := modNth (fun _ => w) ((off - 0x200) / 8) m.measExt })
    else s

/-! ## The address space -/

/-- A range of the management core's address space (R459). -/
inductive MgmtRange where
  | rom (off : Nat)
  | sram (off : Nat)
  | flash (off : Nat)
  | swapped (off : Nat)
  | registers (off : Nat)
  | compute (pa : Nat)
  | nowhere
deriving DecidableEq, Repr

/-- The range of an address. -/
def mgmtRange (a : Nat) : MgmtRange :=
  if a < 0x10000 then .rom a
  else if 0x10000000 ≤ a ∧ a < 0x10040000 then .sram (a - 0x10000000)
  else if 0x20000000 ≤ a ∧ a < 0x22000000 then .flash (a - 0x20000000)
  else if 0x28000000 ≤ a ∧ a < 0x2A000000 then .swapped (a - 0x28000000)
  else if 0x30000000 ≤ a ∧ a < 0x30001000 then .registers (a - 0x30000000)
  else if 0x1000000000000 ≤ a ∧ a < 0x2000000000000 then .compute (a - 0x1000000000000)
  else .nowhere

/-- A compute address that the management core may reach (R190, R459, R468). -/
def State.computeReach (s : State) (pa n : Nat) : Bool :=
  regShape pa n && homeOf pa != .nowhere && !s.refused pa

/-- Bytes that a fetch may read (R459): ROM, SRAM and the plain flash window execute. -/
def State.mgmtFetch (s : State) (a n : Nat) : Option Nat :=
  let m := s.mgmt
  match mgmtRange a, mgmtRange (a + n - 1) with
  | .rom o, .rom _ => some (ofLeBytes ((List.range n).map (fun i => romByte (o + i))))
  | .sram o, .sram _ => some (ofLeBytes (padBytes m.sramNonce m.sram o n))
  | .flash o, .flash _ => some (ofLeBytes (Memory.getBytes m.flash o n))
  | _, _ => none

/-- A load of n aligned bytes (R459, R460): none is an access fault. -/
def State.mgmtLoad (s : State) (a n : Nat) : Option (Nat × State) :=
  match mgmtRange a with
  | .swapped o => if n = 8 then some (ofBeBytes (Memory.getBytes s.mgmt.flash o 8), s) else none
  | .registers o => if n = 8 then some (s.mgmtRead o) else none
  | .compute p =>
    if s.computeReach p n then
      match homeOf p with
      | .registers => some (s.regRead p n)
      | _ => some (ofLeBytes (s.homeBytes 0 p n), s.forwardStamp p n)
    else none
  | _ => (s.mgmtFetch a n).map (fun x => (x, s))

/-- A store of n aligned bytes (R459, R460): none is an access fault. -/
def State.mgmtStore (s : State) (a n x : Nat) : Option State :=
  match mgmtRange a with
  | .sram o => some (s.modMgmt (fun m => { m with sram := padPut m.sram o (leBytes x n) }))
  | .flash _ => if n = 8 ∧ s.mgmt.jumped then some (after (execFlashProgram a (BitVec.ofNat 64 x) s) s) else none
  | .registers o => if n = 8 then some (s.mgmtWrite o (BitVec.ofNat 64 x)) else none
  | .compute p =>
    if s.computeReach p n then
      some (match homeOf p with
        | .registers => s.regWrite p n x
        | _ => s.homeWritePast 0 p (leBytes x n))
    else none
  | _ => none

end Sys2Proof.Machine
end

