-- ==== Sys2Proof/Machine/Moves.lean ====
section
/-! DEFINITION. Register moves and full/empty operations (R107–R114). -/

namespace Sys2Proof.Machine

/-- How many registers MOV's type takes (R108). -/
def movRegs (f : Fields) : Nat := 2 ^ f.minor.toNat

/-- MOV (R108). -/
def execMov (f : Fields) (s : State) : Out :=
  let quad := f.minor.toNat == 2
  vec (.mov f) (if quad then 2 else 1) (if quad then 3 else 2) (fun v l =>
    { regs := writesOf f.d.toNat (v.a l) (movRegs f) }) s

/-- The immediate of MOVI (R109): the 16-bit field, or the literal, extended to 64 bits. -/
def moviValue (f : Fields) : Nat :=
  match f.lit with
  | some x => if f.minor.toNat = 1 then wrap 64 (sext x.toNat 32) else x.toNat
  | none =>
    let field := bits f.a.toNat 7 6 * 2 ^ 14 + bits f.b.toNat 7 6 * 2 ^ 12 + bits f.a.toNat 5 0 * 2 ^ 6 + bits f.b.toNat 5 0
    if f.minor.toNat = 2 then field else wrap 64 (sext field 16)

/-- MOVI (R109). -/
def execMovi (f : Fields) (s : State) : Out :=
  vec (.movi f) 1 2 (fun _ _ =>
    { regs := writesOf f.d.toNat (moviValue f) (if f.minor.toNat = 0 then 1 else 2) }) s

/-- SEL (R110). -/
def execSel (f : Fields) (s : State) : Out :=
  let n := if f.minor.toNat = 1 then 64 else 32
  vec (.sel f) 1 2 (fun v l =>
    outN v (if v.p l f.c.toNat != f.mod.getLsbD 0 then v.a l else v.bInt l n false) n) s

/-- PLOP (R111). -/
def execPlop (f : Fields) (s : State) : Out :=
  vec (.plop f) 1 2 (fun v l =>
    let bit := fun (b : Bool) (k : Nat) => if b then k else 0
    { preds := [(f.d.toNat, f.mod.getLsbD
        (bit (v.p l f.a.toNat) 4 + bit (v.p l f.b.toNat) 2 + bit (v.p l f.c.toNat) 1))] }) s

/-- SETFE (R112): .full and .empty take effect like a write of latency 1; .test writes a predicate. -/
def execSetfe (f : Fields) (s : State) : Out :=
  frame (.setfe f) (fun v s =>
    if f.minor.toNat = 2 then
      finish 1 1 (fun l =>
        { preds := [(f.d.toNat, !(Map.get v.g.empty f.a.toNat 0).getLsbD l &&
            !(Map.get v.g.poison f.a.toNat 0).getLsbD l)] }) v s
    else if v.lanes = 0 then .next (retire v.t v.gi 1 s)
    else
      let s := countExec v.t v.gi v.lanes s
      let (seq, s) := s.fresh
      let w : Fly := { seq := seq, vis := v.run.nominal + 1, kind := 1 + f.minor.toNat, reg := f.a.toNat
                       vals := v.lanes.lanes.map (fun l => (l, 0)), cnts := [] }
      .next (retire v.t v.gi 1 (s.modGroup v.t v.gi (fun g => { g with
        clause := g.clause.map (fun r => { r with fly := insertFly w r.fly }) })))) s

/-- An index of MOVX or MOVXW is out of range, odd for a pair, or absent from the role's map (R113). -/
def badIndex (v : View) (n x : Nat) : Bool :=
  255 < x || (n == 2 && x % 2 == 1) || (List.range n).any (fun k => v.team.shape v.gi (x + k) == 0)

/-- MOVX (R113): the indexed reads make it wait or trap; the result is long-latency. -/
def execMovx (f : Fields) (s : State) : Out :=
  let n := if f.minor.toNat = 1 then 2 else 1
  let te := f.mod.getLsbD 0
  frame (.movx f) (fun v s0 =>
    let good := v.lanes.lanes.filter (fun l => !badIndex v n (v.a l))
    let srcs := fun l => (List.range n).map (fun k => (v.a l + k, te))
    if good.any (fun l => blocked v.g (1#32 <<< l) (srcs l)) then stall s0
    else
      let s := trapLanes v ((v.lanes.lanes.filter (fun l => badIndex v n (v.a l))).map (fun l => (l, (1, 0)))) s0
      let bad := good.filterMap (fun l => (readTrap v.g l (srcs l)).map (fun c => (l, c)))
      let s := trapLanes v bad s
      let rest := good.filter (fun l => (readTrap v.g l (srcs l)).isNone)
      let lanes := LaneSet.ofList rest
      let s := countExec v.t v.gi lanes s
      let (id, s) := s.fresh
      let results := rest.map (fun l => (l, (List.range n).map (fun k => readReg v.team v.gi v.g (v.a l + k) l)))
      .next (retire v.t v.gi 1 (sendLong v id n .none lanes results false [] s))) s

/-- MOVXW (R114): each target register is written once, by the threads that named it; SHAPE strikes those of a
target whose values fit no shape. -/
def execMovxw (f : Fields) (s : State) : Out :=
  let n := if f.minor.toNat = 1 then 2 else 1
  frame (.movxw f) (fun v s =>
    let bad := v.lanes.lanes.filter (fun l => badIndex v n (v.a l))
    let good := v.lanes.lanes.filter (fun l => !badIndex v n (v.a l))
    let s := trapLanes v (bad.map (fun l => (l, (1, 0)))) s
    let targets := (good.map v.a).eraseDups
    let outsOf := fun x => (good.filter (fun l => v.a l == x)).map (fun l =>
      (l, ({ regs := writesOf x (v.b l) n } : LaneOut)))
    targets.foldl (fun (acc : State) x =>
        let (outs, acc) := injectShaped v (outsOf x) acc
        match shapeFault v outs with
        | some reg => trapLanes v (outs.map (fun lo => (lo.1, (3, reg)))) acc
        | none =>
          let acc := countExec v.t v.gi (LaneSet.ofList (outs.map Prod.fst)) acc
          let (seq, acc) := acc.fresh
          acc.modGroup v.t v.gi (launchWrites v 11 seq outs)) s
      |> fun s => .next (retire v.t v.gi 1 s)) s

end Sys2Proof.Machine
end

