-- ==== Sys2Proof/Machine/Perform.lean ====
section
/-! DEFINITION. Loads and stores perform (R160–R184, R189–R195, R199, R326–R332): a load is answered at its home or by the log, a
store-queue element performs in its core or at its home, a queued scratchpad or window access performs, a registration is
granted, a line is replaced. -/

namespace Sys2Proof.Machine

/-! ## Loads -/

/-- The home of an element refuses it, since a scrub took its range after its translation (R468). -/
def State.turnedAway (s : State) (e : MemElem) : Bool := e.xl.isSome && s.refused e.pa

/-- The bytes of an element that the run itself stored: its group's store queue, then its held lines (R179, R183). -/
def State.ownBytes (s : State) (tm : Team) (g : Group) (o : MemOp) (e : MemElem) : List (Option Byte) :=
  (List.range e.size).map (fun i =>
    match (g.queueByte o.asid o.id (e.va + i)).join with
    | some b => some b
    | none =>
      if tm.actsAs g e.lane = .unchecked ∨ e.xl.isNone then none else s.heldByte tm (e.pa + i))

/-- Bytes under others that take their place. -/
def overlay (own : List (Option Byte)) (bs : List Byte) : List Byte := (own.zip bs).map (fun p => p.1.getD p.2)

/-- What a home records of an element that it serves (R388). -/
def MemElem.report (e : MemElem) (tm : Team) (gi : Nat) (g : Group) : UnitFault :=
  UnitFault.of tm g e.pa e.va (32 * gi + e.lane)

/-- The home of an element serves it (R388). -/
def State.serveElem (s : State) (tm : Team) (gi : Nat) (g : Group) (e : MemElem) : State :=
  s.serve tm.part (s.homeUnit e.pa) (e.report tm gi g)

/-- The bytes of an element at its home or in its register block, and the machine after the read (R180, R184, R190). -/
def State.readElem (s : State) (tm : Team) (gi : Nat) (g : Group) (e : MemElem) : List Byte × State :=
  let s := s.serveElem tm gi g e
  let pa := e.pa
  match homeOf pa with
  | .registers => let (x, s) := s.regRead pa e.size; (leBytes x e.size, s)
  | .dram _ =>
    let bs := s.homeBytes (s.viewOf e.leaf pa) pa e.size
    let s := (if hasBit e.leaf 5 then s.forwardStamp pa e.size else s.readAtHome pa e.size).consume tm.part
      (e.report tm gi g) pa e.size
    (bs, s)
  | _ => (s.homeBytes 0 pa e.size, s)

/-- An answer from the home fills the L1 of an ordinary load's core (R177, R180, R183): not for an LDQ, an L2-only page,
the host window, a checked run, or a range that is being shot down. A bypassing read drops the core's own older copy, so
that a thread's reads do not go backwards (R181; log entry 31). -/
def State.fillFor (s : State) (tm : Team) (g : Group) (o : MemOp) (e : MemElem) : State :=
  if o.kind == .ld && tm.actsAs g e.lane == .unchecked && isDram e.pa && bits e.leaf 51 50 != 1 && !hasBit e.leaf 5 &&
      !s.shooting tm.part o.asid e.va then
    s.fillL1 tm.core e.va o.asid e.pa e.leaf (1#4 <<< (e.va % 128 / 32)) (s.lineBytes e.leaf e.pa)
  else s.modCore tm.core (·.dropSectors e.pa e.size)

/-- How many 8-byte entries a value takes in the log (R329). -/
def entryCount (size : Nat) : Nat := (size + 7) / 8

/-- Log a value of a lane, one entry per 8 bytes (R329). -/
def logValue (t gi l kind flag cnt size x : Nat) (s : State) : State :=
  (List.range (entryCount size)).foldl (fun s k => addLog t
    { value := bits x (64 * k + 63) (64 * k), thread := 32 * gi + l, kind := kind, flag := flag
      cnt := cnt % 2 ^ 32, piece := [] } s) s

/-- A replaying run's element takes its entries (R331, R332). -/
def State.takeElem (s : State) (t gi : Nat) (g : Group) (tm : Team) (o : MemOp) (e : MemElem) (flag : Nat) : State :=
  let (ws, s) := (List.range (entryCount e.size)).foldl (fun (acc : List Nat × State) _ =>
    let (w, s) := takeLog t gi e.lane 0 acc.2
    (acc.1 ++ [w], s)) ([], s)
  let bs := leBytes (joinWords ws) e.size
  let bs := if tm.mode = .third ∧ flag = 1 then overlay (s.ownBytes tm g o e) bs else bs
  loadDone t gi o e.lane (ofLeBytes bs) s

/-- The bytes of an element all come from its group's store queue (R331). -/
def Group.allQueued (g : Group) (o : MemOp) (e : MemElem) : Bool :=
  (List.range e.size).all (fun i => ((g.queueByte o.asid o.id (e.va + i)).join).isSome)

/-- A read at the home of a replaying run with no entry finds its line recent: the team becomes unchecked (R331). -/
def State.testRecent (s : State) (tm : Team) (mode : RunMode) (e : MemElem) : State :=
  if (mode == .trail || mode == .third) && s.recent tm e.pa then s.uncheck tm 2 else s

/-- One element of a load performs where it may (R180, R326). -/
def loadElem (t gi : Nat) (o : MemOp) (e : MemElem) (s : State) : State :=
  match s.team? t, s.group? t gi with
  | some tm, some g =>
    match s.loadReady t gi tm g o e with
    | none => s
    | some passed =>
    if !s.elemServed tm e then s
    else
      let mode := tm.actsAs g e.lane
      let own := s.ownBytes tm g o e
      let noted := s.modGroup t gi (·.noteLoad o e passed)
      let entry := if mode == .trail || mode == .third then s.loadEntry tm gi e else none
      match entry with
      | some x => if s.goesHome tm gi g o e && e.xl.isNone then s else noted.takeElem t gi g tm o e x.flag
      | none =>
        if own.all (·.isSome) then
          let x := ofLeBytes (own.map (·.getD 0))
          let s := if mode = .lead then logValue t gi e.lane 0 1 e.cnt e.size x noted
            else if g.allQueued o e then noted else noted.testRecent tm mode e
          loadDone t gi o e.lane x s
        else
          match (if mode = .unchecked then localValue (s.core tm.core) g o e true else none) with
          | some x => loadDone t gi o e.lane x noted
          | none =>
            if e.xl.isNone then s
            else if s.turnedAway e then loadDone t gi o e.lane 0 (noted.accessFault t gi o.addr o.idx e.lane e.va)
            else
              let (bs, s) := noted.readElem tm gi g e
              let s := s.fillFor tm g o e
              let x := ofLeBytes (overlay own bs)
              let recent := s.recent tm e.pa
              let mine := own.any (·.isSome)
              let s := match mode with
                | .lead => if recent || mine then logValue t gi e.lane 0 (if mine then 1 else 0) e.cnt e.size x s else s
                | _ => s.testRecent tm mode e
              loadDone t gi o e.lane x s
  | _, _ => s

/-- LOAD_MISS_AT_HOME (R180, R189, R190): the elements of a load on one line, in lane order. -/
def execLoadMissAtHome (team group op line : Nat) (s : State) : Out :=
  match (s.group? team group).bind (fun g => g.loads.find? (fun o => o.id == op)) with
  | none => .next s
  | some o =>
    .next ((o.elems.filter (fun e => e.va / 128 == line && !e.done)).foldl (fun s e => loadElem team group o e s) s)

/-! ## Stores -/

/-- A store-queue element has performed; an entry all of whose elements have performed leaves the queue. -/
def storeDone (t gi id lane : Nat) (s : State) : State :=
  s.modGroup t gi (fun g => { g with stores := markDone id lane g.stores })

/-- Write bytes into a core under its registration (R178): they are dirty, and show in the L1 line that holds them. -/
def Core.writeDirty (c : Core) (asid va pa leaf : Nat) (bs : List Byte) : Core :=
  let dirty := padPut c.dirty pa bs
  let c := if (c.l1Line asid va).isSome then c else c.fillL1 va asid pa leaf 0#4 []
  let put := fun (l : L1Line) => (List.range 128).map (fun i =>
    if va % 128 ≤ i ∧ i < va % 128 + bs.length then bs.getD (i - va % 128) 0 else l.bytes.getD i 0)
  let l1 := c.l1.map (fun (l : L1Line) =>
    if l.va = va / 128 * 128 ∧ l.asid = asid then { l with bytes := put l } else l)
  { c with dirty := dirty, l1 := l1 }

/-- The bytes that an element stores. -/
def MemElem.bytes (e : MemElem) : List Byte := leBytes e.data e.size

/-- A store performs in its core under a registration that the core holds, in an L1 that has room for its line (R178). -/
def State.coreWrite (s : State) (tm : Team) (o : MemOp) (e : MemElem) : State :=
  s.modCore tm.core (·.writeDirty o.asid e.va e.pa e.leaf e.bytes)

/-- A store goes through to its home and the core's own copy of its sector is dropped (R177, R190). -/
def State.throughWrite (s : State) (tm : Team) (gi : Nat) (g : Group) (e : MemElem) : State :=
  let s := s.serveElem tm gi g e
  let view := s.viewOf e.leaf e.pa
  let t := match homeOf e.pa with
    | .registers => s.regWrite e.pa e.size e.data
    | _ => if hasBit e.leaf 5 then s.homeWritePast view e.pa e.bytes else s.homeWrite view e.pa e.bytes
  t.modCore tm.core (·.dropSectors e.pa e.size)

/-- A read-modify-write at its home (R192–R194): the grain's registration is recalled, the core's copy of the grain is
dropped; the old value. An atomic that writes nothing stamps and unpublishes its line all the same (R327, R350). -/
def State.rmw (s : State) (tm : Team) (gi : Nat) (g : Group) (o : MemOp) (e : MemElem) : Nat × State :=
  let (lo, n) := grainOf e.leaf e.pa
  let s := s.serveElem tm gi g e
  let view := s.viewOf e.leaf e.pa
  let s := if isDram e.pa then
      ((s.recall lo n).readAtHome e.pa e.size).consume tm.part (e.report tm gi g) e.pa e.size
    else s
  let m := ofLeBytes (s.homeBytes view e.pa e.size)
  let x := atomicNew o.typ o.aop m e.data e.cmp
  let s := if o.kind = .cas ∧ m ≠ e.cmp then s.touchLine e.pa else s.homeWrite view e.pa (leBytes x e.size)
  (m, s.modCore tm.core (·.dropSectors lo n))

/-- An atomic of a replaying run performs nothing; a result comes from the log (R326). -/
def replayAtomic (t gi : Nat) (o : MemOp) (e : MemElem) (s : State) : State :=
  if o.kind = .red then s
  else
    let (ws, s) := (List.range (entryCount e.size)).foldl (fun (acc : List Nat × State) _ =>
      let (w, s) := takeLog t gi e.lane 1 acc.2
      (acc.1 ++ [w], s)) ([], s)
    s.modGroup t gi (·.setResult o.id e.lane (o.words (joinWords ws % 2 ^ (8 * e.size))))

/-- An atomic performs at its home; a lead logs its result (R326, R329). -/
def performAtomic (t gi : Nat) (tm : Team) (g : Group) (o : MemOp) (e : MemElem) (s : State) : State :=
  let (m, s) := s.rmw tm gi g o e
  if o.kind = .red then s
  else
    let s := if tm.actsAs g e.lane = .lead then logValue t gi e.lane 1 0 e.cnt e.size m s else s
    s.modGroup t gi (·.setResult o.id e.lane (o.words m))

/-- A store performs in a core that holds its grain: a normal or streaming page of DRAM (R177, R178). -/
def MemElem.registers (o : MemOp) (e : MemElem) : Bool :=
  o.kind == .st && isDram e.pa && bits e.leaf 51 50 != 1 && !hasBit e.leaf 5

/-- One element performs, or takes the core's port while its registration is requested (R178, R183, R326). A store that its run
cannot hold waits while the run becomes unchecked and what it holds is released (R340, R341). A home that refuses it
makes it a protection violation (R468). -/
def storeElem (t gi : Nat) (tm : Team) (g : Group) (o : MemOp) (e : MemElem) (s : State) : State :=
  let mode := tm.actsAs g e.lane
  let done := storeDone t gi o.id e.lane
  let plain := o.kind == .st || o.kind == .stq
  if s.turnedAway e then done (s.accessFault t gi o.addr o.idx e.lane e.va)
  else if mode = .trail ∨ (mode = .third ∧ !plain) then done (if plain then s else replayAtomic t gi o e s)
  else if !plain then done (performAtomic t gi tm g o e s)
  else if mode ≠ .unchecked then
    match (s.serveElem tm gi g e).runStore tm e.leaf e.pa e.bytes with
    | .ok s => done (s.modCore tm.core (·.dropSectors e.pa e.size))
    | .error reason => s.uncheck tm reason
  else if e.registers o && !s.shooting tm.part o.asid e.va then
    let s := s.roomL1 tm.core e.va o.asid
    if s.holds e.leaf e.pa tm.core then done (s.coreWrite tm o e)
    else s.modCore tm.core (fun c => { c with port := some (t, gi, o.id, e.lane) })
  else done (s.throughWrite tm gi g e)

/-- STORE_PERFORMS (R178): the next element of a group's store queue, when the core's port does not wait for a grant. -/
def execStorePerforms (team group : Nat) (s : State) : Out :=
  match s.team? team, s.group? team group with
  | some tm, some g =>
    match s.nextStore team group tm g with
    | none => .next s
    | some (o, e, passed) =>
      if (s.core tm.core).port.isSome || !s.elemServed tm e then .next s
      else .next (storeElem team group tm g o e (s.modGroup team group (·.pass passed)))
  | _, _ => .next s

/-- REGISTRATION_REQUEST (R178, R181, R182): the home grants the grain that the core's port waits for, other registrants
give it up, the core's older copies of it are dropped, and the element is written. An element that may no longer enter the L1,
since its range is being shot down, goes through to its home (R225). -/
def execRegistrationRequest (core : Nat) (s : State) : Out :=
  match (s.core core).port with
  | none => .next s
  | some (t, gi, id, lane) =>
    let freed := s.modCore core (fun c => { c with port := none })
    match s.team? t, s.group? t gi with
    | some tm, some g =>
      match (g.stores.find? (fun o => o.id == id)).bind
          (fun o => (o.elems.find? (fun e => e.lane == lane && !e.done)).map (fun e => (o, e))) with
      | none => .next freed
      | some (o, e) =>
        match s.passes t gi tm g (o.access 1 e) with
        | none => .next s
        | some passed =>
          if !s.elemServed tm e then .next s
          else
            let s := freed.modGroup t gi (·.pass passed)
            if s.turnedAway e then .next (storeDone t gi id lane (s.accessFault t gi o.addr o.idx lane e.va))
            else if s.shooting tm.part o.asid e.va then .next (storeDone t gi id lane (s.throughWrite tm gi g e))
            else
              let (lo, n) := grainOf e.leaf e.pa
              let s := s.roomL1 core e.va o.asid
              let s := ((s.serveElem tm gi g e).grant e.leaf e.pa core).modCore core (·.dropSectors lo n)
              .next (storeDone t gi id lane (s.coreWrite tm o e))
    | _, _ => .next freed

/-! ## Scratchpads, windows and records -/

/-- The bytes of an element of a queued access in its array. A window whose team is gone reads as free bytes (DESIGN CHOICE, log
entry 98). -/
def State.localBytes (s : State) (t : Nat) (o : LocalOp) (e : MemElem) : List Byte :=
  match o.space with
  | 1 => ((s.team? t).map (fun tm => padBytes tm.padNonce tm.pad e.va e.size)).getD []
  | 3 => Memory.getBytes s.kpad e.va e.size
  | _ =>
    match s.team? o.target with
    | some tm => Memory.getBytes (if o.space = 4 then tm.shadow else tm.visible) e.va e.size
    | none => (List.range e.size).map (fun i => Config.freeByte s.nonce (e.va + i))

/-- Write bytes of an element of a queued access; those for a window whose team is gone are dropped (log entry 98). -/
def State.localWrite (s : State) (t : Nat) (o : LocalOp) (e : MemElem) (bs : List Byte) : State :=
  writeReach t (o.space == 4) bs s
    (match o.space with
     | 1 => .pad e.va
     | 3 => .chip e.va
     | _ => .window o.target e.va)

/-- A run's access of a window or the chip scratchpad acts on nothing in a trail or a third run (R326). -/
def LocalOp.suppressed (o : LocalOp) (tm : Team) : Bool := tm.replays && o.space != 1

/-- An access to a team record performs (R244–R246), and its status: an addition to its counter, a record armed, a record written
and armed. A replaying run does none of it (R326). -/
def recordElem (t gi : Nat) (tm : Team) (g : Group) (o : LocalOp) (e : MemElem) (s : State) : Nat × State :=
  let u := { UnitFault.of tm g o.addr 0 (32 * gi + e.lane) with index := o.idx }
  if tm.replays then (0, s)
  else if o.aop = 0 then
    (0, if (s.pinRead 0 tm.part o.target e.va 32).isNone then s.accessFault t gi o.addr o.idx e.lane e.va
      else s.runRec (.join tm.part o.target e.va e.data))
  else if o.aop = 1 then s.arm tm.part o.target e.va (s.coreUnit tm) u
  else s.spawn tm.part o.target e.va e.data e.cmp (s.coreUnit tm) u

/-- A lane's result of a queued access, which goes through the log of a checked run where it is logged (R326, R329): kind 4 a
status, 5 a load, 1 an atomic. -/
def localResult (t gi : Nat) (o : LocalOp) (e : MemElem) (x : Nat) (s : State) : State :=
  let kind := if o.space = 5 then 4 else if o.kind = 0 then 5 else 1
  let (x, s) := if o.logs then throughLog t gi e.lane kind e.cnt (elemWords o.typ) x s else (x, s)
  s.modGroup t gi (·.setResult o.insn e.lane
    (wordsOf (if o.kind = 0 then extendLoad o.typ x else x) (Forms.typeRegs o.typ)))

/-- One element of a queued access performs (R160, R162, R163, R244–R246): a load, a store, a read-modify-write, or what it does
to a team record. -/
def localElem (t gi : Nat) (o : LocalOp) (e : MemElem) (s : State) : State :=
  match s.team? t, s.group? t gi with
  | some tm, some g =>
    if o.space = 5 then
      let (st, s) := recordElem t gi tm g o e s
      if o.quiet then s else localResult t gi o e st s
    else
      let m := ofLeBytes (s.localBytes t o e)
      let put := fun (bs : List Byte) (s : State) => if o.suppressed tm then s else s.localWrite t o e bs
      match o.kind with
      | 0 => localResult t gi o e m s
      | 1 => put (leBytes e.data e.size) s
      | _ =>
        let s := put (leBytes (atomicNew o.typ o.aop m e.data e.cmp) e.size) s
        if o.quiet then s else localResult t gi o e m s
  | _, _ => s

/-- A queued access performs, its elements in ascending lane order, and leaves its queue (R162, R166, R173, R244). -/
def performLocal (t gi : Nat) (o : LocalOp) (s : State) : State :=
  let s := o.elems.foldl (fun s e => localElem t gi o e s) s
  { s.modGroup t gi (fun g => { g with locals := g.locals.filter (fun x => x.id != o.id) }) with nonce := s.nonce + 1 }

/-- RESULT_LANDS (R105, R160, R215): an access of a scratchpad, a window, the chip scratchpad or a record performs, which fixes its
result; or a result that is fixed and has not landed is written. -/
def execResultLands (team group op : Nat) (s : State) : Out :=
  match s.team? team, s.group? team group with
  | some tm, some g =>
    match g.locals.find? (fun o => o.id == op) with
    | some o =>
      match s.localReady team group tm g o with
      | none => .next s
      | some passed => .next (performLocal team group o (s.modGroup team group (·.pass passed)))
    | none => .next (landResult team group op s)
  | _, _ => .next s

/-! ## Replacement -/

/-- CACHE_REPLACEMENT (R182, R184): the L1 line of a core, by its virtual line, or an L2 line, by its physical line, is
replaced; registered bytes are written back first. A line of a streaming page is replaced before any other of the L1 (R177). -/
def execCacheReplacement (l2 : Bool) (core asid line : Nat) (s : State) : Out :=
  if l2 then .next (if s.l2.contains line then s.dropL2 line else s)
  else
    match (s.core core).l1Line asid (128 * line) with
    | none => .next s
    | some l => .next (if l.streaming || !(s.core core).l1.any (·.streaming) then s.dropL1 core l else s)

end Sys2Proof.Machine
end

