-- ==== Sys2Proof/Machine/Riscv.lean ====
section
/-! DEFINITION. One instruction of the management core (R459, R463): RV64IMAC with Zicsr, Zifencei and Zknh in M-mode, after
the RISC-V standard that the manual names (log entry 12). -/

namespace Sys2Proof.Machine

/-! ## Registers and traps -/

/-- A register; x0 reads as 0. -/
def Mgmt.reg64 (m : Mgmt) (n : Nat) : Nat := if n = 0 then 0 else (Map.get m.x n 0).toNat

/-- Write a register; x0 takes nothing. -/
def Mgmt.setReg (m : Mgmt) (n x : Nat) : Mgmt := if n = 0 then m else { m with x := Map.put m.x n (BitVec.ofNat 64 x) }

/-- A control and status register as it is held. -/
def Mgmt.csr (m : Mgmt) (n : Nat) : Nat := (Map.get m.csrs n 0).toNat

/-- Write one as it is held. -/
def Mgmt.setCsr (m : Mgmt) (n x : Nat) : Mgmt := { m with csrs := Map.put m.csrs n (BitVec.ofNat 64 x) }

/-- An exception (RISC-V privileged architecture): mepc, mcause, mtval and mstatus are written and the pc goes to mtvec. -/
def Mgmt.trap (m : Mgmt) (cause tval : Nat) : Mgmt :=
  let status := m.csr 0x300
  let m := (((m.setCsr 0x341 m.pc.toNat).setCsr 0x342 cause).setCsr 0x343 tval).setCsr 0x300
    (if hasBit status 3 then 0x80 else 0)
  { m with pc := BitVec.ofNat 64 (m.csr 0x305 / 4 * 4) }

/-- The return from an exception. -/
def Mgmt.mret (m : Mgmt) : Mgmt :=
  let status := m.csr 0x300
  { m.setCsr 0x300 (0x80 + (if hasBit status 7 then 8 else 0)) with pc := BitVec.ofNat 64 (m.csr 0x341) }

/-- What a CSR reads as; none where the core has no such register. -/
def Mgmt.csrRead (m : Mgmt) (n : Nat) : Option Nat :=
  match n with
  | 0x300 => some (m.csr 0x300 + 0x1800)
  | 0x301 => some 0x8000000000001105
  | 0x344 => some 0
  | _ =>
    if [0x304, 0x305, 0x340, 0x341, 0x342, 0x343, 0xB00, 0xB02].contains n then some (m.csr n)
    else if 0xF11 ≤ n ∧ n ≤ 0xF15 then some 0
    else none

/-- A write of a CSR: read-only fields ignore it. -/
def Mgmt.csrWrite (m : Mgmt) (n x : Nat) : Mgmt :=
  match n with
  | 0x300 => m.setCsr n (x &&& 0x88)
  | 0x301 => m
  | 0x344 => m
  | 0x305 => m.setCsr n (x / 4 * 4 + x % 2)
  | 0x341 => m.setCsr n (x / 2 * 2)
  | _ => m.setCsr n x

/-! ## Compressed instructions -/

/-- A register of a compressed instruction's three bits. -/
def creg (c lo : Nat) : Nat := 8 + bits c (lo + 2) lo

/-- An I-type word. -/
def iType (op f3 rd rs1 : Nat) (imm : Int) : Nat := wrap 12 imm * 2 ^ 20 + rs1 * 2 ^ 15 + f3 * 2 ^ 12 + rd * 2 ^ 7 + op

/-- An R-type word. -/
def rType (op f3 f7 rd rs1 rs2 : Nat) : Nat := f7 * 2 ^ 25 + rs2 * 2 ^ 20 + rs1 * 2 ^ 15 + f3 * 2 ^ 12 + rd * 2 ^ 7 + op

/-- An S-type store word. -/
def sType (f3 rs1 rs2 imm : Nat) : Nat :=
  bits imm 11 5 * 2 ^ 25 + rs2 * 2 ^ 20 + rs1 * 2 ^ 15 + f3 * 2 ^ 12 + imm % 32 * 2 ^ 7 + 0x23

/-- A branch word. -/
def bType (f3 rs1 : Nat) (off : Int) : Nat :=
  let o := wrap 13 off
  bits o 12 12 * 2 ^ 31 + bits o 10 5 * 2 ^ 25 + rs1 * 2 ^ 15 + f3 * 2 ^ 12 + bits o 4 1 * 2 ^ 8 + bits o 11 11 * 2 ^ 7 + 0x63

/-- A jump word. -/
def jType (rd : Nat) (off : Int) : Nat :=
  let o := wrap 21 off
  bits o 20 20 * 2 ^ 31 + bits o 10 1 * 2 ^ 21 + bits o 11 11 * 2 ^ 20 + bits o 19 12 * 2 ^ 12 + rd * 2 ^ 7 + 0x6F

/-- The full word of a compressed instruction of quadrant 0. -/
def expandQ0 (c : Nat) : Option Nat :=
  let w4 := bits c 12 10 * 8 + bits c 6 6 * 4 + bits c 5 5 * 64
  let w8 := bits c 12 10 * 8 + bits c 6 5 * 64
  match bits c 15 13 with
  | 0 =>
    let imm := bits c 12 11 * 16 + bits c 10 7 * 64 + bits c 6 6 * 4 + bits c 5 5 * 8
    if imm = 0 then none else some (iType 0x13 0 (creg c 2) 2 imm)
  | 2 => some (iType 0x03 2 (creg c 2) (creg c 7) w4)
  | 3 => some (iType 0x03 3 (creg c 2) (creg c 7) w8)
  | 6 => some (sType 2 (creg c 7) (creg c 2) w4)
  | 7 => some (sType 3 (creg c 7) (creg c 2) w8)
  | _ => none

/-- Quadrant 1. -/
def expandQ1 (c : Nat) : Option Nat :=
  let rd := bits c 11 7
  let imm := sext (bits c 12 12 * 32 + bits c 6 2) 6
  let shamt := bits c 12 12 * 32 + bits c 6 2
  let r := creg c 7
  let jump := sext (bits c 12 12 * 2048 + bits c 11 11 * 16 + bits c 10 9 * 256 + bits c 8 8 * 1024 + bits c 7 7 * 64 +
    bits c 6 6 * 128 + bits c 5 3 * 2 + bits c 2 2 * 32) 12
  let branch := sext (bits c 12 12 * 256 + bits c 11 10 * 8 + bits c 6 5 * 64 + bits c 4 3 * 2 + bits c 2 2 * 32) 9
  match bits c 15 13 with
  | 0 => some (iType 0x13 0 rd rd imm)
  | 1 => if rd = 0 then none else some (iType 0x1B 0 rd rd imm)
  | 2 => some (iType 0x13 0 rd 0 imm)
  | 3 =>
    if shamt = 0 then none
    else if rd = 2 then
      some (iType 0x13 0 2 2 (sext (bits c 12 12 * 512 + bits c 6 6 * 16 + bits c 5 5 * 64 + bits c 4 3 * 128 + bits c 2 2 * 32) 10))
    else some (wrap 20 imm * 2 ^ 12 + rd * 2 ^ 7 + 0x37)
  | 4 =>
    match bits c 11 10 with
    | 0 => some (iType 0x13 5 r r shamt)
    | 1 => some (iType 0x13 5 r r (0x400 + shamt))
    | 2 => some (iType 0x13 7 r r imm)
    | _ =>
      match bits c 12 12, bits c 6 5 with
      | 0, 0 => some (rType 0x33 0 0x20 r r (creg c 2))
      | 0, 1 => some (rType 0x33 4 0 r r (creg c 2))
      | 0, 2 => some (rType 0x33 6 0 r r (creg c 2))
      | 0, 3 => some (rType 0x33 7 0 r r (creg c 2))
      | 1, 0 => some (rType 0x3B 0 0x20 r r (creg c 2))
      | 1, 1 => some (rType 0x3B 0 0 r r (creg c 2))
      | _, _ => none
  | 5 => some (jType 0 jump)
  | 6 => some (bType 0 r branch)
  | _ => some (bType 1 r branch)

/-- Quadrant 2. -/
def expandQ2 (c : Nat) : Option Nat :=
  let rd := bits c 11 7
  let rs2 := bits c 6 2
  match bits c 15 13 with
  | 0 => some (iType 0x13 1 rd rd (bits c 12 12 * 32 + rs2 : Nat))
  | 2 => if rd = 0 then none else some (iType 0x03 2 rd 2 (bits c 12 12 * 32 + bits c 6 4 * 4 + bits c 3 2 * 64 : Nat))
  | 3 => if rd = 0 then none else some (iType 0x03 3 rd 2 (bits c 12 12 * 32 + bits c 6 5 * 8 + bits c 4 2 * 64 : Nat))
  | 4 =>
    if bits c 12 12 = 0 then
      if rs2 ≠ 0 then some (rType 0x33 0 0 rd 0 rs2)
      else if rd = 0 then none else some (iType 0x67 0 0 rd 0)
    else if rs2 ≠ 0 then some (rType 0x33 0 0 rd rd rs2)
    else if rd = 0 then some 0x00100073
    else some (iType 0x67 0 1 rd 0)
  | 6 => some (sType 2 2 rs2 (bits c 12 9 * 4 + bits c 8 7 * 64))
  | 7 => some (sType 3 2 rs2 (bits c 12 10 * 8 + bits c 9 7 * 64))
  | _ => none

/-- The full word of a compressed instruction; none is illegal. -/
def expand (c : Nat) : Option Nat :=
  match c % 4 with
  | 0 => expandQ0 c
  | 1 => expandQ1 c
  | _ => expandQ2 c

/-! ## Arithmetic -/

/-- A 32-bit result, sign-extended. -/
def word64 (x : Nat) : Nat := wrap 64 (sext x 32)

/-- Quotient towards zero and remainder of signed division, with the results of RISC-V for a zero divisor. -/
def divSigned (n a b : Nat) : Nat × Nat :=
  let (x, y) := (sext a n, sext b n)
  if y = 0 then (2 ^ n - 1, a % 2 ^ n) else (wrap n (Int.tdiv x y), wrap n (Int.tmod x y))

/-- The same without signs. -/
def divUnsigned (n a b : Nat) : Nat × Nat :=
  let (x, y) := (a % 2 ^ n, b % 2 ^ n)
  if y = 0 then (2 ^ n - 1, x) else (x / y, x % y)

/-- The register-register operations of OP: function code 3, function code 7. -/
def aluOp (f3 f7 a b : Nat) : Option Nat :=
  let sh := b % 64
  match f7, f3 with
  | 0, 0 => some (a + b)
  | 0x20, 0 => some (a + 2 ^ 64 - b)
  | 0, 1 => some (a <<< sh)
  | 0, 2 => some (if sext a 64 < sext b 64 then 1 else 0)
  | 0, 3 => some (if a < b then 1 else 0)
  | 0, 4 => some (a ^^^ b)
  | 0, 5 => some (a >>> sh)
  | 0x20, 5 => some (wrap 64 (sext a 64 / 2 ^ sh))
  | 0, 6 => some (a ||| b)
  | 0, 7 => some (a &&& b)
  | 1, 0 => some (a * b)
  | 1, 1 => some (wrap 64 (sext a 64 * sext b 64 / 2 ^ 64))
  | 1, 2 => some (wrap 64 (sext a 64 * b / 2 ^ 64))
  | 1, 3 => some (a * b / 2 ^ 64)
  | 1, 4 => some (divSigned 64 a b).1
  | 1, 5 => some (divUnsigned 64 a b).1
  | 1, 6 => some (divSigned 64 a b).2
  | 1, 7 => some (divUnsigned 64 a b).2
  | _, _ => none

/-- The operations of OP-32. -/
def aluOp32 (f3 f7 a b : Nat) : Option Nat :=
  let sh := b % 32
  match f7, f3 with
  | 0, 0 => some (word64 (a + b))
  | 0x20, 0 => some (word64 (a + 2 ^ 64 - b))
  | 0, 1 => some (word64 (a <<< sh))
  | 0, 5 => some (word64 (a % 2 ^ 32 >>> sh))
  | 0x20, 5 => some (wrap 64 (sext a 32 / 2 ^ sh))
  | 1, 0 => some (word64 (a * b))
  | 1, 4 => some (word64 (divSigned 32 a b).1)
  | 1, 5 => some (word64 (divUnsigned 32 a b).1)
  | 1, 6 => some (word64 (divSigned 32 a b).2)
  | 1, 7 => some (word64 (divUnsigned 32 a b).2)
  | _, _ => none

/-- The SHA-256 functions of Zknh on the low 32 bits: Σ0, Σ1, σ0, σ1. -/
def sha256Op (k a : Nat) : Nat :=
  let x : Word := BitVec.ofNat 32 a
  let y : Word := match k with
    | 0 => x.rotateRight 2 ^^^ x.rotateRight 13 ^^^ x.rotateRight 22
    | 1 => x.rotateRight 6 ^^^ x.rotateRight 11 ^^^ x.rotateRight 25
    | 2 => x.rotateRight 7 ^^^ x.rotateRight 18 ^^^ (x >>> 3)
    | _ => x.rotateRight 17 ^^^ x.rotateRight 19 ^^^ (x >>> 10)
  word64 y.toNat

/-- The immediate operations of OP-IMM. -/
def aluImm (f3 imm a : Nat) : Option Nat :=
  let x := wrap 64 (sext imm 12)
  let d : Dword := BitVec.ofNat 64 a
  match f3 with
  | 1 =>
    if imm < 64 then some (a <<< imm)
    else if 0x100 ≤ imm ∧ imm < 0x104 then some (sha256Op (imm - 0x100) a)
    else match imm with
      | 0x104 => some (sha512Sum0 d).toNat
      | 0x105 => some (sha512Sum1 d).toNat
      | 0x106 => some (sha512Sig0 d).toNat
      | 0x107 => some (sha512Sig1 d).toNat
      | _ => none
  | 5 => if imm / 64 = 0 ∨ imm / 64 = 0x10 then aluOp 5 (if imm / 64 = 0 then 0 else 0x20) a (imm % 64) else none
  | _ => aluOp f3 0 a x

/-- The immediate operations of OP-IMM-32. -/
def aluImm32 (f3 imm a : Nat) : Option Nat :=
  match f3 with
  | 0 => aluOp32 0 0 a (wrap 64 (sext imm 12))
  | 1 => if imm < 32 then aluOp32 1 0 a imm else none
  | 5 => if imm < 32 then aluOp32 5 0 a imm else if 0x400 ≤ imm ∧ imm < 0x420 then aluOp32 5 0x20 a (imm % 32) else none
  | _ => none

/-- A branch is taken. -/
def branchIf (f3 a b : Nat) : Option Bool :=
  match f3 with
  | 0 => some (a == b)
  | 1 => some (a != b)
  | 4 => some (sext a 64 < sext b 64)
  | 5 => some (sext b 64 ≤ sext a 64)
  | 6 => some (decide (a < b))
  | 7 => some (decide (b ≤ a))
  | _ => none

/-! ## Memory -/

/-- The address is in the flash window or its swapped alias. -/
def inFlash (a : Nat) : Bool :=
  match mgmtRange a with
  | .flash _ => true
  | .swapped _ => true
  | _ => false

/-- The cause of a load at a misaligned address: an access fault outside the ranges (R459). -/
def loadCause (a : Nat) : Nat := if mgmtRange a = .nowhere then 5 else 4

/-- The cause of a store at a misaligned address: an access fault outside the ranges and in the flash (R459, R460). -/
def storeCause (a : Nat) : Nat := if mgmtRange a = .nowhere ∨ inFlash a = true then 7 else 6

/-- A load of 2^k bytes, sign-extended or not. -/
def State.rvLoad (s : State) (rd a f3 : Nat) : Except (Nat × Nat) State :=
  let n := 2 ^ (f3 % 4)
  if f3 = 7 then .error (2, 0)
  else if a % n ≠ 0 then .error (loadCause a, a)
  else
    match s.mgmtLoad a n with
    | none => .error (5, a)
    | some (x, s) => .ok (s.modMgmt (·.setReg rd (if f3 < 4 then wrap 64 (sext x (8 * n)) else x)))

/-- A store of 2^k bytes. -/
def State.rvStore (s : State) (a f3 x : Nat) : Except (Nat × Nat) State :=
  let n := 2 ^ f3
  if 3 < f3 then .error (2, 0)
  else if a % n ≠ 0 then .error (storeCause a, a)
  else
    match s.mgmtStore a n (x % 2 ^ (8 * n)) with
    | none => .error (7, a)
    | some s => .ok s

/-- The new value of an AMO on n bits; none is no AMO. -/
def amoNew (f5 n m v : Nat) : Option Nat :=
  match f5 with
  | 0x00 => some ((m + v) % 2 ^ n)
  | 0x01 => some v
  | 0x04 => some (m ^^^ v)
  | 0x0C => some (m &&& v)
  | 0x08 => some (m ||| v)
  | 0x10 => some (if sext v n < sext m n then v else m)
  | 0x14 => some (if sext m n < sext v n then v else m)
  | 0x18 => some (min m v)
  | 0x1C => some (max m v)
  | _ => none

/-- LR, SC and AMO: they reach SRAM only. -/
def State.rvAtomic (s : State) (w rd a v : Nat) : Except (Nat × Nat) State :=
  let f5 := bits w 31 27
  let f3 := bits w 14 12
  let n := 2 ^ f3
  let sram := match mgmtRange a with | .sram _ => true | _ => false
  if f3 ≠ 2 ∧ f3 ≠ 3 then .error (2, 0)
  else if a % n ≠ 0 then .error (if f5 = 2 then loadCause a else storeCause a, a)
  else if !sram then .error (if f5 = 2 then 5 else 7, a)
  else
    let old := ((s.mgmtFetch a n).getD 0)
    let result := wrap 64 (sext old (8 * n))
    let put := fun (x : Nat) => (s.mgmtStore a n x).getD s
    match f5 with
    | 2 =>
      if bits w 24 20 ≠ 0 then .error (2, 0)
      else .ok (s.modMgmt (fun m => { m.setReg rd result with reservation := some a }))
    | 3 =>
      if s.mgmt.reservation = some a then
        .ok ((put (v % 2 ^ (8 * n))).modMgmt (fun m => { m.setReg rd 0 with reservation := none }))
      else .ok (s.modMgmt (fun m => { m.setReg rd 1 with reservation := none }))
    | _ =>
      match amoNew f5 (8 * n) old (v % 2 ^ (8 * n)) with
      | none => .error (2, 0)
      | some x => .ok ((put x).modMgmt (·.setReg rd result))

/-! ## System -/

/-- The CSR instructions. -/
def State.rvCsr (s : State) (w rd rs1 : Nat) : Except (Nat × Nat) State :=
  let n := bits w 31 20
  let f3 := bits w 14 12
  let v := if 4 ≤ f3 then rs1 else s.mgmt.reg64 rs1
  let writes := f3 % 4 = 1 ∨ rs1 ≠ 0
  match s.mgmt.csrRead n with
  | none => .error (2, 0)
  | some old =>
    if writes ∧ n / 1024 = 3 then .error (2, 0)
    else
      let new := match f3 % 4 with
        | 1 => v
        | 2 => old ||| v
        | _ => old &&& (2 ^ 64 - 1 - v)
      .ok (s.modMgmt (fun m => (if writes then m.csrWrite n new else m).setReg rd old))

/-! ## One instruction -/

/-- The result of an instruction: a trap of a cause and value, a jump, or the next instruction in order. -/
def State.rvExec (s : State) (w len : Nat) : Except (Nat × Nat) (State × Nat) :=
  let m := s.mgmt
  let pc := m.pc.toNat
  let seq := (pc + len) % 2 ^ 64
  let rd := bits w 11 7
  let a := m.reg64 (bits w 19 15)
  let b := m.reg64 (bits w 24 20)
  let f3 := bits w 14 12
  let iImm := sext (bits w 31 20) 12
  let sImm := sext (bits w 31 25 * 32 + rd) 12
  let bImm := sext (bits w 31 31 * 4096 + bits w 7 7 * 2048 + bits w 30 25 * 32 + bits w 11 8 * 2) 13
  let jImm := sext (bits w 31 31 * 2 ^ 20 + bits w 19 12 * 4096 + bits w 20 20 * 2048 + bits w 30 21 * 2) 21
  let illegal : Except (Nat × Nat) (State × Nat) := .error (2, 0)
  let value := fun (x : Option Nat) => match x with
    | some x => Except.ok (s.modMgmt (·.setReg rd x), seq)
    | none => illegal
  let also := fun (r : Except (Nat × Nat) State) => r.map (fun s => (s, seq))
  match bits w 6 0 with
  | 0x37 => value (some (wrap 64 (sext (bits w 31 12 * 4096) 32)))
  | 0x17 => value (some (wrap 64 (pc + sext (bits w 31 12 * 4096) 32)))
  | 0x6F => .ok (s.modMgmt (·.setReg rd seq), wrap 64 (pc + jImm))
  | 0x67 => if f3 = 0 then .ok (s.modMgmt (·.setReg rd seq), wrap 64 (a + iImm) / 2 * 2) else illegal
  | 0x63 =>
    match branchIf f3 a b with
    | some t => .ok (s, if t then wrap 64 (pc + bImm) else seq)
    | none => illegal
  | 0x03 => also (s.rvLoad rd (wrap 64 (a + iImm)) f3)
  | 0x23 => also (s.rvStore (wrap 64 (a + sImm)) f3 b)
  | 0x13 => value (aluImm f3 (bits w 31 20) a)
  | 0x1B => value (aluImm32 f3 (bits w 31 20) a)
  | 0x33 => value (aluOp f3 (bits w 31 25) a b)
  | 0x3B => value (aluOp32 f3 (bits w 31 25) a b)
  | 0x2F => also (s.rvAtomic w rd a b)
  | 0x0F => if f3 ≤ 1 then .ok (s, seq) else illegal
  | 0x73 =>
    if f3 % 4 ≠ 0 then also (s.rvCsr w rd (bits w 19 15))
    else match w with
      | 0x00000073 => .error (11, 0)
      | 0x00100073 => .error (3, pc)
      | 0x30200073 => let m := m.mret; .ok (s.modMgmt (fun _ => m), m.pc.toNat)
      | 0x10500073 => .ok (s, seq)
      | _ => illegal
  | _ => illegal

/-- The instruction at the pc: its full word, 0 for an illegal compressed one, its length, or the address of a failed
fetch. -/
def State.rvFetch (s : State) : Except Nat (Nat × Nat) :=
  let pc := s.mgmt.pc.toNat
  match s.mgmtFetch pc 2 with
  | none => .error pc
  | some lo =>
    if lo % 4 ≠ 3 then .ok ((expand lo).getD 0, 2)
    else
      match s.mgmtFetch (pc + 2) 2 with
      | none => .error (pc + 2)
      | some hi => .ok (lo + 65536 * hi, 4)

/-- The core after an instruction at `pc` that goes on at `next`: the counters of cycles and instructions count it. The
first jump from the ROM into the plain flash window opens the flash to writes (R460). -/
def Mgmt.advance (m : Mgmt) (pc next : Nat) : Mgmt :=
  let m := (m.setCsr 0xB00 (m.csr 0xB00 + 1)).setCsr 0xB02 (m.csr 0xB02 + 1)
  let opens := pc < 0x10000 ∧ 0x20000000 ≤ next ∧ next < 0x22000000
  { m with
    pc := BitVec.ofNat 64 next, jumped := m.jumped || opens
    running := if opens && !m.jumped then (next - 0x20000000) / 0x1000000 else m.running }

/-- MGMT_CORE_INSTRUCTION (R459, R460): the core executes the instruction at its pc. -/
def execMgmtCoreInstruction (s : State) : Out :=
  match s.rvFetch with
  | .error a => .next (s.modMgmt (·.trap 1 a))
  | .ok (w, len) =>
    match s.rvExec w len with
    | .error (cause, tval) => .next (s.modMgmt (·.trap cause tval))
    | .ok (t, next) => .next (t.modMgmt (·.advance s.mgmt.pc.toNat next))

end Sys2Proof.Machine
end

