-- ==== Sys2Proof/Machine/Sfu.lean ====
section
/-! DEFINITION. The special functions (R143, R144) as long-latency operations; their flags and traps come at landing
(R145). -/

namespace Sys2Proof.Machine

/-- A special function of a code (R144): each executing thread's result and flags are fixed at issue. -/
def sfu (i : Instr) (f : Fields) (code : Nat) (s : State) : Out :=
  frame i (fun v s =>
    let fmt := formFmt f
    let rs := v.lanes.lanes.map (fun l =>
      (l, special code fmt (rndOf f) (satOf f) (flushes v.fpMode fmt) (fSrc v (v.a l))))
    let n := formWidth f / 32
    let s := countExec v.t v.gi v.lanes s
    let (id, s) := s.fresh
    .next (retire v.t v.gi 1 (sendLong v id n .sfu v.lanes (rs.map (fun lr => (lr.1, wordsOf lr.2.1 n))) true
      (rs.map (fun lr => (lr.1, lr.2.2))) s))) s

/-- FRCP (R144). -/
def execFrcp (f : Fields) (s : State) : Out := sfu (.frcp f) f 0 s
/-- FRSQ (R144). -/
def execFrsq (f : Fields) (s : State) : Out := sfu (.frsq f) f 1 s
/-- FSQRT (R144). -/
def execFsqrt (f : Fields) (s : State) : Out := sfu (.fsqrt f) f 2 s
/-- FEXP2 (R144). -/
def execFexp2 (f : Fields) (s : State) : Out := sfu (.fexp2 f) f 3 s
/-- FLOG2 (R144). -/
def execFlog2 (f : Fields) (s : State) : Out := sfu (.flog2 f) f 4 s
/-- FSIN (R144). -/
def execFsin (f : Fields) (s : State) : Out := sfu (.fsin f) f 5 s
/-- FCOS (R144). -/
def execFcos (f : Fields) (s : State) : Out := sfu (.fcos f) f 6 s
/-- FTANH (R144). -/
def execFtanh (f : Fields) (s : State) : Out := sfu (.ftanh f) f 7 s

end Sys2Proof.Machine
end

