-- ==== Sys2Proof/Machine/Dispatch.lean ====
section
/-! DEFINITION. One arm for each instruction: the meaning it calls. -/

namespace Sys2Proof.Machine

/-- The meaning of every instruction and device step. -/
def exec (i : Instr) (s : State) : Host.Outcome State Fault Refusal :=
  match i with
  | .nop f => Sys2Proof.Machine.execNop f s
  | .mov f => Sys2Proof.Machine.execMov f s
  | .movi f => Sys2Proof.Machine.execMovi f s
  | .movx f => Sys2Proof.Machine.execMovx f s
  | .movxw f => Sys2Proof.Machine.execMovxw f s
  | .getid f => Sys2Proof.Machine.execGetid f s
  | .sel f => Sys2Proof.Machine.execSel f s
  | .plop f => Sys2Proof.Machine.execPlop f s
  | .iadd f => Sys2Proof.Machine.execIadd f s
  | .isub f => Sys2Proof.Machine.execIsub f s
  | .imul f => Sys2Proof.Machine.execImul f s
  | .imulh f => Sys2Proof.Machine.execImulh f s
  | .imad f => Sys2Proof.Machine.execImad f s
  | .imin f => Sys2Proof.Machine.execImin f s
  | .imax f => Sys2Proof.Machine.execImax f s
  | .iabs f => Sys2Proof.Machine.execIabs f s
  | .ineg f => Sys2Proof.Machine.execIneg f s
  | .lea f => Sys2Proof.Machine.execLea f s
  | .icmp f => Sys2Proof.Machine.execIcmp f s
  | .idot4 f => Sys2Proof.Machine.execIdot4 f s
  | .shl f => Sys2Proof.Machine.execShl f s
  | .shr f => Sys2Proof.Machine.execShr f s
  | .sar f => Sys2Proof.Machine.execSar f s
  | .rot f => Sys2Proof.Machine.execRot f s
  | .and f => Sys2Proof.Machine.execAnd f s
  | .or f => Sys2Proof.Machine.execOr f s
  | .xor f => Sys2Proof.Machine.execXor f s
  | .not f => Sys2Proof.Machine.execNot f s
  | .lop3 f => Sys2Proof.Machine.execLop3 f s
  | .popc f => Sys2Proof.Machine.execPopc f s
  | .clz f => Sys2Proof.Machine.execClz f s
  | .brev f => Sys2Proof.Machine.execBrev f s
  | .bfx f => Sys2Proof.Machine.execBfx f s
  | .bfi f => Sys2Proof.Machine.execBfi f s
  | .bperm f => Sys2Proof.Machine.execBperm f s
  | .shfl f => Sys2Proof.Machine.execShfl f s
  | .vote f => Sys2Proof.Machine.execVote f s
  | .gred f => Sys2Proof.Machine.execGred f s
  | .matchLanes f => Sys2Proof.Machine.execMatchLanes f s
  | .rng4 f => Sys2Proof.Machine.execRng4 f s
  | .setfe f => Sys2Proof.Machine.execSetfe f s
  | .fadd f => Sys2Proof.Machine.execFadd f s
  | .fsub f => Sys2Proof.Machine.execFsub f s
  | .fmul f => Sys2Proof.Machine.execFmul f s
  | .ffma f => Sys2Proof.Machine.execFfma f s
  | .fmin f => Sys2Proof.Machine.execFmin f s
  | .fmax f => Sys2Proof.Machine.execFmax f s
  | .fcmp f => Sys2Proof.Machine.execFcmp f s
  | .fclass f => Sys2Proof.Machine.execFclass f s
  | .frnd f => Sys2Proof.Machine.execFrnd f s
  | .hfma2 f => Sys2Proof.Machine.execHfma2 f s
  | .hadd2 f => Sys2Proof.Machine.execHadd2 f s
  | .hmul2 f => Sys2Proof.Machine.execHmul2 f s
  | .frcp f => Sys2Proof.Machine.execFrcp f s
  | .frsq f => Sys2Proof.Machine.execFrsq f s
  | .fsqrt f => Sys2Proof.Machine.execFsqrt f s
  | .fexp2 f => Sys2Proof.Machine.execFexp2 f s
  | .flog2 f => Sys2Proof.Machine.execFlog2 f s
  | .fsin f => Sys2Proof.Machine.execFsin f s
  | .fcos f => Sys2Proof.Machine.execFcos f s
  | .ftanh f => Sys2Proof.Machine.execFtanh f s
  | .cvt f => Sys2Proof.Machine.execCvt f s
  | .cvtq f => Sys2Proof.Machine.execCvtq f s
  | .pack6 f => Sys2Proof.Machine.execPack6 f s
  | .unpk6 f => Sys2Proof.Machine.execUnpk6 f s
  | .pack4 f => Sys2Proof.Machine.execPack4 f s
  | .unpk4 f => Sys2Proof.Machine.execUnpk4 f s
  | .pack8 f => Sys2Proof.Machine.execPack8 f s
  | .unpk8 f => Sys2Proof.Machine.execUnpk8 f s
  | .sclx f => Sys2Proof.Machine.execSclx f s
  | .fscl f => Sys2Proof.Machine.execFscl f s
  | .ld f => Sys2Proof.Machine.execLd f s
  | .st f => Sys2Proof.Machine.execSt f s
  | .ldq f => Sys2Proof.Machine.execLdq f s
  | .stq f => Sys2Proof.Machine.execStq f s
  | .pfch f => Sys2Proof.Machine.execPfch f s
  | .atom f => Sys2Proof.Machine.execAtom f s
  | .red f => Sys2Proof.Machine.execRed f s
  | .cas f => Sys2Proof.Machine.execCas f s
  | .fence f => Sys2Proof.Machine.execFence f s
  | .afence f => Sys2Proof.Machine.execAfence f s
  | .logv f => Sys2Proof.Machine.execLogv f s
  | .lds f => Sys2Proof.Machine.execLds f s
  | .sts f => Sys2Proof.Machine.execSts f s
  | .atoms f => Sys2Proof.Machine.execAtoms f s
  | .ldw f => Sys2Proof.Machine.execLdw f s
  | .stw f => Sys2Proof.Machine.execStw f s
  | .stx f => Sys2Proof.Machine.execStx f s
  | .sbar f => Sys2Proof.Machine.execSbar f s
  | .join f => Sys2Proof.Machine.execJoin f s
  | .leave f => Sys2Proof.Machine.execLeave f s
  | .ldk f => Sys2Proof.Machine.execLdk f s
  | .stk f => Sys2Proof.Machine.execStk f s
  | .atomk f => Sys2Proof.Machine.execAtomk f s
  | .spill f => Sys2Proof.Machine.execSpill f s
  | .fill f => Sys2Proof.Machine.execFill f s
  | .ldl f => Sys2Proof.Machine.execLdl f s
  | .stl f => Sys2Proof.Machine.execStl f s
  | .bra f => Sys2Proof.Machine.execBra f s
  | .brc f => Sys2Proof.Machine.execBrc f s
  | .brx f => Sys2Proof.Machine.execBrx f s
  | .call f => Sys2Proof.Machine.execCall f s
  | .callx f => Sys2Proof.Machine.execCallx f s
  | .ret f => Sys2Proof.Machine.execRet f s
  | .exit f => Sys2Proof.Machine.execExit f s
  | .kset f => Sys2Proof.Machine.execKset f s
  | .kwait f => Sys2Proof.Machine.execKwait f s
  | .yield f => Sys2Proof.Machine.execYield f s
  | .bar f => Sys2Proof.Machine.execBar f s
  | .spawn f => Sys2Proof.Machine.execSpawn f s
  | .jadd f => Sys2Proof.Machine.execJadd f s
  | .launch f => Sys2Proof.Machine.execLaunch f s
  | .preq f => Sys2Proof.Machine.execPreq f s
  | .trap f => Sys2Proof.Machine.execTrap f s
  | .tret f => Sys2Proof.Machine.execTret f s
  | .brk f => Sys2Proof.Machine.execBrk f s
  | .crr f => Sys2Proof.Machine.execCrr f s
  | .crw f => Sys2Proof.Machine.execCrw f s
  | .gate f => Sys2Proof.Machine.execGate f s
  | .gret f => Sys2Proof.Machine.execGret f s
  | .publish f => Sys2Proof.Machine.execPublish f s
  | .time f => Sys2Proof.Machine.execTime f s
  | .cyc f => Sys2Proof.Machine.execCyc f s
  | .seqw f => Sys2Proof.Machine.execSeqw f s
  | .seqr f => Sys2Proof.Machine.execSeqr f s
  | .halt f => Sys2Proof.Machine.execHalt f s
  | .cpy f => Sys2Proof.Machine.execCpy f s
  | .cpyt f => Sys2Proof.Machine.execCpyt f s
  | .gthr f => Sys2Proof.Machine.execGthr f s
  | .sctr f => Sys2Proof.Machine.execSctr f s
  | .coll f => Sys2Proof.Machine.execColl f s
  | .bin f => Sys2Proof.Machine.execBin f s
  | .rel f => Sys2Proof.Machine.execRel f s
  | .mirr f => Sys2Proof.Machine.execMirr f s
  | .fillz f => Sys2Proof.Machine.execFillz f s
  | .zmap f => Sys2Proof.Machine.execZmap f s
  | .mma f => Sys2Proof.Machine.execMma f s
  | .mmaG f => Sys2Proof.Machine.execMmaG f s
  | .mmaS f => Sys2Proof.Machine.execMmaS f s
  | .mmaGs f => Sys2Proof.Machine.execMmaGs f s
  | .tzero f => Sys2Proof.Machine.execTzero f s
  | .tld f => Sys2Proof.Machine.execTld f s
  | .tst f => Sys2Proof.Machine.execTst f s
  | .omap f => Sys2Proof.Machine.execOmap f s
  | .msig f => Sys2Proof.Machine.execMsig f s
  | .mwait f => Sys2Proof.Machine.execMwait f s
  | .mloop f => Sys2Proof.Machine.execMloop f s
  | .mend f => Sys2Proof.Machine.execMend f s
  | .mnop f => Sys2Proof.Machine.execMnop f s
  | .tepi f => Sys2Proof.Machine.execTepi f s
  | .clauseDecode core slot => Sys2Proof.Machine.execClauseDecode core slot s
  | .resultLands team group op => Sys2Proof.Machine.execResultLands team group op s
  | .sfuResultLands team group op => Sys2Proof.Machine.execSfuResultLands team group op s
  | .storePerforms team group => Sys2Proof.Machine.execStorePerforms team group s
  | .registrationRequest core => Sys2Proof.Machine.execRegistrationRequest core s
  | .loadMissAtHome team group op line => Sys2Proof.Machine.execLoadMissAtHome team group op line s
  | .cacheReplacement l2 core asid line => Sys2Proof.Machine.execCacheReplacement l2 core asid line s
  | .lineRequestTranslation team group op line => Sys2Proof.Machine.execLineRequestTranslation team group op line s
  | .walkCompletes walk => Sys2Proof.Machine.execWalkCompletes walk s
  | .fenceComplete team group fence => Sys2Proof.Machine.execFenceComplete team group fence s
  | .afenceComplete team group fence => Sys2Proof.Machine.execAfenceComplete team group fence s
  | .publishComplete team group fence => Sys2Proof.Machine.execPublishComplete team group fence s
  | .pageNotPresentSave team => Sys2Proof.Machine.execPageNotPresentSave team s
  | .faultRingReadAdvance part read => Sys2Proof.Machine.execFaultRingReadAdvance part read s
  | .faultResume part record => Sys2Proof.Machine.execFaultResume part record s
  | .shootdownStart part ctrl => Sys2Proof.Machine.execShootdownStart part ctrl s
  | .shootdownComplete part => Sys2Proof.Machine.execShootdownComplete part s
  | .kick part record => Sys2Proof.Machine.execKick part record s
  | .teamPlacement part => Sys2Proof.Machine.execTeamPlacement part s
  | .preempt part value => Sys2Proof.Machine.execPreempt part value s
  | .voluntarySave team => Sys2Proof.Machine.execVoluntarySave team s
  | .forcedSave team => Sys2Proof.Machine.execForcedSave team s
  | .saveImageWrite team => Sys2Proof.Machine.execSaveImageWrite team s
  | .teamEnd team => Sys2Proof.Machine.execTeamEnd team s
  | .sbarSwap team => Sys2Proof.Machine.execSbarSwap team s
  | .leaveComplete team => Sys2Proof.Machine.execLeaveComplete team s
  | .gateEntry team group => Sys2Proof.Machine.execGateEntry team group s
  | .gateCompletion team group => Sys2Proof.Machine.execGateCompletion team group s
  | .commandAccept command => Sys2Proof.Machine.execCommandAccept command s
  | .commandStart command => Sys2Proof.Machine.execCommandStart command s
  | .commandCompletion command => Sys2Proof.Machine.execCommandCompletion command s
  | .collInstanceStart part name => Sys2Proof.Machine.execCollInstanceStart part name s
  | .matrixOpComplete team => Sys2Proof.Machine.execMatrixOpComplete team s
  | .leadEnd team => Sys2Proof.Machine.execLeadEnd team s
  | .runCompare checked => Sys2Proof.Machine.execRunCompare checked s
  | .demeritDecay core => Sys2Proof.Machine.execDemeritDecay core s
  | .injectArm value => Sys2Proof.Machine.execInjectArm value s
  | .injectDisarm value => Sys2Proof.Machine.execInjectDisarm value s
  | .pubCtrlGo part value => Sys2Proof.Machine.execPubCtrlGo part value s
  | .externalHalt part value => Sys2Proof.Machine.execExternalHalt part value s
  | .unitStop part index late => Sys2Proof.Machine.execUnitStop part index late s
  | .watchdogExpiry team => Sys2Proof.Machine.execWatchdogExpiry team s
  | .reservationGrant cluster => Sys2Proof.Machine.execReservationGrant cluster s
  | .reservationUrgent cluster requester => Sys2Proof.Machine.execReservationUrgent cluster requester s
  | .reservationReturn cluster requester => Sys2Proof.Machine.execReservationReturn cluster requester s
  | .engineReservationRenew cluster requester => Sys2Proof.Machine.execEngineReservationRenew cluster requester s
  | .pipeSleep core slot => Sys2Proof.Machine.execPipeSleep core slot s
  | .pipeWake core slot => Sys2Proof.Machine.execPipeWake core slot s
  | .poolClassWrite cluster value => Sys2Proof.Machine.execPoolClassWrite cluster value s
  | .poolMove cluster => Sys2Proof.Machine.execPoolMove cluster s
  | .boostRequest part value envelopeHolds => Sys2Proof.Machine.execBoostRequest part value envelopeHolds s
  | .boostCancel part value => Sys2Proof.Machine.execBoostCancel part value s
  | .boostRevoke part => Sys2Proof.Machine.execBoostRevoke part s
  | .boostLeaseEnd part => Sys2Proof.Machine.execBoostLeaseEnd part s
  | .clockRestart cluster => Sys2Proof.Machine.execClockRestart cluster s
  | .droopAlarm cluster dipMillivolts => Sys2Proof.Machine.execDroopAlarm cluster dipMillivolts s
  | .stretchEnd cluster => Sys2Proof.Machine.execStretchEnd cluster s
  | .halfIssueWindowEnd cluster => Sys2Proof.Machine.execHalfIssueWindowEnd cluster s
  | .recalibration cluster margins => Sys2Proof.Machine.execRecalibration cluster margins s
  | .partitionReconfigure parts => Sys2Proof.Machine.execPartitionReconfigure parts s
  | .partitionConfigure part cfg => Sys2Proof.Machine.execPartitionConfigure part cfg s
  | .firmwareUpdate offset image => Sys2Proof.Machine.execFirmwareUpdate offset image s
  | .sliceRetirement die slice => Sys2Proof.Machine.execSliceRetirement die slice s
  | .healthRecordRewrite => Sys2Proof.Machine.execHealthRecordRewrite s
  | .partnerPairing part partner partnerFeed override size => Sys2Proof.Machine.execPartnerPairing part partner partnerFeed override size s
  | .partnerRestore part first count cut => Sys2Proof.Machine.execPartnerRestore part first count cut s
  | .fabricPacket arrival => Sys2Proof.Machine.execFabricPacket arrival s
  | .escapeEntry packet => Sys2Proof.Machine.execEscapeEntry packet s
  | .fabricPortFailure port => Sys2Proof.Machine.execFabricPortFailure port s
  | .portRemoval port => Sys2Proof.Machine.execPortRemoval port s
  | .hostWrite part requester address data => Sys2Proof.Machine.execHostWrite part requester address data s
  | .hostRead part requester address size => Sys2Proof.Machine.execHostRead part requester address size s
  | .hostAtomic part op address size operand compare => Sys2Proof.Machine.execHostAtomic part op address size operand compare s
  | .getVersion request => Sys2Proof.Machine.execGetVersion request s
  | .getCapabilities request => Sys2Proof.Machine.execGetCapabilities request s
  | .negotiateAlgorithms request => Sys2Proof.Machine.execNegotiateAlgorithms request s
  | .getDigests request => Sys2Proof.Machine.execGetDigests request s
  | .getCertificate request => Sys2Proof.Machine.execGetCertificate request s
  | .challenge request => Sys2Proof.Machine.execChallenge request s
  | .getMeasurements signature param2 context => Sys2Proof.Machine.execGetMeasurements signature param2 context s
  | .keyExchange request part => Sys2Proof.Machine.execKeyExchange request part s
  | .finish request => Sys2Proof.Machine.execFinish request s
  | .keyUpdate request => Sys2Proof.Machine.execKeyUpdate request s
  | .heartbeat request => Sys2Proof.Machine.execHeartbeat request s
  | .endSession request => Sys2Proof.Machine.execEndSession request s
  | .vendorKeyLoad inSession payload => Sys2Proof.Machine.execVendorKeyLoad inSession payload s
  | .vendorKeyZeroise inSession payload => Sys2Proof.Machine.execVendorKeyZeroise inSession payload s
  | .spdmUnsupportedRequest code => Sys2Proof.Machine.execSpdmUnsupportedRequest code s
  | .scrubGo part value => Sys2Proof.Machine.execScrubGo part value s
  | .scrubPhaseEnd part => Sys2Proof.Machine.execScrubPhaseEnd part s
  | .scrubProgressRead part => Sys2Proof.Machine.execScrubProgressRead part s
  | .deviceReset => Sys2Proof.Machine.execDeviceReset s
  | .mgmtReset => Sys2Proof.Machine.execMgmtReset s
  | .flashProgram address value => Sys2Proof.Machine.execFlashProgram address value s
  | .sealVerify value => Sys2Proof.Machine.execSealVerify value s
  | .sealResult => Sys2Proof.Machine.execSealResult s
  | .measExtend value => Sys2Proof.Machine.execMeasExtend value s
  | .measLatch register => Sys2Proof.Machine.execMeasLatch register s
  | .assign value => Sys2Proof.Machine.execAssign value s
  | .registerWrite part address value => Sys2Proof.Machine.execRegisterWrite part address value s
  | .portRetrainComplete port => Sys2Proof.Machine.execPortRetrainComplete port s
  | .missedHeartbeat port => Sys2Proof.Machine.execMissedHeartbeat port s
  | .mgmtCoreInstruction => Sys2Proof.Machine.execMgmtCoreInstruction s

end Sys2Proof.Machine
end

