-- ==== Sys2Proof/Machine/Background.lean ====
section
/-! DEFINITION. What the machine may do by itself, in the order in which the model tries it when nothing is planned (log
entry 10). -/

namespace Sys2Proof.Machine

/-! ## Candidates -/

/-- Lines on which an operation has elements that have not performed. -/
def MemOp.lines (o : MemOp) : List Nat := ((o.elems.filter (fun e => !e.done)).map (fun e => e.va / 128)).eraseDups

/-- The events of a group. -/
def Group.moves (t gi : Nat) (g : Group) : List Instr :=
  g.locals.map (fun o => .resultLands t gi o.id) ++
  g.ops.flatMap (fun o => [.resultLands t gi o.id, .sfuResultLands t gi o.id]) ++
  g.loads.flatMap (fun o => o.lines.map (fun l => .loadMissAtHome t gi o.id l)) ++
  (if g.stores.isEmpty then [] else [.storePerforms t gi]) ++
  (g.stores ++ g.loads).flatMap (fun o => o.lines.map (fun l => .lineRequestTranslation t gi o.id l)) ++
  g.pending.flatMap (fun p => [.fenceComplete t gi p.id, .afenceComplete t gi p.id, .publishComplete t gi p.id]) ++
  (if g.gate.isSome then [.gateEntry t gi, .gateCompletion t gi] else [])

/-- The events of a team. -/
def Team.moves (t : Nat) (tm : Team) : List Instr :=
  ((List.range tm.groups.length).zip tm.groups).flatMap (fun ig => ig.2.moves t ig.1) ++
  [.matrixOpComplete t, .sbarSwap t, .leaveComplete t, .voluntarySave t, .forcedSave t, .saveImageWrite t,
   .pageNotPresentSave t, .teamEnd t, .leadEnd t, .watchdogExpiry t]

/-- The events of a cluster's arbiter, clock and detector. -/
def Cluster.moves (k : Nat) (c : Cluster) : List Instr :=
  c.holdings.map (fun h => .reservationReturn k h.requester) ++
  (if c.requests.isEmpty then [] else [.reservationGrant k]) ++
  c.requests.map (fun r => .reservationUrgent k r.requester) ++
  (if c.moving then [.poolMove k] else []) ++ (if c.stopped then [.clockRestart k] else []) ++
  (if c.droop = 1 then [.stretchEnd k] else []) ++ (if c.droop = 2 then [.halfIssueWindowEnd k] else [])

/-- Gritus has to set a new configuration for a running partition (R1, R410), or has begun to. -/
def State.mustRenumber (s : State) (p : Nat) : Bool :=
  (s.part p).configured && s.configuration != 0 && ((s.part p).paused || (!(s.part p).halted && s.numbersMove p))

/-- The events of a partition. -/
def State.partMoves (s : State) (p : Nat) : List Instr :=
  let x := s.part p
  [.teamPlacement p] ++ (if x.shootBusy then [.shootdownComplete p] else []) ++
  (if x.lease ≠ 0 then [.boostLeaseEnd p] else []) ++ (if x.scrubOn then [.scrubPhaseEnd p] else []) ++
  (if s.mustRenumber p then [.partitionReconfigure ((List.range 8).filter s.mustRenumber)] else []) ++
  (if x.halted && !x.haltDone then (s.unitsOf p).map (fun n => .unitStop p n false) else [])

/-- The teams after that of the current issuer, and then the others: each has its turn. -/
def State.rota (s : State) : List (Nat × Team) :=
  let t := match s.cur with
    | .group t _ => t
    | .sequencer t => t
  s.teams.filter (fun kt => t < kt.1) ++ s.teams.filter (fun kt => kt.1 ≤ t)

/-- The cores of resident teams. -/
def State.busyCores (s : State) : List Nat := (s.rota.map (fun kt => kt.2.core)).eraseDups

/-- The clauses that slots and sequencers of a core may decode, and the pipes that sleep or may wake: the slot or the sequencers
whose turn has been come last. -/
def State.coreMoves (s : State) (c : Nat) : List Instr :=
  let streams := (List.range (s.teams.filter (fun kt => kt.2.core == c)).length).map (fun k => Instr.clauseDecode c (4 + k))
  let slots := fun (first : Nat) => (List.range 4).flatMap (fun i =>
    let k := (first + i) % 4
    (if (s.core c).sleeps k then [.pipeSleep c k, .pipeWake c k] else []) ++ [Instr.clauseDecode c k])
  match s.cur with
  | .group _ gi => streams ++ slots (gi + 1)
  | .sequencer _ => slots 0 ++ streams

/-- Everything that may happen by itself, in the order in which it is tried. -/
def State.moves (s : State) : List Instr :=
  s.rota.flatMap (fun kt => kt.2.moves kt.1) ++
  ((List.range s.cores.length).zip s.cores).filterMap
    (fun kc => if kc.2.port.isSome then some (.registrationRequest kc.1) else none) ++
  s.walks.map (fun w => .walkCompletes w.id) ++
  s.commands.flatMap (fun c => [.commandAccept c.id, .commandStart c.id, .commandCompletion c.id]) ++
  (s.collWaits.map (fun w => (w.part, w.name))).eraseDups.map (fun pn => .collInstanceStart pn.1 pn.2) ++
  s.packets.flatMap (fun p => [.escapeEntry p.id, .fabricPacket (.ours p.id)]) ++
  s.retiring.map (fun k => .sliceRetirement k.1 k.2) ++
  (List.range s.checked.length).map (fun k => .runCompare k) ++
  ((List.range s.clusters.length).zip s.clusters).flatMap (fun kc => kc.2.moves kc.1) ++
  (List.range 8).flatMap (fun p => if (s.part p).configured || (s.part p).scrubOn then s.partMoves p else []) ++
  ((List.range s.cores.length).zip s.cores).filterMap
    (fun kc => if kc.2.demerits ≠ 0 then some (.demeritDecay kc.1) else none) ++
  s.busyCores.flatMap s.coreMoves ++
  [.sealResult]

/-! ## The first that changes the machine -/

/-- The machine after an event, where it is another. -/
def changed (s : State) (o : Out) : Option State :=
  match o with
  | .next t => if t = s then none else some t
  | _ => none

/-- The machine after the first of the events that changes it. -/
def State.background (s : State) : Option State := s.moves.findSome? (fun i => changed s (exec i s))

end Sys2Proof.Machine
end

