-- ==== Sys2Proof/Machine/Step.lean ====
section
/-! DEFINITION. One step of the machine, and the placing of one instruction where the next step runs it. -/

namespace Sys2Proof.Machine

/-- An issuer's next instruction is decoded and executed. -/
def runWords (ws : List Word) (s : State) : Out :=
  match decode ws with
  | .ok (i, _) => exec i s
  | .error _ => .fault .undecodable

/-- The issuers that have a clause in progress. -/
def State.issuers (s : State) : List Issuer :=
  s.rota.flatMap (fun kt =>
    .sequencer kt.1 :: (List.range kt.2.groups.length).map (fun gi => .group kt.1 gi))

/-- An issuer's next instruction, where it has one that does not wait, or whose wait changes the machine: it asks for
something. -/
def State.tryIssuer (s : State) (u : Issuer) : Option Out :=
  let s := { s with cur := u }
  match s.current with
  | none => none
  | some ws =>
    match runWords ws s with
    | .next t => if t = { s with stalled := true } then none else some (.next t)
    | o => some o

/-- What happens when the current issuer has no instruction or waits (log entry 10): the first event that changes the
machine, or the turn of another issuer, or an instruction of the management core. -/
def stepOther (s : State) : Out :=
  match s.background with
  | some t => .next t
  | none =>
    match s.issuers.findSome? s.tryIssuer with
    | some o => o
    | none => exec .mgmtCoreInstruction s

/-- What the machine does when nothing is planned (log entry 10): the current issuer's next instruction unless it waits,
otherwise something else. -/
def stepDefault (s : State) : Out :=
  match s.stalled, s.current with
  | false, some ws => runWords ws s
  | _, _ => stepOther { s with stalled := false }

/-- One step (log entry 1): the head of the agenda after its ticks, or what the machine does by itself. -/
def step (s : State) : Host.Outcome State Fault Refusal :=
  match s.agenda with
  | [] => stepDefault s
  | m :: rest =>
    let s := { s.passTime m.dt with agenda := rest, stalled := false }
    match m.act with
    | .event i => if i.fields.isNone then exec i s else .next s
    | .issue u => stepDefault { s with cur := u }

/-! ## One instruction placed -/

/-- A register map of 256 registers G (R95): 512 ones. -/
def gMap : Nat := 0xFFFFFFFFFFFFFFFFFFFFFFFFFFFFFFFFFFFFFFFFFFFFFFFFFFFFFFFFFFFFFFFF_FFFFFFFFFFFFFFFFFFFFFFFFFFFFFFFFFFFFFFFFFFFFFFFFFFFFFFFFFFFFFFFF

/-- A launch block of a team of one group with every register G and no other resource (log entry 11). -/
def LaunchBlock.bare : LaunchBlock :=
  { LaunchBlock.zero with
    gridx := 1, gridy := 1, gridz := 1, groups := 1, budgetc := 8192, slots := 1, mapp := gMap, mapc := gMap }

/-- A clause of one instruction that its issuer has decoded (log entry 11). -/
def ClauseRun.ofWords (ws : List Word) : ClauseRun where
  header := 0
  addr := 0
  insns := [ws]
  next := 0
  idx := 1
  nominal := 0
  issuing := BitVec.allOnes 32
  active := BitVec.allOnes 32
  fpMode := 0
  trapVec := 0
  targets := []
  parkOn := []
  tret := 0
  exited := 0
  yielded := false
  fly := []
  predFly := []
  tailBefore := []
  fromTail := false
  teamWrites := []
  counted := false

/-- The bare team, with its group or its matrix sequencer in that clause (log entry 11). -/
def Team.ofWords (s : State) (ws : List Word) (matrix : Bool) : Team :=
  let tm := Team.launch 0 0 0 0 0 0 0 0 0 0 0 .unchecked LaunchBlock.bare
  let r := ClauseRun.ofWords ws
  if matrix then
    { tm with padNonce := s.nonce, seq := { tm.seq with mode := 0, idx := 1, res := 2, clause := some r } }
  else { tm with padNonce := s.nonce, groups := tm.groups.map (fun g => { g with clause := some r }) }

/-- The instruction runs in a matrix stream (R261). -/
def isMatrix (ws : List Word) : Bool :=
  match decode ws with
  | .ok (i, _) => classOf i.major == 6
  | .error _ => false

/-- The machine with an opcode-table word as the next instruction of team 0's group or sequencer (log entry 11). -/
def State.withFetchWord (s : State) (nbits w : Nat) : State :=
  let ws := tableWords nbits w
  let matrix := isMatrix ws
  { s with
    teams := Map.put s.teams 0 (Team.ofWords s ws matrix)
    agenda := []
    cur := if matrix then .sequencer 0 else .group 0 0
    stalled := false
    nonce := s.nonce + 1 }

end Sys2Proof.Machine
end

