-- ==== Sys2Proof/Safety.lean ====
section
/-! DEFINITION. What a good step is, in the terms that statements use: memories in canonical form, an instruction that
answers, one that issues normally, and the outcome of a fixed-latency instruction none of whose threads traps. -/

namespace Sys2Proof.Machine

/-! ## States -/

/-- Every byte array with a physical or device address is in its canonical form. -/
def State.canonical (s : State) : Bool :=
  Memory.wf s.dram && Memory.wf s.hostMem && Memory.wf s.kpad && Memory.wf s.mgmt.flash

/-- An instruction answers a next state, of which something holds. -/
def Answers (i : Instr) (s : State) (p : State → Prop) : Prop := ∃ t, exec i s = .next t ∧ p t

/-- The stored bytes of memory of two states are the same: DRAM, host memory and the chip scratchpad. -/
def State.sameMemory (s t : State) : Prop := t.dram = s.dram ∧ t.hostMem = s.hostMem ∧ t.kpad = s.kpad

/-! ## Normal issue -/

/-- What an instruction sees when it issues normally (R16, R32, R75, R77): its group has a clause in progress and is not
stopped, the writes visible at the nominal cycle have taken effect, every source that it reads is full and not poisoned
in the executing threads, and none of them is a callee's thread that may not execute it or has no budget left (R367). -/
def State.issue? (read : Fields → Form → List (Nat × Bool)) (i : Instr) (s : State) : Option View :=
  match s.issuing, i.fields, i.form with
  | some (t, gi, tm, g0, r0), some f, some k =>
    let g := settle tm gi r0.nominal g0
    match g.clause with
    | none => none
    | some r =>
      let lanes := guarded g r f
      if s.stopped tm || spent g lanes != 0 || (barredInCall i.major && lanes.lanes.any g.inCall) ||
          blocked g lanes (read f k) || lanes.lanes.any (fun l => (readTrap g l (read f k)).isSome) then none
      else some ⟨t, tm, gi, g, r, f, k, lanes⟩
  | _, _, _ => none

/-- The machine in which the instruction's own effect begins: the visible writes have taken effect (R75). -/
def View.start (v : View) (s : State) : State := s.modGroup v.t v.gi (fun _ => v.g)

/-- What each executing thread makes of an instruction, in lane order. -/
def View.outs (v : View) (k : Nat → LaneOut) : List (Nat × LaneOut) := v.lanes.lanes.map (fun l => (l, k l))

/-- No executing thread traps: none by the instruction itself, none by a raised flag that is enabled (R55), none by the
shapes of the destinations (R98); and no write is the target of an injected flip (R444). -/
def View.clean (v : View) (s : State) (k : Nat → LaneOut) : Bool :=
  (v.outs k).all (fun lo => lo.2.trap.isNone && (lo.2.flags &&& BitVec.ofNat 5 v.fpMode) == 0 &&
    lo.2.regs.all (fun rw => !s.injects v.team v.gi lo.1 rw.1)) &&
  (shapeFault v (v.outs k)).isNone

/-- What decides whether a thread traps at a fixed-latency instruction, before R444's flip: its own trap, else a raised flag
that is enabled, with the flags (R55), else a destination whose values over the threads that are left fit no rule of its
shape (R98). -/
def View.outcome (v : View) (k : Nat → LaneOut) (l : Nat) : Except (Nat × Nat) Unit :=
  let raised := fun (lo : LaneOut) => lo.flags &&& BitVec.ofNat 5 v.fpMode
  match (k l).trap with
  | some c => .error c
  | none =>
    if raised (k l) ≠ 0 then .error (5, (v.run.addr % 2 ^ 52) * 2 ^ 12 ||| v.run.idx * 2 ^ 8 ||| (k l).flags.toNat)
    else match shapeFault v ((v.outs k).filter (fun lo => lo.2.trap.isNone && raised lo.2 == 0)) with
      | some reg => .error (3, reg)
      | none => .ok ()

/-- The flags that the executing threads raise (R53). -/
def View.raiseFlags (v : View) (k : Nat → LaneOut) (s : State) : State :=
  (v.outs k).foldl (fun s lo =>
    if lo.2.flags = 0 then s
    else s.modThread v.t v.gi lo.1 (fun th => { th with fpFlags := th.fpFlags ||| lo.2.flags })) s

/-- A fixed-latency instruction has executed in every thread (R32, R53, R74, R75, R335): flags are raised, executions are
counted, the writes are in flight for `lat` cycles, and the next instruction follows `cycles` later. -/
def View.done (v : View) (cycles lat : Nat) (k : Nat → LaneOut) (s : State) : State :=
  let s := countExec v.t v.gi v.lanes (v.raiseFlags k s)
  retire v.t v.gi cycles (s.fresh.2.modGroup v.t v.gi (launchWrites v lat s.fresh.1 (v.outs k)))

/-- An instruction with no result of its own has executed in every thread: it is counted and retires. -/
def View.plainly (v : View) (s : State) : State := v.done 1 1 (fun _ => {}) s

/-- A long-latency instruction has been sent in every thread (R77, R103): executions are counted, the destinations are
empty until the result lands, and the next instruction follows `cycles` later. -/
def View.sent (v : View) (cycles n : Nat) (wait : WaitKind) (results : Map (List Word)) (sfu : Bool)
    (flags : Map (BitVec 5)) (s : State) : State :=
  let s := countExec v.t v.gi v.lanes s
  retire v.t v.gi cycles (sendLong v s.fresh.1 n wait v.lanes results sfu flags s.fresh.2)

/-- The same for values of a logged kind (R326, R329): each goes through the log first. -/
def View.sentLogged (v : View) (cycles n : Nat) (wait : WaitKind) (kind words : Nat) (value : Nat → Nat) (ext : Nat → Nat)
    (s : State) : State :=
  let (vals, s) := lanesThroughLog v kind words v.lanes value s
  v.sent cycles n wait (vals.map (fun lx => (lx.1, wordsOf (ext lx.2) n))) false [] s

/-- A store, a fence or another instruction without destinations has executed in every thread. -/
def View.passed (v : View) (cycles : Nat) (s : State) : State :=
  retire v.t v.gi cycles (countExec v.t v.gi v.lanes s)

/-- The executing threads whose address passes its check, with what each reaches, in lane order. -/
def View.good {ρ : Type} (v : View) (check : Nat → Except (Nat × Nat) ρ) : List (Nat × ρ) :=
  v.lanes.lanes.filterMap (fun l => match check l with | .ok x => some (l, x) | .error _ => none)

/-- The executing threads whose address fails its check, with the trap that each takes, in lane order. -/
def View.failing {ρ : Type} (v : View) (check : Nat → Except (Nat × Nat) ρ) : List (Nat × (Nat × Nat)) :=
  v.lanes.lanes.filterMap (fun l => match check l with | .ok _ => none | .error c => some (l, c))

/-- The machine after the threads whose address fails its check have trapped (R376). -/
def View.checked {ρ : Type} (v : View) (check : Nat → Except (Nat × Nat) ρ) (s : State) : State :=
  trapLanes v (v.failing check) (v.start s)

/-- The set of the threads of a list. -/
def lanesIn {ρ : Type} (rs : List (Nat × ρ)) : LaneSet := LaneSet.ofList (rs.map Prod.fst)

/-- Where a trap of a thread enters (R367, R368, R378): its callee's handler, or the one that its clause captured. None where the
thread is in trap mode, or the team has no handler. -/
def View.handler (v : View) (l : Nat) : Option Nat :=
  if v.g.threads.length ≤ l ∨ (v.g.thread l).trapMode = true then none
  else if v.g.inCall l then some ((v.g.gate.map (·.handler)).getD 0)
  else if v.run.trapVec = 0 then none
  else some v.run.trapVec.toNat

/-- A thread has trapped at the instruction (R377, R378): it stands at the handler, in trap mode, with the clause's address, the
cause, the instruction's index and the detail in its trap registers. -/
def View.trapped (v : View) (l pc cause detail : Nat) (u : State) : Prop :=
  ∃ g, u.group? v.t v.gi = some g ∧ (g.thread l).trapMode = true ∧ (g.thread l).pc = pc ∧ (g.thread l).idx = 0 ∧
    (g.thread l).trapPc = BitVec.ofNat 64 v.run.addr ∧ (g.thread l).trapCause = causeWord cause v.run.idx ∧
    (g.thread l).trapDetail = BitVec.ofNat 64 detail

/-- Wherever the instruction issues normally, each executing thread that fails a check traps with the check's cause and detail;
what the other threads do does not matter. -/
def View.traps {ρ : Type} (v : View) (s : State) (i : Instr) (check : Nat → Except (Nat × Nat) ρ) : Prop :=
  ∀ l pc cause detail, s.issue? sources i = some v → l ∈ v.lanes.lanes → check l = .error (cause, detail) →
    v.handler l = some pc → Answers i s (v.trapped l pc cause detail)

/-- A matrix sequencer issues the instruction normally (R259, R284): it runs, it is free, it is not stopped, its team has a group
that has not ended or it stands between two rows of a TST, and the guard is PT. The team's number, the team, the clause and the fields. -/
def State.matIssue? (i : Instr) (s : State) : Option (Nat × Team × ClauseRun × Fields) :=
  match s.cur, i.fields with
  | .sequencer t, some f =>
    match s.team? t with
    | some tm =>
      match tm.seq.clause with
      | some r =>
        if s.seqStopped tm || tm.seq.mode != 0 || tm.seq.busy || (tm.liveGroups == 0 && tm.seq.row == 0) || f.gn || f.gp != 7 then none
        else some (t, tm, r, f)
      | none => none
    | none => none
  | _, _ => none

/-- Wherever the instruction issues normally, each executing thread whose outcome is a trap takes it; where no thread traps, it
executes in every thread with the given results, issue cycles and latency. -/
def Executes (i : Instr) (cycles lat : Nat) (k : View → Nat → LaneOut) : Prop :=
  ∀ s v, s.issue? sources i = some v →
    (v.clean (v.start s) (k v) = true → exec i s = .next (v.done cycles lat (k v) (v.start s))) ∧
    v.traps s i (v.outcome (k v))

end Sys2Proof.Machine
end

