-- ==== Sys2Proof/Certificates/Slice0/Obligations.lean ====
section
/-! DEFINITION. The statements for the provers. Each docstring names the rules it rests on; where it names a log entry, that
clause is the model's choice. -/

open Sys2Proof Sys2Proof.Machine

/-! ## Words and instructions -/

/-- R25, R34: words that the chapters write out, bit by bit, decode to the instructions they stand for. -/
def Obligations.ExampleWordsDecode : Prop :=
  let f : Fields := ⟨false, 7, 0, 0, 0, 0, 0, 0, 0, none⟩
  decodeTableWord 32 0x32DC_0003 = some (.halt { f with b := 3 }) ∧
  decodeTableWord 32 0x2F9C_2000 = some (.preq { f with d := 2 }) ∧
  decodeTableWord 32 0x315C_0000 = some (.gret f) ∧
  decodeTableWord 32 0x301C_0000 = some (.tret f) ∧
  decodeTableWord 32 0x385C_0002 = some (.tzero { f with b := 2 }) ∧
  decodeTableWord 32 0x395C_0085 = some (.msig { f with a := 2, b := 5 }) ∧
  decodeTableWord 64 0x0000_000A_6EDC_6108 = some (.spawn { f with d := 6, a := 4, b := 8, c := 10 }) ∧
  decodeTableWord 96 0xFFFF_FFFF_0000_0000_AF1C_0100 = some (.jadd { f with a := 4, lit := some 0xFFFF_FFFF })

/-- R14, R15, R17, R21: what the decoder reads, it reads from the bits that the layouts of word 0 and word 1 give, and
takes as many words as bits 31:30 of word 0 say; a header and an unassigned major are rejected by name. R18–R20, R22–R24:
an instruction is well formed exactly when its form is assigned, every operand lies within the range of its kind and a
field that no operand uses is zero, and a TE bit stands only at a source that is read as a vector register; reserved
rounding modes, reserved type codes, unassigned MINOR values and a literal that a form does not take have no form. -/
def Obligations.DecodedFields : Prop :=
  (∀ (w0 : Word) rest, bits w0.toNat 31 30 = 3 → decode (w0 :: rest) = .error .header) ∧
  (∀ (w0 : Word) rest i tail, decode (w0 :: rest) = .ok (i, tail) →
    bits w0.toNat 31 30 ≠ 3 ∧ i.major = bits w0.toNat 29 22 ∧
    rest = (rest.take (bits w0.toNat 31 30)) ++ tail ∧ (rest.take (bits w0.toNat 31 30)).length = bits w0.toNat 31 30 ∧
    ∃ f, i.fields = some f ∧
      let w1 := (rest.take (bits w0.toNat 31 30)).headD 0
      f.gn = w0.getLsbD 21 ∧ f.gp.toNat = bits w0.toNat 20 18 ∧
      f.d.toNat = bits w0.toNat 17 12 + 64 * bits w1.toNat 13 12 ∧
      f.a.toNat = bits w0.toNat 11 6 + 64 * bits w1.toNat 11 10 ∧
      f.b.toNat = bits w0.toNat 5 0 + 64 * bits w1.toNat 9 8 ∧
      f.c.toNat = bits w1.toNat 7 0 ∧ f.te.toNat = bits w1.toNat 16 14 ∧ f.minor.toNat = bits w1.toNat 23 17 ∧
      f.mod.toNat = bits w1.toNat 31 24 ∧ f.lit = (rest.take (bits w0.toNat 31 30))[1]?) ∧
  (∀ m, m < 256 → (∀ f, instrOf m f = none) →
    ∀ (w0 : Word) rest, bits w0.toNat 29 22 = m → bits w0.toNat 31 30 = 0 → decode (w0 :: rest) = .error (.unassigned m)) ∧
  (∀ (i : Instr) f k, i.fields = some f → i.form = some k →
    let fits := fun (kind : OperandKind) (x : Nat) =>
      match kind with
      | .unused => x = 0
      | .reg => x < 256
      | .pair => x % 2 = 0 ∧ x < 256
      | .quad => x % 4 = 0 ∧ x < 256
      | .regs n => x + n ≤ 256
      | .pred => x < 8
      | .imm top => x ≤ top
      | .name => x < 256
    let read := fun (kind : OperandKind) => kind = .reg ∨ kind = .pair ∨ kind = .quad ∨ ∃ n, kind = .regs n
    (i.wellFormed = true ↔ fits k.d f.d.toNat ∧ fits k.a f.a.toNat ∧ fits k.b f.b.toNat ∧ fits k.c f.c.toNat ∧
      (f.te.getLsbD 0 = true → read k.a) ∧ (f.te.getLsbD 1 = true → read k.b) ∧ (f.te.getLsbD 2 = true → read k.c))) ∧
  (∀ i : Instr, i.form = none → i.wellFormed = false) ∧
  (∀ f : Fields,
    (4 < f.mod.toNat % 8 → ∀ i ∈ [Instr.fadd f, .fsub f, .fmul f, .ffma f, .frnd f, .hfma2 f, .hadd2 f, .hmul2 f, .cvt f,
      .cvtq f, .fscl f, .frcp f, .frsq f, .fsqrt f, .fexp2 f, .flog2 f, .fsin f, .fcos f, .ftanh f, .tst f], i.form = none) ∧
    (22 < f.minor.toNat % 32 → ∀ i ∈ [Instr.cvt f, .ld f, .st f, .ldq f, .stq f, .atom f, .red f, .cas f, .lds f, .sts f,
      .ldw f, .stw f, .stx f, .ldk f, .stk f, .atoms f, .atomk f, .ldl f, .stl f, .logv f, .gred f, .shfl f], i.form = none) ∧
    (22 < f.c.toNat → (Instr.cvt f).form = none) ∧
    (3 < f.minor.toNat → ∀ i ∈ [Instr.mov f, .movi f, .iadd f, .isub f, .imul f, .imad f, .icmp f, .and f, .or f, .xor f, .shl f,
      .vote f, .kset f, .bar f], i.form = none) ∧
    (f.lit.isSome = true → ∀ i ∈ [Instr.nop f, .mov f, .movx f, .getid f, .vote f, .exit f, .yield f, .crr f, .crw f, .fence f],
      i.form = none))

/-- R14–R19, R21, R35: decoding the words of any well-formed instruction gives it back, every operand at every value that
its form admits, with nothing left over. -/
def Obligations.DecodeOfEncode : Prop := ∀ i rest, i.wellFormed = true → decode (encode i ++ rest) = .ok (i, rest)

/-! ## Steps -/

/-- Log entries 1 and 10: a step runs the instruction that the words of the issuer's clause decode to: where nothing is
planned, and where the head of the agenda names an issuer, after its ticks; a planned event runs after its ticks. -/
def Obligations.StepRunsTheInstruction : Prop :=
  (∀ (s : State) ws i rest, s.agenda = [] → s.stalled = false → s.current = some ws → decode ws = .ok (i, rest) →
    step s = exec i s) ∧
  (∀ (s : State) m more u ws i rest, s.agenda = m :: more → m.act = .issue u →
    let t := { s.passTime m.dt with agenda := more, stalled := false, cur := u }
    t.current = some ws → decode ws = .ok (i, rest) → step s = exec i t) ∧
  (∀ (s : State) m more i, s.agenda = m :: more → m.act = .event i → i.fields = none →
    step s = exec i { s.passTime m.dt with agenda := more, stalled := false }) ∧
  (∀ (s : State) r, s.clauseOf s.cur = some r → s.current = r.insns[r.idx - 1]?)

/-- What the spec states of the machine after a device reset (R217, R224, R227, R235, R345, R387, R389, R397, R403, R415,
R459, R461), and that its memories are in canonical form. -/
def Obligations.ResetState : Prop :=
  let s := State.reset
  s.time = 0 ∧ s.teams = [] ∧ s.canonical = true ∧ s.mgmt.pc = 0 ∧ s.mgmt.jumped = false ∧ s.mgmt.sealState = 0 ∧
  s.epoch = 0 ∧
  (∀ p, p < 8 → (s.part p).asTable = 0 ∧ (s.part p).shootBusy = false ∧ (s.part p).halted = false ∧
    (s.part p).watchdog = 0x0400 ∧ (s.part p).escapeWait = 512 ∧ (s.part p).scrubDone = true ∧ (s.part p).irqs = []) ∧
  (∀ k, k < 32 → (s.cluster k).cap = 96 ∧ (s.cluster k).thresh = 40 ∧ (s.cluster k).stretch = 6 ∧ (s.cluster k).half = 64)

/-- Every instruction and every event answers a next state, from every state. A step answers one too, or stops on the words of
a clause in progress that decode to no instruction; with such words as the current instruction of a machine for which
nothing is planned and whose issuer does not wait, it does stop. -/
def Obligations.EveryInstructionAnswers : Prop :=
  (∀ i (s : State), ∃ t, exec i s = .next t) ∧
  (∀ (s : State), (∃ t, step s = .next t) ∨ (step s = .fault .undecodable ∧
    ∃ u r ws e, (match s.agenda with | [] => s | m :: _ => s.passTime m.dt).clauseOf u = some r ∧ ws ∈ r.insns ∧
      decode ws = .error e)) ∧
  (∀ (s : State) ws e, s.agenda = [] → s.stalled = false → s.current = some ws → decode ws = .error e →
    step s = .fault .undecodable)

/-- Every step keeps DRAM, host memory, the chip scratchpad and the flash in canonical form: addresses rise strictly, and
no entry is equal to what an unlisted address reads as. -/
def Obligations.StepKeepsMemoryCanonical : Prop :=
  ∀ (s t : State), s.canonical = true → step s = .next t → t.canonical = true

/-! ## Registers -/

/-- R97: what a write by a set of lanes makes of a register of each shape, and when it satisfies no rule. -/
def Obligations.ShapedWrites : Prop :=
  (∀ shape old, shapeWrite shape old [] = some old) ∧
  (∀ old (xs : Map Word), xs ≠ [] → ∃ ws, shapeWrite 3 old xs = some ws ∧
    ∀ l, l < 32 → readWords 3 ws l = (Map.get? xs l).getD (readWords 3 old l)) ∧
  (∀ old (xs : Map Word) v, xs ≠ [] → (∀ lx ∈ xs, lx.2 = v) → ∃ ws, shapeWrite 1 old xs = some ws ∧
    ∀ l, readWords 1 ws l = v) ∧
  (∀ old (xs : Map Word), (∃ a ∈ xs, ∃ b ∈ xs, a.2 ≠ b.2) → shapeWrite 1 old xs = none) ∧
  (∀ old l (x : Word), shapeWrite 2 old [(l, x)] = some [x - BitVec.ofNat 32 l * old.getD 1 0, old.getD 1 0]) ∧
  (∀ old (xs : Map Word), Map.sorted xs = true → 2 ≤ xs.length → (∀ lx ∈ xs, lx.1 < 32) →
    let fits := fun (base stride : Word) => ∀ lx ∈ xs, lx.2 = base + BitVec.ofNat 32 lx.1 * stride
    (∀ ws, shapeWrite 2 old xs = some ws → ∃ base stride, ws = [base, stride] ∧ fits base stride ∧
      ∀ b k, fits b k → stride.toNat ≤ k.toNat) ∧
    (shapeWrite 2 old xs = none → ∀ b k, ¬ fits b k)) ∧
  (∀ base stride l, readWords 2 [base, stride] l = base + BitVec.ofNat 32 l * stride)

/-- R104: a read of an empty register blocks with TE 0 and raises TRAP_IF_EMPTY with TE 1; a read of a poisoned register
raises SHAPE, whatever TE; a thread whose guard is false reads nothing. -/
def Obligations.EmptyAndPoisonedReads : Prop :=
  (∀ (g : Group) lanes srcs, blocked g lanes srcs = true ↔
    ∃ r, (r, false) ∈ srcs ∧ ∃ l, l < 32 ∧ lanes.getLsbD l = true ∧ (Map.get g.empty r 0).getLsbD l = true) ∧
  (∀ (g : Group) l r rest, (Map.get g.empty r 0).getLsbD l = true → readTrap g l ((r, true) :: rest) = some (4, r)) ∧
  (∀ (g : Group) l r te rest, (Map.get g.empty r 0).getLsbD l = false → (Map.get g.poison r 0).getLsbD l = true →
    readTrap g l ((r, te) :: rest) = some (3, r + 256)) ∧
  (∀ (g : Group) l r te rest, (Map.get g.empty r 0).getLsbD l = false → (Map.get g.poison r 0).getLsbD l = false →
    readTrap g l ((r, te) :: rest) = readTrap g l rest) ∧
  (∀ (g : Group) (r : ClauseRun) (f : Fields) l, l < 32 → (guarded g r f).getLsbD l = true →
    ((g.thread l).pred f.gp.toNat != f.gn) = true)

/-! ## What an instruction leaves unchanged -/

/-- R75 (registers of shape G): a read at nominal cycle n sees, of the writes of the clause that are visible by then, the
one that stands last, and the value from before the clause where none is; the others stay in flight. A write stands
behind every one that is visible no later. -/
def Obligations.VisibleWrites : Prop :=
  (∀ (tm : Team) gi n (g : Group) (r : ClauseRun) reg l, g.clause = some r → tm.shape gi reg = 3 → l < 32 →
    let seen := r.fly.filter (fun w => decide (w.vis ≤ n) && w.kind == 0 && w.reg == reg && (Map.get? w.vals l).isSome)
    readReg tm gi (settle tm gi n g) reg l =
      match seen.getLast? with
      | some w => Map.get w.vals l 0
      | none => readReg tm gi g reg l) ∧
  (∀ (tm : Team) gi n (g : Group) (r : ClauseRun), g.clause = some r →
    ∃ r', (settle tm gi n g).clause = some r' ∧ r'.fly = r.fly.filter (fun w => decide (n < w.vis)) ∧
      r'.predFly = r.predFly.filter (fun w => decide (n < w.vis)) ∧ r'.nominal = r.nominal ∧ r'.idx = r.idx ∧
      r'.active = r.active) ∧
  (∀ (w : Fly) (ws : List Fly), ∃ before after, ws = before ++ after ∧ insertFly w ws = before ++ w :: after ∧
    (∀ x ∈ before, x.vis ≤ w.vis) ∧ (∀ x, after.head? = some x → w.vis < x.vis))

/-- Frames of the outcomes that the statements above name. A fixed-latency instruction, a long-latency one and one without
a result leave every byte of memory, every partition and cluster, every core but what its slots note of the issue,
every other team, and of its own team the private scratchpad, both banks, the tiles, the slices and every other group's
registers and threads. In its own group they leave every register that is no destination and has no write of the clause
in flight, and the saved PC, cause and detail of every thread; the team's trap handler too, where no instruction of the
clause has written a team register. -/
def Obligations.OutcomeFrames : Prop :=
  ∀ (s : State) (v : View) (tm : Team) (g : Group), s.team? v.t = some tm → s.group? v.t v.gi = some g →
    let outside := fun (u : State) =>
      u.sameMemory s ∧ u.partitions = s.partitions ∧ u.clusters = s.clusters ∧
      (∀ c, u.core c = { s.core c with slots := (u.core c).slots }) ∧ u.registrations = s.registrations ∧ u.commands = s.commands ∧ u.grids = s.grids ∧ u.mgmt = s.mgmt ∧
      (∀ t, t ≠ v.t → u.team? t = s.team? t) ∧
      (∀ gi, gi ≠ v.gi → (u.group? v.t gi).map (fun h => (h.regs, h.threads, h.empty, h.poison)) =
        (s.group? v.t gi).map (fun h => (h.regs, h.threads, h.empty, h.poison))) ∧
      (u.team? v.t).map (fun x => (x.pad, x.visible, x.shadow, x.tiles, x.slices)) =
        some (tm.pad, tm.visible, tm.shadow, tm.tiles, tm.slices) ∧
      ((∀ c, g.clause = some c → c.teamWrites = []) → (u.team? v.t).map (·.trapVec) = some tm.trapVec)
    let own := fun (written : Nat → Bool) (u : State) =>
      (∀ r, written r = false → (∀ c, g.clause = some c → ∀ w ∈ c.fly, w.reg ≠ r) →
        (u.group? v.t v.gi).map (fun h => Map.get h.regs r []) = some (Map.get g.regs r [])) ∧
      (∀ l, (u.group? v.t v.gi).map (fun h => ((h.thread l).trapPc, (h.thread l).trapCause, (h.thread l).trapDetail)) =
        some ((g.thread l).trapPc, (g.thread l).trapCause, (g.thread l).trapDetail))
    (∀ cycles lat k,
      let u := v.done cycles lat k s
      outside u ∧ own (fun r => (v.outs k).any (fun lo => lo.2.regs.any (fun rw => rw.1 == r))) u) ∧
    (∀ cycles n wait results sfu flags,
      let u := v.sent cycles n wait results sfu flags s
      outside u ∧ own (fun _ => false) u) ∧
    (∀ cycles,
      let u := v.passed cycles s
      outside u ∧ own (fun _ => false) u)

/-- What a store writes, and its frame (R158–R160, R178, R181, R192, R298). A write to an array of a core puts its bytes at the
place that its reach names and changes no other byte of any array or of memory. A store under a registration puts its
bytes among its core's registered bytes and into that core's L1 line of its address, and changes no other registered
byte of the core, no stored byte and no registration. A write at a home puts its bytes there, and changes outside them at
most what a registration covered, or a unit that had another view than the writer's. -/
def Obligations.StoreFrames : Prop :=
  (∀ (s : State) (t : Nat) (shadow : Bool) (bs : List Byte) (x : Reach),
    let u := writeReach t shadow bs s x
    u.dram = s.dram ∧ u.hostMem = s.hostMem ∧ u.partitions = s.partitions ∧ u.cores = s.cores ∧
    let here := fun a => x.first ≤ a ∧ a < x.first + bs.length
    let new := fun a => bs.getD (a - x.first) 0
    (∀ a, (∃ o, x = .chip o) ∧ here a → Memory.get u.kpad a = new a) ∧
    (∀ a, ¬ ((∃ o, x = .chip o) ∧ here a) → Memory.get u.kpad a = Memory.get s.kpad a) ∧
    ∀ k tm, s.team? k = some tm → ∃ w, u.team? k = some w ∧ w.groups = tm.groups ∧ w.tiles = tm.tiles ∧
      w.slices = tm.slices ∧ w.padNonce = tm.padNonce ∧
      let pad := fun a => k = t ∧ (∃ o, x = .pad o) ∧ here a
      let bank := fun (b : Bool) a => shadow = b ∧ (∃ o, x = .window k o) ∧ here a
      ∀ a, (pad a → padGet w.padNonce w.pad a = new a) ∧
        (¬ pad a → padGet w.padNonce w.pad a = padGet tm.padNonce tm.pad a) ∧
        (bank false a → Memory.get w.visible a = new a) ∧
        (¬ bank false a → Memory.get w.visible a = Memory.get tm.visible a) ∧
        (bank true a → Memory.get w.shadow a = new a) ∧
        (¬ bank true a → Memory.get w.shadow a = Memory.get tm.shadow a)) ∧
  (∀ (s : State) (tm : Team) (o : MemOp) (e : MemElem),
    let u := s.coreWrite tm o e
    u.teams = s.teams ∧ u.sameMemory s ∧ u.registrations = s.registrations ∧ u.partitions = s.partitions ∧
    (∀ c, c ≠ tm.core → u.core c = s.core c) ∧
    (∀ a, (a < e.pa ∨ e.pa + e.size ≤ a) → Map.get? (u.core tm.core).dirty a = Map.get? (s.core tm.core).dirty a) ∧
    (tm.core < s.cores.length → ∀ i, i < e.size →
      Map.get? (u.core tm.core).dirty (e.pa + i) = some ((leBytes e.data e.size).getD i 0) ∧
      (e.va % 128 + i < 128 → ∃ l, (u.core tm.core).l1Line o.asid e.va = some l ∧
        l.bytes.getD (e.va % 128 + i) 0 = (leBytes e.data e.size).getD i 0))) ∧
  (∀ (s : State) view pa (bs : List Byte),
    let u := s.homeWrite view pa bs
    let stored := fun (s : State) (a : Nat) => if isDram pa = true then Memory.get s.dram a else Memory.get s.hostMem a
    u.kpad = s.kpad ∧ u.teams = s.teams ∧ u.partitions = s.partitions ∧
    (∀ i, i < bs.length → stored u (pa + i) = bs.getD i 0) ∧
    ∀ a, (a < pa ∨ pa + bs.length ≤ a) → (∀ r ∈ s.registrations, ¬ (r.pa ≤ a ∧ a < r.pa + r.size)) →
      (a / 16 < pa / 16 ∨ (pa + bs.length - 1) / 16 < a / 16 ∨ Map.get s.cipher (a / 16) 0 = view) →
      Memory.get u.dram a = Memory.get s.dram a ∧ Memory.get u.hostMem a = Memory.get s.hostMem a)

/-! ## Traps -/

/-- R368, R377–R379: a thread outside a gate callee that is not in trap mode, of a team with a handler, saves its PC, its cause
with the instruction index, and the detail, and enters trap mode at the handler; every other thread, every register and
memory stay as they are. Without a handler, or in trap mode, the trap halts the partition with cause 1, or makes a
trail or a third run diverge. A thread inside a gate callee enters at the callee's handler, and a second trap finishes it
with status 4. A return leaves trap mode and goes back to the saved PC and index. -/
def Obligations.TrapEntry : Prop :=
  (∀ t gi l (vec : Dword) pc cause index detail (s : State) tm g, s.team? t = some tm → s.group? t gi = some g →
    l < g.threads.length →
    let u := takeTrap t gi l vec pc cause index detail s
    let entered := fun (target : Nat) => ({ g.thread l with
      trapMode := true, pc := target, idx := 0, trapPc := BitVec.ofNat 64 pc, trapCause := causeWord cause index
      trapDetail := BitVec.ofNat 64 detail } : Thread)
    let becomes := fun (th : Thread) => u.sameMemory s ∧ u.partitions = s.partitions ∧
      ∃ h, u.group? t gi = some h ∧ h.regs = g.regs ∧ h.gate = g.gate ∧ (∀ m, m ≠ l → h.thread m = g.thread m) ∧
        h.thread l = th ∧ ∀ r, h.clause = some r → l < 32 → r.active.getLsbD l = false
    (g.inCall l = false → (g.thread l).trapMode = false → vec ≠ 0 → becomes (entered vec.toNat)) ∧
    (g.inCall l = false → ((g.thread l).trapMode = true ∨ vec = 0) → u.sameMemory s ∧
      (tm.mode = .unchecked ∨ tm.mode = .lead → tm.part < s.partitions.length →
        (u.part tm.part).halted = true ∧
        ((s.part tm.part).halted = false →
          (u.part tm.part).haltCause = 1 ∧ (u.part tm.part).haltIndex = s.coreUnit tm ∧ 1 ∈ (u.part tm.part).irqs)) ∧
      (tm.mode = .trail ∨ tm.mode = .third → u.partitions = s.partitions ∧
        ∃ x, u.team? t = some x ∧ x.diverged = true)) ∧
    (g.inCall l = true → (g.thread l).trapMode = false → becomes (entered ((g.gate.map (·.handler)).getD 0))) ∧
    (g.inCall l = true → (g.thread l).trapMode = true → becomes { g.thread l with status := some 4 })) ∧
  (∀ cause index, cause < 256 → bits (causeWord cause index).toNat 7 0 = cause ∧
    bits (causeWord cause index).toNat 11 8 = index % 16) ∧
  (∀ th : Thread, th.trapReturn.trapMode = false ∧ th.trapReturn.pc = bits th.trapPc.toNat 51 0 ∧
    th.trapReturn.idx = bits th.trapCause.toNat 11 8)

/-! ## ALU and FPU classes -/

/-- R31, R107–R111: NOP takes one issue cycle and writes nothing; MOV copies a register, pair or quad; MOVI writes its
immediate; SEL chooses by a predicate; PLOP looks three predicates up in a table. R112–R114: SETFE.full and SETFE.empty
take effect like a write of latency 1 and SETFE.test reads the full bit. An index of MOVX or MOVXW that is out of range,
odd for a pair, or names no register of the role raises ILLEGAL in its thread; MOVX blocks or traps on the registers that
the others name and sends for them; MOVXW writes each named register once. -/
def Obligations.MovesExecute : Prop :=
  (∀ f : Fields,
    Executes (.nop f) 1 0 (fun _ _ => {}) ∧
    Executes (.mov f) (if f.minor.toNat = 2 then 2 else 1) (if f.minor.toNat = 2 then 3 else 2)
      (fun v l => { regs := writesOf f.d.toNat (v.a l) (2 ^ f.minor.toNat) }) ∧
    Executes (.movi f) 1 2
      (fun _ _ => { regs := writesOf f.d.toNat (moviValue f) (if f.minor.toNat = 0 then 1 else 2) }) ∧
    Executes (.sel f) 1 2 (fun v l =>
      let n := if f.minor.toNat = 1 then 64 else 32
      outN v (if v.p l f.c.toNat != f.mod.getLsbD 0 then v.a l else v.bInt l n false) n) ∧
    Executes (.plop f) 1 2 (fun v l =>
      { preds := [(f.d.toNat, f.mod.getLsbD ((if v.p l f.a.toNat then 4 else 0) + (if v.p l f.b.toNat then 2 else 0) +
          (if v.p l f.c.toNat then 1 else 0)))] })) ∧
  (∀ f s v,
    (s.issue? sources (.setfe f) = some v → f.minor.toNat = 2 →
      let test := fun l => ({ preds := [(f.d.toNat, !(Map.get v.g.empty f.a.toNat 0).getLsbD l &&
        !(Map.get v.g.poison f.a.toNat 0).getLsbD l)] } : LaneOut)
      v.clean (v.start s) test = true → exec (.setfe f) s = .next (v.done 1 1 test (v.start s))) ∧
    (s.issue? sources (.setfe f) = some v → f.minor.toNat ≠ 2 → v.lanes ≠ 0 →
      let s1 := countExec v.t v.gi v.lanes (v.start s)
      let w : Fly := { seq := s1.fresh.1, vis := v.run.nominal + 1, kind := 1 + f.minor.toNat, reg := f.a.toNat
                       vals := v.lanes.lanes.map (fun l => (l, 0)), cnts := [] }
      exec (.setfe f) s = .next (retire v.t v.gi 1 (s1.fresh.2.modGroup v.t v.gi (fun g =>
        { g with clause := g.clause.map (fun r => { r with fly := insertFly w r.fly }) })))) ∧
    (∀ n x, badIndex v n x = true ↔
      255 < x ∨ (n = 2 ∧ x % 2 = 1) ∨ ∃ k, k < n ∧ v.team.shape v.gi (x + k) = 0) ∧
    (let n := if f.minor.toNat = 1 then 2 else 1
     let srcs := fun l => (List.range n).map (fun k => (v.a l + k, f.mod.getLsbD 0))
     let index := fun l => if badIndex v n (v.a l) then Except.error (1, 0) else .ok ()
     let named := fun l => if badIndex v n (v.a l) then Except.error (1, 0)
       else match readTrap v.g l (srcs l) with | some c => .error c | none => .ok ()
     let waits := v.lanes.lanes.any (fun l => !badIndex v n (v.a l) && blocked v.g (1#32 <<< l) (srcs l))
     (s.issue? sources (.movx f) = some v →
       (waits = true → exec (.movx f) s = stall (v.start s)) ∧
       (waits = false →
         let good := v.good named
         let s1 := countExec v.t v.gi (lanesIn good) (trapLanes v (v.lanes.lanes.filterMap (fun l =>
           if badIndex v n (v.a l) then none else (readTrap v.g l (srcs l)).map (fun c => (l, c))))
           (v.checked index s))
         exec (.movx f) s = .next (retire v.t v.gi 1 (sendLong v s1.fresh.1 n .none (lanesIn good)
           (good.map (fun lx => (lx.1, (List.range n).map (fun k => readReg v.team v.gi v.g (v.a lx.1 + k) lx.1)))) false []
           s1.fresh.2)))) ∧
     (waits = false → v.traps s (.movx f) named) ∧
     (s.issue? sources (.movxw f) = some v →
       let outs := fun x => ((v.good index).filter (fun lx => v.a lx.1 == x)).map (fun lx =>
         (lx.1, ({ regs := writesOf x (v.b lx.1) n } : LaneOut)))
       (v.start s).target = none →
       exec (.movxw f) s = .next (retire v.t v.gi 1 (((v.good index).map (fun lx => v.a lx.1)).eraseDups.foldl (fun acc x =>
         match shapeFault v (outs x) with
         | some reg => trapLanes v ((outs x).map (fun lo => (lo.1, (3, reg)))) acc
         | none =>
           let acc := countExec v.t v.gi (LaneSet.ofList ((outs x).map Prod.fst)) acc
           acc.fresh.2.modGroup v.t v.gi (launchWrites v 11 acc.fresh.1 (outs x))) (v.checked index s)))) ∧
     v.traps s (.movxw f) index))

/-- R122, R124–R126: the one-cycle integer operations over the exact result, wrapped or saturated to the type, and the
integer comparison; the 64-bit types take a cycle more. -/
def Obligations.IntegerOperationsExecute : Prop := ∀ f : Fields,
  let wide := decide (2 ≤ f.minor.toNat)
  let cycles := if wide then 2 else 1
  let lat := if wide then 3 else 2
  Executes (.iadd f) cycles lat (fun v l => intResult v (intA v l + intB v l)) ∧
  Executes (.isub f) cycles lat (fun v l => intResult v (intA v l - intB v l)) ∧
  Executes (.imin f) cycles lat (fun v l => intResult v (min (intA v l) (intB v l))) ∧
  Executes (.imax f) cycles lat (fun v l => intResult v (max (intA v l) (intB v l))) ∧
  Executes (.iabs f) cycles lat (fun v l => intResult v (intA v l).natAbs) ∧
  Executes (.ineg f) cycles lat (fun v l => intResult v (-intA v l)) ∧
  Executes (.icmp f) cycles lat (fun v l =>
    { preds := [(f.d.toNat, compareInt (f.mod.toNat % 8) (intA v l) (intB v l))] })

/-- R122, R125, R127, R134, R135: the multiplying operations, the address sum, the byte dot product and the random number
generator. -/
def Obligations.MultiplyOperationsExecute : Prop := ∀ f : Fields,
  let wide := decide (2 ≤ f.minor.toNat)
  let cycles := if wide then 4 else 1
  let lat := if wide then 7 else 4
  Executes (.imul f) cycles lat (fun v l => intResult v (intA v l * intB v l)) ∧
  Executes (.imulh f) cycles lat (fun v l =>
    intResult v (intA v l * intB v l / (2 ^ t4Width f.minor.toNat : Int))) ∧
  Executes (.imad f) cycles lat (fun v l => intResult v (intA v l * intB v l + intC v l)) ∧
  Executes (.lea f) 1 3 (fun v l =>
    outN v (wrap 64 ((v.a l : Int) + readInt (f.minor.toNat == 0) 32 (v.b l) * (2 ^ (f.mod.toNat % 8) : Nat))) 64) ∧
  Executes (.idot4 f) 1 4 (fun v l =>
    let dot := (List.range 4).foldl (fun (x : Int) k =>
      x + byteOf (!f.minor.getLsbD 0) (v.a l) k * byteOf (!f.minor.getLsbD 1) (v.b l) k) (sext (v.c l) 32)
    out32 v (wrap 32 (if f.mod.getLsbD 3 then clamp true 32 dot else dot))) ∧
  Executes (.rng4 f) 4 14 (fun v l =>
    let x := philox 10 (bits (v.a l) 31 0, bits (v.a l) 63 32, bits (v.a l) 95 64, bits (v.a l) 127 96)
      (bits (v.b l) 31 0, bits (v.b l) 63 32)
    { regs := writesOf f.d.toNat (x.1 + x.2.1 * 2 ^ 32 + x.2.2.1 * 2 ^ 64 + x.2.2.2 * 2 ^ 96) 4 })

/-- R128, R129: the bitwise operations, the three-input truth table, and the shifts and rotations, whose counts of the
width or more give 0 for a logical shift and the sign for an arithmetic one. R130–R133: bit counts and reversal,
bit-field extraction and insertion, byte permutation. -/
def Obligations.LogicAndBitFieldsExecute : Prop :=
  (∀ f : Fields,
    let n := bWidth f
    let cycles := if n = 64 then 2 else 1
    let lat := if n = 64 then 3 else 2
    Executes (.and f) cycles lat (fun v l => outN v ((v.a l &&& v.bInt l n false) % 2 ^ n) n) ∧
    Executes (.or f) cycles lat (fun v l => outN v ((v.a l ||| v.bInt l n false) % 2 ^ n) n) ∧
    Executes (.xor f) cycles lat (fun v l => outN v ((v.a l ^^^ v.bInt l n false) % 2 ^ n) n) ∧
    Executes (.not f) cycles lat (fun v l => outN v ((2 ^ 64 - 1 - v.a l % 2 ^ 64) % 2 ^ n) n) ∧
    Executes (.lop3 f) cycles lat (fun v l =>
      outN v (lop3 f.mod.toNat (v.a l) (v.bInt l n false) (v.c l) % 2 ^ n) n) ∧
    Executes (.shl f) cycles lat (fun v l => outN v (if n ≤ v.b l then 0 else (v.a l <<< v.b l) % 2 ^ n) n) ∧
    Executes (.shr f) cycles lat (fun v l => outN v (if n ≤ v.b l then 0 else v.a l >>> v.b l) n) ∧
    Executes (.sar f) cycles lat (fun v l => outN v (wrap n (sext (v.a l) n / (2 ^ min (v.b l) (n - 1) : Nat))) n) ∧
    Executes (.rot f) cycles lat (fun v l =>
      outN v (rotl n (v.a l) (if 2 ≤ f.minor.toNat then (n - v.b l % n) % n else v.b l % n)) n)) ∧
  (∀ f : Fields,
    let n := bWidth f
    let cycles := if n = 64 then 2 else 1
    let lat := if n = 64 then 3 else 2
    Executes (.popc f) cycles lat (fun v l => out32 v (popCount (v.a l) n)) ∧
    Executes (.clz f) cycles lat (fun v l => out32 v (if v.a l = 0 then n else n - 1 - Nat.log2 (v.a l))) ∧
    Executes (.brev f) cycles lat (fun v l => outN v (reverseBits (v.a l) n) n) ∧
    Executes (.bfi f) cycles lat (fun v l => outN v (insertField n (v.a l) (v.b l) (v.c l)) n) ∧
    Executes (.bfx f) (if 2 ≤ f.minor.toNat then 2 else 1) (if 2 ≤ f.minor.toNat then 3 else 2) (fun v l =>
      outN v (extractField (t4Signed f.minor.toNat) (t4Width f.minor.toNat) (v.a l) (v.b l)) (t4Width f.minor.toNat)) ∧
    Executes (.bperm f) 1 2 (fun v l => out32 v (permBytes (v.a l) (v.b l) (v.c l))))

/-- R86, R88–R91: votes, shuffles, reductions and matches act among the executing threads of the issue. -/
def Obligations.GroupOperationsExecute : Prop := ∀ f : Fields,
  Executes (.vote f) 1 3 (fun v _ =>
    let q := fun l => v.p l f.a.toNat != f.mod.getLsbD 0
    match f.minor.toNat with
    | 0 => out32 v (LaneSet.ofList (v.lanes.lanes.filter q)).toNat
    | 1 => { preds := [(f.d.toNat, v.lanes.lanes.all q)] }
    | 2 => { preds := [(f.d.toNat, v.lanes.lanes.any q)] }
    | _ => { preds := [(f.d.toNat, v.lanes.lanes.all q || !v.lanes.lanes.any q)] }) ∧
  Executes (.shfl f) (if isWide (f.minor.toNat % 32) then 2 else 1) (if isWide (f.minor.toNat % 32) then 5 else 4)
    (fun v l =>
      let u := match shflLane (f.minor.toNat / 32) (32 >>> f.mod.toNat) l (v.b l) with
        | some j => if v.lanes.has j then j else l
        | none => l
      outN v (v.a u) (if isWide (f.minor.toNat % 32) then 64 else 32)) ∧
  Executes (.gred f) (if isWide f.minor.toNat then 2 else 1)
    (if isWide f.minor.toNat then 12 else if f.minor.toNat = 14 then 10 else 8) (fun v _ =>
      let n := if isWide f.minor.toNat then 64 else 32
      let o := f.mod.toNat
      outN v (if f.minor.toNat = 13 ∨ f.minor.toNat = 14
        then reduceFloat (fmtOf f.minor.toNat) (o / 16) (o % 8) (o / 8 % 2 == 1) (v.lanes.lanes.map v.a)
        else reduceInt (o / 16) (f.minor.toNat == 2 || f.minor.toNat == 3) (o / 8 % 2 == 1) n (v.lanes.lanes.map v.a)) n) ∧
  Executes (.matchLanes f) (if isWide (f.minor.toNat % 32) then 2 else 1) (if isWide (f.minor.toNat % 32) then 7 else 6)
    (fun v l =>
      let same := fun u => v.a u == v.a l
      if f.minor.toNat < 32 then out32 v (LaneSet.ofList (v.lanes.lanes.filter same)).toNat
      else
        { out32 v (if v.lanes.lanes.all same then v.lanes.toNat else 0) with
          preds := [(f.c.toNat, v.lanes.lanes.all same)] })

/-- R151, R152: PACK6, PACK4 and PACK8 put the threads' elements of 6, 4 or 8 bits together in the low lanes; UNPK6, UNPK4
and UNPK8 take them apart, sign-extended where MINOR 0 is set. R87: GETID writes its selector's value, in an unchecked
run and in a checked run for the selectors that do not go through the log; for those that do, the logged value (R326). -/
def Obligations.PackingAndIdentityExecute : Prop :=
  (∀ f : Fields,
    let pack := fun (n per : Nat) (v : View) (l : Nat) =>
      out32 v (if l < 32 / per then
        (List.range per).foldl (fun x k => x + packElem v n (per * l + k) * 2 ^ (n * k)) 0 else 0)
    let unpack := fun (n per : Nat) (v : View) (l : Nat) =>
      let src := if v.lanes.has (l / per) then v.a (l / per) else 0
      let x := src >>> (n * (l % per)) % 2 ^ n
      out32 v (if f.minor.toNat = 1 then wrap 32 (sext x n) else x)
    Executes (.pack6 f) 1 4 (pack 6 4) ∧ Executes (.pack4 f) 1 4 (pack 4 8) ∧ Executes (.pack8 f) 1 4 (pack 8 4) ∧
    Executes (.unpk6 f) 1 4 (unpack 6 4) ∧ Executes (.unpk4 f) 1 4 (unpack 4 8) ∧ Executes (.unpk8 f) 1 4 (unpack 8 4)) ∧
  (∀ f s v, s.issue? sources (.getid f) = some v →
    let sel := f.minor.toNat
    let own := fun l => out32 v (getidValue v (v.start s) sel l)
    ((sel < 12 ∨ 16 < sel ∨ v.team.mode = .unchecked) → v.clean (v.start s) own = true →
      exec (.getid f) s = .next (v.done 1 2 own (v.start s))) ∧
    ((12 ≤ sel ∧ sel ≤ 16 ∧ v.team.mode ≠ .unchecked) → logWaits v.team v.g = false →
      let logged := lanesThroughLog v 4 1 v.lanes (getidValue v (v.start s) sel) (v.start s)
      v.clean logged.2 (fun l => out32 v (Map.get logged.1 l 0)) = true →
      exec (.getid f) s = .next (v.done 1 2 (fun l => out32 v (Map.get logged.1 l 0)) logged.2)))

/-- R122, R136–R142: the floating-point operations of .f32 and .f64 (latency 4 and 6), selections, comparisons and classes
(2 and 3), and the packed 16-bit forms, each with the flags it raises. R142, R146–R150: the packed 16-bit forms over
both halves, conversions, quantisation with a block scale, the block scale itself, and scaling by a power of two. -/
def Obligations.FloatOperationsExecute : Prop :=
  (∀ f : Fields,
    let wide := decide (formWidth f = 64)
    let cycles := if wide then 2 else 1
    let lat := if wide then 6 else 4
    let quick := if wide then 3 else 2
    let binary := fun (op : Fmt → Nat → Nat → Bool → Bool → Nat → Nat → Nat × BitVec 5) (v : View) (l : Nat) =>
      fOut v (op (formFmt f) (rndOf f) (if rndOf f = 4 then v.c l else 0) (satOf f) (flushes v.fpMode (formFmt f))
        (fSrc v (v.a l)) (fSrc v (fB v l)))
    Executes (.fadd f) cycles lat (binary fAdd) ∧
    Executes (.fsub f) cycles lat (binary fSub) ∧
    Executes (.fmul f) cycles lat (binary fMul) ∧
    Executes (.ffma f) cycles lat (fun v l =>
      fOut v (fFma (formFmt f) (rndOf f) (satOf f) (flushes v.fpMode (formFmt f)) (fSrc v (v.a l)) (fSrc v (fB v l))
        (fSrc v (v.c l)))) ∧
    Executes (.fmin f) cycles quick (fun v l => fOut v (fMinMax (formFmt f) false (fSrc v (v.a l)) (fSrc v (fB v l)))) ∧
    Executes (.fmax f) cycles quick (fun v l => fOut v (fMinMax (formFmt f) true (fSrc v (v.a l)) (fSrc v (fB v l)))) ∧
    Executes (.fcmp f) cycles quick (fun v l =>
      let r := fCompare (formFmt f) (f.mod.toNat % 8) (fSrc v (v.a l)) (fSrc v (fB v l))
      { preds := [(f.d.toNat, r.1)], flags := r.2 }) ∧
    Executes (.fclass f) cycles quick (fun v l => out32 v (fClass (formFmt f) (v.a l))) ∧
    Executes (.frnd f) cycles lat (fun v l => fOut v (fRound (formFmt f) (rndOf f) (fSrc v (v.a l))))) ∧
  (∀ f : Fields,
    let packed := fun (op : Fmt → Nat → Bool → Bool → Nat → Nat → Nat → Nat × BitVec 5) (v : View) (l : Nat) =>
      let fmt := halfFmt f
      let elem := fun (x j : Nat) => flushSource v.fpMode fmt (bits x (16 * j + 15) (16 * j))
      let one := fun j => op fmt (rndOf f) (satOf f) (flushes v.fpMode fmt) (elem (v.a l) j) (elem (v.b l) j) (elem (v.c l) j)
      { out32 v ((one 0).1 + (one 1).1 * 2 ^ 16) with flags := (one 0).2 ||| (one 1).2 }
    let wideCvt := codeBits f.minor.toNat == 64 || codeBits f.c.toNat == 64
    Executes (.hfma2 f) 1 4 (packed fFma) ∧
    Executes (.hadd2 f) 1 4 (packed (fun fmt m sat fl a b _ => fAdd fmt m 0 sat fl a b)) ∧
    Executes (.hmul2 f) 1 4 (packed (fun fmt m sat fl a b _ => fMul fmt m 0 sat fl a b)) ∧
    Executes (.cvt f) (if wideCvt then 2 else 1) (if wideCvt then 5 else 4) (fun v l =>
      let r := convert f.minor.toNat f.c.toNat (rndOf f) (if rndOf f = 4 then v.b l else 0) (satOf f) v.fpMode (v.a l)
      { outN v r.1 (if codeBits f.minor.toNat == 64 then 64 else 32) with flags := r.2 }) ∧
    Executes (.cvtq f) 1 4 (fun v l =>
      let dst := f.minor.toNat % 32
      let r := quantise dst (quantSource f) (rndOf f) (if rndOf f = 4 then v.c l else 0) v.fpMode (v.a l) (v.b l % 256)
      { out32 v (if dst = 0 then wrap 32 (sext r.1 8) else r.1) with flags := r.2 }) ∧
    Executes (.sclx f) 1 4 (fun v l =>
      let fs := quantSource f
      let r := blockScale (f.minor.toNat % 32) (decodeFloat fs (flushSource v.fpMode fs (v.a l % 2 ^ fs.width)))
      { out32 v r.1 with flags := r.2 }) ∧
    Executes (.fscl f) (if f.minor.toNat % 4 = 1 then 2 else 1) (if f.minor.toNat % 4 = 1 then 6 else 4) (fun v l =>
      let fmt := fsclFmt f
      let r := scaleValue fmt (f.minor.getLsbD 2) (rndOf f) (if rndOf f = 4 then v.c l else 0) (satOf f)
        (flushes v.fpMode fmt) (flushSource v.fpMode fmt (v.a l % 2 ^ fmt.width)) (v.b l)
      { outN v r.1 (if f.minor.toNat % 4 = 1 then 64 else 32) with flags := r.2 }))

/-- R143–R145: a special function fixes each executing thread's result and flags at issue and sends them, long-latency, to
one or two registers. -/
def Obligations.SpecialFunctionsExecute : Prop := ∀ f s v,
  let n := formWidth f / 32
  let value := fun (code l : Nat) =>
    special code (formFmt f) (rndOf f) (satOf f) (flushes v.fpMode (formFmt f)) (fSrc v (v.a l))
  let sends := fun (i : Instr) (code : Nat) => s.issue? sources i = some v →
    exec i s = .next (v.sent 1 n .sfu (v.lanes.lanes.map (fun l => (l, wordsOf (value code l).1 n))) true
      (v.lanes.lanes.map (fun l => (l, (value code l).2))) (v.start s))
  sends (.frcp f) 0 ∧ sends (.frsq f) 1 ∧ sends (.fsqrt f) 2 ∧ sends (.fexp2 f) 3 ∧ sends (.flog2 f) 4 ∧
  sends (.fsin f) 5 ∧ sends (.fcos f) 6 ∧ sends (.ftanh f) 7

/-! ## MEM and LOCAL classes -/

/-- R187–R190: LD and LDQ trap the threads whose addresses fail the check of R188 and take a load slot for the others: their
destinations are empty, and each of them has an element at its address, which has its value at once where the core holds
it. -/
def Obligations.GlobalLoadsIssue : Prop := ∀ (f : Fields) (s : State) (v : View),
  let n := elemBytes f.minor.toNat
  let good := v.good (globalReach n v)
  let lanes := lanesIn good
  let issues := fun (i : Instr) (kind : MemKind) (cycles : Nat) =>
    s.issue? sources i = some v →
    let s1 := countExec v.t v.gi lanes (v.checked (globalReach n v) s)
    let cnts := cntsOf v.team v.g lanes
    let op : MemOp := { id := s1.fresh.1, addr := v.run.addr, idx := v.run.idx, kind := kind, typ := f.minor.toNat, aop := 0
                        asid := v.g.asid
                        elems := good.map (fun lx => ⟨lx.1, lx.2, n, 0, 0, Map.get cnts lx.1 0, none, false, false, 0⟩) }
    let s2 := sendLong v s1.fresh.1 (Forms.typeRegs f.minor.toNat) .ld lanes [] false [] s1.fresh.2
    exec i s = .next (retire v.t v.gi cycles (if good = [] then s2
      else tryLoads v.t v.gi op (s2.modGroup v.t v.gi (fun g => { g with loads := g.loads ++ [op] }))))
  issues (.ld f) .ld (if n = 16 then 2 else 1) ∧ issues (.ldq f) .ldq (if n = 16 ∨ n = 8 then 2 else 1)

/-- R178, R187–R193, R335: ST, STQ, RED, ATOM and CAS trap the threads whose addresses fail the check of R188; for the others
they take one store-queue entry with an element for each and enter the store signature, CAS with its compare value and
then its data (log entry 41); ATOM and CAS also mark their destinations. -/
def Obligations.GlobalStoresIssue : Prop := ∀ (f : Fields) (s : State) (v : View),
  let n := elemBytes f.minor.toNat
  let good := v.good (globalReach n v)
  let lanes := lanesIn good
  let data := fun l => v.c l % 2 ^ (8 * n)
  let cas := fun l => v.operand v.form.b f.b.toNat l % 2 ^ (8 * n)
  let issues := fun (i : Instr) (kind : MemKind) (cycles aop : Nat) (cmp : Nat → Nat)
      (signed : List (Nat × Nat × Nat × Nat)) =>
    s.issue? sources i = some v →
    let s1 := countExec v.t v.gi lanes (signStores v.t v.gi 0 signed (v.checked (globalReach n v) s))
    let cnts := cntsOf v.team v.g lanes
    let op : MemOp := { id := s1.fresh.1, addr := v.run.addr, idx := v.run.idx, kind := kind, typ := f.minor.toNat, aop := aop
                        asid := v.g.asid
                        elems := good.map (fun lx =>
                          ⟨lx.1, lx.2, n, data lx.1, cmp lx.1, Map.get cnts lx.1 0, none, false, false, 0⟩) }
    let s2 := if kind.reads then sendLong v s1.fresh.1 (Forms.typeRegs f.minor.toNat) .ld lanes [] false [] s1.fresh.2
      else s1.fresh.2
    exec i s = .next (retire v.t v.gi cycles (if good = [] then s2
      else s2.modGroup v.t v.gi (fun g => { g with stores := g.stores ++ [op] })))
  let plain := good.map (fun lx => (lx.1, lx.2, n, data lx.1))
  let wide := if n = 16 then 2 else 1
  let long := if 8 ≤ n then 2 else 1
  issues (.st f) .st wide (f.mod.toNat % 16) (fun _ => 0) plain ∧
  issues (.stq f) .stq wide (f.mod.toNat % 16) (fun _ => 0) plain ∧
  issues (.red f) .red long (f.mod.toNat % 16) (fun _ => 0) plain ∧
  issues (.atom f) .atom long (f.mod.toNat % 16) (fun _ => 0) plain ∧
  issues (.cas f) .cas long 7 cas (good.flatMap (fun lx => [(lx.1, lx.2, n, cas lx.1), (lx.1, lx.2, n, data lx.1)]))

/-- R117, R120, R155, R156, R158, R164, R171, R188, R210, R244, R354, R359: what each address check tests and the cause and detail
with which it fails: a global element, a record, the range of an AFENCE or a PUBLISH, the private scratchpad, a window,
the chip scratchpad, a lane's slice. A thread that fails the check of its instruction takes that trap at the
instruction, whatever the others do. That LDL and STL test the alignment before the size is the model's choice (log entry
91). -/
def Obligations.AddressChecks : Prop :=
  (∀ (v : View) (s : State) (l x n : Nat),
    (globalReach n v l = if globalAddr v l % n = 0 ∧ globalAddr v l < 2 ^ 52 then .ok (globalAddr v l)
      else .error (6, globalAddr v l)) ∧
    (recordReach v l = if v.a l % 32 = 0 ∧ v.a l < 2 ^ 52 then .ok (v.a l) else .error (6, v.a l)) ∧
    (rangeReach v l = if v.b l = 0 then .ok none
      else if v.a l + v.b l ≤ 2 ^ 52 then .ok (some (v.a l, v.b l)) else .error (6, v.a l)) ∧
    (publishReach v l =
      if v.b l ≠ 0 ∧ v.a l + v.b l ≤ 2 ^ 52 ∧ v.team.mode ≠ .unchecked ∧ v.g.inLogged l = false ∧
        hasBit v.team.lb.flags 0 = false then .error (13, v.a l) else rangeReach v l) ∧
    (padReach v s l x n = if x % n ≠ 0 then .error (6, x)
      else if v.g.inCall l = true then
        (if x + n ≤ (scratchOf v.team v.gi).2 then .ok (.pad ((scratchOf v.team v.gi).1 + x)) else .error (12, x * 2 ^ 32))
      else if v.team.ownsPad x n = true then .ok (.pad x) else .error (12, x * 2 ^ 32)) ∧
    (chipReach v s l x n = if x % n ≠ 0 then .error (6, x)
      else if x + n ≤ ((s.part v.team.part).config.pieces0 + (s.part v.team.part).config.pieces1) * 0x40000
        then .ok (.chip (v.team.part * 2 ^ 26 + x)) else .error (12, x * 2 ^ 32)) ∧
    (x % n ≠ 0 → winReach v s l x n = .error (6, x)) ∧
    (x % n = 0 → v.team.lb.win = 0 → winReach v s l x n = .error (12, x * 2 ^ 32 + 1)) ∧
    (x % n = 0 → v.team.lb.win ≠ 0 → bits x 19 18 = s.position v.team.core →
      winReach v s l x n = if bits x 17 0 + n ≤ v.team.lb.win then .ok (.window v.t (bits x 17 0))
        else .error (12, x * 2 ^ 32)) ∧
    (x % n = 0 → v.team.lb.win ≠ 0 → bits x 19 18 ≠ s.position v.team.core → v.team.replays = true →
      winReach v s l x n = .ok .away) ∧
    (x % n = 0 → v.team.lb.win ≠ 0 → bits x 19 18 ≠ s.position v.team.core → v.team.replays = false →
      let there := (s.coreAt (clusterOf v.team.core) (bits x 19 18)).bind s.windowAt
      (∀ k o, there = some (k, o) → v.team.sharing.isSome = true → o.sharing = v.team.sharing →
        winReach v s l x n = if bits x 17 0 + n ≤ o.lb.win then .ok (.window k (bits x 17 0)) else .error (12, x * 2 ^ 32)) ∧
      ((∀ k o, there = some (k, o) → v.team.sharing = none ∨ o.sharing ≠ v.team.sharing) →
        winReach v s l x n = .error (12, x * 2 ^ 32 + 1))) ∧
    (v.g.inCall l = false → 64 * v.team.lb.slice + v.team.lb.backw < x + n → sliceReach v l x n = .error (8, x)) ∧
    (v.g.inCall l = false → x + n ≤ 64 * v.team.lb.slice →
      ∃ r, sliceReach v l x n = .ok r ∧ r.slice = x ∧ r.inSlice = n ∧ r.inBack = 0) ∧
    (v.g.inCall l = false → 64 * v.team.lb.slice < x + n → x + n ≤ 64 * v.team.lb.slice + v.team.lb.backw →
      ∃ r, sliceReach v l x n = .ok r ∧ r.slice = x ∧ r.inSlice = 64 * v.team.lb.slice - x ∧ r.inSlice + r.inBack = n ∧
        r.back = v.team.lb.backbase + (v.team.copy * (32 * v.team.lb.groups) + 32 * v.gi + l) * v.team.lb.backw +
          (max x (64 * v.team.lb.slice) - 64 * v.team.lb.slice)) ∧
    (v.g.inCall l = true →
      let k := 64 * (v.g.gate.map (·.slice)).getD 0
      sliceReach v l x n = if x + n ≤ k then .ok ⟨64 * v.team.lb.slice - k + x, n, 0, 0⟩ else .error (8, x)) ∧
    (laneReach n v l = if localAddr v l % n ≠ 0 then .error (6, localAddr v l) else sliceReach v l (localAddr v l) n)) ∧
  (∀ (f : Fields) (s : State) (v : View),
    let n := elemBytes f.minor.toNat
    let k := spillCount f
    let near := fun (reach : View → State → Nat → Nat → Nat → Except (Nat × Nat) Reach) (l : Nat) =>
      reach v (v.start s) l (localAddr v l) n
    let atomic := fun (reach : View → State → Nat → Nat → Nat → Except (Nat × Nat) Reach) (l : Nat) =>
      reach v (v.start s) l (v.a l % 2 ^ 32) n
    let spilled := fun l => sliceReach v l (spillOffset f) (4 * k)
    v.traps s (.ld f) (globalReach n v) ∧ v.traps s (.ldq f) (globalReach n v) ∧ v.traps s (.st f) (globalReach n v) ∧
    v.traps s (.stq f) (globalReach n v) ∧ v.traps s (.red f) (globalReach n v) ∧ v.traps s (.atom f) (globalReach n v) ∧
    v.traps s (.cas f) (globalReach n v) ∧
    v.traps s (.afence f) (rangeReach v) ∧ v.traps s (.publish f) (publishReach v) ∧
    v.traps s (.jadd f) (recordReach v) ∧ v.traps s (.launch f) (recordReach v) ∧ v.traps s (.spawn f) (recordReach v) ∧
    v.traps s (.lds f) (near padReach) ∧ v.traps s (.sts f) (near padReach) ∧ v.traps s (.atoms f) (atomic padReach) ∧
    v.traps s (.ldw f) (near winReach) ∧ v.traps s (.stw f) (near winReach) ∧ v.traps s (.stx f) (near winReach) ∧
    v.traps s (.ldk f) (near chipReach) ∧ v.traps s (.stk f) (near chipReach) ∧ v.traps s (.atomk f) (atomic chipReach) ∧
    (backPages (v.good spilled) = [] → v.traps s (.spill f) spilled ∧ v.traps s (.fill f) spilled) ∧
    (backPages (v.good (laneReach n v)) = [] → v.traps s (.ldl f) (laneReach n v) ∧ v.traps s (.stl f) (laneReach n v)))

/-- R191, R203, R210, R333, R353, R354, R359, R360: PFCH has no effect in a checked run; in an unchecked one each thread's line
is brought into the L1 or the L2 where its page is in the translation cache, and its prefetch waits for the walk of the
page otherwise. FENCE, AFENCE and PUBLISH stand among the group's pending operations until they are complete, the latter
two with the ranges of the threads that pass their check, and PUBLISH enters the store signature of checked threads; LOGV
sends its values through the log. That a prefetch fills its cache in the step that issues it or that ends its walk, and
brings in no line with an error mark, is the model's choice (log entry 40). -/
def Obligations.OrderingInstructionsIssue : Prop := ∀ (f : Fields) (s : State) (v : View),
  let s1 := countExec v.t v.gi v.lanes (v.start s)
  let named := fun (rs : List (Nat × Option (Nat × Nat))) => rs.filterMap (fun lr => lr.2.map (fun xn => (lr.1, xn.1, xn.2)))
  let waits := fun (rs : List (Nat × Nat × Nat)) (p : Nat → Nat → Pending) (u : State) =>
    if rs = [] then u.fresh.2
    else u.fresh.2.modGroup v.t v.gi (fun g => { g with pending := g.pending ++ [p u.fresh.1 g.asid] })
  (s.issue? sources (.pfch f) = some v → exec (.pfch f) s = .next (v.passed 1 (if v.team.mode = .unchecked then
    v.lanes.lanes.foldl (fun s l => prefetch v.t v.team v.g.asid (f.minor.toNat == 0) (globalAddr v l) s) (v.start s)
    else v.start s))) ∧
  (∀ (t : Nat) (tm : Team) (asid x : Nat) (l1 : Bool) (u : State),
    let hit := u.tlbHit (u.translationSlice (dieOf tm.core) asid x) tm.part asid x
    (2 ^ 52 ≤ x → prefetch t tm asid l1 x u = u) ∧
    (x < 2 ^ 52 → hit = none →
      prefetch t tm asid l1 x u = u.askWalk (some ⟨if l1 then 5 else 6, t, x⟩) (dieOf tm.core) tm.part asid x) ∧
    (x < 2 ^ 52 → hit ≠ none → prefetch t tm asid l1 x u = u.bring tm asid l1 x) ∧
    ((∀ e pa z, u.translate (dieOf tm.core) tm.part asid x ≠ .leaf e pa z) → u.bring tm asid l1 x = u) ∧
    (∀ e pa z, u.translate (dieOf tm.core) tm.part asid x = .leaf e pa z →
      let dropped := hasBit e 5 = true ∨ isDram pa = false ∨ hasBit e 2 = false ∨ u.refused pa = true ∨
        u.errors.contains (pa >>> 7) = true ∨ u.unitDown tm.part (u.homeUnit pa) = true
      let u1 := u.readAtHome (pa / 128 * 128) 128
      (dropped → u.bring tm asid l1 x = u) ∧
      (¬ dropped → u.bring tm asid false x = u1 ∧
        u.bring tm asid true x = if bits e 51 50 = 1 then u else u1.fillL1 tm.core x asid pa e 15#4 (u.lineBytes e pa)))) ∧
  (s.issue? sources (.fence f) = some v → exec (.fence f) s = .next (retire v.t v.gi 1 (if v.lanes = 0 then s1.fresh.2
    else s1.fresh.2.modGroup v.t v.gi (fun g => { g with pending := g.pending ++
      [{ id := s1.fresh.1, addr := v.run.addr, idx := v.run.idx, kind := 0, lanes := v.lanes, scope := f.d.toNat
         pset := f.a.toNat, sset := f.b.toNat, ranges := [], asid := g.asid }] })))) ∧
  (s.issue? sources (.afence f) = some v →
    let good := v.good (rangeReach v)
    exec (.afence f) s = .next (retire v.t v.gi 1 (waits (named good) (fun id asid =>
      { id := id, addr := v.run.addr, idx := v.run.idx, kind := 1, lanes := lanesIn (named good), scope := 0, pset := 3
        sset := 31, ranges := named good, asid := asid }) (countExec v.t v.gi (lanesIn good) (v.checked (rangeReach v) s))))) ∧
  (s.issue? sources (.publish f) = some v →
    let good := v.good (publishReach v)
    let own := fun l => v.team.mode != .unchecked && !v.g.inLogged l
    let s2 := countExec v.t v.gi (lanesIn good) ((named good).foldl (fun (s : State) r =>
      if own r.1 then s.modThread v.t v.gi r.1 (fun th =>
        { th with ss := rotl64 th.ss 23 ^^^ chunkHash 0 0 r.2.1 (r.2.2 + f.d.toNat <<< 32) }) else s)
      (v.checked (publishReach v) s))
    let mine := (named good).filter (fun r => !(v.team.mode == .trail && own r.1))
    exec (.publish f) s = .next (retire v.t v.gi 1 (waits mine (fun id asid =>
      { id := id, addr := v.run.addr, idx := v.run.idx, kind := 2, lanes := lanesIn mine, scope := f.d.toNat, pset := 2
        sset := if mine.any (fun r => own r.1) then 1 else 0, ranges := mine, asid := asid }) s2))) ∧
  (s.issue? sources (.logv f) = some v → logWaits v.team v.g = false →
    exec (.logv f) s = .next (v.sentLogged 1 (Forms.typeRegs f.minor.toNat) .ld 3 1 v.a id (v.start s)))

/-- R155–R166, R173: a load from the core scratchpad, a window or the chip scratchpad traps the threads whose addresses fail
their check, marks the destinations of the others empty and enters their elements into the group's queue, from which
RESULT_LANDS performs them. -/
def Obligations.LocalLoadsExecute : Prop := ∀ (f : Fields) (s : State) (v : View),
  let n := elemBytes f.minor.toNat
  let loads := fun (i : Instr) (cycles : Nat) (reach : View → State → Nat → Nat → Nat → Except (Nat × Nat) Reach) =>
    let check := fun l => reach v (v.start s) l (localAddr v l) n
    let good := v.good check
    let s1 := countExec v.t v.gi (lanesIn good) (v.checked check s)
    s.issue? sources i = some v → exec i s = .next (retire v.t v.gi cycles
      (sendLocal v s1.fresh.1 0 0 false false good (fun _ => 0) (fun _ => 0)
        (sendLong v s1.fresh.1 (Forms.typeRegs f.minor.toNat) .none (lanesIn good) [] false [] s1.fresh.2)))
  loads (.lds f) (if 16 ≤ n then 2 else 1) padReach ∧ loads (.ldw f) (if 16 ≤ n then 2 else 1) winReach ∧
  loads (.ldk f) (if 8 ≤ n then 2 else 1) chipReach

/-- R155–R166, R173, R335: a store to the core scratchpad, a window bank or the chip scratchpad traps the threads whose
addresses fail their check; the elements of the others enter the store signature of their space and the group's queue.
The issue cycles of STW, STX and STK are the model's choice (log entry 110). -/
def Obligations.LocalStoresExecute : Prop := ∀ (f : Fields) (s : State) (v : View),
  let n := elemBytes f.minor.toNat
  let stores := fun (i : Instr) (space : Nat) (shadow : Bool)
      (reach : View → State → Nat → Nat → Nat → Except (Nat × Nat) Reach) =>
    let check := fun l => reach v (v.start s) l (localAddr v l) n
    let good := v.good check
    let signed := signStores v.t v.gi space
      (good.map (fun lr => (lr.1, localAddr v lr.1, n, v.c lr.1 % 2 ^ (8 * n)))) (v.checked check s)
    let s1 := countExec v.t v.gi (lanesIn good) signed
    s.issue? sources i = some v → exec i s = .next (retire v.t v.gi (if n = 16 then 2 else 1)
      (sendLocal v s1.fresh.1 1 0 true shadow good (fun l => v.c l) (fun _ => 0) s1.fresh.2))
  stores (.sts f) 1 false padReach ∧ stores (.stw f) 2 false winReach ∧ stores (.stx f) 2 true winReach ∧
  stores (.stk f) 3 false chipReach

/-- R163, R335: an atomic on the core scratchpad or the chip scratchpad traps the threads whose addresses fail their check; the
elements of the others enter the store signature, with the compare value first where it compares (log entry 41), and the
group's queue. It marks its destinations empty unless it is quiet. An element joins its instruction's queue entry for its
array and window; on the chip scratchpad each has an entry of its own. -/
def Obligations.LocalAtomicsExecute : Prop :=
  (∀ (f : Fields) (s : State) (v : View),
    let n := elemBytes f.minor.toNat
    let op := f.mod.toNat % 16
    let quiet := f.mod.getLsbD 4
    let cmp := v.operand v.form.b v.f.b.toNat
    let atomics := fun (i : Instr) (space : Nat) (reach : View → State → Nat → Nat → Nat → Except (Nat × Nat) Reach) =>
      let check := fun l => reach v (v.start s) l (v.a l % 2 ^ 32) n
      let good := v.good check
      let signed := signStores v.t v.gi space (good.flatMap (fun lr =>
        (if op = 7 then [(lr.1, v.a lr.1, n, cmp lr.1)] else []) ++ [(lr.1, v.a lr.1, n, v.c lr.1)])) (v.checked check s)
      let s1 := countExec v.t v.gi (lanesIn good) signed
      s.issue? sources i = some v → exec i s = .next (retire v.t v.gi (if n = 8 then 2 else 1)
        (sendLocal v s1.fresh.1 2 op quiet false good (fun l => v.c l) cmp (if quiet then s1.fresh.2
          else sendLong v s1.fresh.1 (Forms.typeRegs f.minor.toNat) .none (lanesIn good) [] false [] s1.fresh.2)))
    atomics (.atoms f) 1 padReach ∧ atomics (.atomk f) 3 chipReach) ∧
  (∀ (space target : Nat) (e : MemElem) (ps : List (Nat × Nat × List MemElem)),
    ((space = 3 ∨ space = 5 ∨ ∀ p ∈ ps, ¬ (p.1 = space ∧ p.2.1 = target)) → addLocal space target e ps = ps ++ [(space, target, [e])]) ∧
    (∀ before es after, space ≠ 3 → space ≠ 5 → ps = before ++ (space, target, es) :: after →
      (∀ p ∈ before, ¬ (p.1 = space ∧ p.2.1 = target)) →
      addLocal space target e ps = before ++ (space, target, es ++ [e]) :: after)) ∧
  (∀ (v : View) (insn kind aop : Nat) (quiet shadow : Bool) (rs : List (Nat × Reach)) (data cmp : Nat → Nat) (s : State)
      (g : Group), s.group? v.t v.gi = some g →
    let n := elemBytes v.f.minor.toNat
    let cnts := cntsOf v.team v.g (lanesIn rs)
    let parts := rs.foldl (fun ps lr => addLocal (lr.2.space shadow) lr.2.target
      ⟨lr.1, lr.2.first, n, data lr.1 % 2 ^ (8 * n), cmp lr.1 % 2 ^ (8 * n), Map.get cnts lr.1 0, none, false, false, 0⟩ ps) []
    ∃ h ops, (sendLocal v insn kind aop quiet shadow rs data cmp s).group? v.t v.gi = some h ∧ h = { g with locals := g.locals ++ ops } ∧
      ops.map (fun o => (o.insn, o.addr, o.idx, o.kind, o.typ, o.aop, o.quiet, o.space, o.target, o.elems)) =
        parts.map (fun p => (insn, v.run.addr, v.run.idx, kind, v.f.minor.toNat, aop, quiet, p.1, p.2.1, p.2.2)) ∧
      ops.map (·.id) = (List.range parts.length).map (s.nextId + ·))

/-- R167, R168, R170, R171: SBAR notes the group's arrival and holds it; JOIN enters the team into a sharing group where it
has a window and belongs to none, and returns the members with the status, but waits while the window controller serves
a LEAVE (DEDUCED, log entry 95); LEAVE begins the leave of a member. R115–R120, R222, R341: SPILL, FILL, LDL and STL trap
the threads whose offsets fail their check and wait for the walks of the backing pages of the others; a page that is not
present saves the team, another that fails is a violation, before any effect (the first part of the lowest lane decides:
log entry 114); otherwise bytes move between registers and the lane's slice, the part past the slice to and from the
backing store. That they reach both in the step that issues them is the model's choice (log entry 7). -/
def Obligations.SharingAndSlicesExecute : Prop :=
  (∀ (f : Fields) (s : State) (v : View),
    let counted := countExec v.t v.gi v.lanes
    (s.issue? sources (.sbar f) = some v → v.lanes ≠ 0 →
      exec (.sbar f) s = .next (retire v.t v.gi 1 ((counted (v.start s)).modTeam v.t (fun tm =>
        (tm.modGroup v.gi (fun g => { g with sbarArrived := true, holds := g.holds ++ [.sbar] })).checkSbar)))) ∧
    (s.issue? sources (.leave f) = some v → v.lanes ≠ 0 →
      exec (.leave f) s = .next (retire v.t v.gi 1 ((counted (v.start s).fresh.2).modTeam v.t (fun tm =>
        if tm.sharing.isSome && !tm.replays && tm.leaving == 0 then { tm with leaving := (v.start s).fresh.1 } else tm)))) ∧
    (s.issue? sources (.join f) = some v → v.lanes ≠ 0 → logWaits v.team v.g = false →
      (v.start s).leaveAhead (clusterOf v.team.core) = false →
      let k := f.b.toNat
      let c := clusterOf v.team.core
      let code := if v.team.lb.win = 0 then 3 else if v.team.sharing = none then 0 else if v.team.sharing = some k then 1 else 2
      let joined := ((v.start s).modCluster c (fun x =>
        { x with sharing := modNth (fun g => { g with members := g.members ++ [v.t] }) k x.sharing })).modTeam v.t
        (fun tm => { tm with sharing := some k, shadow := [] })
      let s1 := if code = 0 ∧ v.team.replays = false then joined else v.start s
      exec (.join f) s = .next (v.sentLogged 1 1 .none 4 1 (fun _ => s1.memberMask c k + code * 256) id s1)) ∧
    (s.issue? sources (.join f) = some v →
      (logWaits v.team v.g = true ∨ (v.start s).leaveAhead (clusterOf v.team.core) = true) →
      exec (.join f) s = stall (v.start s))) ∧
  (∀ (f : Fields) (s : State) (v : View),
    let k := spillCount f
    let n := elemBytes f.minor.toNat
    let regs := Forms.typeRegs f.minor.toNat
    let cycles := if n = 16 then 2 else 1
    let asker : Asker := ⟨2, v.t, v.gi⟩
    let die := dieOf v.team.core
    let s0 := v.start s
    let rows := fun l => (List.range k).foldl (fun y j =>
      y + (readReg v.team v.gi v.g (f.a.toNat + j) l).toNat * 2 ^ (32 * j)) 0
    let stored := fun (rs : List (Nat × SliceReach)) (bs : Nat → List Byte) (u : State) => rs.foldl (fun (u : State) lr =>
      (u.modTeam v.t (sliceWrite (32 * v.gi + lr.1) lr.2.slice ((bs lr.1).take lr.2.inSlice))).backWrite v.team lr.2.back
        ((bs lr.1).drop lr.2.inSlice)) u
    let loaded := fun (rs : List (Nat × SliceReach)) (n : Nat) (ext : Nat → Nat) (u : State) =>
      rs.foldl (fun (acc : Map (List Word) × State) lr =>
        let back := acc.2.backRead v.team v.g lr.2.back lr.2.inBack
        (acc.1 ++ [(lr.1, wordsOf (ext (ofLeBytes
          (sliceBytes v.team (32 * v.gi + lr.1) lr.2.slice lr.2.inSlice ++ back.1))) n)], back.2)) ([], u)
    let stores := fun (lanes : LaneSet) (cycles : Nat) (u : State) => retire v.t v.gi cycles (countExec v.t v.gi lanes u)
    let loads := fun (lanes : LaneSet) (cycles regs : Nat) (r : Map (List Word) × State) =>
      let u := countExec v.t v.gi lanes r.2
      retire v.t v.gi cycles (sendLong v u.fresh.1 regs .none lanes r.1 false [] u.fresh.2)
    let slices := fun (i : Instr) (write : Bool) (check : Nat → Except (Nat × Nat) SliceReach)
        (effect : List (Nat × SliceReach) → State → State) => s.issue? sources i = some v →
      let good := v.good check
      let known := s0.allKnown asker die v.team.part v.team.asid (backPages good)
      (known = false → exec i s = stall (s0.askWalks asker die v.team.part v.team.asid (backPages good))) ∧
      (known = true → s0.releasing v.team = true → backPages good ≠ [] → exec i s = stall s0) ∧
      (known = true → s0.releasing v.team = false ∨ backPages good = [] →
        (∀ va level, s0.backFault v.team write good = some (va, .notPresent level) → exec i s =
          stall ((s0.pageFault v.t ⟨level, 5, v.team.asid, va / 128 * 128, none⟩).spend asker)) ∧
        (∀ va, s0.backFault v.team write good = some (va, .violation) → exec i s =
          stall ((s0.violate v va).spend asker)) ∧
        (s0.backFault v.team write good = none → s0.backDown v.team write good = true → exec i s = stall s0) ∧
        (s0.backFault v.team write good = none → s0.backDown v.team write good = false →
          exec i s = .next (effect good (trapLanes v (v.failing check) (s0.spend asker)))))
    let offset := fun l => sliceReach v l (spillOffset f) (4 * k)
    slices (.spill f) true offset (fun rs u => stores (lanesIn rs) k (stored rs (fun l => leBytes (rows l) (4 * k)) u)) ∧
    slices (.fill f) false offset (fun rs u => loads (lanesIn rs) k k (loaded rs k id u)) ∧
    slices (.stl f) true (laneReach n v) (fun rs u => stores (lanesIn rs) cycles (stored rs (fun l => leBytes (v.c l) n) u)) ∧
    slices (.ldl f) false (laneReach n v) (fun rs u => loads (lanesIn rs) cycles regs (loaded rs regs (extendLoad f.minor.toNat) u)))

/-! ## Control flow -/

/-- R29, R81–R83: a transfer notes each executing thread's target, which it takes when the clause completes; CALL and CALLX
write the address of the next clause; a thread whose target is not a multiple of 4 below 2^52 raises MISALIGNED with the
target as its detail. -/
def Obligations.TransfersExecute : Prop := ∀ (f : Fields) (s : State) (v : View),
  let note := fun (target : Nat → Option Nat) (m : Map Nat) =>
    v.lanes.lanes.foldl (fun m l => match target l with | some x => Map.put m l x | none => m) m
  let noted := fun (target : Nat → Option Nat) =>
    v.modRun (fun r => { r with targets := note target r.targets }) (v.start s)
  let out := fun (link : Bool) (target : Nat → Option Nat) (l : Nat) =>
    match target l with
    | some _ => if link then ({ regs := writesOf v.f.d.toNat v.run.next 2 } : LaneOut) else {}
    | none => {}
  let aligned := fun (target : Nat → Option Nat) (l : Nat) =>
    match target l with
    | some x => if x % 4 = 0 ∧ x < 2 ^ 52 then Except.ok () else .error (6, x)
    | none => .ok ()
  let transfers := fun (i : Instr) (link : Bool) (target : Nat → Option Nat) =>
    (s.issue? sources i = some v → (∀ l ∈ v.lanes.lanes, aligned target l = .ok ()) →
      v.clean (noted target) (out link target) = true → exec i s = .next (v.done 1 1 (out link target) (noted target))) ∧
    v.traps s i (aligned target)
  transfers (.bra f) false (fun _ => some v.offsetTarget) ∧
  transfers (.brc f) false (fun l => if branchTaken f.minor.toNat f.mod.toNat (v.a l) then some v.offsetTarget else none) ∧
  transfers (.brx f) false (fun l => some (v.a l)) ∧
  transfers (.ret f) false (fun l => some (v.a l)) ∧
  transfers (.call f) true (fun _ => some v.offsetTarget) ∧
  transfers (.callx f) true (fun l => some (v.a l))

/-- R69, R70, R84, R85, R242, R243: EXIT, YIELD and KWAIT note what happens when the clause completes; KSET sets, adds to
or takes from a reconvergence mask at once; BAR arrives at the team barrier for the group. That of two KWAITs of a clause the
last decides is the model's choice (log entry 87). -/
def Obligations.BarriersAndExitExecute : Prop := ∀ (f : Fields) (s : State) (v : View),
  (s.issue? sources (.exit f) = some v → exec (.exit f) s =
    .next (v.plainly (v.modRun (fun r => { r with exited := r.exited ||| v.lanes }) (v.start s)))) ∧
  (s.issue? sources (.yield f) = some v → exec (.yield f) s =
    .next (v.plainly (v.modRun (fun r => { r with yielded := r.yielded || v.lanes != 0 }) (v.start s)))) ∧
  (s.issue? sources (.kwait f) = some v → exec (.kwait f) s =
    .next (v.plainly (v.modRun (fun r =>
      { r with parkOn := (v.lanes &&& v.g.kmask.getD f.a.toNat 0).lanes.foldl (fun m l => Map.put m l f.a.toNat) r.parkOn })
      (v.start s)))) ∧
  (s.issue? sources (.kset f) = some v → v.lanes ≠ 0 →
    let set := fun (m : LaneSet) =>
      if f.minor.toNat = 0 then v.lanes else if f.minor.toNat = 1 then m ||| v.lanes else m &&& ~~~ v.lanes
    exec (.kset f) s = .next (v.plainly ((v.start s).modGroup v.t v.gi (fun g =>
      ({ g with kmask := modNth set f.a.toNat g.kmask } : Group).releaseK)))) ∧
  (s.issue? sources (.bar f) = some v → v.lanes ≠ 0 → exec (.bar f) s =
    .next (v.plainly ((v.start s).modTeam v.t (fun tm =>
      tm.barArrive v.gi f.a.toNat f.b.toNat ((v.start s).core tm.core).cycles (f.minor.toNat == 1)))))

/-- R377, R379–R381: TRAP and BRK trap every executing thread with cause 11 and 10, saving the address of the next clause,
index 0 and the immediate with the header's address; TRET returns threads in trap mode when the clause completes and
gives every other thread ILLEGAL; HALT halts the partition with its code, and reports the lowest executing thread (DEDUCED,
log entry 44). -/
def Obligations.TrapInstructionsExecute : Prop := ∀ (f : Fields) (s : State) (v : View),
  let trapped := fun (cause : Nat) => retire v.t v.gi 1 (v.lanes.lanes.foldl (fun s l =>
    takeTrap v.t v.gi l v.run.trapVec v.run.next cause 0 ((v.run.addr % 2 ^ 52) * 2 ^ 12 ||| f.b.toNat) s) (v.start s))
  (s.issue? sources (.trap f) = some v → exec (.trap f) s = .next (trapped 11)) ∧
  (s.issue? sources (.brk f) = some v → exec (.brk f) s = .next (trapped 10)) ∧
  (s.issue? sources (.tret f) = some v →
    let back := LaneSet.filter v.lanes (fun l => (v.g.thread l).trapMode)
    let others := v.lanes.lanes.filter (fun l => !(v.g.thread l).trapMode)
    exec (.tret f) s = .next ({ v with lanes := back }.plainly (trapLanes v (others.map (fun l => (l, (1, 0))))
      (v.modRun (fun r => { r with tret := r.tret ||| back }) (v.start s))))) ∧
  (s.issue? sources (.halt f) = some v → v.lanes ≠ 0 → exec (.halt f) s =
    .next (v.plainly ((v.start s).halt v.team.part 10 ((v.start s).coreUnit v.team)
      { UnitFault.of v.team v.g v.run.addr f.b.toNat (32 * v.gi + v.lanes.lanes.headD 0) with index := v.run.idx })))

/-- R382–R384, R400, R251: CRR, TIME and CYC send for the value of a control register, of the chip's time and of the core's
cycle count, through the log for the registers from 0x10 and for both counters; CRW writes in ascending lane order;
PREQ reads the team's pre-emption request or what is left of its budget, through the log. That TIME returns exactly the
machine's time is DEDUCED (log entry 106), and that CRR fixes its value at issue is the model's choice (log entry 85). -/
def Obligations.ControlRegistersExecute : Prop := ∀ (f : Fields) (s : State) (v : View),
  let reads := fun (i : Instr) (value : Nat → Nat) =>
    s.issue? sources i = some v → logWaits v.team v.g = false →
    exec i s = .next (v.sentLogged 1 2 .none 4 1 (fun l => Map.get (v.lanes.lanes.map (fun l => (l, value l))) l 0) id
      (v.start s))
  (0x10 ≤ f.b.toNat → reads (.crr f) (crValue v (v.start s) f.b.toNat)) ∧
  (f.b.toNat < 0x10 → s.issue? sources (.crr f) = some v → exec (.crr f) s = .next (v.sent 1 2 .none
    (v.lanes.lanes.map (fun l => (l, wordsOf (crValue v (v.start s) f.b.toNat l) 2))) false [] (v.start s))) ∧
  reads (.time f) (fun _ => (v.start s).time % 2 ^ 64) ∧
  reads (.cyc f) (fun _ => ((v.start s).core v.team.core).cycles % 2 ^ 64) ∧
  (s.issue? sources (.crw f) = some v → exec (.crw f) s =
    .next (v.plainly (v.lanes.lanes.foldl (fun s l => crWrite v f.b.toNat l (v.a l) s) (v.start s)))) ∧
  (s.issue? sources (.preq f) = some v → logWaits v.team v.g = false →
    let logged := lanesThroughLog v 4 1 v.lanes (fun _ =>
      if f.minor.toNat = 1 then v.team.budgetLeft else if v.team.request then 1 else 0) (v.start s)
    let out := fun l => if f.minor.toNat = 1 then out32 v (Map.get logged.1 l 0)
      else ({ preds := [(f.d.toNat, Map.get logged.1 l 0 != 0)] } : LaneOut)
    v.clean logged.2 out = true → exec (.preq f) s = .next (v.done 1 2 out logged.2))

/-- R244–R246, R326, R335: JADD, LAUNCH and SPAWN trap the threads whose record addresses are misaligned; the accesses of the
others enter the store signature and the group's queue, from which RESULT_LANDS performs them; LAUNCH and SPAWN mark the
destinations of their statuses empty. A replaying run's JADD sends nothing. Of SPAWN's block and successor bits 51:0
count (log entry 113). -/
def Obligations.RecordInstructionsExecute : Prop := ∀ (f : Fields) (s : State) (v : View),
  let good := v.good (recordReach v)
  let signed := countExec v.t v.gi (lanesIn good) (signRecords v good (v.checked (recordReach v) s))
  let arms := fun (i : Instr) (aop : Nat) (data cmp : Nat → Nat) => s.issue? sources i = some v →
    exec i s = .next (retire v.t v.gi 1 (sendRecords v signed.fresh.1 aop false good data cmp
      (sendLong v signed.fresh.1 1 .none (lanesIn good) [] false [] signed.fresh.2)))
  (s.issue? sources (.jadd f) = some v → exec (.jadd f) s = .next (retire v.t v.gi 1
    (if v.team.replays then signed.fresh.2
      else sendRecords v signed.fresh.1 0 true good (fun l => v.b l % 2 ^ 32) (fun _ => 0) signed.fresh.2))) ∧
  arms (.launch f) 1 (fun _ => 0) (fun _ => 0) ∧
  arms (.spawn f) 2 (fun l => bits (v.operand v.form.b f.b.toNat l) 51 0) (fun l => bits (v.c l) 51 0)

/-- R364, R365, R369: GATE begins a call: the threads in trap mode are refused with status 6, the others enter when the
named entry is valid and fits and are refused with its status otherwise, or the partition halts where its gate
directory is no memory; GRET finishes the threads that are in a callee and gives every other thread ILLEGAL. -/
def Obligations.GateInstructionsExecute : Prop := ∀ (f : Fields) (s : State) (v : View),
  let trapped := fun l => (v.g.thread l).trapMode
  let others := v.lanes &&& ~~~ LaneSet.filter v.lanes trapped
  let named := (v.start s).gateEntry v.team.part v.g.asid f.b.toNat
    { UnitFault.of v.team v.g v.run.addr 0 (32 * v.gi + others.lanes.headD 0) with index := v.run.idx }
  (∀ entry, s.issue? sources (.gate f) = some v → v.lanes ≠ 0 →
    (if others = 0 then entry = none else named.1 = .ok entry) →
    ∃ call : GateCall, exec (.gate f) s =
      .next (v.plainly ((if others = 0 then v.start s else named.2).modGroup v.t v.gi (fun g => { g with gate := some call }))) ∧
    call.waiting = true ∧ call.named = v.lanes ∧ call.callerAsid = v.g.asid ∧ call.gate = f.b.toNat ∧
    call.dest = f.d.toNat ∧ call.addr = v.run.addr ∧ call.idx = v.run.idx ∧ call.trapStatus = f.mod.getLsbD 0 ∧ call.next = v.run.next ∧
    (∀ l ∈ v.lanes.lanes, trapped l = true → Map.get? call.early l = some 6) ∧
    (entry = none → call.entered = 0 ∧
      ∀ l ∈ v.lanes.lanes, trapped l = false → Map.get? call.early l = some 1) ∧
    (∀ e, entry = some e → e.status v.team v.gi ≠ 0 → call.entered = 0 ∧
      ∀ l ∈ v.lanes.lanes, trapped l = false → Map.get? call.early l = some (e.status v.team v.gi)) ∧
    (∀ e, entry = some e → e.status v.team v.gi = 0 →
      call.entered = others ∧ call.pc = e.pc ∧ call.handler = e.handler ∧
      call.asid = e.asid ∧ call.domain = e.domain ∧ call.narg = e.narg ∧ call.nret = e.nret ∧ call.slice = e.slice ∧
      call.scratch = e.scratch ∧ call.fpMode = e.fpMode ∧ call.logged = hasBit e.attr 0 ∧
      call.budget = (if e.budget = 0 then 2 ^ 32 else e.budget))) ∧
  (s.issue? sources (.gate f) = some v → others ≠ 0 → named.1 = .error () →
    exec (.gate f) s = .next (v.plainly (named.2.violate v (named.2.part v.team.part).gateDir.toNat))) ∧
  (s.issue? sources (.gret f) = some v →
    let inside := LaneSet.filter v.lanes v.g.inCall
    let outside := (v.lanes.lanes.filter (fun l => !v.g.inCall l)).map (fun l => (l, (1, 0)))
    exec (.gret f) s = .next (retire v.t v.gi 1 (finishCall v.t v.gi (if f.minor.toNat = 1 then 4 else 0) inside
      (countExec v.t v.gi inside (trapLanes v outside (v.start s))))))

/-- R196, R208, R311, R312: SEQW passes once the group's sequence number has reached every executing thread's value, and
blocks before; with the collective stream it then drops the core's unregistered L1 sectors of the buffers of the
collectives that it observes. SEQR returns the sequence number or the error word, which it clears if asked, through the
log. That both wait at issue for a fence that keeps back their threads' engine accesses is DEDUCED (log entry 103). -/
def Obligations.SequenceInstructionsExecute : Prop := ∀ (f : Fields) (s : State) (v : View),
  (s.issue? sources (.seqw f) = some v → v.g.fenced v.lanes 4 = false →
    (∀ l ∈ v.lanes.lanes, v.a l ≤ (v.g.stream f.minor.toNat).done) →
    exec (.seqw f) s = .next (v.plainly (if f.minor.toNat = 1 ∧ v.lanes ≠ 0 then (v.start s).observe v.t v.gi
      else v.start s))) ∧
  (∀ l, s.issue? sources (.seqw f) = some v → l ∈ v.lanes.lanes → (v.g.stream f.minor.toNat).done < v.a l →
    exec (.seqw f) s = stall (v.start s)) ∧
  (s.issue? sources (.seqr f) = some v → v.g.fenced v.lanes 4 = false → logWaits v.team v.g = false →
    let e := f.minor.toNat % 4
    let logged := lanesThroughLog v 4 1 v.lanes
      (fun _ => if f.minor.getLsbD 2 then (v.g.stream e).err else (v.g.stream e).done) (v.start s)
    let out := fun l => ({ regs := writesOf f.d.toNat (Map.get logged.1 l 0) 2 } : LaneOut)
    let cleared := if f.minor.getLsbD 3 ∧ v.lanes ≠ 0
      then logged.2.modGroup v.t v.gi (fun g => g.modStream e (fun x => { x with err := 0 })) else logged.2
    v.clean cleared out = true → exec (.seqr f) s = .next (v.done 1 2 out cleared)) ∧
  (v.g.fenced v.lanes 4 = true →
    (s.issue? sources (.seqw f) = some v → exec (.seqw f) s = stall (v.start s)) ∧
    (s.issue? sources (.seqr f) = some v → exec (.seqr f) s = stall (v.start s)))

/-! ## Engine commands -/

/-- R290–R296: an ENGINE-class instruction sends one command for the issue, under the next ticket of the group's stream,
which D receives; the operands are the leader's, the first executing thread's (BIN's first two are one pair for each
executing thread). It waits while the queues have no room for it; operands that fail a check of R293 trap every
executing thread. An issue in which no thread executes sends nothing. -/
def Obligations.CommandsAreSent : Prop := ∀ (f : Fields) (s : State) (v : View) (l : Nat),
  let sends := fun (i : Instr) =>
    let major := i.major
    let e := engineOf major
    let srcs := (commandSources v.f v.form major).1
    let a := v.a l
    let b := (v.lit.filter (fun _ => major == 0xD6)).getD (v.operand v.form.b v.f.b.toNat l)
    let c := v.c l
    let n := (v.g.stream e).issued + 1
    let cmd : Command := {
      id := (v.start s).fresh.1, team := v.t, part := v.team.part, group := v.gi, lanes := v.lanes, engine := e, major := major
      minor := v.f.minor.toNat, mod := v.f.mod.toNat, ticket := n
      a := if major = 0xD5 then 0 else a, b := if major = 0xD5 then 0 else b, c := c
      lit := v.lit, asid := v.g.asid, slot := v.gi % 4, core := v.team.core
      held := v.f.mod.getLsbD 7, patch := none
      items := if major = 0xD5 then v.lanes.lanes.map (fun l => (v.a l, v.b l)) else [], dest := none
      state := 0, todo := [], code := 0, written := [] }
    let queued := { (v.start s).fresh.2 with commands := (v.start s).fresh.2.commands ++ [cmd] }
    let sent := queued.modGroup v.t v.gi (fun g => g.modStream e (fun x => { x with issued := n }))
    let out := fun _ => ({ regs := writesOf v.f.d.toNat n 2 } : LaneOut)
    s.issue? (fun f k => (commandSources f k major).2) i = some v →
    (v.lanes = 0 → exec i s = .next (v.plainly (v.start s))) ∧
    (v.lanes.lanes.head? = some l → blocked v.g (1#32 <<< l) srcs = true → exec i s = stall (v.start s)) ∧
    (v.lanes.lanes.head? = some l → blocked v.g (1#32 <<< l) srcs = false →
    (∀ cause, firstTrap [readTrap v.g l srcs, commandCheck v (v.start s) major a b c] = some cause →
      exec i s = .next (retire v.t v.gi 1 (trapLanes v (v.lanes.lanes.map (fun l => (l, cause))) (v.start s)))) ∧
    (firstTrap [readTrap v.g l srcs, commandCheck v (v.start s) major a b c] = none →
      ((v.start s).hasRoom v.t v.gi v.team e = false → exec i s = stall (v.start s)) ∧
      ((v.start s).hasRoom v.t v.gi v.team e = true → v.clean sent out = true →
        exec i s = .next (v.done 1 2 out sent))))
  sends (.cpy f) ∧ sends (.cpyt f) ∧ sends (.gthr f) ∧ sends (.sctr f) ∧ sends (.coll f) ∧ sends (.bin f) ∧
  sends (.rel f) ∧ sends (.mirr f) ∧ sends (.fillz f) ∧ sends (.zmap f)

/-! ## The matrix sequencer -/

/-- R259, R260, R262–R266, R270, R276–R279, R285, R390: MMA, TZERO, TLD, TST and TEPI that issue normally first meet their
checks, in order: a format that is not allowed halts the partition with code 4, a tile slot that is not the team's with
code 2, a window that is no member's with code 6, an operand outside its allotment with code 3, and nothing else
happens. One that passes asks for its reservation when it is its sequencer's turn at the core's matrix engine and the
engine has no request waiting, and waits otherwise. When its cycles have passed, MATRIX_OP_COMPLETE ends it and gives its
reservation back. -/
def Obligations.MacroOperationsExecute : Prop :=
  (∀ (f : Fields) (s : State) (t : Nat) (tm : Team) (r : ClauseRun),
    let engine := 20 + tm.core % 4
    let asked : Sequencer → Sequencer := fun q => { q with res := 1 }
    let whole := fun (i : Instr) (size : Nat) (check : Option Nat) => s.matIssue? i = some (t, tm, r, f) →
      (∀ code, tm.seq.row = 0 → check = some code → exec i s = stall (matrixHalt t r.addr r.idx code s)) ∧
      (tm.seq.row ≠ 0 ∨ check = none →
        let queued := (s.cluster (clusterOf tm.core)).requests.any (fun q => q.requester == engine) = true
        (tm.seq.res = 0 → ¬ queued → s.matrixTurn tm = true →
          exec i s = stall ((s.ask (clusterOf tm.core) engine size (s.levelOf tm) t 0).modSeq t asked)) ∧
        (tm.seq.res = 1 ∨ (tm.seq.res = 0 ∧ (queued ∨ s.matrixTurn tm = false)) → exec i s = stall s))
    let x := mmaShape f
    let a := tm.om f.a.toNat
    let b := tm.om f.b.toNat
    let k := mmaK a.format
    let first := fun (c4 c2 c6 c3 : Bool) =>
      if c4 = false then some 4 else if c2 = false then some 2 else if c6 = false then some 6 else if c3 = false then some 3
      else none
    let mma := first
      (mmaClass a.format != 0 && mmaClass a.format == mmaClass b.format && !a.win && !b.win && a.mxOk && b.mxOk)
      (decide (x.d + ceilDiv x.m 64 * ceilDiv x.n 64 ≤ tm.lb.tiles)) true
      (a.koff % 32 == 0 && b.koff % 32 == 0 && (!x.gather || tm.ownsPad x.ioff (2 * x.m)) &&
        (!x.skip || (List.range (x.m / 8)).all (fun band => tm.ownsPad (bandAt x a k band) 2)) &&
        (List.range x.m).all (fun m => windowOk tm a (mmaRow tm x m) k) && (List.range x.n).all (fun n => windowOk tm b n k))
    let own := decide (f.d.toNat + 1 ≤ tm.lb.tiles)
    let target := s.windowOf t tm a.base
    let stored := (List.range 64).all (fun y => if a.win then
        (match target with
         | some ko => (a.rowBytes a.koff 64).all (fun o => decide (a.windowAt y o < ko.2.lb.win))
         | none => true)
      else windowOk tm a y 64)
    let scl := f.minor.getLsbD 3
    let bias := f.minor.getLsbD 4
    whole (.mma f) (mmaSize tm f) mma ∧ whole (.mmaG f) (mmaSize tm f) mma ∧ whole (.mmaS f) (mmaSize tm f) mma ∧
    whole (.mmaGs f) (mmaSize tm f) mma ∧
    whole (.tzero f) 1 (first true (decide (f.d.toNat + f.b.toNat ≤ tm.lb.tiles)) true true) ∧
    whole (.tld f) 3 (first (loadable a.format && !a.mx && !a.win) own true
      (a.koff % 32 == 0 && (List.range 64).all (fun y => windowOk tm a y 64))) ∧
    whole (.tst f) 3 (first (loadable a.format && !a.mx) own
      (!a.win || target.isSome || (tm.replays && tm.lb.win != 0)) (a.koff % 32 == 0 && stored)) ∧
    whole (.tepi f) 3 (first ((!scl || vectorOk a) && (!bias || vectorOk b)) own true
      ((!scl || (a.koff % 32 == 0 && windowOk tm a 0 64)) && (!bias || (b.koff % 32 == 0 && windowOk tm b 0 64))))) ∧
  (∀ (s : State) (t : Nat) (tm : Team), s.team? t = some tm → tm.seq.busy = true →
    let ended : Sequencer → Sequencer := fun q => { q with busy := false }
    exec (.matrixOpComplete t) s = .next ((s.modSeq t ended).modCluster (clusterOf tm.core) (fun x => { x with
      holdings := x.holdings.filter (fun h => !(h.requester == 20 + tm.core % 4 && h.team == t)) })))

/-- R261, R269–R273: with its reservation granted, an MMA that passes its checks writes one tile word for each row of A
(gathered or not) and each row of B, integer products into an accumulator that wraps and others by the float step, over
the steps of K that its zero-block bitmap does not skip; .adva and .advb then move KOFF of A and of B past the K
elements. R262, R276–R279, R314: with its reservation granted, TZERO clears tile slots, TLD converts words of the
scratchpad into one slot, TEPI scales, biases and activates one slot, and TST converts one slot's words and stores them
row after row, to the scratchpad or a window, and keeps its place between the rows. -/
def Obligations.MatrixInstructionsExecute : Prop :=
  (∀ (f : Fields) (s : State) (t : Nat) (tm : Team) (r : ClauseRun),
    let busy : Sequencer → Sequencer := fun q => { q with res := 0, busy := true }
    let x := mmaShape f
    let a := tm.om f.a.toNat
    let b := tm.om f.b.toNat
    let words := if matInt a.format then mmaWords tm x a b (elementInt tm) (· * ·) intStep
      else mmaWords tm x a b (elementValue tm) product floatStep
    let written := s.modTeam t (fun tm => words.foldl (fun (tm : Team) kw => tm.putTile kw.1 kw.2) tm)
    let moved := fun (on : Bool) (n : Nat) (s : State) =>
      if on then s.modSeq t (fun q => q.modMap n (fun m => { m with koff := (m.koff + mmaK a.format) % 2 ^ 32 })) else s
    let done := moved x.advb f.b.toNat (moved x.adva f.a.toNat written)
    let runs := fun (i : Instr) => s.matIssue? i = some (t, tm, r, f) → tm.seq.res = 2 → mmaCheck s t tm f = none →
      exec i s = .next (seqRetire t r (done.modSeq t busy))
    runs (.mma f) ∧ runs (.mmaG f) ∧ runs (.mmaS f) ∧ runs (.mmaGs f)) ∧
  (∀ (f : Fields) (s : State) (t : Nat) (tm : Team) (r : ClauseRun),
    let busy : Sequencer → Sequencer := fun q => { q with res := 0, busy := true }
    let m := tm.om f.a.toNat
    let write := fun (words : List (Nat × Nat)) (s : State) =>
      s.modTeam t (fun tm => words.foldl (fun (tm : Team) kw => tm.putTile kw.1 kw.2) tm)
    let runs := fun (i : Instr) (ok : Bool) (u : State) => s.matIssue? i = some (t, tm, r, f) → tm.seq.res = 2 → ok = true →
      exec i s = .next (seqRetire t r (u.modSeq t busy))
    runs (.tzero f) (f.d.toNat + f.b.toNat ≤ tm.lb.tiles)
      (s.modTeam t (fun tm =>
        { tm with tiles := tm.tiles.filter (fun kv =>
            !(f.d.toNat * 4096 ≤ kv.1 && kv.1 < (f.d.toNat + f.b.toNat) * 4096)) })) ∧
    runs (.tld f) (loadable m.format && !m.mx && !m.win && decide (f.d.toNat < tm.lb.tiles) && m.useOk &&
        (List.range 64).all (fun x => windowOk tm m x 64))
      (advance64 (write (tilePlaces.map (fun rc =>
        (tileKey f.d.toNat rc.1 rc.2, tldWord m.format (elementBits tm m rc.1 (m.koff + rc.2))))) s) t f) ∧
    (let y := tm.seq.row
     let row := (List.range 64).foldl (fun s k => tstPut t tm m y (m.koff + k)
       (tstBits m.format (f.mod.toNat % 8) (f.mod.getLsbD 3) (tm.tile f.d.toNat y k)) s) s
     let next : Sequencer → Sequencer := fun q => { q with row := y + 1 }
     let first : Sequencer → Sequencer := fun q => { q with row := 0 }
     s.matIssue? (.tst f) = some (t, tm, r, f) → tm.seq.res = 2 → (y = 0 → tstCheck s t tm f = none) →
       (y < 63 → exec (.tst f) s = stall (row.modSeq t next)) ∧
       (63 ≤ y → exec (.tst f) s = .next (seqRetire t r ((advance64 (row.modSeq t first) t f).modSeq t busy)))) ∧
    (let scl := f.minor.getLsbD 3
     let bias := f.minor.getLsbD 4
     let b := tm.om f.b.toNat
     runs (.tepi f) ((!scl || vectorOk m) && (!bias || vectorOk b) && decide (f.d.toNat < tm.lb.tiles) &&
         (!scl || (m.useOk && windowOk tm m 0 64)) && (!bias || (b.useOk && windowOk tm b 0 64)))
       (write (tilePlaces.map (fun rc =>
         let x := tm.tile f.d.toNat rc.1 rc.2
         let y := if !scl && !bias then x else (fFma (fmtOf 14) 0 false false x
           (if scl then vectorAt tm m rc.2 else 0x3F800000) (if bias then vectorAt tm b rc.2 else 0)).1
         (tileKey f.d.toNat rc.1 rc.2, activation (f.minor.toNat % 8) y))) s)))

/-- R263, R275, R280, R282, R283: OMAP sets one field of an operand map, or halts the partition with code 4 or 3 where the
value is not allowed; MSIG and MWAIT arrive at a team barrier, and MWAIT waits there; while the sequencer's bit is set
in the current phase they are held, and they go on once the completion of the phase has made the held arrival; MLOOP
counts and goes back until its count is reached; MEND ends the stream; MNOP does nothing. -/
def Obligations.SequencerControlExecutes : Prop := ∀ (f : Fields) (s : State) (t : Nat) (tm : Team) (r : ClauseRun),
  let issues := fun (i : Instr) => s.matIssue? i = some (t, tm, r, f)
  let x := match f.lit with | some w => w.toNat | none => f.b.toNat
  let barrier := (tm.barriers[f.a.toNat]?).getD .fresh
  let now := (s.core tm.core).cycles
  let arrived := fun (waits : Bool) => (seqRetire t r s).modTeam t (fun tm =>
    let q := if waits then { tm.seq with mode := 1, barrier := f.a.toNat } else tm.seq
    let w : Team := { tm with barriers := modNth (·.arrive none f.b.toNat now) f.a.toNat tm.barriers, seq := q }
    w.checkBarrier f.a.toNat now 40)
  let heldBack := fun (waits : Bool) =>
    s.modSeq t (fun q => { q with mode := 2, barrier := f.a.toNat, held := some (f.b.toNat, waits) })
  let allowed := (f.minor.toNat = 3 → bits x 31 11 = 0 ∧ bits x 7 6 = 0 ∧ bits x 3 0 ≤ 10) ∧ (f.minor.toNat ≤ 1 → x % 16 = 0)
  let meets := fun (i : Instr) (waits : Bool) => issues i →
    (tm.seq.arrived = true → exec i s = .next ((seqRetire t r s).modSeq t (fun q => { q with arrived := false }))) ∧
    (tm.seq.arrived = false → barrier.seq = true → exec i s = stall (heldBack waits)) ∧
    (tm.seq.arrived = false → barrier.seq = false → exec i s = .next (arrived waits))
  let count := if f.b.toNat = 0 then 256 else f.b.toNat
  let lc := tm.seq.lc.getD f.d.toNat 0 + 1
  let back : Sequencer → Sequencer := fun q => { q with
    lc := modNth (fun _ => lc) f.d.toNat q.lc
    pc := wrap 52 ((r.addr : Int) + sext (Forms.litNat f) 32), idx := 0, clause := none }
  let onward : Sequencer → Sequencer := fun q => { q with
    lc := modNth (fun _ => 0) f.d.toNat q.lc, pc := r.next, idx := 0, clause := none }
  let ended : Sequencer → Sequencer := fun q => { q with mode := 3, clause := none }
  (issues (.omap f) → allowed →
    exec (.omap f) s = .next (seqRetire t r (s.modSeq t (fun q => q.modMap f.d.toNat (·.set f.minor.toNat x))))) ∧
  (issues (.omap f) → ¬ allowed →
    exec (.omap f) s = stall (matrixHalt t r.addr r.idx (if f.minor.toNat = 3 then 4 else 3) s)) ∧
  meets (.msig f) false ∧ meets (.mwait f) true ∧
  (issues (.mloop f) → exec (.mloop f) s = .next (s.modSeq t (if lc < count then back else onward))) ∧
  (issues (.mend f) → exec (.mend f) s = .next (s.modSeq t ended)) ∧
  (issues (.mnop f) → exec (.mnop f) s = .next (seqRetire t r s))

/-! ## Issue and landing -/

/-- R26, R27, R65, R71, R78, R105, R106, R145, R222, R352, R390: a slot without a clause in progress asks to wake its sleeping
pipe for a group that would issue a clause of it, and issues the entry of the group that it chooses. Threads with a
pending ARITHMETIC trap take it; a PC that is misaligned traps (log entry 23); code that misses its translation cache waits
for the walk; a clause that fails a check of R26 meets its fate; one that takes a shared pipe that is not granted
requests it; otherwise the clause starts. Past the slots stand the core's sequencers, which fetch their next clause.
R160–R166, R173, R244–R246, R326: an access of a scratchpad, a window, the chip scratchpad or a record performs, its elements
in lane order, and reads, writes or computes what its instruction says. A result that is fixed lands; a special function's
result sets the flags of its live threads, and those with an enabled flag get a pending ARITHMETIC trap instead of the
value: by the mode that their clause captured (log entry 45), and a second one replaces a first (log entry 87). -/
def Obligations.IssueAndLandingEvents : Prop :=
  (∀ (core slot : Nat) (s : State), slot < 4 → s.slotBusy core slot = false →
    let who := 4 * (core % 4) + slot
    let wants := if (s.core core).sleeps slot = true
      then (s.candidates core slot).filter (fun c => s.vectorAt c.tm c.g c.entry) else []
    let woken := match wants with
      | [] => s
      | c :: _ => if (s.cluster (clusterOf core)).holdings.any (fun h => h.requester == who) then s
          else s.ask (clusterOf core) who 4 (s.levelOf c.tm) c.t 0
    (woken.slotChoice core slot = none → exec (.clauseDecode core slot) s = .next woken) ∧
    (∀ c, woken.slotChoice core slot = some c →
      let pending := LaneSet.filter c.entry.lanes (fun l => (c.g.thread l).pend.isSome)
      let aligned := c.entry.pc % 4 = 0 ∧ c.entry.pc < 2 ^ 52
      let asker : Asker := ⟨0, c.t, c.gi⟩
      let die := dieOf core
      let found := woken.decodeClause c.tm.part core c.g.asid c.entry.pc false (fun r => c.tm.shape c.gi r == 0)
      let misses := woken.clauseMisses core c.g.asid c.entry.pc found
      let known := woken.allKnown asker die c.tm.part c.g.asid misses
      let filled := fun (upTo : Nat) => (woken.cacheCode
        (UnitFault.of c.tm c.g 0 0 (32 * c.gi + c.entry.lanes.lanes.headD 0)) c.tm.part core c.g.asid c.entry.pc upTo).spend asker
      let answers := fun (u : State) => exec (.clauseDecode core slot) s = .next u
      (pending ≠ 0 → answers ((pending.lanes.foldl (fun s l => takeTrap c.t c.gi l c.tm.trapVec c.entry.pc 5 0
          ((((c.g.thread l).pend).map (·.toNat)).getD 0) (s.modThread c.t c.gi l (fun th => { th with pend := none }))) woken)
        |>.countIssue c.t c.gi (tailKey (woken.frontier c.tm c.g)) false false true)) ∧
      (pending = 0 → ¬ aligned → answers (trapEntry c c.entry.pc 0 6 c.entry.pc woken)) ∧
      (pending = 0 → aligned → known = false → answers (woken.askWalks asker die c.tm.part c.g.asid misses)) ∧
      (pending = 0 → aligned → known = true → ∀ f, found = .error f → answers (clauseFault c f (filled f.upTo))) ∧
      (pending = 0 → aligned → known = true → ∀ d, found = .ok d →
        (headerCount d.header.toNat < c.entry.idx → answers (trapEntry c c.entry.pc 0 2 3 (filled d.next))) ∧
        (c.entry.idx ≤ headerCount d.header.toNat →
          (clausePipe d.header d.insns = none → answers (startClause c d core slot (filled d.next))) ∧
          (∀ pipe, clausePipe d.header d.insns = some pipe → answers (if (filled d.next).pipeGranted core slot pipe c
            then startClause c d core slot (filled d.next) else (filled d.next).askPipe core slot pipe c)))))) ∧
  (∀ (c : Candidate) (s : State) upTo index,
    clauseFault c (.illegal upTo index) s = trapEntry c c.entry.pc index 1 0 s ∧
    (∀ check, clauseFault c (.format upTo check index) s = trapEntry c c.entry.pc index 2 check s) ∧
    (∀ line, clauseFault c (.fetch upTo index line .unpublished) s = trapEntry c c.entry.pc index 7 line s) ∧
    (∀ line level, clauseFault c (.fetch upTo index line (.notPresent level)) s =
      s.pageFault c.t ⟨level, 3, c.g.asid, line, none⟩)) ∧
  (∀ (s : State) p core asid addr index cls last absent (w : Word),
    s.fetchWords p core asid addr index 1 = .ok [w] →
    let fetched := s.fetchInsn p core asid addr index cls last absent
    (bits w.toNat 31 30 = 3 → fetched = .error (.format (addr + 4) 8 index)) ∧
    (∀ n ws, wordCount w = some n → s.fetchWords p core asid addr index n = .ok ws → ws.head? = some w →
      let major := bits w.toNat 29 22
      let illegal : Except ClauseFault (List Word) := .error (.illegal (addr + 4 * n) index)
      (instrOf major (fieldsOf 0 0 none) = none → fetched = illegal) ∧
      (∀ j, instrOf major (fieldsOf 0 0 none) = some j →
        (classOf major ≠ cls → fetched = .error (.format (addr + 4 * n) 10 index)) ∧
        (classOf major = cls → j.ender = true → last = false → fetched = .error (.format (addr + 4 * n) 11 index)) ∧
        (classOf major = cls → j.ender = false ∨ last = true →
          (∀ e, decode ws = .error e → fetched = illegal) ∧
          (∀ i rest, decode ws = .ok (i, rest) →
            (i.wellFormed = false ∨ (∃ r ∈ i.registers, absent r = true) → fetched = illegal) ∧
            (i.wellFormed = true → (∀ r ∈ i.registers, absent r = false) → fetched = .ok ws)))))) ∧
  (∀ (s : State) p core asid addr stream absent (w : Word), s.fetchWord p core asid addr = .ok w →
    let decoded := s.decodeClause p core asid addr stream absent
    let fails := fun (check : Nat) => decoded = .error (.format (addr + 4) check 0)
    let h := w.toNat
    let c2 := bits h 31 30 ≠ 3
    let c3 := bits h 29 26 = 0
    let c4 := bits h 25 23 = 7
    let c5 := bits h 18 17 ≠ 0
    let c6 := ¬ (bits h 25 23 = 6 ↔ stream = true)
    (c2 → fails 2) ∧ (¬ c2 → c3 → fails 3) ∧ (¬ c2 → ¬ c3 → c4 → fails 4) ∧ (¬ c2 → ¬ c3 → ¬ c4 → c5 → fails 5) ∧
    (¬ c2 → ¬ c3 → ¬ c4 → ¬ c5 → c6 → fails 6)) ∧
  (∀ (core slot t : Nat) (s : State) tm, 4 ≤ slot →
    (s.teams.filter (fun kt => kt.2.core == core))[slot - 4]? = some (t, tm) →
    exec (.clauseDecode core slot) s = .next (if s.streamReady tm then decodeStream t tm s else s)) ∧
  (∀ (t gi op : Nat) (s : State) tm (g : Group), s.team? t = some tm → s.group? t gi = some g →
    (∀ o, g.locals.find? (fun o => o.id == op) = some o →
      (s.localReady t gi tm g o = none → exec (.resultLands t gi op) s = .next s) ∧
      (∀ passed, s.localReady t gi tm g o = some passed →
        let v := o.elems.foldl (fun s e => localElem t gi o e s) (s.modGroup t gi (·.pass passed))
        exec (.resultLands t gi op) s = .next { v.modGroup t gi (fun g =>
          { g with locals := g.locals.filter (fun x => x.id != op) }) with nonce := v.nonce + 1 })) ∧
    (∀ o, g.locals.find? (fun o => o.id == op) = none → g.ops.find? (fun o => o.id == op) = some o → o.sfu = false →
      o.ready ≠ 0 → s.landWaits t gi o = false → exec (.resultLands t gi op) s = .next (landOp t gi op s))) ∧
  (∀ (t gi : Nat) (o : LocalOp) (e : MemElem) (s : State) tm g, s.team? t = some tm → s.group? t gi = some g →
    let place : Reach := if o.space = 1 then .pad e.va else if o.space = 3 then .chip e.va else .window o.target e.va
    let read := if o.space = 1 then padBytes tm.padNonce tm.pad e.va e.size
      else if o.space = 3 then Memory.getBytes s.kpad e.va e.size
      else match s.team? o.target with
        | some x => Memory.getBytes (if o.space = 4 then x.shadow else x.visible) e.va e.size
        | none => (List.range e.size).map (fun i => Config.freeByte s.nonce (e.va + i))
    let m := ofLeBytes read
    let put := fun (x : Nat) => if tm.replays = true ∧ o.space ≠ 1 then s
      else writeReach t (o.space == 4) (leBytes x e.size) s place
    (o.space ≠ 5 →
      (o.kind = 0 → localElem t gi o e s = localResult t gi o e m s) ∧
      (o.kind = 1 → localElem t gi o e s = put e.data) ∧
      (2 ≤ o.kind →
        let u := put (atomicNew o.typ o.aop m e.data e.cmp)
        localElem t gi o e s = if o.quiet = true then u else localResult t gi o e m u)) ∧
    (o.space = 5 →
      let report := { UnitFault.of tm g o.addr 0 (32 * gi + e.lane) with index := o.idx }
      let acts := fun (r : Nat × State) => localElem t gi o e s = if o.quiet = true then r.2 else localResult t gi o e r.1 r.2
      (tm.replays = true → acts (0, s)) ∧
      (tm.replays = false → o.aop = 0 → acts (0, if (s.pinRead 0 tm.part o.target e.va 32).isNone
        then s.accessFault t gi o.addr o.idx e.lane e.va else s.runRec (.join tm.part o.target e.va e.data))) ∧
      (tm.replays = false → o.aop = 1 → acts (s.arm tm.part o.target e.va (s.coreUnit tm) report)) ∧
      (tm.replays = false → o.aop = 2 → acts (s.spawn tm.part o.target e.va e.data e.cmp (s.coreUnit tm) report))) ∧
    (∀ x, let kind := if o.space = 5 then 4 else if o.kind = 0 then 5 else 1
      let r := if o.logs then throughLog t gi e.lane kind e.cnt (elemWords o.typ) x s else (x, s)
      localResult t gi o e x s = r.2.modGroup t gi (·.setResult o.insn e.lane
        (wordsOf (if o.kind = 0 then extendLoad o.typ r.1 else r.1) (Forms.typeRegs o.typ))))) ∧
  (∀ (t gi op : Nat) (s : State) (g : Group) (o : LongOp), s.group? t gi = some g →
    g.ops.find? (fun o => o.id == op) = some o → o.sfu = true → s.landWaits t gi o = false →
    let alive := LaneSet.filter o.kept (fun l => (g.thread l).live)
    let raised := fun (l : Nat) (th : Thread) =>
      let th := { th with fpFlags := th.fpFlags ||| Map.get o.flags l 0 }
      if Map.get o.flags l 0 &&& BitVec.ofNat 5 o.fpMode = 0 then th
      else { th with pend := some (BitVec.ofNat 64
        ((o.addr % 2 ^ 52) <<< 12 ||| o.idx <<< 8 ||| (Map.get o.flags l 0).toNat)) }
    exec (.sfuResultLands t gi op) s =
      .next (landOp t gi op (alive.lanes.foldl (fun s l => s.modThread t gi l (raised l)) s)))

/-- R65, R70, R74, R76, R84, R85, R367, R379, R384: after an instruction a clause goes on with its next one, the issue cycles
later, while threads take part in it; after its last, or when none takes part any more, it ends. Then every write in
flight has taken effect; a thread that took part and executed EXIT is no longer live; one that executed TRET leaves its
handler for its saved PC and index; every other one goes to the target that it noted, or to the next clause; one that
executed KWAIT is parked on its barrier unless that releases it. Threads that take no part keep their PC, their index and
their mode. A YIELD stops the group for a save if one is requested, and the clause's writes of team registers take effect. -/
def Obligations.ClauseCompletion : Prop :=
  ∀ (t gi cycles : Nat) (s : State) tm g r, s.team? t = some tm → s.group? t gi = some g → g.clause = some r →
    g.threads.length = 32 →
    let u := retire t gi cycles s
    let next : Group := { g with clause := some { r with idx := r.idx + 1, nominal := r.nominal + cycles } }
    let landed := settleAll tm gi next
    let ends := r.insns.length ≤ r.idx ∨ r.active = 0
    (¬ ends → u.group? t gi = some next) ∧
    (ends → ∃ h x, u.group? t gi = some h ∧ u.team? t = some x ∧ h.clause = none ∧ h.gate = g.gate ∧
      h.regs = landed.regs ∧ h.empty = landed.empty ∧
      (h.saveNext = if r.yielded = true then tm.request else g.saveNext) ∧
      (r.teamWrites = [] → x.fpMode = tm.fpMode ∧ x.trapVec = tm.trapVec) ∧
      (r.teamWrites ≠ [] → x.fpMode = (r.teamWrites.foldl Team.writeReg tm).fpMode ∧
        x.trapVec = (r.teamWrites.foldl Team.writeReg tm).trapVec) ∧
      (∀ k, k < 8 → g.kmask.getD k 0 ≠ 0 →
        (∀ m ∈ (g.kmask.getD k 0).lanes, (h.thread m).live = false ∨ (h.thread m).parked = some k) →
        ∀ m ∈ (g.kmask.getD k 0).lanes, (h.thread m).parked ≠ some k) ∧
      ∀ l, l < 32 →
        let before := g.thread l
        let after := h.thread l
        let stays := after.parked = none ∨ after.parked = Map.get? r.parkOn l
        (h.thread l).preds = (landed.thread l).preds ∧
        (r.active.getLsbD l = false → after.pc = before.pc ∧ after.idx = before.idx ∧ after.live = before.live ∧
          after.trapMode = before.trapMode ∧ after.trapPc = before.trapPc ∧ (after.parked = none ∨ after.parked = before.parked)) ∧
        (r.active.getLsbD l = true → r.exited.getLsbD l = true → after.live = false ∧ after.parked = none) ∧
        (r.active.getLsbD l = true → r.exited.getLsbD l = false → after.live = before.live ∧ stays ∧
          after.trapPc = before.trapPc ∧ after.trapCause = before.trapCause ∧ after.trapDetail = before.trapDetail ∧
          (r.tret.getLsbD l = true → after.trapMode = false ∧ after.pc = bits before.trapPc.toNat 51 0 ∧
            after.idx = bits before.trapCause.toNat 11 8) ∧
          (r.tret.getLsbD l = false → after.trapMode = before.trapMode ∧ after.pc = Map.get r.targets l r.next ∧
            after.idx = 0) ∧
          (∀ k, Map.get? r.parkOn l = some k → after.parked = none → k < 8 ∧
            ∀ m ∈ (g.kmask.getD k 0).lanes, (h.thread m).live = false ∨ (h.thread m).parked = none)))

/-! ## Memory -/

/-- R163, R176–R184, R192–R194, R225, R326, R329, R468: the next element of a store queue performs: under a registration that
the core holds, or at its home, or it takes the core's port and requests the registration; a replaying run's store performs
nothing, and a lead's is held, or makes the team unchecked where it cannot be. A requested registration is granted, the
core's older copies of the grain go, and the element is written; it goes through to its home while its range is being shot
down (log entry 76). A home that a scrub has taken turns an element away as a protection violation. An atomic at its home
reads the old value m, leaves the new one there, but nothing where a comparison fails, and returns m, which a lead logs; a
replaying run takes m from its log. The elements of a missing load on one line are answered in lane order, each with the
bytes of its home under those that the thread itself stored. A replaced line is gone from its cache, with the registrations
of its bytes; an L1 line that is not streaming is not replaced while a streaming one stands. -/
def Obligations.MemoryEvents : Prop :=
  (∀ t gi s tm g o e passed, s.team? t = some tm → s.group? t gi = some g →
    s.nextStore t gi tm g = some (o, e, passed) → (s.core tm.core).port = none → s.elemServed tm e = true →
    let u := s.modGroup t gi (·.pass passed)
    let answers := fun (w : State) => exec (.storePerforms t gi) s = .next w
    let plain := o.kind = .st ∨ o.kind = .stq
    let done := storeDone t gi o.id e.lane
    let mode := tm.actsAs g e.lane
    let away := e.xl.isSome = true ∧ u.refused e.pa = true
    (away → answers (done (u.accessFault t gi o.addr o.idx e.lane e.va))) ∧
    (¬ away → plain → mode = .trail → answers (done u)) ∧
    (¬ away → ¬ plain → mode = .trail ∨ mode = .third → answers (done (replayAtomic t gi o e u))) ∧
    (¬ away → ¬ plain → mode = .unchecked ∨ mode = .lead → answers (done (performAtomic t gi tm g o e u))) ∧
    (¬ away → plain → mode = .lead ∨ mode = .third →
      let run := (u.serveElem tm gi g e).runStore tm e.leaf e.pa e.bytes
      (∀ w, run = .ok w → answers (done (w.modCore tm.core (·.dropSectors e.pa e.size)))) ∧
      (∀ reason, run = .error reason → answers (u.uncheck tm reason))) ∧
    (¬ away → plain → mode = .unchecked →
      (e.registers o && !u.shooting tm.part o.asid e.va) = false → answers (done (u.throughWrite tm gi g e))) ∧
    (¬ away → plain → mode = .unchecked → e.registers o = true → u.shooting tm.part o.asid e.va = false →
      let w := u.roomL1 tm.core e.va o.asid
      answers (if w.holds e.leaf e.pa tm.core then done (w.coreWrite tm o e)
        else w.modCore tm.core (fun c => { c with port := some (t, gi, o.id, e.lane) })))) ∧
  (∀ core (s : State) t gi id lane tm (g : Group) o e passed, (s.core core).port = some (t, gi, id, lane) →
    s.team? t = some tm → s.group? t gi = some g → g.stores.find? (fun o => o.id == id) = some o →
    o.elems.find? (fun e => e.lane == lane && !e.done) = some e → s.passes t gi tm g (o.access 1 e) = some passed →
    s.elemServed tm e = true →
    let u := (s.modCore core (fun c => { c with port := none })).modGroup t gi (·.pass passed)
    let w := (u.roomL1 core e.va o.asid).serveElem tm gi g e
    let granted := (w.grant e.leaf e.pa core).modCore core (·.dropSectors (grainOf e.leaf e.pa).1 (grainOf e.leaf e.pa).2)
    exec (.registrationRequest core) s = .next (storeDone t gi id lane
      (if e.xl.isSome = true ∧ u.refused e.pa = true then u.accessFault t gi o.addr o.idx lane e.va
        else if u.shooting tm.part o.asid e.va then u.throughWrite tm gi g e else granted.coreWrite tm o e))) ∧
  (∀ (t gi : Nat) (tm : Team) (g : Group) (o : MemOp) (e : MemElem) (s : State),
    let grain := grainOf e.leaf e.pa
    let served := s.serveElem tm gi g e
    let u := if isDram e.pa then
      ((served.recall grain.1 grain.2).readAtHome e.pa e.size).consume tm.part (e.report tm gi g) e.pa e.size else served
    let view := served.viewOf e.leaf e.pa
    let m := ofLeBytes (u.homeBytes view e.pa e.size)
    let x := atomicNew o.typ o.aop m e.data e.cmp
    let w := (if o.kind = .cas ∧ m ≠ e.cmp then u.touchLine e.pa else u.homeWrite view e.pa (leBytes x e.size)).modCore
      tm.core (·.dropSectors grain.1 grain.2)
    (o.kind = .red → performAtomic t gi tm g o e s = w) ∧
    (o.kind ≠ .red → performAtomic t gi tm g o e s = (if tm.actsAs g e.lane = .lead
      then logValue t gi e.lane 1 0 e.cnt e.size m w else w).modGroup t gi (·.setResult o.id e.lane (o.words m))) ∧
    (o.kind = .red → replayAtomic t gi o e s = s) ∧
    (o.kind ≠ .red → (e.size + 7) / 8 = 1 → replayAtomic t gi o e s = (takeLog t gi e.lane 1 s).2.modGroup t gi
      (·.setResult o.id e.lane (o.words ((takeLog t gi e.lane 1 s).1 % 2 ^ (8 * e.size)))))) ∧
  (∀ code m v e : Nat,
    let n := codeBits code
    let value := readInt (codeSigned code) n
    (code = 14 → atomicNew code 0 m v e = (fAdd (fmtOf 14) 0 0 false false m v).1) ∧
    (code ≠ 14 → atomicNew code 0 m v e = (m + v) % 2 ^ n) ∧
    (atomicNew code 1 m v e = if value v < value m then v else m) ∧
    (atomicNew code 2 m v e = if value m < value v then v else m) ∧
    atomicNew code 3 m v e = m &&& v ∧ atomicNew code 4 m v e = m ||| v ∧ atomicNew code 5 m v e = m ^^^ v ∧
    atomicNew code 6 m v e = v ∧ (atomicNew code 7 m v e = if m = e then v else m)) ∧
  (∀ t gi op line (s : State) (g : Group) o, s.group? t gi = some g → g.loads.find? (fun o => o.id == op) = some o →
    exec (.loadMissAtHome t gi op line) s = .next ((o.elems.filter (fun e => e.va / 128 == line && !e.done)).foldl
      (fun s e => loadElem t gi o e s) s)) ∧
  (∀ t gi (s : State) tm g o e passed x, s.team? t = some tm → s.group? t gi = some g →
    s.loadReady t gi tm g o e = some passed → s.elemServed tm e = true → tm.actsAs g e.lane = .unchecked →
    let own := s.ownBytes tm g o e
    let noted := s.modGroup t gi (·.noteLoad o e passed)
    own.all (·.isSome) = false → localValue (s.core tm.core) g o e true = none → e.xl = some x →
    (s.refused e.pa = true → loadElem t gi o e s = loadDone t gi o e.lane 0 (noted.accessFault t gi o.addr o.idx e.lane e.va)) ∧
    (s.refused e.pa = false →
      let read := noted.readElem tm gi g e
      loadElem t gi o e s = loadDone t gi o e.lane (ofLeBytes (overlay own read.1)) (read.2.fillFor tm g o e))) ∧
  (∀ core asid line (s : State), s.l2.contains line = true →
    Answers (.cacheReplacement true core asid line) s (fun u => u.l2.contains line = false ∧
      ∀ r ∈ u.registrations, ¬ (r.pa < 128 * line + 128 ∧ 128 * line < r.pa + r.size))) ∧
  (∀ core asid line (s : State) l, (s.core core).l1Line asid (128 * line) = some l →
    let ahead := l.streaming = false ∧ ∃ x ∈ (s.core core).l1, x.streaming = true
    (ahead → exec (.cacheReplacement false core asid line) s = .next s) ∧
    (¬ ahead → Answers (.cacheReplacement false core asid line) s (fun u => (u.core core).l1Line asid (128 * line) = none ∧
      ∀ r ∈ u.registrations, r.core = core → ¬ (r.pa < l.pa + 128 ∧ l.pa < r.pa + r.size))))

/-- R191, R195, R203, R210, R221–R223, R226, R354, R386: a line request takes a cached leaf, or asks for a walk of its page. A
walk that is asked for is joined where one of the page stands, and starts while its slice holds fewer than the 66 that its
two walkers and its queue of 64 take (log entry 32) and the partition is not halted (log entry 34). A walk that ends at a
leaf enters it in the translation cache, one that ends at a page that is not present faults every team whose line requests
wait for it (log entry 33), and a malformed entry is a violation of each; the other requests that wait get their answer,
and a prefetch is made. FENCE, AFENCE and PUBLISH complete when everything before them has and no earlier fence keeps them
back, and leave the group's pending operations; AFENCE and PUBLISH wait for the walks of their pages and for the units
that serve them, and a page of their ranges that fails is a violation. R224–R229, R257: a team whose page is not present
is saved once its requests have settled, and its entry waits for the ring; software's advance of READ clears the interrupt
and lets waiting entries be written; a resumed record enters its queue (the first of two of one address: log entry 117);
a shootdown drops the range's lines, translations and walk pointers, and is busy while a request that used one is
outstanding. -/
def Obligations.TranslationAndFaultEvents : Prop :=
  ((∀ t gi op line s tm g o, s.team? t = some tm → s.group? t gi = some g → g.memOp op = some o →
      (s.lineElems tm gi g o line).isEmpty = false → s.sentLater tm gi g o = false →
      let slice := s.translationSlice (dieOf tm.core) o.asid (line * 128)
      let faulted := tm.fault.any (fun f => f.asid == o.asid && f.va >>> 16 == (line * 128) >>> 16)
      (∀ e, s.tlbHit slice tm.part o.asid (line * 128) = some e → exec (.lineRequestTranslation t gi op line) s =
        .next (useLeaf t gi o line e.leaf ((bits e.leaf 47 8 <<< 8) + line * 128 % e.size) s)) ∧
      (s.tlbHit slice tm.part o.asid (line * 128) = none → exec (.lineRequestTranslation t gi op line) s =
        .next (if faulted then s else s.askWalk none (dieOf tm.core) tm.part o.asid (line * 128)))) ∧
    (∀ (s : State) (k : Option Asker) die p asid va,
      let slice := s.translationSlice die asid va
      let here := fun (w : Walk) => w.slice = slice ∧ w.part = p ∧ w.asid = asid ∧ w.va >>> 16 = va >>> 16
      let asked := s.askWalk k die p asid va
      let joined := fun (w : Walk) => { w with askers := w.askers ++ (k.toList.filter (fun x => !w.askers.contains x)) }
      ((s.part p).halted = true → asked = s) ∧
      ((s.part p).halted = false → (∃ w ∈ s.walks, here w) →
        asked = { s with walks := s.walks.map (fun w => if here w then joined w else w) }) ∧
      ((s.part p).halted = false → (∀ w ∈ s.walks, ¬ here w) → 66 ≤ (s.walksOf slice).length → asked = s) ∧
      ((s.part p).halted = false → (∀ w ∈ s.walks, ¬ here w) → (s.walksOf slice).length < 66 →
        asked = { s.fresh.2 with walks := s.walks ++ [⟨s.fresh.1, slice, p, asid, va, k.toList⟩] })) ∧
    (∀ (s : State) (w : Walk) (k : Asker),
      let answered := fun (xs : List Asker) => s.answerWalk { w with askers := xs }
      answered [] = s ∧
      (k.kind < 5 → answered [k] = { s with answers := s.answers ++ [⟨k, w.asid, w.va >>> 16⟩] }) ∧
      (∀ tm, k.kind = 5 ∨ k.kind = 6 → s.team? k.a = some tm → answered [k] = s.bring tm w.asid (k.kind == 5) k.b)) ∧
    (∀ (s : State) (w : Walk), s.walks.find? (fun x => x.id == w.id) = some w → ((s.walksOf w.slice).take 2).contains w = true →
      let found := s.walkAt w.slice w.part w.asid w.va
      let gone : State := { s with walks := s.walks.filter (fun x => x.id != w.id) }
      let walked := gone.walked w.slice w.part w.asid w.va
      let made := walked.answerWalk w
      (∀ e pa size, found = .leaf e pa size → exec (.walkCompletes w.id) s = .next made ∧
        walked.tlb.head? = some ⟨w.slice, w.part, w.asid, w.va / size * size, size, e⟩) ∧
      (∀ level, found = .notPresent level → exec (.walkCompletes w.id) s = .next ((s.waiters w).foldl (fun (s : State) x =>
        s.pageFault x.team ⟨level, x.op.kind.faultKind, w.asid, x.line * 128, some x.order⟩) made)) ∧
      (found = .violation → exec (.walkCompletes w.id) s =
        .next ((s.waiters w).foldl (fun (s : State) x => s.accessFault x.team x.group x.op.addr
          x.op.idx (((x.op.elems.find? (fun e => e.va / 128 == x.line)).map (·.lane)).getD 0) (x.line * 128)) made))) ∧
    (∀ t gi id (s : State) tm g p, s.pendingOf t gi id 0 = some (tm, g, p) → exec (.fenceComplete t gi id) s =
      .next (if s.before t gi tm g p then s else if hasBit p.sset 0 ∧ p.scope ≠ 0
        then (s.dropPending t gi id).selfInvalidate tm.core else s.dropPending t gi id)) ∧
    (∀ t gi id (s : State) tm g p kind, kind = 1 ∨ kind = 2 → s.pendingOf t gi id kind = some (tm, g, p) →
      let i : Instr := if kind = 1 then .afenceComplete t gi id else .publishComplete t gi id
      let die := dieOf tm.core
      let asker : Asker := ⟨4, t, p.id⟩
      let waits := s.before t gi tm g p = true ∨ (∃ l ∈ p.lanes.lanes, g.held p.id l (if kind = 1 then 3 else 2) = true) ∨
        s.unitDown tm.part (s.coreUnit tm) = true ∨ (kind = 2 ∧ s.releasing tm = true)
      let known := s.allKnown asker die tm.part p.asid p.pages
      let fails := fun (r : Nat × Nat × Nat) => (s.rangePages die tm.part p.asid r.2.1 r.2.2).isNone
      let places := s.ranged tm p
      let ends := fun (u : State) => exec i s = .next ((u.dropPending t gi id).spend asker)
      (waits → exec i s = .next s) ∧
      (¬ waits → known = false → exec i s = .next (s.askWalks asker die tm.part p.asid p.pages)) ∧
      (¬ waits → known = true → ∀ r, p.ranges.find? fails = some r →
        ends (s.accessFault t gi p.addr p.idx (p.lanes.lanes.headD 0) r.2.1)) ∧
      (¬ waits → known = true → p.ranges.find? fails = none →
        (kind = 1 →
          let down := s.rangeDown tm.part (places.filter (fun r => s.purges tm.core r.1 r.2))
          (down = true → exec i s = .next s) ∧
          (down = false → ends (places.foldl (fun (s : State) r => s.purgeL1 tm.core r.1 r.2) s))) ∧
        (kind = 2 →
          (s.rangeDown tm.part places = true → exec i s = .next s) ∧
          (s.rangeDown tm.part places = false → ends (s.publishRanges places p.scope tm.core
            (fun pa => p.sset == 1 && s.heldLines.any (fun h => h.ofTeam tm && h.pa == pa && !h.bytes.isEmpty))
            (fun h => h.ofTeam tm))))))) ∧
  ((∀ t s tm f g, s.team? t = some tm → tm.fault = some f → s.grid? tm.part tm.asid tm.record = some g →
      (s.part tm.part).halted = false → s.enginesRest t tm = true → s.windowBusy t tm = false →
      ((List.range tm.groups.length).zip tm.groups).all (fun ig => s.settledRequests t tm ig.1 ig.2) = true →
      let saved := s.writeSave t tm g 3
      let parked := saved.modPart tm.part (fun x =>
        { x with parked := x.parked ++ [⟨tm.slot, tm.asid, s.faultEntry tm f, 0, false⟩] })
      exec (.pageNotPresentSave t) s = .next (if (saved.part tm.part).halted then saved
        else parked.flushFaults tm.part (parked.part tm.part).parked)) ∧
    (∀ part (read : Word) s, (s.part part).faultRead ≠ read.toNat →
      let moved := s.modPart part (fun x => ({ x with faultRead := read.toNat } : Partition).clear 0)
      exec (.faultRingReadAdvance part read) s = .next (moved.flushFaults part (moved.part part).parked)) ∧
    (∀ part (record : Dword) s k, (s.part part).halted = false →
      (s.part part).parked.find? (fun k => k.slot == record.toNat && k.written) = some k →
      let level := ((s.saved.find? (fun t => t.part == part && t.slot == k.slot && t.asid == k.asid)).bind
        (fun t => s.grid? part t.asid t.record)).map (·.prio)
      let taken := s.modPart part (fun x => { x with parked := x.parked.filter (· != k) })
      let read := taken.devRead part 4 k.asid k.slot k.slot 32
      let written := read.2.devPut part 4 k.asid k.slot k.slot 32
        { Record.parse (ofLeBytes read.1) with p := false, q := true }.value
      let woken : State := { written with saved := written.saved.map (fun (t : SavedTeam) =>
        if t.part = part ∧ t.slot = k.slot ∧ t.asid = k.asid then { t with pend := false } else t) }
      exec (.faultResume part record) s = .next (if (woken.part part).halted then woken
        else woken.runRec (.enqueue part (level.getD 0) k.slot k.asid false))) ∧
    (∀ part (ctrl : Dword) s, hasBit ctrl.toNat 31 = false →
      exec (.shootdownStart part ctrl) s = .next (s.modPart part (fun x =>
        { x with shootCtrl := BitVec.ofNat 64 (bits ctrl.toNat 63 32 <<< 32 ||| bits ctrl.toNat 16 0) }))) ∧
    (∀ part (ctrl : Dword) s, (s.part part).shootBusy = false → hasBit ctrl.toNat 31 = true →
      let first := bits (s.part part).shootVa.toNat 51 16
      let range := (bits ctrl.toNat 15 0,
        if hasBit ctrl.toNat 16 then (0, 2 ^ 36) else (first, first + bits ctrl.toNat 63 32 + 1))
      let x : Partition := { s.part part with
        shootCtrl := BitVec.ofNat 64 (bits ctrl.toNat 63 32 <<< 32 ||| bits ctrl.toNat 16 0), shootRange := range }
      Answers (.shootdownStart part ctrl) s (fun u =>
        (∀ e ∈ u.tlb, e.part = part → x.shootsPage e.asid e.va e.size = false) ∧
        (∀ w ∈ u.walkCache, w.part = part → x.shootsPtr w = false))) ∧
    (∀ part s, (s.part part).shootBusy = true → (s.part part).shootWaits.any s.shotOpen = false →
      exec (.shootdownComplete part) s =
        .next (s.modPart part (fun x => { x with shootBusy := false, shootWaits := [] }))) ∧
    (∀ part s, (s.part part).shootWaits.any s.shotOpen = true → exec (.shootdownComplete part) s = .next s))

/-! ## The scheduler -/

/-- R204, R234, R235, R239–R241, R245, R247–R250, R317, R464: dies that are held in reset take no kick and place no team; a
kick arms a record and leaves its status, misaligned addresses are refused with status 2, and nothing is armed without a
configuration (status 5); a kick that finds its partition halted, or halts it, leaves the status of the one before (log
entry 60); of the entries of the ready queues, the highest level first (log entry 63), the first that can be placed is,
and one that fits no core asks a team of a lower level to leave; a pre-emption request raises the flag of every team on the core; a requested team saves when all its groups have
stopped, or is forced to when its budget has run out, and its saved record enters the ready queue after the drain
waits; a team ends when its last group has and what its end waits for has happened, and a diverged run at once. -/
def Obligations.SchedulerEvents : Prop :=
  (∀ part (record : Dword) s, s.diesHeld = true → exec (.kick part record) s = .next s ∧ exec (.teamPlacement part) s = .next s) ∧
  (∀ part (record : Dword) s, s.diesHeld = false → s.configuration ≠ 0 → (s.part part).halted = true →
    exec (.kick part record) s = .next s) ∧
  (∀ part (record : Dword) s, s.diesHeld = false → s.configuration = 0 →
    exec (.kick part record) s = .next (s.modPart part (fun x => { x with schedStatus := 5 }))) ∧
  (∀ part (record : Dword) s, s.diesHeld = false → s.configuration ≠ 0 → (s.part part).halted = false →
    bits record.toNat 51 0 % 32 ≠ 0 →
    exec (.kick part record) s = .next (s.modPart part (fun x => { x with schedStatus := 2 }))) ∧
  (∀ part (record : Dword) s st u, s.diesHeld = false → s.configuration ≠ 0 → (s.part part).halted = false →
    bits record.toNat 51 0 % 32 = 0 →
    s.arm part (s.part part).kickAsid (bits record.toNat 51 0) 1023 UnitFault.none = (st, u) →
    exec (.kick part record) s = .next (if (u.part part).halted then u
      else u.modPart part (fun x => { x with schedStatus := st }))) ∧
  (∀ part s level e rest, s.diesHeld = false → (s.part part).halted = false → (s.part part).paused = false →
    (s.part part).entries = (level, e) :: rest →
    (∀ u, s.tryEntry part e = .placed u → exec (.teamPlacement part) s = .next u) ∧
    (∀ lb, s.tryEntry part e = .block lb → exec (.teamPlacement part) s = .next (s.askRoom part level lb)) ∧
    (s.tryEntry part e = .skip → exec (.teamPlacement part) s = .next (s.placeFirst part rest))) ∧
  (∀ part (value : Dword) s c, s.logicalCore (bits value.toNat 6 0) = some c →
    exec (.preempt part value) s = .next { s with teams := s.teams.map (fun kt =>
      if kt.2.core = c then (kt.1, kt.2.raise) else kt) }) ∧
  (∀ t s tm, s.team? t = some tm → s.maySave tm = true → tm.groups.all (s.groupStopped tm) = true →
    exec (.voluntarySave t) s = .next (s.modTeam t (fun tm => { tm with save := 1 }))) ∧
  (∀ t s tm, s.team? t = some tm → s.maySave tm = true → tm.budgetLeft = 0 →
    exec (.forcedSave t) s = .next (s.modTeam t (fun tm => { tm with save := 2 }))) ∧
  (∀ t s tm g, s.team? t = some tm → s.grid? tm.part tm.asid tm.record = some g → tm.save ≠ 0 → tm.fault = none →
    (s.part tm.part).halted = false → s.drained t tm = true → s.enginesRest t tm = true →
    let saved := s.writeSave t tm g tm.save
    exec (.saveImageWrite t) s = .next (if (saved.part tm.part).halted then saved
      else saved.runRec (.enqueue tm.part g.prio tm.slot tm.asid false))) ∧
  (∀ t s tm, s.team? t = some tm → (s.part tm.part).halted = false → (s.mayEnd t tm || tm.diverged) = true →
    tm.mode = .unchecked → exec (.teamEnd t) s = .next ((s.reclaim t).runRec (.ended tm.part tm.asid tm.record tm.index))) ∧
  (∀ t s tm, s.team? t = some tm → (s.part tm.part).halted = false → (s.mayEnd t tm || tm.diverged) = true →
    tm.mode = .trail ∨ tm.mode = .third →
    exec (.teamEnd t) s = .next ((s.reclaim t).modChecked tm (fun c =>
      if tm.mode = .trail then { c with trail := some tm.result, ended := true }
      else { c with third := some tm.result, ended := true })))

/-! ## Sharing groups and gates -/

/-- R167, R168, R171, R172: when every member of a sharing group has arrived and their STX have been accepted, all of their
banks swap: what each stored with STX is visible and its shadow bank is empty; a leave that is first in the order of
its cluster, and whose admitted accesses have performed, ends with the team outside the group and its banks swapped.
R365–R370, R372, R386: when the group's results have landed, and around a logged callee its stores have left the queue (log
entry 48), and a frame is free whose homes serve, the callee's entry claims the lowest free frame and writes it with bytes
that reveal nothing (log entry 19); a call that nobody enters ends at once with its statuses; a logged call of a replaying
run is taken from the log; a frame page that fails, at the entry or at the completion, is a violation. A call whose entered
threads have all finished releases its frame, logs the values of a logged call of a lead, and gives the caller's state
back. -/
def Obligations.SharingAndGateEvents : Prop :=
  ((∀ t s tm, s.team? t = some tm → tm.sbarReady = true → tm.sharing = none → tm.stxDone = true →
      exec (.sbarSwap t) s = .next (s.modTeam t Team.swap)) ∧
    (∀ t s tm k, s.team? t = some tm → tm.sbarReady = true → tm.sharing = some k →
      let members := (((s.cluster (clusterOf tm.core)).sharing[k]?).map (·.members)).getD []
      members.all (fun m => ((s.team? m).map (fun x => x.sbarReady && x.stxDone)).getD true) = true →
      exec (.sbarSwap t) s = .next (members.foldl (fun s m => s.modTeam m Team.swap) s)) ∧
    (∀ tm : Team, tm.swap.visible = tm.shadow ∧ tm.swap.shadow = [] ∧ tm.swap.sbarReady = false) ∧
    (∀ t s tm, s.team? t = some tm → tm.leaving ≠ 0 → tm.sharing ≠ none →
      s.teams.all (fun kt => clusterOf kt.2.core != clusterOf tm.core || kt.2.leaving == 0 ||
        tm.leaving ≤ kt.2.leaving) = true →
      s.windowBusy t tm = false →
      Answers (.leaveComplete t) s (fun u => ∃ x, u.team? t = some x ∧ x.sharing = none ∧ x.leaving = 0 ∧
        x.visible = tm.shadow ∧ x.shadow = [] ∧
        ∀ k ∈ (u.cluster (clusterOf tm.core)).sharing, t ∉ k.members))) ∧
  (
    let report := fun (tm : Team) (gi : Nat) (g : Group) (c : GateCall) =>
      { UnitFault.of tm g c.addr 0 (32 * gi + c.named.lanes.headD 0) with index := c.idx }
    (∀ t gi s tm g c, s.team? t = some tm → s.group? t gi = some g → g.gate = some c → c.waiting = true →
      g.settledFor tm c = true → s.stopped tm = false →
      let fails := fun (u : State) (c : GateCall) va => u.accessFault t gi c.addr c.idx (c.named.lanes.headD 0) va
      (c.entered = 0 → exec (.gateEntry t gi) s = .next (endCall t gi c (c.statusOf g) s)) ∧
      (c.entered ≠ 0 → c.logged = true → tm.replays = true → exec (.gateEntry t gi) s = .next (replayCall t gi c s)) ∧
      (c.entered ≠ 0 → (c.logged && tm.replays) = false →
        let die := dieOf tm.core
        let n := (c.nframes + 7) / 8
        let claims := s.pinRead die tm.part c.asid c.frameBase n
        let frame := fun (k : Nat) => c.frameBase + 4096 + k * c.frameSize
        let down := fun (k : Nat) => s.frameDown die tm.part c.asid c.frameBase n || s.frameDown die tm.part c.asid (frame k) c.frameSize
        (claims = none → exec (.gateEntry t gi) s = .next (fails s c c.frameBase)) ∧
        (∀ map, claims = some map → freeFrame map c.nframes = none → exec (.gateEntry t gi) s = .next s) ∧
        (∀ map k, claims = some map → freeFrame map c.nframes = some k → down k = true → exec (.gateEntry t gi) s = .next s) ∧
        (∀ map k, claims = some map → freeFrame map c.nframes = some k → down k = false →
          let met := s.pinMeet die tm.part (report tm gi g c) c.asid c.frameBase n
          let bytes := (List.range c.frameSize).map (fun i => Config.privateByte met.nonce (frame k + i))
          let written := (met.claim die tm.part c k true).bind (fun u => u.pinWrite die tm.part c.asid (frame k) bytes)
          (written = none → exec (.gateEntry t gi) s = .next (fails met c (frame k))) ∧
          (∀ w, written = some w →
            exec (.gateEntry t gi) s = .next ({ w with nonce := w.nonce + 1 }.modTeam t (enterCall gi k c)))))) ∧
    (∀ t gi s tm g c, s.team? t = some tm → s.group? t gi = some g → g.gate = some c → c.waiting = false →
      g.settledFor tm c = true → s.stopped tm = false → c.entered.lanes.any (fun l => (g.thread l).status.isNone) = false →
      let fails := fun (u : State) (c : GateCall) va => u.accessFault t gi c.addr c.idx (c.named.lanes.headD 0) va
      let die := dieOf tm.core
      let lost := (pageChunks c.frame c.frameSize).find? (fun k => (s.pinned die tm.part c.asid k.1).isNone)
      let down := s.frameDown die tm.part c.asid c.frame c.frameSize ||
        s.frameDown die tm.part c.asid (c.frameBase + c.frameIndex / 8) 1
      let met := s.pinMeet die tm.part (report tm gi g c) c.asid c.frame c.frameSize
      let released := met.claim die tm.part c c.frameIndex false
      let st := c.statusOf g
      let entry := fun (l x : Nat) => addLog t ⟨x, 32 * gi + l, 2, 0, Map.get c.cnts l 0 % 2 ^ 32, []⟩
      let logs := fun (u : State) => c.entered.lanes.foldl (fun s l => entry l (st l) ((List.range c.nret).foldl
        (fun s n => entry l (if st l = 0 then (readReg tm gi g n l).toNat else 0) s) s)) u
      (∀ k, lost = some k → exec (.gateCompletion t gi) s = .next (fails s c k.1)) ∧
      (lost = none → down = true → exec (.gateCompletion t gi) s = .next s) ∧
      (lost = none → down = false →
        (released = none → exec (.gateCompletion t gi) s = .next (fails s c c.frameBase)) ∧
        (∀ u, released = some u → exec (.gateCompletion t gi) s =
          .next (endCall t gi c st (if c.logged && tm.mode == .lead then logs u else u))))))

/-! ## Engines -/

/-- R203, R291–R294, R297, R310, R315–R317, R326, R341, R386, R390, R395: a command is accepted once its group's earlier ones
have been, no fence keeps it back and it is its slot's turn, and then stands last in its queue. While its unit or its clock
stands, or its run releases what it held, nothing starts. One whose order lets it start asks for its reservation and starts
once that is granted; a running or a suspended one goes on with its rows; a replaying run's COLL and MIRR are done with
nothing performed. R299–R307: CPY and FILLZ move one row of their length, CPYT, GTHR and SCTR the rows that their descriptor
and indices give, one a step in rising order, or all in one step in a checked run (log entry 20); a row is cut into pieces
that cross no line, the sources are read, then the writes are made; ZMAP, BIN and REL act within their start. A command is
completed once the lower tickets of its stream are: a MIRR's blocks take their tags, and the sequence number and the error
word of the stream are written, in the resident group. R208, R308, R309: a collective starts when the command of every rank
of this device is there with its reservation, its pages known and its homes serving, and those of the other devices have
sent; its reads enter the log, each local rank's result of the operation over all ranks' vectors is written to its own
buffer, and the command has finished, or has once the packets for the ranks on other devices, which carry their count and
no data, are acknowledged (log entry 52; the arrival of the others' sends: log entry 53). A send buffer that fails R308 is
a violation. -/
def Obligations.CommandEvents : Prop :=
  ((∀ id s c, s.command? id = some c → s.acceptable c = true → s.acceptTurn c = true →
      let turned := s.rotateQueue c
      exec (.commandAccept id) s =
        .next { turned with commands := turned.commands.filter (fun x => x.id != id) ++ [{ c with state := 1 }] }) ∧
    (∀ id s c, s.command? id = some c → s.acceptable c = false ∨ s.acceptTurn c = false →
      exec (.commandAccept id) s = .next s) ∧
    (∀ id s c, s.command? id = some c →
      let answers := fun (u : State) => exec (.commandStart id) s = .next u
      let collective := c.major = 0xD4 ∨ c.major = 0xD7
      let replays := s.commandMode c = some .trail ∨ s.commandMode c = some .third
      let stands := s.unitDown c.part (s.engineUnit c) = true ∨ s.clockStopped c.core = true ∨
        (∃ tm, s.team? c.team = some tm ∧ s.releasing tm = true)
      let away := ¬ collective ∧ (∀ tm, s.team? c.team = some tm → c.engine = 0 ∧ (tm.fault ≠ none ∨ tm.save ≠ 0))
      let asked := s.ask (clusterOf c.core) c.requester 2 (s.commandLevel c) c.team c.id
      let ready := c.state = 3 ∨ (c.state = 1 ∧ c.held = false ∧ s.mayStart c = true)
      (stands → answers s) ∧
      (¬ stands → c.state = 2 →
        (s.granted c = false → answers asked) ∧
        (s.granted c = true → answers (if c.engine = 0 then s.movePieces c.team c c.todo else s))) ∧
      (¬ stands → c.state ≠ 2 → away ∨ ¬ ready → answers s) ∧
      (¬ stands → ¬ away → ready →
        (collective → replays → answers (s.modCommand c.id (fun c => { c with state := 4 }))) ∧
        (¬ (collective ∧ replays) → s.granted c = false → answers asked) ∧
        (¬ (collective ∧ replays) → s.granted c = true →
          (c.state = 3 → answers (s.movePieces c.team c c.todo)) ∧
          (c.state = 1 →
            (∀ pages, s.mirrWaits c = some pages →
              answers (s.askWalks ⟨3, c.id, 0⟩ (dieOf c.core) c.part c.asid pages)) ∧
            (s.mirrWaits c = none → answers ((s.serve c.part (s.engineUnit c) { UnitFault.none with
              record := ((s.team? c.team).map (·.record)).getD 0, asid := c.asid, addr := c.ticket }).startWork c)))))) ∧
    (∀ id s c tm, s.command? id = some c → s.team? c.team = some tm → c.state = 4 →
      s.commands.any (fun x => x.team == c.team && x.group == c.group && x.engine == c.engine &&
        decide (x.ticket < c.ticket)) = false →
      let gone := (({ s with commands := s.commands.filter (fun x => x.id != id) } : State).spend ⟨3, id, 0⟩).mirrDone c
      gone.team? c.team = some tm →
      let noted : Team → Team := fun x => { x.modGroup c.group (fun g => g.modStream c.engine (·.complete c)) with
        engineSum := if tm.mode = .unchecked then 0 else (x.engineSum + c.signature) % 2 ^ 64 }
      exec (.commandCompletion id) s = .next (gone.modTeam c.team noted)) ∧
    (∀ (x : Stream) c, (x.complete c).done = c.ticket ∧ (x.complete c).issued = x.issued ∧
      (x.complete c).err = if c.code ≠ 0 ∧ x.err = 0 then (c.ticket % 2 ^ 56) * 256 + c.code else x.err)) ∧
  (∀ (s : State) (t : Nat) (tm : Team) (c : Command),
    let rows := s.copyRows t tm c
    let dk := c.minor % 4
    let sk := if c.major = 0xD8 then 4 else c.minor / 4 % 4
    let check := s.checkRows t tm dk sk
    let single := fun (n src : Nat) => match c.patched n with
      | .error e => rows = .error e
      | .ok m => rows = if m = 0 then .ok [] else check [⟨dk, c.a, sk, src, m⟩]
    (c.patch = some 0 → rows = .ok []) ∧
    (c.patch ≠ some 0 →
      (c.major = 0xD0 → single c.c c.b) ∧
      (c.major = 0xD8 → single c.b 0) ∧
      (c.major = 0xD1 ∨ c.major = 0xD2 ∨ c.major = 0xD3 →
        (∀ e, descriptor tm c.c = .error e → rows = .error e) ∧
        (∀ w e, descriptor tm c.c = .ok w → c.patched (w.getD 1 0) = .error e → rows = .error e) ∧
        (∀ w n, descriptor tm c.c = .ok w → c.patched (w.getD 1 0) = .ok n →
          let f := fun (k : Nat) => w.getD k 0
          let bad := f 0 < 4 ∨ 2 ^ 20 < f 0 ∨ f 0 % 4 ≠ 0 ∨ f 3 ≠ 0 ∨ (c.major ≠ 0xD1 ∧ (f 5 ≠ 0 ∨ f 7 ≠ 0)) ∨
            f 4 % 4 ≠ 0 ∨ f 5 % 4 ≠ 0 ∨ f 6 % 4 ≠ 0 ∨ f 7 % 4 ≠ 0
          let idx := fun (j : Nat) => ofLeBytes (padBytes tm.padNonce tm.pad (f 2 + 4 * j) 4)
          let listed := (List.range n).filter (fun j => idx j != 0xFFFFFFFF)
          (bad → rows = .error 2) ∧
          (¬ bad → c.major = 0xD1 → rows = check ((List.range (f 2)).flatMap (fun z => (List.range n).map (fun y =>
            ⟨dk, c.a + z * f 7 + y * f 6, sk, c.b + z * f 5 + y * f 4, f 0⟩)))) ∧
          (¬ bad → c.major ≠ 0xD1 → f 2 % 4 ≠ 0 → rows = .error 2) ∧
          (¬ bad → c.major ≠ 0xD1 → f 2 % 4 = 0 → tm.ownsPad (f 2) (4 * n) = false → rows = .error 1) ∧
          (¬ bad → c.major ≠ 0xD1 → f 2 % 4 = 0 → tm.ownsPad (f 2) (4 * n) = true → rows = check (listed.map (fun j =>
            if c.major = 0xD2 then ⟨dk, c.a + j * f 6, sk, c.b + idx j * f 4, f 0⟩
            else ⟨dk, c.a + idx j * f 6, sk, c.b + j * f 4, f 0⟩)))))) ∧
    (∀ rows : List Piece,
      let top := fun (kind : Nat) => if kind = 0 then 2 ^ 52 else 2 ^ 32
      let far := fun (r : Piece) => top dk ≤ r.dst ∨ (dk = 0 ∧ 2 ^ 52 < r.dst + r.len) ∨
        (sk < 4 ∧ (top sk ≤ r.src ∨ (sk = 0 ∧ 2 ^ 52 < r.src + r.len)))
      let code := fun (r : Piece) =>
        let target := extentCode (s.extent t tm dk r.dst r.len)
        if target ≠ 0 then target else if sk < 4 then extentCode (s.extent t tm sk r.src r.len) else 0
      ((∃ r ∈ rows, far r) → check rows = .error 2) ∧
      ((∀ r ∈ rows, ¬ far r) → check rows = match (rows.map code).find? (· != 0) with
        | some e => .error e
        | none => .ok rows))) ∧
  (∀ (s : State) (c : Command) (tm : Team), s.team? c.team = some tm →
    let ends := fun (u : State) (code : Nat) => s.startWork c = u.modCommand c.id (fun c => { c with state := 4, code := code })
    let copies := [0xD0, 0xD1, 0xD2, 0xD3, 0xD8].contains c.major = true
    let put := fun (n : Nat) (u : State) (a x : Nat) => (u.modTeam c.team (fun tm => { tm with
      pad := padPut tm.pad a (leBytes x n) })).modCommand c.id (·.wrote 1 a (leBytes x n))
    (copies → ∀ e, s.copyRows c.team tm c = .error e → ends s e) ∧
    (copies → ∀ rows, s.copyRows c.team tm c = .ok rows → s.startWork c =
      s.modCommand c.id (fun c => { c with state := if rows = [] then 4 else 2, todo := rows })) ∧
    (c.major = 0xD9 → ∀ e, zmapPlan tm c = .error e → ends s e) ∧
    (c.major = 0xD9 → ∀ ws, zmapPlan tm c = .ok ws → s.startWork c =
      (ws.foldl (fun u ax => put 2 u ax.1 ax.2) s).modCommand c.id (fun c => { c with state := 4 })) ∧
    (c.major = 0xD6 → s.startWork c = ({ s with commands := s.commands.map (fun h =>
      let slot := (h.lit.getD 0) % 4096
      if h.team = c.team ∧ h.held = true ∧ h.state = 1 ∧ c.a ≤ slot ∧ slot < min (c.a + c.b) 4096 then { h with held := false }
      else h) } : State).modCommand c.id (fun c => { c with state := 4 })) ∧
    (c.major = 0xD5 → ∀ e, binTable tm c.c = .error e → ends s e) ∧
    (c.major = 0xD5 → ∀ ndest cap pbase, binTable tm c.c = .ok (ndest, cap, pbase) →
      let word := fun (u : State) (a : Nat) => u.binGet c.team a
      let count := fun (d : Nat) => c.c + 16 + 4 * d
      let binned := c.items.foldl (fun u di =>
        let d := di.1 % 2 ^ 32
        if ndest ≤ d then u
        else
          let n := word u (count d)
          let v := put 4 u (count d) ((n + 1) % 2 ^ 32)
          if n < cap then put 4 v (c.c + 16 + 4 * ndest + 4 * (cap * d + n)) (di.2 % 2 ^ 32)
          else put 4 v (c.c + 12) ((word v (c.c + 12) + 1) % 2 ^ 32)) s
      let patched : State := { binned with commands := binned.commands.map (fun h =>
        let slot := (h.lit.getD 0) % 4096
        if h.team = c.team ∧ h.held = true ∧ pbase ≤ slot ∧ slot < pbase + ndest then
          { h with patch := some (min (word binned (count (slot - pbase))) cap) } else h) }
      s.startWork c = (if hasBit c.minor 0 then patched else binned).modCommand c.id (fun c => { c with state := 4 }))) ∧
  (∀ (s : State) (t a : Nat) tm, s.team? t = some tm → s.binGet t a = ofLeBytes (padBytes tm.padNonce tm.pad a 4)) ∧
  (∀ (tm : Team) (c : Command) w, descriptor tm c.c = .ok w →
    let f := fun (k : Nat) => w.getD k 0
    let code := bits (f 0) 3 0
    let k := mmaK code
    let bands := f 1 / 8
    let bad := k = 0 ∨ bits (f 0) 31 11 ≠ 0 ∨ bits (f 0) 7 6 ≠ 0 ∨ hasBit (f 0) 9 = true ∨ f 1 % 8 ≠ 0 ∨ f 3 % k ≠ 0 ∨
      f 4 % 16 ≠ 0 ∨ f 5 ≠ 0 ∨ f 6 ≠ 0 ∨ f 7 ≠ 0
    let at' := fun (x e byte : Nat) => c.a + x * f 4 + swizzle (bits (f 0) 5 4) x (matWidth code * e / 8 + byte)
    let put := fun (win b : Nat) => c.b + 2 * bands * (f 3 / k + win) + 2 * b
    let elem := fun (win j : Nat) => f 3 + win * k + 8 * j
    let zero := fun (x e : Nat) =>
      let v := ofLeBytes ((List.range (matWidth code)).map (fun y => padGet tm.padNonce tm.pad (at' x e y)))
      ∀ i < 8, bits v (matWidth code * i + matWidth code - 1 - (if code = 7 ∨ code = 8 then 0 else 1)) (matWidth code * i) = 0
    let inside := ∀ win < f 2, ∀ b < bands, tm.ownsPad (put win b) 2 = true ∧ ∀ r < 8, ∀ j < k / 8, ∀ y < matWidth code,
      tm.ownsPad (at' (8 * b + r) (elem win j) y) 1 = true
    (bad → zmapPlan tm c = .error 2) ∧
    (¬ bad → ¬ inside → zmapPlan tm c = .error 1) ∧
    (¬ bad → inside → ∃ ws, zmapPlan tm c = .ok ws ∧ ws.length = f 2 * bands ∧
      ∀ win < f 2, ∀ b < bands, ∃ x, ws[win * bands + b]? = some (put win b, x) ∧ x < 2 ^ (k / 8) ∧
        ∀ j < k / 8, (x.testBit j = true ↔ ∀ r < 8, zero (8 * b + r) (elem win j)))) ∧
  (∀ (s : State) (t : Nat) (c : Command) (tm : Team) (rows : List Piece), s.team? t = some tm →
    let now := if tm.mode = .unchecked then rows.take 1 else rows
    let pieces := now.flatMap (fun r => cutRow (r.len + 1) r)
    let asker : Asker := ⟨3, c.id, 0⟩
    let known := fun (p : Piece) => s.allKnown asker (dieOf c.core) c.part c.asid (s.pieceVas tm c p)
    let fine := fun (p : Piece) => known p = true ∧ s.pieceFault tm c p = none ∧ s.pieceDown tm c p = false
    let lines := (pieces.filter (fun p => p.sk == 0)).foldl (fun ls p => insertNat (p.src / 128 * 128) ls) []
    let met := lines.foldl (fun (u : State) va => u.logPiece t c va) s
    let rest := rows.drop now.length
    (pieces ≠ [] → (∀ p ∈ pieces, fine p) → ∀ tm' w, met.team? t = some tm' →
      met.putPieces t tm' c (pieces.zip (pieces.map (met.pieceBytes t tm' c))) = (w, []) →
      s.movePieces t c rows = w.modCommand c.id (fun c => { c with state := if rest = [] then 4 else 2, todo := rest })) ∧
    (∀ p ps, tm.mode = .unchecked → pieces = p :: ps → ¬ fine p →
      let stays := fun (u : State) (n : Nat) => u.modCommand c.id (fun c => { c with state := n, todo := p :: ps ++ rest })
      (known p = false → s.movePieces t c rows =
        stays (s.askWalks asker (dieOf c.core) c.part c.asid (s.pieceVas tm c p)) 2) ∧
      (known p = true → ∀ write va level, s.pieceFault tm c p = some (write, va, .notPresent level) → s.movePieces t c rows =
        (stays s 3).pageFault t ⟨level, if write then 1 else 0, c.asid, va / 128 * 128, none⟩) ∧
      (known p = true → ∀ write va found, s.pieceFault tm c p = some (write, va, found) → (∀ level, found ≠ .notPresent level) →
        s.movePieces t c rows = (s.modCommand c.id (fun c => { c with state := 4, todo := [] })).engineViolation t c va) ∧
      (known p = true → s.pieceFault tm c p = none → s.movePieces t c rows = stays s 2))) ∧
  (∀ r : Piece,
    let pieces := cutRow (r.len + 1) r
    (∀ p ∈ pieces, 0 < p.len ∧ p.dk = r.dk ∧ p.sk = r.sk ∧ p.dst % 128 + p.len ≤ 128 ∧ (r.sk ≠ 4 → p.src % 128 + p.len ≤ 128) ∧
      r.dst ≤ p.dst ∧ p.dst + p.len ≤ r.dst + r.len ∧ p.src + r.dst = r.src + p.dst) ∧
    (∀ i < r.len, ∃ p ∈ pieces, p.dst ≤ r.dst + i ∧ r.dst + i < p.dst + p.len) ∧
    pieces.Pairwise (fun p q => p.dst + p.len ≤ q.dst)) ∧
  (∀ (s : State) (t : Nat) (tm : Team) (c : Command) (p : Piece) (bs : List Byte), s.team? t = some tm → tm.mode = .unchecked →
    let writes := fun (u : State) => s.putPiece t c p bs = .ok u
    let window := s.windowOf t tm
    (∀ e pa n, p.dk = 0 → s.engineWalk c true p.dst = .leaf e pa n →
      let u := (s.translated (dieOf c.core) c.part c.asid p.dst).serve c.part (s.homeUnit pa)
        { UnitFault.none with addr := pa, record := tm.record, asid := c.asid }
      writes (u.homeWrite (u.viewOf e pa) pa bs)) ∧
    (p.dk = 1 → writes (s.modTeam t (fun tm => { tm with pad := padPut tm.pad p.dst bs }))) ∧
    (∀ k o, p.dk = 2 → window p.dst = some (k, o) → writes (s.modTeam k (fun o =>
      if hasBit c.mod 5 then { o with shadow := Memory.putBytes o.shadow (bits p.dst 17 0) bs }
      else { o with visible := Memory.putBytes o.visible (bits p.dst 17 0) bs }))) ∧
    (p.dk = 3 → writes { s with kpad := Memory.putBytes s.kpad (tm.part * 2 ^ 26 + p.dst) bs }) ∧
    (∀ e pa n, p.sk = 0 → p.src % 128 + p.len ≤ 128 → s.engineWalk c false p.src = .leaf e pa n →
      s.pieceBytes t tm c p = (List.range p.len).map (fun i =>
        s.runByte tm (s.viewOf e pa) (pa / 128 * 128 + p.src % 128 + i))) ∧
    (p.sk = 1 → s.pieceBytes t tm c p = padBytes tm.padNonce tm.pad p.src p.len) ∧
    (∀ k o, p.sk = 2 → window p.src = some (k, o) →
      s.pieceBytes t tm c p = Memory.getBytes o.visible (bits p.src 17 0) p.len) ∧
    (p.sk = 3 → s.pieceBytes t tm c p = Memory.getBytes s.kpad (tm.part * 2 ^ 26 + p.src) p.len) ∧
    (p.sk = 4 → s.pieceBytes t tm c p = List.replicate p.len 0) ∧
    (∀ (q : Piece) (ps : List (Piece × List Byte)) qbs u, s.putPiece t c q qbs = .ok u →
      s.putPieces t tm c ((q, qbs) :: ps) = u.putPieces t tm c ps)) ∧
  (∀ part name s x ws c0 cs,
    s.collEntry part name = some x → s.collRanks part name x.p = some ws →
    ws.filterMap (fun w => s.command? w.command) = c0 :: cs →
    let n := codeBits x.typ / 8
    let sendAt := fun (r : Nat) => (x.send + r * x.span) % 2 ^ 52
    let recvAt := fun (r : Nat) => (x.recv + r * x.span) % 2 ^ 52
    let read := (c0 :: cs).foldl (fun (s : State) c => (s.collMeet c).commandReads c (sendAt c.a) (x.e * n))
      { s with collWaits := s.collWaits.filter (fun w => !ws.contains w) }
    let vals := ws.map (fun w => match s.command? w.command with
      | some c => (s.collSend c x c.a).getD []
      | none => w.elems)
    let away := (List.range x.p).filter (s.rankAway x)
    ((c0 :: cs).any (s.collWaiting x) = true → exec (.collInstanceStart part name) s =
      .next ((c0 :: cs).foldl (fun (s : State) c => s.collAsk x c) s)) ∧
    ((c0 :: cs).any (s.collWaiting x) = false →
      ((c0 :: cs).find? (fun c => (s.collSend c x c.a).isNone) = none →
        exec (.collInstanceStart part name) s = .next ((c0 :: cs).foldl (fun (s : State) c =>
          let out := (collResult c0.minor (bits c0.mod 5 4) x.typ x.p x.e vals c.a).flatMap (fun y => leBytes y n)
          let fails := (pageChunks (recvAt c.a) out.length).any (fun k => (s.commandPage c k.1).isNone)
          match (if fails then none else s.pinWrite (dieOf c.core) c.part c.asid (recvAt c.a) out) with
          | some s => (away.foldl (fun (s : State) r => s.sendPackets c (s.rankDevice x r) 0 [] (x.e * n)) s).packetsDone c.id
          | none => s.engineViolation c.team c (recvAt c.a)) read)) ∧
      (∀ c, (c0 :: cs).find? (fun c => (s.collSend c x c.a).isNone) = some c →
        exec (.collInstanceStart part name) s = .next (read.engineViolation c.team c (sendAt c.a)))))

/-! ## The assay -/

/-- R214, R324, R338, R339, R341, R385: a lead that has ended leaves its signatures and queues the trail. Runs that match decide
the team for the lead, the first mismatch queues a third run, which decides for the run that it matches or, matching
neither, halts the partition with cause 5. Of a decided team the winner's held lines are released one after the other,
and after the last the other run's are discarded, the losers' cores receive demerits and the team ends; a lead that has
become unchecked has its lines released in the same way (R341), which the health record counts (R413). One line a step is
the model's choice (log entries 82 and 92). R344, R443: a
demerit falls away when its core's deadline has passed; CR_ASSAY_INJECT takes a write while it is not armed, and only a
write of ARM = 0, which changes no other field, while it is. -/
def Obligations.CheckedRunEvents : Prop :=
  ((∀ t s tm c, s.team? t = some tm → s.checkedOf tm = some c → (s.part tm.part).halted = false → tm.mode = .lead →
      s.mayEnd t tm = true →
      let ended := (((s.putResult c 0 tm.result).reclaim t).setChecked c (fun c =>
        { c with stage := 1, lead := some tm.result, ended := false })).logStatus c 1 0
      exec (.leadEnd t) s = .next (ended.queueRun c 1)) ∧
    (∀ k s c a b, s.checked[k]? = some c → c.ended = true → (s.part c.part).halted = false → c.verdict = none → c.stage = 1 →
      c.lead = some a → c.trail = some b →
      (a.agrees b = true → exec (.runCompare k) s = .next (((s.putResult c 1 b).assayCount 1).decideFor c 0 2 [])) ∧
      (a.agrees b = false → exec (.runCompare k) s = .next ((((((s.putResult c 1 b).assayCount 2).setChecked c (fun c =>
        { c with stage := 2, ended := false })).logStatus c 2 0)).queueRun c 2))) ∧
    (∀ k s c a b d, s.checked[k]? = some c → c.ended = true → (s.part c.part).halted = false → c.verdict = none →
      c.stage = 2 → c.lead = some a → c.trail = some b → c.third = some d →
      (d.agrees a = true → exec (.runCompare k) s = .next (((s.putResult c 2 d).assayCount 4).decideFor c 0 2 b.cores)) ∧
      (d.agrees a = false → d.agrees b = true →
        exec (.runCompare k) s = .next (((s.putResult c 2 d).assayCount 3).decideFor c 2 0 a.cores)) ∧
      (d.agrees a = false → d.agrees b = false → exec (.runCompare k) s =
        .next (((((s.putResult c 2 d).discardRun c 0).discardRun c 2).disarmFor c.part c.record c.asid c.index).halt c.part 5
          1023 { UnitFault.none with record := c.record, asid := c.asid }))) ∧
    (∀ k s c v, s.checked[k]? = some c → (s.part c.part).halted = false → c.verdict = some v →
      c.stage ≠ 4 →
      (∀ u, s.releaseOne c v.winner = some u → exec (.runCompare k) s = .next u ∧
        ∃ h ∈ s.heldLines, h.of c v.winner = true ∧ u.heldLines = s.heldLines.erase h) ∧
      (s.releaseOne c v.winner = none →
        let demerited := v.losers.foldl State.demerit (s.discardRun c v.other)
        exec (.runCompare k) s = .next (((demerited.setChecked c (fun c => { c with stage := 3, verdict := none })).logStatus
          c 3 0).runRec (.ended c.part c.asid c.record c.index)))) ∧
    (∀ k s c v, s.checked[k]? = some c → (s.part c.part).halted = false → c.verdict = some v → c.stage = 4 →
      (∀ u, s.releaseOne c v.winner = some u → exec (.runCompare k) s =
        .next { u with health := { u.health with released := u.health.released + 1 } }) ∧
      (s.releaseOne c v.winner = none →
        let emptied := s.discardRun c v.other
        let settled : State := { emptied with checked := modifyFirst (fun x => x == c) (fun x => { x with verdict := none }) emptied.checked }
        exec (.runCompare k) s = .next (if c.ended then settled.runRec (.ended c.part c.asid c.record c.index) else settled)))) ∧
  ((∀ core s, core < s.cores.length → 1 < (s.core core).demerits → (s.core core).deadline ≤ s.time →
      Answers (.demeritDecay core) s (fun u => (u.core core).demerits = (s.core core).demerits - 1 ∧
        (u.core core).deadline = (s.core core).deadline + 2 ^ bits s.assayCtl.toNat 7 2)) ∧
    (∀ core s, core < s.cores.length → (s.core core).demerits = 1 → (s.core core).deadline ≤ s.time →
      Answers (.demeritDecay core) s (fun u => (u.core core).demerits = 0)) ∧
    (∀ (value : Dword) s, s.inject.getLsbD 63 = false →
      exec (.injectArm value) s = .next { s with inject := value &&& 0x871FFF000000FFFF } ∧
      exec (.injectDisarm value) s = .next { s with inject := value &&& 0x871FFF000000FFFF }) ∧
    (∀ (value : Dword) s, s.inject.getLsbD 63 = true → value.getLsbD 63 = true → exec (.injectArm value) s = .next s) ∧
    (∀ (value : Dword) s, s.inject.getLsbD 63 = true → value.getLsbD 63 = false → Answers (.injectDisarm value) s (fun u =>
      u = { s with inject := u.inject, target := none } ∧ u.inject.getLsbD 63 = false ∧
      ∀ k, k < 63 → u.inject.getLsbD k = s.inject.getLsbD k)))

/-! ## Halts -/

/-- R358, R385–R389: a GO of CR_PUB_CTRL publishes its range within its step (log entry 46), or nothing while a home of the
range has stopped, or halts the partition where a page of it fails, with the partition's own place as the origin (log entry
58); EXT of
CR_HALT halts the partition with cause 11; a unit of a halted partition stops, and DONE is set after the last; a team
whose residence reaches the watchdog's limit halts it with cause 6; a halted partition's first cause stays. -/
def Obligations.HaltEvents : Prop :=
  (∀ part (value : Dword) s, (s.part part).pubBusy = false →
    let set := s.modPart part (fun x =>
      { x with pubCtrl := BitVec.ofNat 64 (bits value.toNat 63 32 <<< 32 ||| bits value.toNat 15 0) })
    let origin := (set.coresOf part).headD 0
    let found := set.rangePages (dieOf origin) part (bits value.toNat 15 0) (s.part part).pubVa.toNat
      ((bits value.toNat 63 32 + 1) * 128)
    (hasBit value.toNat 31 = false → exec (.pubCtrlGo part value) s = .next set) ∧
    (∀ rs, hasBit value.toNat 31 = true → found = some rs → exec (.pubCtrlGo part value) s = .next (
      if set.rangeDown part (rs.map (·.1)) then set
      else set.publishRanges (rs.map (·.1)) 3 origin (fun _ => false) (fun _ => false))) ∧
    (hasBit value.toNat 31 = true → found = none → exec (.pubCtrlGo part value) s = .next (set.halt part 2 1023
      { UnitFault.none with detail := (s.part part).pubVa.toNat, asid := bits value.toNat 15 0 }))) ∧
  (∀ part (value : Dword) s, part < s.partitions.length → value.getLsbD 8 = true →
    Answers (.externalHalt part value) s (fun u => (u.part part).halted = true ∧
      ((s.part part).halted = false → (u.part part).haltCause = 11) ∧
      ((s.part part).halted = true → (s.part part).haltIndex ≤ 1023 →
        (u.part part).haltCause = (s.part part).haltCause))) ∧
  (∀ part (value : Dword) s, value.getLsbD 8 = false → exec (.externalHalt part value) s = .next s) ∧
  (∀ part index late s, part < s.partitions.length → (s.part part).halted = true →
    (s.part part).stopped.contains index = false → (s.unitsOf part).contains index = true →
    Answers (.unitStop part index late) s (fun u => (u.part part).stopped = (s.part part).stopped ++ [index] ∧
      ((s.unitsOf part).all (fun n => ((s.part part).stopped ++ [index]).contains n) = true →
        (u.part part).haltDone = true))) ∧
  (∀ t s tm, s.team? t = some tm → tm.part < s.partitions.length → (s.part tm.part).halted = false →
    0 < (s.part tm.part).watchdog → (s.part tm.part).watchdog * 2 ^ 24 ≤ tm.resident →
    Answers (.watchdogExpiry t) s (fun u => (u.part tm.part).halted = true ∧ (u.part tm.part).haltCause = 6))

/-! ## Current, clocks and classes -/

/-- R390, R391: a request that fits becomes a holding, and none is granted while an urgent one waits but the first of
those, even where it does not fit (log entry 105); a request that has waited 1,024 cycles of its cluster is urgent from
then on; a holding whose work has ended goes back; a running command's is returned, and asked for again unless its engine
already asks; a pipe that has issued nothing for 512 cycles sleeps, and wakes once
its reservation is granted. R393–R395, R402: a new class waits until the cluster is empty, and then takes its clock, at
once or at the end of the clock stop that the cluster is in; a lease is refused for the first reason of R394's table
that holds, with STATE 3 even while one is held (log entry 57), and otherwise moves the class-0 clusters to the boost pool until it is cancelled, or revoked and then over;
a clock that has stopped for 2,000 ticks runs again at its new frequency. -/
def Obligations.ReservationAndClassEvents : Prop :=
  ((∀ k s r, k < s.clusters.length → (s.cluster k).aged.grantable = some r →
      Answers (.reservationGrant k) s (fun u => (u.cluster k).holdings = (s.cluster k).holdings ++ [r] ∧
        (u.cluster k).requests = (s.cluster k).aged.requests.filter (· != r))) ∧
    (∀ k s, (s.cluster k).aged.grantable = none → exec (.reservationGrant k) s = .next s) ∧
    (∀ c : Cluster, c.aged.holdings = c.holdings ∧ c.aged.requests = c.requests.map (fun r =>
      if r.since + 1024 ≤ c.cycles then { r with urgent := true } else r)) ∧
    (∀ (c : Cluster) r, c.grantable = some r → r ∈ c.requests ∧ r.size + c.used ≤ c.cap ∧
      (c.requests.any (·.urgent) = true → r.urgent = true ∧ ∀ q ∈ c.requests, q.urgent = true → r.since ≤ q.since)) ∧
    (∀ k who s, exec (.reservationUrgent k who) s = .next (s.modCluster k (fun c => { c with requests := c.requests.map (fun r =>
      if r.requester = who ∧ r.since + 1024 ≤ c.cycles then { r with urgent := true } else r) }))) ∧
    (∀ k who s, k < s.clusters.length → Answers (.reservationReturn k who) s (fun u =>
      ∀ h, h ∈ (u.cluster k).holdings ↔
        h ∈ (s.cluster k).holdings ∧ ¬ (h.requester = who ∧ s.holdingOver k h = true))) ∧
    (∀ k who s h, (s.cluster k).holdings.find? (fun h => h.requester == who && h.command != 0 && !s.holdingOver k h) = some h →
      exec (.engineReservationRenew k who) s = .next (s.modCluster k (fun c => { c with
        holdings := c.holdings.filter (· != h)
        requests := c.requests ++ (if (s.cluster k).requests.any (fun r => r.requester == who) then []
          else [{ h with since := (s.cluster k).cycles, urgent := false }]) }))) ∧
    (∀ core slot s, core < s.cores.length → slot < (s.core core).slots.length →
      Answers (.pipeSleep core slot) s (fun u => ((u.core core).slot slot).asleep =
        (((s.core core).slot slot).asleep || decide (((s.core core).slot slot).lastVector + 512 ≤ (s.core core).cycles)))) ∧
    (∀ core slot s, core < s.cores.length → slot < (s.core core).slots.length →
      (s.cluster (clusterOf core)).holdings.any (fun h => h.requester == 4 * (core % 4) + slot) = true →
      Answers (.pipeWake core slot) s (fun u => ((u.core core).slot slot).asleep = false))) ∧
  ((∀ k (value : Dword) s, exec (.poolClassWrite k value) s = .next (s.modCluster k (fun c =>
      { c with nextCls := bits value.toNat 1 0, moving := bits value.toNat 1 0 != c.cls }))) ∧
    (∀ k s, k < s.clusters.length → s.teams.any (fun kt => clusterOf kt.2.core == k) = false → (s.cluster k).moving = true →
      Answers (.poolMove k) s (fun u => (u.cluster k).cls = (s.cluster k).nextCls ∧ (u.cluster k).moving = false ∧
        (u.cluster k).nextMhz = classMhz (s.cluster k).nextCls (u.cluster k).boost ∧
        ((s.cluster k).boost = false → (s.cluster k).stopped = false →
          (u.cluster k).mhz = classMhz (s.cluster k).nextCls false))) ∧
    (∀ k s, s.teams.any (fun kt => clusterOf kt.2.core == k) = true → exec (.poolMove k) s = .next s) ∧
    (∀ part (value : Dword) holds s, hasBit value.toNat 31 = false →
      (∀ r, s.boostReason part (bits value.toNat 47 32) holds = r → r ≠ 0 → exec (.boostRequest part value holds) s =
        .next (s.modPart part (fun x => { x with boostState := 3, boostReason := r }))) ∧
      (s.boostReason part (bits value.toNat 47 32) holds = 0 → exec (.boostRequest part value holds) s =
        .next { (s.modPart part (fun x => { x with
          lease := 1, boostState := 1, boostReason := 0
          boostEnd := (s.time + 1000 * bits value.toNat 47 32) % 2 ^ 64 })).modClusters part
          (fun c => if c.cls = 0 then c.toBoost true s.time s.nonce else c) with nonce := s.nonce + 1 })) ∧
    (∀ part (value : Dword) s, hasBit value.toNat 31 = true → (s.part part).lease ≠ 0 →
      exec (.boostCancel part value) s = .next (s.endLease part)) ∧
    (∀ part s, part < s.partitions.length → (s.part part).lease = 1 → Answers (.boostRevoke part) s (fun u =>
      (u.part part).lease = 2 ∧ (u.part part).boostState = 2 ∧ (u.part part).boostEnd = (s.time + 200000) % 2 ^ 64 ∧
      (u.part part).irqs.contains 2 = true)) ∧
    (∀ part s, (s.part part).lease ≠ 0 → (s.part part).boostEnd ≤ s.time →
      exec (.boostLeaseEnd part) s = .next (s.endLease part)) ∧
    (∀ k s, k < s.clusters.length → (s.cluster k).stopped = true → (s.cluster k).stopAt + 2000 ≤ s.time →
      Answers (.clockRestart k) s (fun u => (u.cluster k).stopped = false ∧ (u.cluster k).mhz = (s.cluster k).nextMhz)) ∧
    (∀ k s, (s.cluster k).stopped = false ∨ s.time < (s.cluster k).stopAt + 2000 → exec (.clockRestart k) s = .next s))

/-- R396, R397: a dip of more than twice the threshold counts an alarm and, unless edges are being withheld, withholds the
next ones and opens a full half-issue window after them; the window follows the withheld edges and ends when its cycles
have passed. R395, R409: a recalibration sets the cluster's guard-band from the least margin that its cores in use
report, between 0 and 60 mV, and stops its clock for the change; the least margin that each physical core reports
stands in its CR_WEAR, saturated. -/
def Obligations.DroopAndGuardBandEvents : Prop :=
  ((∀ k dip s, k < s.clusters.length → (s.cluster k).thresh ≠ 0 → 2 * (s.cluster k).thresh < dip →
      Answers (.droopAlarm k dip) s (fun u =>
        (u.cluster k).alarms = ((s.cluster k).alarms + 1) % 2 ^ 64 ∧
        ((s.cluster k).edges = 0 → (u.cluster k).edges = (s.cluster k).stretch ∧ (u.cluster k).halfLeft = (s.cluster k).half) ∧
        ((s.cluster k).edges ≠ 0 →
          (u.cluster k).edges = (s.cluster k).edges ∧ (u.cluster k).halfLeft = (s.cluster k).halfLeft))) ∧
    (∀ k dip s, ((s.cluster k).thresh = 0 ∨ dip ≤ 2 * (s.cluster k).thresh) → Answers (.droopAlarm k dip) s (fun u =>
        u.cluster k = s.cluster k)) ∧
    (∀ k s, k < s.clusters.length → (s.cluster k).edges = 0 → (s.cluster k).droop = 1 → Answers (.stretchEnd k) s (fun u =>
      (u.cluster k).droop = 2 ∧ (u.cluster k).halfLeft = (s.cluster k).halfLeft)) ∧
    (∀ k s, k < s.clusters.length → (s.cluster k).droop = 2 → (s.cluster k).halfLeft = 0 →
      Answers (.halfIssueWindowEnd k) s (fun u => (u.cluster k).droop = 0))) ∧
  (∀ k margins s m,
    let at_ := fun (p : Nat) => leastMargin ((margins.filter (fun (m : Nat × Int) => m.1 == p)).map (·.2))
    k < s.clusters.length → leastMargin (((clusterCores k).filter (fun p => (s.core p).inUse)).filterMap at_) = some m →
    (∀ p ∈ clusterCores k, (s.core p).exhausted = false) → (∀ p ∈ clusterCores k, ∀ x, at_ p = some x → 0 ≤ x) →
    Answers (.recalibration k margins) s (fun u => (u.cluster k).stopped = true ∧
      (u.cluster k).add = (min 60 (max 0 (30 - m))).toNat ∧
      ∀ p ∈ clusterCores k, p < s.cores.length → ∀ x, at_ p = some x → (u.core p).margin = (min 255 x).toNat))

/-! ## The platform -/

/-- R1, R401, R402, R410, R411, R464: a reconfiguration stops placement and asks the resident teams of its partitions to save themselves;
once none is resident, the numbers are assigned afresh and placement resumes. A quiet partition takes a configuration
that is allowed (whole clusters, four or more of them, a function and key slots of its own, four of its 64 vectors), and
no other is taken, nor any while the dies are held in reset (log entry 69). R411–R413, R460, R461: the inactive image takes the bytes of a firmware update,
is measured (log entry 102) and is tried first after the next reset (log entry 70); a slice that holds no held line and no page of a scrub leaves the
address hash of its die, none of whose lines it homes any more, and one that may not yet be retired is noted, so that
no checked lead is placed on its die meanwhile; the health record is rewritten with the next sequence number. -/
def Obligations.PartitionAndMaintenanceEvents : Prop :=
  ((∀ parts (s : State), (∀ p, (s.part p).halted = false) → (∃ kt ∈ s.teams, kt.2.part ∈ parts ∧ kt.2.part < 8) → s.partitions.length = 8 →
      Answers (.partitionReconfigure parts) s (fun u =>
        (∀ p ∈ parts, p < 8 → (u.part p).paused = true) ∧ u.cores = s.cores ∧
        u.teams = s.teams.map (fun kt => if parts.contains kt.2.part then (kt.1, kt.2.raise) else kt))) ∧
    (∀ parts (s : State), (∀ p, (s.part p).halted = false) → s.teams = [] →
      s.partitions.length = 8 →
      (∀ p, p < 8 → p ∉ parts → s.numbersMove p = true → (s.part p).paused = true) →
      Answers (.partitionReconfigure parts) s (fun u =>
        (∀ p, p < 8 → (u.part p).paused = false) ∧
        ∀ c, c < s.cores.length → (u.core c).active = (s.core c).inUse ∧
          ((s.core c).inUse = true → (u.core c).logical = s.denseCore c))) ∧
    (∀ p cfg (s : State), s.mayConfigure p cfg = true → p < 8 ∧ 4 ≤ cfg.clusters.length ∧ cfg.clusters.Nodup ∧
      (∀ k ∈ cfg.clusters, k < 32 ∧ ((s.cluster k).partition = none ∨ (s.cluster k).partition = some p)) ∧
      cfg.function < 8 ∧ cfg.vectors.length = 4 ∧ (∀ v ∈ cfg.vectors, v < 64) ∧
      ∀ q, q < 8 → q ≠ p → (s.part q).configured = true →
        (s.part q).config.function ≠ cfg.function ∧ ∀ k ∈ cfg.keySlots, k ∉ (s.part q).config.keySlots) ∧
    (∀ p cfg (s : State), s.diesHeld = false → p < s.partitions.length → s.quiet p = true → s.mayConfigure p cfg = true →
      Answers (.partitionConfigure p cfg) s (fun u =>
        (u.part p).configured = true ∧ (u.part p).config = cfg ∧
        ∀ k, k < s.clusters.length → ((u.cluster k).partition = some p ↔ k ∈ cfg.clusters))) ∧
    (∀ p cfg (s : State), (s.diesHeld = true ∨ s.quiet p = false ∨ s.mayConfigure p cfg = false) →
      exec (.partitionConfigure p cfg) s = .next s)) ∧
  ((∀ offset image (s : State), s.mgmt.jumped = true → offset % 8 = 0 → image.length % 8 = 0 →
      offset + image.length ≤ 0x1000000 → Answers (.firmwareUpdate offset image) s (fun u =>
        u.mgmt.bootSel = BitVec.ofNat 64 s.mgmt.inactive ∧ u.mgmt.running = s.mgmt.running ∧
        u.mgmt.measured = imageDigest u.mgmt.flash s.mgmt.inactive ∧
        (∀ i, i < image.length → Memory.get u.mgmt.flash (0x1000000 * s.mgmt.inactive + offset + i) = image.getD i 0) ∧
        ∀ a, (a < 0x1000000 * s.mgmt.inactive + offset ∨ 0x1000000 * s.mgmt.inactive + offset + image.length ≤ a) →
          Memory.get u.mgmt.flash a = Memory.get s.mgmt.flash a)) ∧
    (∀ die slice (s : State), die < 2 → slice < 48 → s.retired.contains (die, slice) = false →
      (s.retired.filter (fun k => k.1 == die)).length < 8 → s.scrubsSlice die slice = false →
      (∀ h ∈ s.heldLines, isDram h.pa = true → dieOfPa h.pa = die → s.homeSlice h.pa ≠ slice) →
      Answers (.sliceRetirement die slice) s (fun u =>
        u.retired = s.retired ++ [(die, slice)] ∧ (die, slice) ∉ u.retiring ∧
        (∀ x, (∀ g ∈ s.registrations, ¬ (g.pa ≤ x ∧ x < g.pa + g.size)) → Memory.get u.dram x = Memory.get s.dram x) ∧
        u.health.seq = s.health.seq + 1 ∧ (∀ l ∈ u.l2, l ∈ s.l2) ∧
        (∀ pa, dieOfPa pa = die → u.slices die ≠ [] → u.homeSlice pa ≠ slice))) ∧
    (∀ die slice (s : State), die < 2 → slice < 48 → s.retired.contains (die, slice) = false →
      (s.retired.filter (fun k => k.1 == die)).length < 8 →
      (s.scrubsSlice die slice = true ∨
        ∃ h ∈ s.heldLines, isDram h.pa = true ∧ dieOfPa h.pa = die ∧ s.homeSlice h.pa = slice) →
      Answers (.sliceRetirement die slice) s (fun u =>
        u = { s with retiring := u.retiring } ∧ (die, slice) ∈ u.retiring ∧ ∀ x ∈ s.retiring, x ∈ u.retiring)) ∧
    (∀ (s : State), Answers .healthRecordRewrite s (fun u => u.health.seq = s.health.seq + 1 ∧
      u.health.record.take (s.healthBytes (s.health.seq + 1)).length = s.healthBytes (s.health.seq + 1))))

/-- R405, R406, R310: a pairing on one feed is refused without an override, and an overridden one sets CO; a restore
answers the blocks (in `reply`: log entry 71) only where every block carries the cut. R403, R404, R408: ports retrain once, are removed after
10,000,000 ticks, count missed heartbeats; a packet that may enters the escape channel, and one that may, and
whose unit has not stopped (R386), arrives: its bytes stand in the mirror region and, after the last packet, the command has
finished. The elements of a remote rank arrive in one event (log entry 52), but not after the partition has stopped. A removal that leaves a MIRR's
device no route ends it with code 5. -/
def Obligations.PartnerAndFabricEvents : Prop :=
  (∀ p partner feed size (s : State), feed.toNat = s.health.feed →
    exec (.partnerPairing p partner feed false size) s = .next s) ∧
  (∀ p partner feed override size (s : State), p < s.partitions.length → (feed.toNat ≠ s.health.feed ∨ override = true) →
    Answers (.partnerPairing p partner feed override size) s (fun u =>
      bits (u.part p).mirrCtl.toNat 63 32 = size % 2 ^ 32 ∧ bits (u.part p).mirrCtl.toNat 17 0 = partner % 2 ^ 18 ∧
      ((u.part p).mirrCtl.getLsbD 31 = true ↔ feed.toNat = s.health.feed) ∧ (u.part p).secured = false)) ∧
  (∀ p first count cut (s : State),
    let m := s.mirror (bits (s.part p).mirrCtl.toNat 17 0) p
    let carries := ∀ k, k < count → Map.get? m.tags (first + k) = some cut
    Answers (.partnerRestore p first count cut) s (fun u =>
      (carries → u.reply = (List.range (65536 * count)).map (fun i => Map.get m.bytes (65536 * first + i) 0)) ∧
      (¬ carries → u = { s with reply := [] }))) ∧
  (∀ n (s : State) (p : Port), s.ports[n]? = some p →
    Answers (.fabricPortFailure n) s (fun u =>
      (p.mode = 0 → u.ports[n]? = some { p with mode := 1, since := s.time }) ∧
      (p.mode = 1 → u.ports[n]? = some { p with mode := 2 })) ∧
    Answers (.portRetrainComplete n) s (fun u => p.mode = 1 → u.ports[n]? = some { p with mode := 0, missed := 0 }) ∧
    Answers (.portRemoval n) s (fun u =>
      ((p.mode = 1 ∨ p.mode = 2) ∧ p.since + 10000000 ≤ s.time → u.ports[n]? = some { p with mode := 3 }) ∧
      (s.time < p.since + 10000000 → u.ports[n]? = some p) ∧
      ∀ c ∈ s.commands, ∀ d, c.state = 2 → c.dest = some d → u.routed d = false →
        { c with state := 4, code := 5 } ∈ u.commands) ∧
    Answers (.missedHeartbeat n) s (fun u => u.ports[n]? = some { p with missed := p.missed + 1 })) ∧
  (∀ n (s : State), Answers (.escapeEntry n) s (fun u =>
    ∀ p ∈ s.packets, p.id = n → s.mayEscape p = true → { p with escape := true } ∈ u.packets)) ∧
  (∀ n (s : State) p, s.packets.find? (fun p => p.id == n) = some p →
    let gone : State := { s with packets := s.packets.filter (fun x => x.id != n) }
    let down := ((s.command? p.command).map (fun c => s.unitDown c.part (s.engineUnit c))).getD false
    let landed := gone.modMirror p.dest p.part (fun m => { m with bytes := padPut m.bytes p.off p.data })
    (s.mayArrive p = false ∨ down = true → exec (.fabricPacket (.ours n)) s = .next s) ∧
    (s.mayArrive p = true → down = false → gone.packets.any (fun x => x.command == p.command) = true →
      exec (.fabricPacket (.ours n)) s = .next landed) ∧
    (s.mayArrive p = true → down = false → gone.packets.any (fun x => x.command == p.command) = false →
      exec (.fabricPacket (.ours n)) s = .next (landed.modCommand p.command (fun c => { c with state := 4 })))) ∧
  (∀ part name rank data (s : State) x, (s.part part).haltDone = false → s.collEntry part name = some x → rank < x.p → s.rankAway x rank = true →
    data.length = x.e * (codeBits x.typ / 8) →
    Answers (.fabricPacket (.rank part name rank data)) s (fun u => u = { s with collWaits := u.collWaits } ∧
      u.collWaits = s.collWaits ++ [⟨part, name, rank, 0,
        (List.range x.e).map (fun j => field data (j * (codeBits x.typ / 8)) (codeBits x.typ / 8))⟩]))

/-- R213, R401, R194: a host write reaches its home and a host read answers the bytes at theirs, and changes no byte that
no core has registered; what no home serves is dropped or unsupported (an empty answer: log entry 101); an AtomicOp answers the
old value and writes the new one. R6, R397: a register write takes the RW fields of the register that its offset or its
physical address names; 0x11 for CR_HOLD_WAYS and the forms of the address are the model's (log entry 30). -/
def Obligations.HostAccesses : Prop :=
  (∀ p r a data (s : State), s.hostReach p a data.length = true → homeOf a ≠ .registers →
    isDram a = true → Answers (.hostWrite p r a data) s (fun u =>
      ∀ i, i < data.length → Memory.get u.dram (a + i) = data.getD i 0)) ∧
  (∀ p r a data (s : State), s.hostReach p a data.length = true → homeOf a = .registers →
    exec (.hostWrite p r a data) s = .next (s.regWrite a data.length (ofLeBytes data))) ∧
  (∀ p r a data (s : State), s.hostReach p a data.length = false →
    exec (.hostWrite p r a data) s = .next s) ∧
  (∀ p r a n (s : State), s.hostReach p a n = true → homeOf a ≠ .registers →
    Answers (.hostRead p r a n) s (fun u => u.reply = s.homeBytes 0 a n ∧
      ∀ x, (∀ g ∈ s.registrations, ¬ (g.pa ≤ x ∧ x < g.pa + g.size)) →
        Memory.get u.dram x = Memory.get s.dram x ∧ Memory.get u.hostMem x = Memory.get s.hostMem x)) ∧
  (∀ p r a n (s : State), s.hostReach p a n = true → homeOf a = .registers →
    Answers (.hostRead p r a n) s (fun u => u.reply = leBytes (s.regRead a n).1 n)) ∧
  (∀ p r a n (s : State), s.hostReach p a n = false →
    exec (.hostRead p r a n) s = .next { s with reply := [] }) ∧
  (∀ p op a n x c (s : State), s.hostReach p a n = true → isDram a = true → a % n = 0 →
    (n = 4 ∨ n = 8 ∨ n = 16 ∧ op = .cas) →
    let r := (s.recall a n).consume p UnitFault.none a n
    let new := hostAtomicNew op (ofLeBytes (r.homeBytes 0 a n)) x c n
    Answers (.hostAtomic p op a n x c) s (fun u => u.reply = r.homeBytes 0 a n ∧
      (∀ y, new = some y → ∀ i, i < n → Memory.get u.dram (a + i) = (leBytes y n).getD i 0) ∧
      (new = none → u.dram = r.dram))) ∧
  (∀ p off w (s : State), off ≠ 0x11 → off % 8 = 0 → off < 0x1000 →
    exec (.registerWrite p off w) s = .next (s.writePart p off w)) ∧
  (∀ p a w (s : State), a % 8 = 0 → 0x1000 ≤ a → exec (.registerWrite p a w) s = .next (s.regPut a w)) ∧
  (∀ p w (s : State), exec (.registerWrite p 0x11 w) s =
    .next (if bits w.toNat 3 0 ≤ 8 then { s with holdWays := bits w.toNat 3 0 } else s))

/-- R413, R466: before the first stage has entered Gritus no request is answered; after it every other request than the
listed ones is answered with ERROR code 0x07, a measurement request with the blocks that Param2 selects or ERROR 1, and
a session begins, is established, updated and ended in that order. What else a response holds is free (log entry 15).
R414: inside an established session the owner loads a free key slot of its partition, status 0, and zeroises one;
status 1 says that the slot is in use, 2 that its die is out of range, 3 that it is not the partition's; a request of
another opcode, or one outside a session, is ERROR 0x07 and changes no slot. That 2 and 3 come before 1, and that a payload
of another length or with a byte 3 other than zero is ERROR 0x07 too, is log entry 72. -/
def Obligations.SpdmEvents : Prop :=
  ((∀ (s : State) request part sig k context inSession, s.mgmt.jumped = false →
      let silent := fun (i : Instr) => exec i s = .next { s with reply := [] }
      silent (.getVersion request) ∧ silent (.getCapabilities request) ∧ silent (.negotiateAlgorithms request) ∧
      silent (.getDigests request) ∧ silent (.getCertificate request) ∧ silent (.challenge request) ∧
      silent (.getMeasurements sig k context) ∧ silent (.keyExchange request part) ∧ silent (.finish request) ∧
      silent (.keyUpdate request) ∧ silent (.heartbeat request) ∧ silent (.endSession request) ∧
      silent (.vendorKeyLoad inSession request) ∧ silent (.vendorKeyZeroise inSession request) ∧
      silent (.spdmUnsupportedRequest k)) ∧
    (∀ (s : State) v rest, s.mgmt.jumped = true →
      let reply := fun (code : Nat) (u : State) => ∃ body, u = { s with reply := v :: BitVec.ofNat 8 code :: body, nonce := s.nonce + 1 }
      Answers (.getVersion (v :: rest)) s (reply 0x04) ∧
      Answers (.getCapabilities (v :: rest)) s (reply 0x61) ∧
      Answers (.negotiateAlgorithms (v :: rest)) s (reply 0x63) ∧
      Answers (.getDigests (v :: rest)) s (reply 0x01) ∧
      Answers (.getCertificate (v :: rest)) s (reply 0x02) ∧
      Answers (.challenge (v :: rest)) s (reply 0x03)) ∧
    (∀ (s : State) k, s.mgmt.jumped = true → Answers (.spdmUnsupportedRequest k) s (fun u =>
      u = { s with reply := [0x13, 0x7F, 0x07, 0x00], nonce := s.nonce + 1 })) ∧
    (∀ (s : State) sig k context, s.mgmt.jumped = true → Answers (.getMeasurements sig k context) s (fun u =>
      (k = 0 → u.reply.take 8 = [0x13, 0x60, 0x09, 0x00, 0x00, 0x00, 0x00, 0x00] ∧ u.mgmt = s.mgmt) ∧
      (1 ≤ k ∧ k ≤ 8 → u.reply.take 5 = [0x13, 0x60, 0x00, 0x00, 0x01] ∧
        (u.reply.drop 5).take (3 + (s.measurement k).length) =
          leBytes (s.measurement k).length 3 ++ s.measurement k) ∧
      (k = 0x10 → u.reply.take 5 = [0x13, 0x60, 0x00, 0x00, 0x01] ∧
        (u.reply.drop 5).take (3 + (s.measurement k).length) =
          leBytes (s.measurement k).length 3 ++ s.measurement k) ∧
      (k = 0xFF →
        let all := ([1, 2, 3, 4, 5, 6, 7, 8, 0x10].map s.measurement).flatten
        u.reply.take 5 = [0x13, 0x60, 0x00, 0x00, 0x09] ∧
          (u.reply.drop 5).take (3 + all.length) = leBytes all.length 3 ++ all) ∧
      (8 < k ∧ k ≠ 0x10 ∧ k ≠ 0xFF → u = { s with reply := [0x13, 0x7F, 0x01, 0x00], nonce := s.nonce + 1 }))) ∧
    (∀ (s : State) request part, s.mgmt.jumped = true →
      Answers (.keyExchange request part) s (fun u => u.session = some ⟨part, false, 0⟩)) ∧
    (∀ (s : State) request x, s.mgmt.jumped = true → s.session = some x →
      Answers (.finish request) s (fun u => u.session = some { x with established := true }) ∧
      (x.established = true →
        Answers (.keyUpdate request) s (fun u => u.session = some { x with updates := x.updates + 1 }) ∧
        Answers (.heartbeat request) s (fun u => u.session = some x) ∧
        Answers (.endSession request) s (fun u => u.session = none)))) ∧
  ((∀ (s : State) x payload, s.mgmt.jumped = true → s.session = some x → x.established = true →
      let die := field payload 1 1
      let slot := field payload 2 1
      let bar := s.slotStatus x.part die slot
      field payload 3 1 = 0 →
      (field payload 0 1 = 1 → payload.length = 68 → Answers (.vendorKeyLoad true payload) s (fun u =>
        (bar = 0 → Map.get? s.keys (256 * die + slot) = none → u.reply = [0] ∧
          Map.get? u.keys (256 * die + slot) = some (field payload 4 64 + 1)) ∧
        (bar = 0 → Map.get? s.keys (256 * die + slot) ≠ none → u.reply = [1] ∧ u.keys = s.keys) ∧
        (bar ≠ 0 → u.reply = [BitVec.ofNat 8 bar] ∧ u.keys = s.keys))) ∧
      (field payload 0 1 = 2 → payload.length = 4 → Answers (.vendorKeyZeroise true payload) s (fun u =>
        (bar = 0 → u.reply = [0] ∧ u.keys = Map.del s.keys (256 * die + slot)) ∧
        (bar ≠ 0 → u.reply = [BitVec.ofNat 8 bar] ∧ u.keys = s.keys)))) ∧
    (∀ (s : State) inSession payload, s.mgmt.jumped = true →
      let refuses := fun (i : Instr) => Answers i s (fun u => u.reply = [0x13, 0x7F, 0x07, 0x00] ∧ u.keys = s.keys)
      let outside := inSession = false ∨ ∀ x, s.session = some x → x.established = false
      (outside ∨ field payload 3 1 ≠ 0 ∨ field payload 0 1 ≠ 1 ∨ payload.length ≠ 68 → refuses (.vendorKeyLoad inSession payload)) ∧
      (outside ∨ field payload 3 1 ≠ 0 ∨ field payload 0 1 ≠ 2 ∨ payload.length ≠ 4 →
        refuses (.vendorKeyZeroise inSession payload))))

/-- R415, R416, R468: a GO sets DONE and PHASE to 0 and is ignored while a scrub runs; the four phases zeroise the key
slots, the mapped cores' arrays, the pieces and the ranges that the registers named at the GO, a 64 KiB unit at a time,
and UNITS counts the units zeroed; phase 3 sets DONE and clears QUAR. One unit a step, and what a core's unit zeroes, are the
model's (log entries 68 and 82). -/
def Obligations.ScrubEvents : Prop :=
  (∀ p w (s : State), p < s.partitions.length → w.getLsbD 63 = true → ((s.part p).scrubDone = true ∨ (s.part p).scrubQuar = true) →
    Answers (.scrubGo p w) s (fun u => (u.part p).scrubDone = false ∧ (u.part p).scrubPhase = 0 ∧ (u.part p).scrubUnits = 0 ∧
      (u.part p).scrubOn = true ∧ (u.part p).scrubQuar = (s.part p).scrubQuar ∧
      ((s.part p).scrubQuar = false → (u.part p).scrubHeld = s.scrubNames p (u.part p).scrubCtl))) ∧
  (∀ p w (s : State), w.getLsbD 63 = true → (s.part p).scrubDone = false → (s.part p).scrubQuar = false →
    exec (.scrubGo p w) s = .next s) ∧
  (∀ p (s : State), p < s.partitions.length → (s.part p).scrubOn = true →
    let x := s.part p
    let unit := x.scrubUnits < x.scrubHeld.work x.scrubPhase
    Answers (.scrubPhaseEnd p) s (fun u =>
      (unit → (u.part p).scrubPhase = x.scrubPhase ∧ (u.part p).scrubUnits = x.scrubUnits + 1 ∧
        (u.part p).scrubDone = x.scrubDone) ∧
      (unit → x.scrubPhase = 2 → ∀ n die, x.scrubHeld.pieces[x.scrubUnits / 4]? = some (n, die) → ∀ k, k < 0x10000 →
        Memory.get u.kpad (p * 2 ^ 26 + 0x40000 * n + 0x10000 * (x.scrubUnits % 4) + k) = 0) ∧
      (unit → x.scrubPhase = 3 → ∀ base, unitOf x.scrubHeld.ranges x.scrubUnits = some base → isDram base = true →
        ∀ k, k < 0x10000 → Memory.get u.dram (base + k) = 0) ∧
      (unit → x.scrubPhase = 1 → ∀ core, x.scrubHeld.cores[x.scrubUnits / 24]? = some core →
        ∀ kt ∈ s.teams, kt.2.core = core → (kt.1, kt.2.zeroUnit (x.scrubUnits % 24)) ∈ u.teams) ∧
      (¬ unit → x.scrubPhase < 3 → (u.part p).scrubPhase = x.scrubPhase + 1 ∧ (u.part p).scrubUnits = 0 ∧
        (u.part p).scrubDone = x.scrubDone ∧
        (x.scrubPhase = 0 → ∀ d ∈ x.scrubHeld.keys, Map.get? u.keys (256 * d.1 + d.2) = none)) ∧
      (¬ unit → x.scrubPhase = 3 → (u.part p).scrubDone = true ∧ (u.part p).scrubQuar = false))) ∧
  (∀ p (s : State), p < s.partitions.length →
    Answers (.scrubProgressRead p) s (fun u => 3 ∉ (u.part p).irqs))

/-- R417: the scrub interrupt, source 3 of the partition, is raised when a scrub completes and when one restarts. -/
def Obligations.ScrubInterrupt : Prop :=
  (∀ p (s : State), p < s.partitions.length → (s.part p).scrubOn = true → (s.part p).scrubPhase = 3 →
    (s.part p).scrubHeld.rangeUnits ≤ (s.part p).scrubUnits →
    Answers (.scrubPhaseEnd p) s (fun u => 3 ∈ (u.part p).irqs)) ∧
  (∀ p w (s : State), p < s.partitions.length → w.getLsbD 63 = true → (s.part p).scrubQuar = true →
    Answers (.scrubGo p w) s (fun u => 3 ∈ (u.part p).irqs))

/-- R343, R412, R413, R416, R459, R461, R467: what outlasts a device reset, that a scrub in progress leaves its resources
quarantined, and that a reset of the management core starts at address 0 and keeps the flash and CR_BOOT_SEL. That DRAM
keeps its bytes over a device reset is log entry 27: no rule names it. -/
def Obligations.Resets : Prop :=
  (∀ (s : State), Answers .deviceReset s (fun u =>
    u.dram = s.dram ∧ u.mgmt.flash = s.mgmt.flash ∧ u.retired = s.retired ∧ u.teams = [] ∧ u.mgmt.pc = 0 ∧
    ∀ p, p < s.partitions.length → (u.part p).scrubCtl = (s.part p).scrubCtl ∧
      (u.part p).scrubRanges = (s.part p).scrubRanges ∧ (u.part p).scrubQuar = (s.part p).scrubHolds ∧
      (u.part p).scrubDone = !(s.part p).scrubHolds ∧
      ((s.part p).scrubHolds = true → (u.part p).scrubHeld = (s.part p).scrubHeld))) ∧
  (∀ (s : State) c, c < s.cores.length → Answers .deviceReset s (fun u =>
    (u.core c).fenced = (s.core c).fenced ∧ (u.core c).deactivated = (s.core c).deactivated ∧
    (u.core c).demerits = (s.core c).demerits ∧
    (u.core c).active = (!(s.core c).fenced && !(s.core c).deactivated))) ∧
  (∀ (s : State), Answers .mgmtReset s (fun u =>
    u.mgmt.pc = 0 ∧ u.mgmt.flash = s.mgmt.flash ∧ u.mgmt.bootSel = s.mgmt.bootSel ∧ u.mgmt.jumped = false ∧
    u.mgmt.bootStatus = 0 ∧ u.mgmt.sealState = 0 ∧ u.session = none ∧ u.teams = s.teams))

/-- R460–R462: a doubleword is programmed after the jump; a verification makes the seal busy and ends in pass or fail; a
measurement is extended with SHA-384 and latched; an assignment takes a core in use that no scrub holds. The seal verifies
the registers as they stand at the result (log entry 73); the numbers of P-384 and SHA-384 are those of FIPS 186-5 and 180-4
(log entry 14). -/
def Obligations.ManagementEvents : Prop :=
  (∀ a w (s : State), s.mgmt.jumped = true → a % 8 = 0 → 0x20000000 ≤ a → a < 0x22000000 →
    Answers (.flashProgram a w) s (fun u =>
      (∀ i, i < 8 → Memory.get u.mgmt.flash (a - 0x20000000 + i) = (leBytes w.toNat 8).getD i 0) ∧
      ∀ b, (b < a - 0x20000000 ∨ a - 0x20000000 + 8 ≤ b) → Memory.get u.mgmt.flash b = Memory.get s.mgmt.flash b)) ∧
  (∀ a w (s : State), s.mgmt.jumped = false → exec (.flashProgram a w) s = .next s) ∧
  (∀ w (s : State), Answers (.sealVerify w) s (fun u =>
    u = if w.getLsbD 0 = true ∧ s.mgmt.sealState ≠ 1 then { s with mgmt := { s.mgmt with sealState := 1 } } else s)) ∧
  (∀ (s : State), s.mgmt.sealState = 1 → Answers .sealResult s (fun u =>
    (u.mgmt.sealState = 2 ∨ u.mgmt.sealState = 3) ∧ (u.mgmt.sealState = 2 ↔ ∃ q, s.mgmt.imageKey = some q ∧
      ecdsaVerify q (beNumber s.mgmt.sealDig) (beNumber (s.mgmt.sealSig.take 6)) (beNumber (s.mgmt.sealSig.drop 6)) = true) ∧
    (s.mgmt.imageKey = none → u.mgmt.sealState = 3))) ∧
  (∀ w (s : State) (x : List Dword), w.getLsbD 63 = true → s.mgmt.meas[bits w.toNat 2 0]? = some x →
    Answers (.measExtend w) s (fun u => u.mgmt.meas[bits w.toNat 2 0]? = some (sha384 (dwordBytes x ++ dwordBytes s.mgmt.measExt)) ∧
      ∀ n, n ≠ bits w.toNat 2 0 → u.mgmt.meas[n]? = s.mgmt.meas[n]?)) ∧
  (∀ n (s : State) (x : List Dword), s.mgmt.meas[n]? = some x → n < 8 → Answers (.measLatch n) s (fun u =>
    Map.get? u.mgmt.latches n = some x)) ∧
  (∀ w (s : State),
    let core := bits w.toNat 6 0
    core < s.cores.length → s.partitions.all (fun p => !p.scrubHeld.cores.contains core) = true →
    Answers (.assign w) s (fun u =>
      ((s.core core).fenced = false → (s.core core).deactivated = false →
        u.mgmt.assignCode = 0 ∧ (u.core core).context = some (bits w.toNat 15 8)) ∧
      ((s.core core).fenced = true ∨ (s.core core).deactivated = true → u.mgmt.assignCode = 3 ∧ u.cores = s.cores)))

/-- R459, R460, R463 (log entry 12): the management core executes the instruction at its pc, which moves to what the
instruction says, and traps where a fetch or the instruction faults; an addition of an immediate, a store to the
flash window before the jump or off its alignment, and a doubleword load or store outside every range, aligned or not. -/
def Obligations.ManagementCoreExecutes : Prop :=
  (∀ (s : State) w n t pc, s.rvFetch = .ok (w, n) → s.rvExec w n = .ok (t, pc) → pc < 2 ^ 64 →
    Answers .mgmtCoreInstruction s (fun u => u.mgmt.pc.toNat = pc ∧ u.mgmt.x = t.mgmt.x ∧ u.mgmt.sram = t.mgmt.sram ∧
      u.mgmt.flash = t.mgmt.flash ∧ u.teams = t.teams ∧ u.sameMemory t)) ∧
  (∀ (s : State) cause tval a, (s.rvFetch = .error a ∧ cause = 1 ∧ tval = a ∨
      ∃ w n, s.rvFetch = .ok (w, n) ∧ s.rvExec w n = .error (cause, tval)) →
    Answers .mgmtCoreInstruction s (fun u => u = { s with mgmt := s.mgmt.trap cause tval } ∧
      u.mgmt.pc = BitVec.ofNat 64 (s.mgmt.csr 0x305 / 4 * 4))) ∧
  (∀ (s : State) w rd, s.rvFetch = .ok (w, 4) → bits w 6 0 = 0x13 → bits w 14 12 = 0 → bits w 11 7 = rd → rd ≠ 0 →
    s.mgmt.pc.toNat + 4 < 2 ^ 64 →
    Answers .mgmtCoreInstruction s (fun u => u.mgmt.pc.toNat = s.mgmt.pc.toNat + 4 ∧
      u.mgmt.reg64 rd = (s.mgmt.reg64 (bits w 19 15) + wrap 64 (sext (bits w 31 20) 12)) % 2 ^ 64)) ∧
  (∀ (s : State) w n, s.rvFetch = .ok (w, n) → bits w 6 0 = 0x23 → bits w 14 12 = 3 →
    let a := wrap 64 (s.mgmt.reg64 (bits w 19 15) + sext (bits w 31 25 * 32 + bits w 11 7) 12)
    0x20000000 ≤ a → a < 0x22000000 → (s.mgmt.jumped = false ∨ a % 8 ≠ 0) →
    Answers .mgmtCoreInstruction s (fun u => u = { s with mgmt := s.mgmt.trap 7 a })) ∧
  (∀ (s : State) w n, s.rvFetch = .ok (w, n) → bits w 14 12 = 3 →
    let base := s.mgmt.reg64 (bits w 19 15)
    let from' := wrap 64 (base + sext (bits w 31 20) 12)
    let target := wrap 64 (base + sext (bits w 31 25 * 32 + bits w 11 7) 12)
    (bits w 6 0 = 0x03 → mgmtRange from' = .nowhere →
      Answers .mgmtCoreInstruction s (fun u => u = { s with mgmt := s.mgmt.trap 5 from' })) ∧
    (bits w 6 0 = 0x23 → mgmtRange target = .nowhere →
      Answers .mgmtCoreInstruction s (fun u => u = { s with mgmt := s.mgmt.trap 7 target })))
end

