-- ==== Sys2Proof/Laws/State.lean ====
section
/-! SUPPORT. One lemma for each field of the state under each named update: what the update leaves as it was, and what it
makes of its own piece. -/

namespace Sys2Proof.Machine

/-! ## Lists -/

/-- Changing an element keeps the length. -/
@[simp] theorem modNth_length {α : Type} (f : α → α) (n : Nat) (xs : List α) : (modNth f n xs).length = xs.length := by
  induction xs generalizing n with
  | nil => simp [modNth]
  | cons x xs ih => cases n <;> simp [modNth, ih]

/-- The element that was changed, and the others. -/
theorem modNth_getElem? {α : Type} (f : α → α) (n m : Nat) (xs : List α) :
    (modNth f n xs)[m]? = if m = n then (xs[m]?).map f else xs[m]? := by
  induction xs generalizing n m with
  | nil => simp [modNth]
  | cons x xs ih =>
    cases n <;> cases m <;> simp [modNth, ih]

/-- Changing an element is putting its new value in its place. -/
theorem modNth_const {α : Type} (f : α → α) (n : Nat) (xs : List α) (x : α) (h : xs[n]? = some x) :
    modNth f n xs = modNth (fun _ => f x) n xs := by
  induction xs generalizing n with
  | nil => simp [modNth]
  | cons y ys ih =>
    cases n with
    | zero => simp at h; simp [modNth, h]
    | succ n => simp at h; simp [modNth, ih n h]

/-! ## Maps -/

/-- The entry that was put, and the others. -/
theorem Map.get?_put {α : Type} (m : Map α) (a b : Nat) (x : α) :
    Map.get? (Map.put m a x) b = if b = a then some x else Map.get? m b := by
  induction m with
  | nil => simp [Map.put, Map.get?]
  | cons kv m ih =>
    obtain ⟨k, w⟩ := kv
    simp only [Map.put]
    split
    · simp [Map.get?]
    · split
      · subst_vars; simp only [Map.get?]; split <;> simp_all
      · simp only [Map.get?, ih]; split <;> simp_all
        intro h; omega

/-! ## Homes -/

/-- A team's change in terms of the map of teams. -/
theorem State.modTeam_def (s : State) (t : Nat) (f : Team → Team) :
    s.modTeam t f = { s with teams := (s.modTeam t f).teams } := by
  unfold State.modTeam; split <;> rfl

/-- A team after a change of a team. -/
theorem State.team?_modTeam (s : State) (t u : Nat) (f : Team → Team) :
    (s.modTeam t f).team? u = if u = t then (s.team? u).map f else s.team? u := by
  unfold State.modTeam State.team?
  split
  · rename_i x h
    simp only [Map.get?_put]; split <;> simp_all
  · rename_i h
    split <;> simp_all


/-! ## What a change of a team leaves -/

@[simp] theorem State.modTeam_time (s : State) (t : Nat) (f : Team → Team) : (s.modTeam t f).time = s.time := by rw [State.modTeam_def]
@[simp] theorem State.modTeam_cores (s : State) (t : Nat) (f : Team → Team) : (s.modTeam t f).cores = s.cores := by rw [State.modTeam_def]
@[simp] theorem State.modTeam_clusters (s : State) (t : Nat) (f : Team → Team) : (s.modTeam t f).clusters = s.clusters := by rw [State.modTeam_def]
@[simp] theorem State.modTeam_partitions (s : State) (t : Nat) (f : Team → Team) : (s.modTeam t f).partitions = s.partitions := by rw [State.modTeam_def]
@[simp] theorem State.modTeam_commands (s : State) (t : Nat) (f : Team → Team) : (s.modTeam t f).commands = s.commands := by rw [State.modTeam_def]
@[simp] theorem State.modTeam_grids (s : State) (t : Nat) (f : Team → Team) : (s.modTeam t f).grids = s.grids := by rw [State.modTeam_def]
@[simp] theorem State.modTeam_saved (s : State) (t : Nat) (f : Team → Team) : (s.modTeam t f).saved = s.saved := by rw [State.modTeam_def]
@[simp] theorem State.modTeam_dram (s : State) (t : Nat) (f : Team → Team) : (s.modTeam t f).dram = s.dram := by rw [State.modTeam_def]
@[simp] theorem State.modTeam_hostMem (s : State) (t : Nat) (f : Team → Team) : (s.modTeam t f).hostMem = s.hostMem := by rw [State.modTeam_def]
@[simp] theorem State.modTeam_kpad (s : State) (t : Nat) (f : Team → Team) : (s.modTeam t f).kpad = s.kpad := by rw [State.modTeam_def]
@[simp] theorem State.modTeam_registrations (s : State) (t : Nat) (f : Team → Team) : (s.modTeam t f).registrations = s.registrations := by rw [State.modTeam_def]
@[simp] theorem State.modTeam_l2 (s : State) (t : Nat) (f : Team → Team) : (s.modTeam t f).l2 = s.l2 := by rw [State.modTeam_def]
@[simp] theorem State.modTeam_heldLines (s : State) (t : Nat) (f : Team → Team) : (s.modTeam t f).heldLines = s.heldLines := by rw [State.modTeam_def]
@[simp] theorem State.modTeam_stamps (s : State) (t : Nat) (f : Team → Team) : (s.modTeam t f).stamps = s.stamps := by rw [State.modTeam_def]
@[simp] theorem State.modTeam_pub (s : State) (t : Nat) (f : Team → Team) : (s.modTeam t f).pub = s.pub := by rw [State.modTeam_def]
@[simp] theorem State.modTeam_cipher (s : State) (t : Nat) (f : Team → Team) : (s.modTeam t f).cipher = s.cipher := by rw [State.modTeam_def]
@[simp] theorem State.modTeam_errors (s : State) (t : Nat) (f : Team → Team) : (s.modTeam t f).errors = s.errors := by rw [State.modTeam_def]
@[simp] theorem State.modTeam_soft (s : State) (t : Nat) (f : Team → Team) : (s.modTeam t f).soft = s.soft := by rw [State.modTeam_def]
@[simp] theorem State.modTeam_answers (s : State) (t : Nat) (f : Team → Team) : (s.modTeam t f).answers = s.answers := by rw [State.modTeam_def]
@[simp] theorem State.modTeam_tlb (s : State) (t : Nat) (f : Team → Team) : (s.modTeam t f).tlb = s.tlb := by rw [State.modTeam_def]
@[simp] theorem State.modTeam_walkCache (s : State) (t : Nat) (f : Team → Team) : (s.modTeam t f).walkCache = s.walkCache := by rw [State.modTeam_def]
@[simp] theorem State.modTeam_walks (s : State) (t : Nat) (f : Team → Team) : (s.modTeam t f).walks = s.walks := by rw [State.modTeam_def]
@[simp] theorem State.modTeam_retired (s : State) (t : Nat) (f : Team → Team) : (s.modTeam t f).retired = s.retired := by rw [State.modTeam_def]
@[simp] theorem State.modTeam_retiring (s : State) (t : Nat) (f : Team → Team) : (s.modTeam t f).retiring = s.retiring := by rw [State.modTeam_def]
@[simp] theorem State.modTeam_keys (s : State) (t : Nat) (f : Team → Team) : (s.modTeam t f).keys = s.keys := by rw [State.modTeam_def]
@[simp] theorem State.modTeam_holdWays (s : State) (t : Nat) (f : Team → Team) : (s.modTeam t f).holdWays = s.holdWays := by rw [State.modTeam_def]
@[simp] theorem State.modTeam_assayCtl (s : State) (t : Nat) (f : Team → Team) : (s.modTeam t f).assayCtl = s.assayCtl := by rw [State.modTeam_def]
@[simp] theorem State.modTeam_epoch (s : State) (t : Nat) (f : Team → Team) : (s.modTeam t f).epoch = s.epoch := by rw [State.modTeam_def]
@[simp] theorem State.modTeam_assayCounts (s : State) (t : Nat) (f : Team → Team) : (s.modTeam t f).assayCounts = s.assayCounts := by rw [State.modTeam_def]
@[simp] theorem State.modTeam_inject (s : State) (t : Nat) (f : Team → Team) : (s.modTeam t f).inject = s.inject := by rw [State.modTeam_def]
@[simp] theorem State.modTeam_target (s : State) (t : Nat) (f : Team → Team) : (s.modTeam t f).target = s.target := by rw [State.modTeam_def]
@[simp] theorem State.modTeam_checked (s : State) (t : Nat) (f : Team → Team) : (s.modTeam t f).checked = s.checked := by rw [State.modTeam_def]
@[simp] theorem State.modTeam_configuration (s : State) (t : Nat) (f : Team → Team) : (s.modTeam t f).configuration = s.configuration := by rw [State.modTeam_def]
@[simp] theorem State.modTeam_collWaits (s : State) (t : Nat) (f : Team → Team) : (s.modTeam t f).collWaits = s.collWaits := by rw [State.modTeam_def]
@[simp] theorem State.modTeam_packets (s : State) (t : Nat) (f : Team → Team) : (s.modTeam t f).packets = s.packets := by rw [State.modTeam_def]
@[simp] theorem State.modTeam_ports (s : State) (t : Nat) (f : Team → Team) : (s.modTeam t f).ports = s.ports := by rw [State.modTeam_def]
@[simp] theorem State.modTeam_mirrors (s : State) (t : Nat) (f : Team → Team) : (s.modTeam t f).mirrors = s.mirrors := by rw [State.modTeam_def]
@[simp] theorem State.modTeam_session (s : State) (t : Nat) (f : Team → Team) : (s.modTeam t f).session = s.session := by rw [State.modTeam_def]
@[simp] theorem State.modTeam_reply (s : State) (t : Nat) (f : Team → Team) : (s.modTeam t f).reply = s.reply := by rw [State.modTeam_def]
@[simp] theorem State.modTeam_health (s : State) (t : Nat) (f : Team → Team) : (s.modTeam t f).health = s.health := by rw [State.modTeam_def]
@[simp] theorem State.modTeam_mgmt (s : State) (t : Nat) (f : Team → Team) : (s.modTeam t f).mgmt = s.mgmt := by rw [State.modTeam_def]
@[simp] theorem State.modTeam_agenda (s : State) (t : Nat) (f : Team → Team) : (s.modTeam t f).agenda = s.agenda := by rw [State.modTeam_def]
@[simp] theorem State.modTeam_cur (s : State) (t : Nat) (f : Team → Team) : (s.modTeam t f).cur = s.cur := by rw [State.modTeam_def]
@[simp] theorem State.modTeam_stalled (s : State) (t : Nat) (f : Team → Team) : (s.modTeam t f).stalled = s.stalled := by rw [State.modTeam_def]
@[simp] theorem State.modTeam_nonce (s : State) (t : Nat) (f : Team → Team) : (s.modTeam t f).nonce = s.nonce := by rw [State.modTeam_def]
@[simp] theorem State.modTeam_nextId (s : State) (t : Nat) (f : Team → Team) : (s.modTeam t f).nextId = s.nextId := by rw [State.modTeam_def]
@[simp] theorem State.modTeam_issues (s : State) (t : Nat) (f : Team → Team) : (s.modTeam t f).issues = s.issues := by rw [State.modTeam_def]

/-! ## What a change of a group leaves -/

@[simp] theorem State.modGroup_time (s : State) (t g : Nat) (f : Group → Group) : (s.modGroup t g f).time = s.time := by simp [State.modGroup]
@[simp] theorem State.modGroup_cores (s : State) (t g : Nat) (f : Group → Group) : (s.modGroup t g f).cores = s.cores := by simp [State.modGroup]
@[simp] theorem State.modGroup_clusters (s : State) (t g : Nat) (f : Group → Group) : (s.modGroup t g f).clusters = s.clusters := by simp [State.modGroup]
@[simp] theorem State.modGroup_partitions (s : State) (t g : Nat) (f : Group → Group) : (s.modGroup t g f).partitions = s.partitions := by simp [State.modGroup]
@[simp] theorem State.modGroup_commands (s : State) (t g : Nat) (f : Group → Group) : (s.modGroup t g f).commands = s.commands := by simp [State.modGroup]
@[simp] theorem State.modGroup_grids (s : State) (t g : Nat) (f : Group → Group) : (s.modGroup t g f).grids = s.grids := by simp [State.modGroup]
@[simp] theorem State.modGroup_saved (s : State) (t g : Nat) (f : Group → Group) : (s.modGroup t g f).saved = s.saved := by simp [State.modGroup]
@[simp] theorem State.modGroup_dram (s : State) (t g : Nat) (f : Group → Group) : (s.modGroup t g f).dram = s.dram := by simp [State.modGroup]
@[simp] theorem State.modGroup_hostMem (s : State) (t g : Nat) (f : Group → Group) : (s.modGroup t g f).hostMem = s.hostMem := by simp [State.modGroup]
@[simp] theorem State.modGroup_kpad (s : State) (t g : Nat) (f : Group → Group) : (s.modGroup t g f).kpad = s.kpad := by simp [State.modGroup]
@[simp] theorem State.modGroup_registrations (s : State) (t g : Nat) (f : Group → Group) : (s.modGroup t g f).registrations = s.registrations := by simp [State.modGroup]
@[simp] theorem State.modGroup_l2 (s : State) (t g : Nat) (f : Group → Group) : (s.modGroup t g f).l2 = s.l2 := by simp [State.modGroup]
@[simp] theorem State.modGroup_heldLines (s : State) (t g : Nat) (f : Group → Group) : (s.modGroup t g f).heldLines = s.heldLines := by simp [State.modGroup]
@[simp] theorem State.modGroup_stamps (s : State) (t g : Nat) (f : Group → Group) : (s.modGroup t g f).stamps = s.stamps := by simp [State.modGroup]
@[simp] theorem State.modGroup_pub (s : State) (t g : Nat) (f : Group → Group) : (s.modGroup t g f).pub = s.pub := by simp [State.modGroup]
@[simp] theorem State.modGroup_cipher (s : State) (t g : Nat) (f : Group → Group) : (s.modGroup t g f).cipher = s.cipher := by simp [State.modGroup]
@[simp] theorem State.modGroup_errors (s : State) (t g : Nat) (f : Group → Group) : (s.modGroup t g f).errors = s.errors := by simp [State.modGroup]
@[simp] theorem State.modGroup_soft (s : State) (t g : Nat) (f : Group → Group) : (s.modGroup t g f).soft = s.soft := by simp [State.modGroup]
@[simp] theorem State.modGroup_answers (s : State) (t g : Nat) (f : Group → Group) : (s.modGroup t g f).answers = s.answers := by simp [State.modGroup]
@[simp] theorem State.modGroup_tlb (s : State) (t g : Nat) (f : Group → Group) : (s.modGroup t g f).tlb = s.tlb := by simp [State.modGroup]
@[simp] theorem State.modGroup_walkCache (s : State) (t g : Nat) (f : Group → Group) : (s.modGroup t g f).walkCache = s.walkCache := by simp [State.modGroup]
@[simp] theorem State.modGroup_walks (s : State) (t g : Nat) (f : Group → Group) : (s.modGroup t g f).walks = s.walks := by simp [State.modGroup]
@[simp] theorem State.modGroup_retired (s : State) (t g : Nat) (f : Group → Group) : (s.modGroup t g f).retired = s.retired := by simp [State.modGroup]
@[simp] theorem State.modGroup_retiring (s : State) (t g : Nat) (f : Group → Group) : (s.modGroup t g f).retiring = s.retiring := by simp [State.modGroup]
@[simp] theorem State.modGroup_keys (s : State) (t g : Nat) (f : Group → Group) : (s.modGroup t g f).keys = s.keys := by simp [State.modGroup]
@[simp] theorem State.modGroup_holdWays (s : State) (t g : Nat) (f : Group → Group) : (s.modGroup t g f).holdWays = s.holdWays := by simp [State.modGroup]
@[simp] theorem State.modGroup_assayCtl (s : State) (t g : Nat) (f : Group → Group) : (s.modGroup t g f).assayCtl = s.assayCtl := by simp [State.modGroup]
@[simp] theorem State.modGroup_epoch (s : State) (t g : Nat) (f : Group → Group) : (s.modGroup t g f).epoch = s.epoch := by simp [State.modGroup]
@[simp] theorem State.modGroup_assayCounts (s : State) (t g : Nat) (f : Group → Group) : (s.modGroup t g f).assayCounts = s.assayCounts := by simp [State.modGroup]
@[simp] theorem State.modGroup_inject (s : State) (t g : Nat) (f : Group → Group) : (s.modGroup t g f).inject = s.inject := by simp [State.modGroup]
@[simp] theorem State.modGroup_target (s : State) (t g : Nat) (f : Group → Group) : (s.modGroup t g f).target = s.target := by simp [State.modGroup]
@[simp] theorem State.modGroup_checked (s : State) (t g : Nat) (f : Group → Group) : (s.modGroup t g f).checked = s.checked := by simp [State.modGroup]
@[simp] theorem State.modGroup_configuration (s : State) (t g : Nat) (f : Group → Group) : (s.modGroup t g f).configuration = s.configuration := by simp [State.modGroup]
@[simp] theorem State.modGroup_collWaits (s : State) (t g : Nat) (f : Group → Group) : (s.modGroup t g f).collWaits = s.collWaits := by simp [State.modGroup]
@[simp] theorem State.modGroup_packets (s : State) (t g : Nat) (f : Group → Group) : (s.modGroup t g f).packets = s.packets := by simp [State.modGroup]
@[simp] theorem State.modGroup_ports (s : State) (t g : Nat) (f : Group → Group) : (s.modGroup t g f).ports = s.ports := by simp [State.modGroup]
@[simp] theorem State.modGroup_mirrors (s : State) (t g : Nat) (f : Group → Group) : (s.modGroup t g f).mirrors = s.mirrors := by simp [State.modGroup]
@[simp] theorem State.modGroup_session (s : State) (t g : Nat) (f : Group → Group) : (s.modGroup t g f).session = s.session := by simp [State.modGroup]
@[simp] theorem State.modGroup_reply (s : State) (t g : Nat) (f : Group → Group) : (s.modGroup t g f).reply = s.reply := by simp [State.modGroup]
@[simp] theorem State.modGroup_health (s : State) (t g : Nat) (f : Group → Group) : (s.modGroup t g f).health = s.health := by simp [State.modGroup]
@[simp] theorem State.modGroup_mgmt (s : State) (t g : Nat) (f : Group → Group) : (s.modGroup t g f).mgmt = s.mgmt := by simp [State.modGroup]
@[simp] theorem State.modGroup_agenda (s : State) (t g : Nat) (f : Group → Group) : (s.modGroup t g f).agenda = s.agenda := by simp [State.modGroup]
@[simp] theorem State.modGroup_cur (s : State) (t g : Nat) (f : Group → Group) : (s.modGroup t g f).cur = s.cur := by simp [State.modGroup]
@[simp] theorem State.modGroup_stalled (s : State) (t g : Nat) (f : Group → Group) : (s.modGroup t g f).stalled = s.stalled := by simp [State.modGroup]
@[simp] theorem State.modGroup_nonce (s : State) (t g : Nat) (f : Group → Group) : (s.modGroup t g f).nonce = s.nonce := by simp [State.modGroup]
@[simp] theorem State.modGroup_nextId (s : State) (t g : Nat) (f : Group → Group) : (s.modGroup t g f).nextId = s.nextId := by simp [State.modGroup]
@[simp] theorem State.modGroup_issues (s : State) (t g : Nat) (f : Group → Group) : (s.modGroup t g f).issues = s.issues := by simp [State.modGroup]

/-! ## What a change of a thread leaves -/

@[simp] theorem State.modThread_time (s : State) (t g l : Nat) (f : Thread → Thread) : (s.modThread t g l f).time = s.time := by simp [State.modThread]
@[simp] theorem State.modThread_cores (s : State) (t g l : Nat) (f : Thread → Thread) : (s.modThread t g l f).cores = s.cores := by simp [State.modThread]
@[simp] theorem State.modThread_clusters (s : State) (t g l : Nat) (f : Thread → Thread) : (s.modThread t g l f).clusters = s.clusters := by simp [State.modThread]
@[simp] theorem State.modThread_partitions (s : State) (t g l : Nat) (f : Thread → Thread) : (s.modThread t g l f).partitions = s.partitions := by simp [State.modThread]
@[simp] theorem State.modThread_commands (s : State) (t g l : Nat) (f : Thread → Thread) : (s.modThread t g l f).commands = s.commands := by simp [State.modThread]
@[simp] theorem State.modThread_grids (s : State) (t g l : Nat) (f : Thread → Thread) : (s.modThread t g l f).grids = s.grids := by simp [State.modThread]
@[simp] theorem State.modThread_saved (s : State) (t g l : Nat) (f : Thread → Thread) : (s.modThread t g l f).saved = s.saved := by simp [State.modThread]
@[simp] theorem State.modThread_dram (s : State) (t g l : Nat) (f : Thread → Thread) : (s.modThread t g l f).dram = s.dram := by simp [State.modThread]
@[simp] theorem State.modThread_hostMem (s : State) (t g l : Nat) (f : Thread → Thread) : (s.modThread t g l f).hostMem = s.hostMem := by simp [State.modThread]
@[simp] theorem State.modThread_kpad (s : State) (t g l : Nat) (f : Thread → Thread) : (s.modThread t g l f).kpad = s.kpad := by simp [State.modThread]
@[simp] theorem State.modThread_registrations (s : State) (t g l : Nat) (f : Thread → Thread) : (s.modThread t g l f).registrations = s.registrations := by simp [State.modThread]
@[simp] theorem State.modThread_l2 (s : State) (t g l : Nat) (f : Thread → Thread) : (s.modThread t g l f).l2 = s.l2 := by simp [State.modThread]
@[simp] theorem State.modThread_heldLines (s : State) (t g l : Nat) (f : Thread → Thread) : (s.modThread t g l f).heldLines = s.heldLines := by simp [State.modThread]
@[simp] theorem State.modThread_stamps (s : State) (t g l : Nat) (f : Thread → Thread) : (s.modThread t g l f).stamps = s.stamps := by simp [State.modThread]
@[simp] theorem State.modThread_pub (s : State) (t g l : Nat) (f : Thread → Thread) : (s.modThread t g l f).pub = s.pub := by simp [State.modThread]
@[simp] theorem State.modThread_cipher (s : State) (t g l : Nat) (f : Thread → Thread) : (s.modThread t g l f).cipher = s.cipher := by simp [State.modThread]
@[simp] theorem State.modThread_errors (s : State) (t g l : Nat) (f : Thread → Thread) : (s.modThread t g l f).errors = s.errors := by simp [State.modThread]
@[simp] theorem State.modThread_soft (s : State) (t g l : Nat) (f : Thread → Thread) : (s.modThread t g l f).soft = s.soft := by simp [State.modThread]
@[simp] theorem State.modThread_answers (s : State) (t g l : Nat) (f : Thread → Thread) : (s.modThread t g l f).answers = s.answers := by simp [State.modThread]
@[simp] theorem State.modThread_tlb (s : State) (t g l : Nat) (f : Thread → Thread) : (s.modThread t g l f).tlb = s.tlb := by simp [State.modThread]
@[simp] theorem State.modThread_walkCache (s : State) (t g l : Nat) (f : Thread → Thread) : (s.modThread t g l f).walkCache = s.walkCache := by simp [State.modThread]
@[simp] theorem State.modThread_walks (s : State) (t g l : Nat) (f : Thread → Thread) : (s.modThread t g l f).walks = s.walks := by simp [State.modThread]
@[simp] theorem State.modThread_retired (s : State) (t g l : Nat) (f : Thread → Thread) : (s.modThread t g l f).retired = s.retired := by simp [State.modThread]
@[simp] theorem State.modThread_retiring (s : State) (t g l : Nat) (f : Thread → Thread) : (s.modThread t g l f).retiring = s.retiring := by simp [State.modThread]
@[simp] theorem State.modThread_keys (s : State) (t g l : Nat) (f : Thread → Thread) : (s.modThread t g l f).keys = s.keys := by simp [State.modThread]
@[simp] theorem State.modThread_holdWays (s : State) (t g l : Nat) (f : Thread → Thread) : (s.modThread t g l f).holdWays = s.holdWays := by simp [State.modThread]
@[simp] theorem State.modThread_assayCtl (s : State) (t g l : Nat) (f : Thread → Thread) : (s.modThread t g l f).assayCtl = s.assayCtl := by simp [State.modThread]
@[simp] theorem State.modThread_epoch (s : State) (t g l : Nat) (f : Thread → Thread) : (s.modThread t g l f).epoch = s.epoch := by simp [State.modThread]
@[simp] theorem State.modThread_assayCounts (s : State) (t g l : Nat) (f : Thread → Thread) : (s.modThread t g l f).assayCounts = s.assayCounts := by simp [State.modThread]
@[simp] theorem State.modThread_inject (s : State) (t g l : Nat) (f : Thread → Thread) : (s.modThread t g l f).inject = s.inject := by simp [State.modThread]
@[simp] theorem State.modThread_target (s : State) (t g l : Nat) (f : Thread → Thread) : (s.modThread t g l f).target = s.target := by simp [State.modThread]
@[simp] theorem State.modThread_checked (s : State) (t g l : Nat) (f : Thread → Thread) : (s.modThread t g l f).checked = s.checked := by simp [State.modThread]
@[simp] theorem State.modThread_configuration (s : State) (t g l : Nat) (f : Thread → Thread) : (s.modThread t g l f).configuration = s.configuration := by simp [State.modThread]
@[simp] theorem State.modThread_collWaits (s : State) (t g l : Nat) (f : Thread → Thread) : (s.modThread t g l f).collWaits = s.collWaits := by simp [State.modThread]
@[simp] theorem State.modThread_packets (s : State) (t g l : Nat) (f : Thread → Thread) : (s.modThread t g l f).packets = s.packets := by simp [State.modThread]
@[simp] theorem State.modThread_ports (s : State) (t g l : Nat) (f : Thread → Thread) : (s.modThread t g l f).ports = s.ports := by simp [State.modThread]
@[simp] theorem State.modThread_mirrors (s : State) (t g l : Nat) (f : Thread → Thread) : (s.modThread t g l f).mirrors = s.mirrors := by simp [State.modThread]
@[simp] theorem State.modThread_session (s : State) (t g l : Nat) (f : Thread → Thread) : (s.modThread t g l f).session = s.session := by simp [State.modThread]
@[simp] theorem State.modThread_reply (s : State) (t g l : Nat) (f : Thread → Thread) : (s.modThread t g l f).reply = s.reply := by simp [State.modThread]
@[simp] theorem State.modThread_health (s : State) (t g l : Nat) (f : Thread → Thread) : (s.modThread t g l f).health = s.health := by simp [State.modThread]
@[simp] theorem State.modThread_mgmt (s : State) (t g l : Nat) (f : Thread → Thread) : (s.modThread t g l f).mgmt = s.mgmt := by simp [State.modThread]
@[simp] theorem State.modThread_agenda (s : State) (t g l : Nat) (f : Thread → Thread) : (s.modThread t g l f).agenda = s.agenda := by simp [State.modThread]
@[simp] theorem State.modThread_cur (s : State) (t g l : Nat) (f : Thread → Thread) : (s.modThread t g l f).cur = s.cur := by simp [State.modThread]
@[simp] theorem State.modThread_stalled (s : State) (t g l : Nat) (f : Thread → Thread) : (s.modThread t g l f).stalled = s.stalled := by simp [State.modThread]
@[simp] theorem State.modThread_nonce (s : State) (t g l : Nat) (f : Thread → Thread) : (s.modThread t g l f).nonce = s.nonce := by simp [State.modThread]
@[simp] theorem State.modThread_nextId (s : State) (t g l : Nat) (f : Thread → Thread) : (s.modThread t g l f).nextId = s.nextId := by simp [State.modThread]
@[simp] theorem State.modThread_issues (s : State) (t g l : Nat) (f : Thread → Thread) : (s.modThread t g l f).issues = s.issues := by simp [State.modThread]

/-! ## What a change of a core leaves -/

@[simp] theorem State.modCore_time (s : State) (c : Nat) (f : Core → Core) : (s.modCore c f).time = s.time := rfl
@[simp] theorem State.modCore_clusters (s : State) (c : Nat) (f : Core → Core) : (s.modCore c f).clusters = s.clusters := rfl
@[simp] theorem State.modCore_partitions (s : State) (c : Nat) (f : Core → Core) : (s.modCore c f).partitions = s.partitions := rfl
@[simp] theorem State.modCore_teams (s : State) (c : Nat) (f : Core → Core) : (s.modCore c f).teams = s.teams := rfl
@[simp] theorem State.modCore_commands (s : State) (c : Nat) (f : Core → Core) : (s.modCore c f).commands = s.commands := rfl
@[simp] theorem State.modCore_grids (s : State) (c : Nat) (f : Core → Core) : (s.modCore c f).grids = s.grids := rfl
@[simp] theorem State.modCore_saved (s : State) (c : Nat) (f : Core → Core) : (s.modCore c f).saved = s.saved := rfl
@[simp] theorem State.modCore_dram (s : State) (c : Nat) (f : Core → Core) : (s.modCore c f).dram = s.dram := rfl
@[simp] theorem State.modCore_hostMem (s : State) (c : Nat) (f : Core → Core) : (s.modCore c f).hostMem = s.hostMem := rfl
@[simp] theorem State.modCore_kpad (s : State) (c : Nat) (f : Core → Core) : (s.modCore c f).kpad = s.kpad := rfl
@[simp] theorem State.modCore_registrations (s : State) (c : Nat) (f : Core → Core) : (s.modCore c f).registrations = s.registrations := rfl
@[simp] theorem State.modCore_l2 (s : State) (c : Nat) (f : Core → Core) : (s.modCore c f).l2 = s.l2 := rfl
@[simp] theorem State.modCore_heldLines (s : State) (c : Nat) (f : Core → Core) : (s.modCore c f).heldLines = s.heldLines := rfl
@[simp] theorem State.modCore_stamps (s : State) (c : Nat) (f : Core → Core) : (s.modCore c f).stamps = s.stamps := rfl
@[simp] theorem State.modCore_pub (s : State) (c : Nat) (f : Core → Core) : (s.modCore c f).pub = s.pub := rfl
@[simp] theorem State.modCore_cipher (s : State) (c : Nat) (f : Core → Core) : (s.modCore c f).cipher = s.cipher := rfl
@[simp] theorem State.modCore_errors (s : State) (c : Nat) (f : Core → Core) : (s.modCore c f).errors = s.errors := rfl
@[simp] theorem State.modCore_soft (s : State) (c : Nat) (f : Core → Core) : (s.modCore c f).soft = s.soft := rfl
@[simp] theorem State.modCore_answers (s : State) (c : Nat) (f : Core → Core) : (s.modCore c f).answers = s.answers := rfl
@[simp] theorem State.modCore_tlb (s : State) (c : Nat) (f : Core → Core) : (s.modCore c f).tlb = s.tlb := rfl
@[simp] theorem State.modCore_walkCache (s : State) (c : Nat) (f : Core → Core) : (s.modCore c f).walkCache = s.walkCache := rfl
@[simp] theorem State.modCore_walks (s : State) (c : Nat) (f : Core → Core) : (s.modCore c f).walks = s.walks := rfl
@[simp] theorem State.modCore_retired (s : State) (c : Nat) (f : Core → Core) : (s.modCore c f).retired = s.retired := rfl
@[simp] theorem State.modCore_retiring (s : State) (c : Nat) (f : Core → Core) : (s.modCore c f).retiring = s.retiring := rfl
@[simp] theorem State.modCore_keys (s : State) (c : Nat) (f : Core → Core) : (s.modCore c f).keys = s.keys := rfl
@[simp] theorem State.modCore_holdWays (s : State) (c : Nat) (f : Core → Core) : (s.modCore c f).holdWays = s.holdWays := rfl
@[simp] theorem State.modCore_assayCtl (s : State) (c : Nat) (f : Core → Core) : (s.modCore c f).assayCtl = s.assayCtl := rfl
@[simp] theorem State.modCore_epoch (s : State) (c : Nat) (f : Core → Core) : (s.modCore c f).epoch = s.epoch := rfl
@[simp] theorem State.modCore_assayCounts (s : State) (c : Nat) (f : Core → Core) : (s.modCore c f).assayCounts = s.assayCounts := rfl
@[simp] theorem State.modCore_inject (s : State) (c : Nat) (f : Core → Core) : (s.modCore c f).inject = s.inject := rfl
@[simp] theorem State.modCore_target (s : State) (c : Nat) (f : Core → Core) : (s.modCore c f).target = s.target := rfl
@[simp] theorem State.modCore_checked (s : State) (c : Nat) (f : Core → Core) : (s.modCore c f).checked = s.checked := rfl
@[simp] theorem State.modCore_configuration (s : State) (c : Nat) (f : Core → Core) : (s.modCore c f).configuration = s.configuration := rfl
@[simp] theorem State.modCore_collWaits (s : State) (c : Nat) (f : Core → Core) : (s.modCore c f).collWaits = s.collWaits := rfl
@[simp] theorem State.modCore_packets (s : State) (c : Nat) (f : Core → Core) : (s.modCore c f).packets = s.packets := rfl
@[simp] theorem State.modCore_ports (s : State) (c : Nat) (f : Core → Core) : (s.modCore c f).ports = s.ports := rfl
@[simp] theorem State.modCore_mirrors (s : State) (c : Nat) (f : Core → Core) : (s.modCore c f).mirrors = s.mirrors := rfl
@[simp] theorem State.modCore_session (s : State) (c : Nat) (f : Core → Core) : (s.modCore c f).session = s.session := rfl
@[simp] theorem State.modCore_reply (s : State) (c : Nat) (f : Core → Core) : (s.modCore c f).reply = s.reply := rfl
@[simp] theorem State.modCore_health (s : State) (c : Nat) (f : Core → Core) : (s.modCore c f).health = s.health := rfl
@[simp] theorem State.modCore_mgmt (s : State) (c : Nat) (f : Core → Core) : (s.modCore c f).mgmt = s.mgmt := rfl
@[simp] theorem State.modCore_agenda (s : State) (c : Nat) (f : Core → Core) : (s.modCore c f).agenda = s.agenda := rfl
@[simp] theorem State.modCore_cur (s : State) (c : Nat) (f : Core → Core) : (s.modCore c f).cur = s.cur := rfl
@[simp] theorem State.modCore_stalled (s : State) (c : Nat) (f : Core → Core) : (s.modCore c f).stalled = s.stalled := rfl
@[simp] theorem State.modCore_nonce (s : State) (c : Nat) (f : Core → Core) : (s.modCore c f).nonce = s.nonce := rfl
@[simp] theorem State.modCore_nextId (s : State) (c : Nat) (f : Core → Core) : (s.modCore c f).nextId = s.nextId := rfl
@[simp] theorem State.modCore_issues (s : State) (c : Nat) (f : Core → Core) : (s.modCore c f).issues = s.issues := rfl

/-! ## What a change of a cluster leaves -/

@[simp] theorem State.modCluster_time (s : State) (c : Nat) (f : Cluster → Cluster) : (s.modCluster c f).time = s.time := rfl
@[simp] theorem State.modCluster_cores (s : State) (c : Nat) (f : Cluster → Cluster) : (s.modCluster c f).cores = s.cores := rfl
@[simp] theorem State.modCluster_partitions (s : State) (c : Nat) (f : Cluster → Cluster) : (s.modCluster c f).partitions = s.partitions := rfl
@[simp] theorem State.modCluster_teams (s : State) (c : Nat) (f : Cluster → Cluster) : (s.modCluster c f).teams = s.teams := rfl
@[simp] theorem State.modCluster_commands (s : State) (c : Nat) (f : Cluster → Cluster) : (s.modCluster c f).commands = s.commands := rfl
@[simp] theorem State.modCluster_grids (s : State) (c : Nat) (f : Cluster → Cluster) : (s.modCluster c f).grids = s.grids := rfl
@[simp] theorem State.modCluster_saved (s : State) (c : Nat) (f : Cluster → Cluster) : (s.modCluster c f).saved = s.saved := rfl
@[simp] theorem State.modCluster_dram (s : State) (c : Nat) (f : Cluster → Cluster) : (s.modCluster c f).dram = s.dram := rfl
@[simp] theorem State.modCluster_hostMem (s : State) (c : Nat) (f : Cluster → Cluster) : (s.modCluster c f).hostMem = s.hostMem := rfl
@[simp] theorem State.modCluster_kpad (s : State) (c : Nat) (f : Cluster → Cluster) : (s.modCluster c f).kpad = s.kpad := rfl
@[simp] theorem State.modCluster_registrations (s : State) (c : Nat) (f : Cluster → Cluster) : (s.modCluster c f).registrations = s.registrations := rfl
@[simp] theorem State.modCluster_l2 (s : State) (c : Nat) (f : Cluster → Cluster) : (s.modCluster c f).l2 = s.l2 := rfl
@[simp] theorem State.modCluster_heldLines (s : State) (c : Nat) (f : Cluster → Cluster) : (s.modCluster c f).heldLines = s.heldLines := rfl
@[simp] theorem State.modCluster_stamps (s : State) (c : Nat) (f : Cluster → Cluster) : (s.modCluster c f).stamps = s.stamps := rfl
@[simp] theorem State.modCluster_pub (s : State) (c : Nat) (f : Cluster → Cluster) : (s.modCluster c f).pub = s.pub := rfl
@[simp] theorem State.modCluster_cipher (s : State) (c : Nat) (f : Cluster → Cluster) : (s.modCluster c f).cipher = s.cipher := rfl
@[simp] theorem State.modCluster_errors (s : State) (c : Nat) (f : Cluster → Cluster) : (s.modCluster c f).errors = s.errors := rfl
@[simp] theorem State.modCluster_soft (s : State) (c : Nat) (f : Cluster → Cluster) : (s.modCluster c f).soft = s.soft := rfl
@[simp] theorem State.modCluster_answers (s : State) (c : Nat) (f : Cluster → Cluster) : (s.modCluster c f).answers = s.answers := rfl
@[simp] theorem State.modCluster_tlb (s : State) (c : Nat) (f : Cluster → Cluster) : (s.modCluster c f).tlb = s.tlb := rfl
@[simp] theorem State.modCluster_walkCache (s : State) (c : Nat) (f : Cluster → Cluster) : (s.modCluster c f).walkCache = s.walkCache := rfl
@[simp] theorem State.modCluster_walks (s : State) (c : Nat) (f : Cluster → Cluster) : (s.modCluster c f).walks = s.walks := rfl
@[simp] theorem State.modCluster_retired (s : State) (c : Nat) (f : Cluster → Cluster) : (s.modCluster c f).retired = s.retired := rfl
@[simp] theorem State.modCluster_retiring (s : State) (c : Nat) (f : Cluster → Cluster) : (s.modCluster c f).retiring = s.retiring := rfl
@[simp] theorem State.modCluster_keys (s : State) (c : Nat) (f : Cluster → Cluster) : (s.modCluster c f).keys = s.keys := rfl
@[simp] theorem State.modCluster_holdWays (s : State) (c : Nat) (f : Cluster → Cluster) : (s.modCluster c f).holdWays = s.holdWays := rfl
@[simp] theorem State.modCluster_assayCtl (s : State) (c : Nat) (f : Cluster → Cluster) : (s.modCluster c f).assayCtl = s.assayCtl := rfl
@[simp] theorem State.modCluster_epoch (s : State) (c : Nat) (f : Cluster → Cluster) : (s.modCluster c f).epoch = s.epoch := rfl
@[simp] theorem State.modCluster_assayCounts (s : State) (c : Nat) (f : Cluster → Cluster) : (s.modCluster c f).assayCounts = s.assayCounts := rfl
@[simp] theorem State.modCluster_inject (s : State) (c : Nat) (f : Cluster → Cluster) : (s.modCluster c f).inject = s.inject := rfl
@[simp] theorem State.modCluster_target (s : State) (c : Nat) (f : Cluster → Cluster) : (s.modCluster c f).target = s.target := rfl
@[simp] theorem State.modCluster_checked (s : State) (c : Nat) (f : Cluster → Cluster) : (s.modCluster c f).checked = s.checked := rfl
@[simp] theorem State.modCluster_configuration (s : State) (c : Nat) (f : Cluster → Cluster) : (s.modCluster c f).configuration = s.configuration := rfl
@[simp] theorem State.modCluster_collWaits (s : State) (c : Nat) (f : Cluster → Cluster) : (s.modCluster c f).collWaits = s.collWaits := rfl
@[simp] theorem State.modCluster_packets (s : State) (c : Nat) (f : Cluster → Cluster) : (s.modCluster c f).packets = s.packets := rfl
@[simp] theorem State.modCluster_ports (s : State) (c : Nat) (f : Cluster → Cluster) : (s.modCluster c f).ports = s.ports := rfl
@[simp] theorem State.modCluster_mirrors (s : State) (c : Nat) (f : Cluster → Cluster) : (s.modCluster c f).mirrors = s.mirrors := rfl
@[simp] theorem State.modCluster_session (s : State) (c : Nat) (f : Cluster → Cluster) : (s.modCluster c f).session = s.session := rfl
@[simp] theorem State.modCluster_reply (s : State) (c : Nat) (f : Cluster → Cluster) : (s.modCluster c f).reply = s.reply := rfl
@[simp] theorem State.modCluster_health (s : State) (c : Nat) (f : Cluster → Cluster) : (s.modCluster c f).health = s.health := rfl
@[simp] theorem State.modCluster_mgmt (s : State) (c : Nat) (f : Cluster → Cluster) : (s.modCluster c f).mgmt = s.mgmt := rfl
@[simp] theorem State.modCluster_agenda (s : State) (c : Nat) (f : Cluster → Cluster) : (s.modCluster c f).agenda = s.agenda := rfl
@[simp] theorem State.modCluster_cur (s : State) (c : Nat) (f : Cluster → Cluster) : (s.modCluster c f).cur = s.cur := rfl
@[simp] theorem State.modCluster_stalled (s : State) (c : Nat) (f : Cluster → Cluster) : (s.modCluster c f).stalled = s.stalled := rfl
@[simp] theorem State.modCluster_nonce (s : State) (c : Nat) (f : Cluster → Cluster) : (s.modCluster c f).nonce = s.nonce := rfl
@[simp] theorem State.modCluster_nextId (s : State) (c : Nat) (f : Cluster → Cluster) : (s.modCluster c f).nextId = s.nextId := rfl
@[simp] theorem State.modCluster_issues (s : State) (c : Nat) (f : Cluster → Cluster) : (s.modCluster c f).issues = s.issues := rfl

/-! ## What a change of a partition leaves -/

@[simp] theorem State.modPart_time (s : State) (c : Nat) (f : Partition → Partition) : (s.modPart c f).time = s.time := rfl
@[simp] theorem State.modPart_cores (s : State) (c : Nat) (f : Partition → Partition) : (s.modPart c f).cores = s.cores := rfl
@[simp] theorem State.modPart_clusters (s : State) (c : Nat) (f : Partition → Partition) : (s.modPart c f).clusters = s.clusters := rfl
@[simp] theorem State.modPart_teams (s : State) (c : Nat) (f : Partition → Partition) : (s.modPart c f).teams = s.teams := rfl
@[simp] theorem State.modPart_commands (s : State) (c : Nat) (f : Partition → Partition) : (s.modPart c f).commands = s.commands := rfl
@[simp] theorem State.modPart_grids (s : State) (c : Nat) (f : Partition → Partition) : (s.modPart c f).grids = s.grids := rfl
@[simp] theorem State.modPart_saved (s : State) (c : Nat) (f : Partition → Partition) : (s.modPart c f).saved = s.saved := rfl
@[simp] theorem State.modPart_dram (s : State) (c : Nat) (f : Partition → Partition) : (s.modPart c f).dram = s.dram := rfl
@[simp] theorem State.modPart_hostMem (s : State) (c : Nat) (f : Partition → Partition) : (s.modPart c f).hostMem = s.hostMem := rfl
@[simp] theorem State.modPart_kpad (s : State) (c : Nat) (f : Partition → Partition) : (s.modPart c f).kpad = s.kpad := rfl
@[simp] theorem State.modPart_registrations (s : State) (c : Nat) (f : Partition → Partition) : (s.modPart c f).registrations = s.registrations := rfl
@[simp] theorem State.modPart_l2 (s : State) (c : Nat) (f : Partition → Partition) : (s.modPart c f).l2 = s.l2 := rfl
@[simp] theorem State.modPart_heldLines (s : State) (c : Nat) (f : Partition → Partition) : (s.modPart c f).heldLines = s.heldLines := rfl
@[simp] theorem State.modPart_stamps (s : State) (c : Nat) (f : Partition → Partition) : (s.modPart c f).stamps = s.stamps := rfl
@[simp] theorem State.modPart_pub (s : State) (c : Nat) (f : Partition → Partition) : (s.modPart c f).pub = s.pub := rfl
@[simp] theorem State.modPart_cipher (s : State) (c : Nat) (f : Partition → Partition) : (s.modPart c f).cipher = s.cipher := rfl
@[simp] theorem State.modPart_errors (s : State) (c : Nat) (f : Partition → Partition) : (s.modPart c f).errors = s.errors := rfl
@[simp] theorem State.modPart_soft (s : State) (c : Nat) (f : Partition → Partition) : (s.modPart c f).soft = s.soft := rfl
@[simp] theorem State.modPart_answers (s : State) (c : Nat) (f : Partition → Partition) : (s.modPart c f).answers = s.answers := rfl
@[simp] theorem State.modPart_tlb (s : State) (c : Nat) (f : Partition → Partition) : (s.modPart c f).tlb = s.tlb := rfl
@[simp] theorem State.modPart_walkCache (s : State) (c : Nat) (f : Partition → Partition) : (s.modPart c f).walkCache = s.walkCache := rfl
@[simp] theorem State.modPart_walks (s : State) (c : Nat) (f : Partition → Partition) : (s.modPart c f).walks = s.walks := rfl
@[simp] theorem State.modPart_retired (s : State) (c : Nat) (f : Partition → Partition) : (s.modPart c f).retired = s.retired := rfl
@[simp] theorem State.modPart_retiring (s : State) (c : Nat) (f : Partition → Partition) : (s.modPart c f).retiring = s.retiring := rfl
@[simp] theorem State.modPart_keys (s : State) (c : Nat) (f : Partition → Partition) : (s.modPart c f).keys = s.keys := rfl
@[simp] theorem State.modPart_holdWays (s : State) (c : Nat) (f : Partition → Partition) : (s.modPart c f).holdWays = s.holdWays := rfl
@[simp] theorem State.modPart_assayCtl (s : State) (c : Nat) (f : Partition → Partition) : (s.modPart c f).assayCtl = s.assayCtl := rfl
@[simp] theorem State.modPart_epoch (s : State) (c : Nat) (f : Partition → Partition) : (s.modPart c f).epoch = s.epoch := rfl
@[simp] theorem State.modPart_assayCounts (s : State) (c : Nat) (f : Partition → Partition) : (s.modPart c f).assayCounts = s.assayCounts := rfl
@[simp] theorem State.modPart_inject (s : State) (c : Nat) (f : Partition → Partition) : (s.modPart c f).inject = s.inject := rfl
@[simp] theorem State.modPart_target (s : State) (c : Nat) (f : Partition → Partition) : (s.modPart c f).target = s.target := rfl
@[simp] theorem State.modPart_checked (s : State) (c : Nat) (f : Partition → Partition) : (s.modPart c f).checked = s.checked := rfl
@[simp] theorem State.modPart_configuration (s : State) (c : Nat) (f : Partition → Partition) : (s.modPart c f).configuration = s.configuration := rfl
@[simp] theorem State.modPart_collWaits (s : State) (c : Nat) (f : Partition → Partition) : (s.modPart c f).collWaits = s.collWaits := rfl
@[simp] theorem State.modPart_packets (s : State) (c : Nat) (f : Partition → Partition) : (s.modPart c f).packets = s.packets := rfl
@[simp] theorem State.modPart_ports (s : State) (c : Nat) (f : Partition → Partition) : (s.modPart c f).ports = s.ports := rfl
@[simp] theorem State.modPart_mirrors (s : State) (c : Nat) (f : Partition → Partition) : (s.modPart c f).mirrors = s.mirrors := rfl
@[simp] theorem State.modPart_session (s : State) (c : Nat) (f : Partition → Partition) : (s.modPart c f).session = s.session := rfl
@[simp] theorem State.modPart_reply (s : State) (c : Nat) (f : Partition → Partition) : (s.modPart c f).reply = s.reply := rfl
@[simp] theorem State.modPart_health (s : State) (c : Nat) (f : Partition → Partition) : (s.modPart c f).health = s.health := rfl
@[simp] theorem State.modPart_mgmt (s : State) (c : Nat) (f : Partition → Partition) : (s.modPart c f).mgmt = s.mgmt := rfl
@[simp] theorem State.modPart_agenda (s : State) (c : Nat) (f : Partition → Partition) : (s.modPart c f).agenda = s.agenda := rfl
@[simp] theorem State.modPart_cur (s : State) (c : Nat) (f : Partition → Partition) : (s.modPart c f).cur = s.cur := rfl
@[simp] theorem State.modPart_stalled (s : State) (c : Nat) (f : Partition → Partition) : (s.modPart c f).stalled = s.stalled := rfl
@[simp] theorem State.modPart_nonce (s : State) (c : Nat) (f : Partition → Partition) : (s.modPart c f).nonce = s.nonce := rfl
@[simp] theorem State.modPart_nextId (s : State) (c : Nat) (f : Partition → Partition) : (s.modPart c f).nextId = s.nextId := rfl
@[simp] theorem State.modPart_issues (s : State) (c : Nat) (f : Partition → Partition) : (s.modPart c f).issues = s.issues := rfl

/-! ## What taking a number leaves -/

@[simp] theorem State.fresh_time (s : State)  : (s.fresh.2).time = s.time := rfl
@[simp] theorem State.fresh_cores (s : State)  : (s.fresh.2).cores = s.cores := rfl
@[simp] theorem State.fresh_clusters (s : State)  : (s.fresh.2).clusters = s.clusters := rfl
@[simp] theorem State.fresh_partitions (s : State)  : (s.fresh.2).partitions = s.partitions := rfl
@[simp] theorem State.fresh_teams (s : State)  : (s.fresh.2).teams = s.teams := rfl
@[simp] theorem State.fresh_commands (s : State)  : (s.fresh.2).commands = s.commands := rfl
@[simp] theorem State.fresh_grids (s : State)  : (s.fresh.2).grids = s.grids := rfl
@[simp] theorem State.fresh_saved (s : State)  : (s.fresh.2).saved = s.saved := rfl
@[simp] theorem State.fresh_dram (s : State)  : (s.fresh.2).dram = s.dram := rfl
@[simp] theorem State.fresh_hostMem (s : State)  : (s.fresh.2).hostMem = s.hostMem := rfl
@[simp] theorem State.fresh_kpad (s : State)  : (s.fresh.2).kpad = s.kpad := rfl
@[simp] theorem State.fresh_registrations (s : State)  : (s.fresh.2).registrations = s.registrations := rfl
@[simp] theorem State.fresh_l2 (s : State)  : (s.fresh.2).l2 = s.l2 := rfl
@[simp] theorem State.fresh_heldLines (s : State)  : (s.fresh.2).heldLines = s.heldLines := rfl
@[simp] theorem State.fresh_stamps (s : State)  : (s.fresh.2).stamps = s.stamps := rfl
@[simp] theorem State.fresh_pub (s : State)  : (s.fresh.2).pub = s.pub := rfl
@[simp] theorem State.fresh_cipher (s : State)  : (s.fresh.2).cipher = s.cipher := rfl
@[simp] theorem State.fresh_errors (s : State)  : (s.fresh.2).errors = s.errors := rfl
@[simp] theorem State.fresh_tlb (s : State)  : (s.fresh.2).tlb = s.tlb := rfl
@[simp] theorem State.fresh_walkCache (s : State)  : (s.fresh.2).walkCache = s.walkCache := rfl
@[simp] theorem State.fresh_walks (s : State)  : (s.fresh.2).walks = s.walks := rfl
@[simp] theorem State.fresh_retired (s : State)  : (s.fresh.2).retired = s.retired := rfl
@[simp] theorem State.fresh_retiring (s : State)  : (s.fresh.2).retiring = s.retiring := rfl
@[simp] theorem State.fresh_keys (s : State)  : (s.fresh.2).keys = s.keys := rfl
@[simp] theorem State.fresh_holdWays (s : State)  : (s.fresh.2).holdWays = s.holdWays := rfl
@[simp] theorem State.fresh_assayCtl (s : State)  : (s.fresh.2).assayCtl = s.assayCtl := rfl
@[simp] theorem State.fresh_epoch (s : State)  : (s.fresh.2).epoch = s.epoch := rfl
@[simp] theorem State.fresh_assayCounts (s : State)  : (s.fresh.2).assayCounts = s.assayCounts := rfl
@[simp] theorem State.fresh_inject (s : State)  : (s.fresh.2).inject = s.inject := rfl
@[simp] theorem State.fresh_target (s : State)  : (s.fresh.2).target = s.target := rfl
@[simp] theorem State.fresh_checked (s : State)  : (s.fresh.2).checked = s.checked := rfl
@[simp] theorem State.fresh_configuration (s : State)  : (s.fresh.2).configuration = s.configuration := rfl
@[simp] theorem State.fresh_collWaits (s : State)  : (s.fresh.2).collWaits = s.collWaits := rfl
@[simp] theorem State.fresh_packets (s : State)  : (s.fresh.2).packets = s.packets := rfl
@[simp] theorem State.fresh_ports (s : State)  : (s.fresh.2).ports = s.ports := rfl
@[simp] theorem State.fresh_mirrors (s : State)  : (s.fresh.2).mirrors = s.mirrors := rfl
@[simp] theorem State.fresh_session (s : State)  : (s.fresh.2).session = s.session := rfl
@[simp] theorem State.fresh_reply (s : State)  : (s.fresh.2).reply = s.reply := rfl
@[simp] theorem State.fresh_health (s : State)  : (s.fresh.2).health = s.health := rfl
@[simp] theorem State.fresh_mgmt (s : State)  : (s.fresh.2).mgmt = s.mgmt := rfl
@[simp] theorem State.fresh_agenda (s : State)  : (s.fresh.2).agenda = s.agenda := rfl
@[simp] theorem State.fresh_cur (s : State)  : (s.fresh.2).cur = s.cur := rfl
@[simp] theorem State.fresh_stalled (s : State)  : (s.fresh.2).stalled = s.stalled := rfl
@[simp] theorem State.fresh_nonce (s : State)  : (s.fresh.2).nonce = s.nonce := rfl
@[simp] theorem State.fresh_issues (s : State)  : (s.fresh.2).issues = s.issues := rfl

/-- The number taken, and the next. -/
@[simp] theorem State.fresh_id (s : State) : s.fresh.1 = s.nextId := rfl
@[simp] theorem State.fresh_nextId (s : State) : s.fresh.2.nextId = s.nextId + 1 := rfl

/-! ## Pieces -/

/-- A partition after a change of a partition. -/
theorem State.part_modPart (s : State) (p q : Nat) (f : Partition → Partition) :
    (s.modPart p f).part q = if q = p ∧ q < s.partitions.length then f (s.part q) else s.part q := by
  simp only [State.part, State.modPart, modNth_getElem?]
  by_cases h : q = p
  · subst h
    by_cases hq : q < s.partitions.length <;> simp [hq]
  · simp [h]

/-- A core after a change of a core. -/
theorem State.core_modCore (s : State) (p q : Nat) (f : Core → Core) :
    (s.modCore p f).core q = if q = p ∧ q < s.cores.length then f (s.core q) else s.core q := by
  simp only [State.core, State.modCore, modNth_getElem?]
  by_cases h : q = p
  · subst h
    by_cases hq : q < s.cores.length <;> simp [hq]
  · simp [h]

/-- A cluster after a change of a cluster. -/
theorem State.cluster_modCluster (s : State) (p q : Nat) (f : Cluster → Cluster) :
    (s.modCluster p f).cluster q = if q = p ∧ q < s.clusters.length then f (s.cluster q) else s.cluster q := by
  simp only [State.cluster, State.modCluster, modNth_getElem?]
  by_cases h : q = p
  · subst h
    by_cases hq : q < s.clusters.length <;> simp [hq]
  · simp [h]

/-- A group after a change of a group. -/
theorem State.group?_modGroup (s : State) (t g u h : Nat) (f : Group → Group) :
    (s.modGroup t g f).group? u h = if u = t ∧ h = g then (s.group? u h).map f else s.group? u h := by
  unfold State.group? State.modGroup
  rw [State.team?_modTeam]
  by_cases hu : u = t
  · subst hu
    cases s.team? u with
    | none => simp
    | some tm =>
      simp only [if_true, Option.map_some, Option.bind_some, Team.modGroup, modNth_getElem?, true_and]
  · simp [hu]

/-- A thread after a change of a thread. -/
theorem Group.thread_modThread (g : Group) (l m : Nat) (f : Thread → Thread) :
    (g.modThread l f).thread m = if m = l ∧ m < g.threads.length then f (g.thread m) else g.thread m := by
  simp only [Group.thread, Group.modThread, modNth_getElem?]
  by_cases h : m = l
  · subst h
    by_cases hq : m < g.threads.length <;> simp [hq]
  · simp [h]

end Sys2Proof.Machine
end

