-- ==== Sys2Proof/Laws/Mem.lean ====
section
/-! SUPPORT. Byte arrays keep their canonical form and give back what was written; what the operations over global memory
at its homes leave as it was. -/

namespace Sys2Proof.Machine

/-! ## Maps in rising order -/

/-- Every key of a map is at least a bound. -/
def Map.above {α : Type} (m : Map α) (n : Nat) : Prop := ∀ kv ∈ m, n ≤ kv.1

/-- A map is sorted when its head lies below its sorted tail. -/
theorem Map.sorted_cons {α : Type} (k : Nat) (x : α) (m : Map α) :
    Map.sorted ((k, x) :: m) = true ↔ Map.above m (k + 1) ∧ Map.sorted m = true := by
  induction m generalizing k x with
  | nil => simp [Map.sorted, Map.above]
  | cons kv m ih =>
    obtain ⟨k', w⟩ := kv
    simp only [Map.sorted, Bool.and_eq_true, decide_eq_true_eq]
    constructor
    · rintro ⟨h1, h2⟩
      refine ⟨?_, h2⟩
      intro p hp
      rcases List.mem_cons.1 hp with rfl | hp
      · exact h1
      · have := ((ih k' w).1 h2).1 p hp; omega
    · rintro ⟨h1, h2⟩
      exact ⟨h1 (k', w) List.mem_cons_self, h2⟩

/-- Filtering keeps a map sorted. -/
theorem Map.sorted_filter {α : Type} (p : Nat × α → Bool) (m : Map α) (h : Map.sorted m = true) :
    Map.sorted (m.filter p) = true := by
  induction m with
  | nil => rfl
  | cons kv m ih =>
    obtain ⟨k, x⟩ := kv
    obtain ⟨h1, h2⟩ := (Map.sorted_cons k x m).1 h
    rw [List.filter_cons]
    split
    · exact (Map.sorted_cons _ _ _).2 ⟨fun q hq => h1 q (List.mem_of_mem_filter hq), ih h2⟩
    · exact ih h2

/-- A sorted map before another one is sorted. -/
theorem Map.sorted_append {α : Type} (m n : Map α) (a : Nat) (hm : Map.sorted m = true) (hn : Map.sorted n = true)
    (h1 : ∀ kv ∈ m, kv.1 < a) (h2 : Map.above n a) : Map.sorted (m ++ n) = true := by
  induction m with
  | nil => exact hn
  | cons kv m ih =>
    obtain ⟨k, x⟩ := kv
    obtain ⟨h3, h4⟩ := (Map.sorted_cons k x m).1 hm
    have := h1 (k, x) List.mem_cons_self
    refine (Map.sorted_cons _ _ _).2 ⟨?_, ih h4 (fun q hq => h1 q (List.mem_cons_of_mem _ hq))⟩
    intro q hq
    rcases List.mem_append.1 hq with hq | hq
    · exact h3 q hq
    · have := h2 q hq; simp only at *; omega

/-- A run of values stands at keys from its start up to its end. -/
theorem Map.mem_run {α : Type} (a : Nat) (bs : List α) (kv : Nat × α) (h : kv ∈ Map.run a bs) :
    a ≤ kv.1 ∧ kv.1 < a + bs.length := by
  induction bs generalizing a with
  | nil => simp [Map.run] at h
  | cons b bs ih =>
    simp only [Map.run, List.mem_cons] at h
    rcases h with rfl | h
    · simp
    · have := ih (a + 1) h; simp only [List.length_cons]; omega

/-- A run is sorted. -/
theorem Map.sorted_run {α : Type} (a : Nat) (bs : List α) : Map.sorted (Map.run a bs) = true := by
  induction bs generalizing a with
  | nil => rfl
  | cons b bs ih => exact (Map.sorted_cons _ _ _).2 ⟨fun q hq => (Map.mem_run _ _ q hq).1, ih (a + 1)⟩

/-- Replacing a range of a sorted map by sorted entries of that range. -/
theorem Map.sorted_splice {α : Type} (m mid : Map α) (a b : Nat) (hab : a ≤ b) (hm : Map.sorted m = true)
    (hmid : Map.sorted mid = true) (h : ∀ kv ∈ mid, a ≤ kv.1 ∧ kv.1 < b) : Map.sorted (Map.splice m a b mid) = true := by
  unfold Map.splice
  refine Map.sorted_append _ _ b ?_ (Map.sorted_filter _ _ hm) ?_ ?_
  · refine Map.sorted_append _ _ a (Map.sorted_filter _ _ hm) hmid ?_ (fun q hq => (h q hq).1)
    intro q hq; simpa using (List.mem_filter.1 hq).2
  · intro q hq
    rcases List.mem_append.1 hq with hq | hq
    · have h1 : q.1 < a := by simpa using (List.mem_filter.1 hq).2
      omega
    · exact (h q hq).2
  · intro q hq; simpa using (List.mem_filter.1 hq).2

/-- Putting an entry keeps a map sorted, and adds nothing else. -/
theorem Map.sorted_put {α : Type} (m : Map α) (n : Nat) (x : α) (h : Map.sorted m = true) :
    Map.sorted (Map.put m n x) = true ∧ ∀ kv ∈ Map.put m n x, kv = (n, x) ∨ kv ∈ m := by
  induction m with
  | nil => simp [Map.put, Map.sorted]
  | cons kv m ih =>
    obtain ⟨k, w⟩ := kv
    obtain ⟨h1, h2⟩ := (Map.sorted_cons k w m).1 h
    obtain ⟨i1, i2⟩ := ih h2
    simp only [Map.put]
    split
    · rename_i hlt
      refine ⟨(Map.sorted_cons _ _ _).2 ⟨?_, h⟩, by simp⟩
      intro q hq
      rcases List.mem_cons.1 hq with rfl | hq
      · exact hlt
      · have := h1 q hq; omega
    · split
      · rename_i hk; subst hk
        refine ⟨(Map.sorted_cons _ _ _).2 ⟨h1, h2⟩, ?_⟩
        intro q hq
        rcases List.mem_cons.1 hq with rfl | hq
        · exact .inl rfl
        · exact .inr (List.mem_cons_of_mem _ hq)
      · refine ⟨(Map.sorted_cons _ _ _).2 ⟨?_, i1⟩, ?_⟩
        · intro q hq
          rcases i2 q hq with rfl | hq
          · simp only; omega
          · exact h1 q hq
        · intro q hq
          rcases List.mem_cons.1 hq with rfl | hq
          · exact .inr List.mem_cons_self
          · rcases i2 q hq with rfl | hq
            · exact .inl rfl
            · exact .inr (List.mem_cons_of_mem _ hq)

/-- Deleting an entry keeps a map sorted, and adds nothing. -/
theorem Map.sorted_del {α : Type} (m : Map α) (n : Nat) (h : Map.sorted m = true) :
    Map.sorted (Map.del m n) = true ∧ ∀ kv ∈ Map.del m n, kv ∈ m := by
  induction m with
  | nil => simp [Map.del, Map.sorted]
  | cons kv m ih =>
    obtain ⟨k, w⟩ := kv
    obtain ⟨h1, h2⟩ := (Map.sorted_cons k w m).1 h
    obtain ⟨i1, i2⟩ := ih h2
    simp only [Map.del]
    split
    · exact ⟨i1, fun q hq => List.mem_cons_of_mem _ (i2 q hq)⟩
    · refine ⟨(Map.sorted_cons _ _ _).2 ⟨fun q hq => h1 q (i2 q hq), i1⟩, ?_⟩
      intro q hq
      rcases List.mem_cons.1 hq with rfl | hq
      · exact List.mem_cons_self
      · exact List.mem_cons_of_mem _ (i2 q hq)

/-! ## Byte arrays -/

/-- The canonical form in two parts. -/
theorem Memory.wf_iff (m : List Host.Cell) :
    Memory.wf m = true ↔ Map.sorted m = true ∧ ∀ c ∈ m, c.2 ≠ Memory.default := by
  simp [Memory.wf, List.all_eq_true]

/-- The array with nothing listed is canonical. -/
@[simp] theorem Memory.wf_nil : Memory.wf [] = true := rfl

/-- Writing a byte keeps the canonical form. -/
theorem Memory.wf_put (m : List Host.Cell) (a : Nat) (b : Byte) (h : Memory.wf m = true) :
    Memory.wf (Memory.put m a b) = true := by
  rw [Memory.wf_iff] at h ⊢
  unfold Memory.put
  split
  · obtain ⟨h1, h2⟩ := Map.sorted_del m a h.1
    exact ⟨h1, fun c hc => h.2 c (h2 c hc)⟩
  · rename_i hb
    obtain ⟨h1, h2⟩ := Map.sorted_put m a b h.1
    refine ⟨h1, fun c hc => ?_⟩
    rcases h2 c hc with rfl | hc
    · exact hb
    · exact h.2 c hc

/-- Writing bytes keeps the canonical form. -/
theorem Memory.wf_putBytes (m : List Host.Cell) (a : Nat) (bs : List Byte) (h : Memory.wf m = true) :
    Memory.wf (Memory.putBytes m a bs) = true := by
  rw [Memory.wf_iff] at h ⊢
  unfold Memory.putBytes
  refine ⟨Map.sorted_splice _ _ _ _ (by omega) h.1 (Map.sorted_filter _ _ (Map.sorted_run a bs)) ?_, ?_⟩
  · intro q hq; exact Map.mem_run _ _ q (List.mem_of_mem_filter hq)
  · intro c hc
    unfold Map.splice at hc
    rcases List.mem_append.1 hc with hc | hc
    · rcases List.mem_append.1 hc with hc | hc
      · exact h.2 c (List.mem_of_mem_filter hc)
      · simpa using (List.mem_filter.1 hc).2
    · exact h.2 c (List.mem_of_mem_filter hc)

/-- Taking entries away keeps the canonical form. -/
theorem Memory.wf_filter (m : List Host.Cell) (p : Host.Cell → Bool) (h : Memory.wf m = true) :
    Memory.wf (m.filter p) = true := by
  rw [Memory.wf_iff] at h ⊢
  exact ⟨Map.sorted_filter _ _ h.1, fun c hc => h.2 c (List.mem_of_mem_filter hc)⟩

/-- Clearing a range keeps the canonical form. -/
theorem Memory.wf_clear (m : List Host.Cell) (a n : Nat) (h : Memory.wf m = true) :
    Memory.wf (Map.splice m a (a + n) []) = true := by
  rw [Memory.wf_iff] at h ⊢
  refine ⟨Map.sorted_splice _ _ _ _ (by omega) h.1 rfl (by simp), ?_⟩
  intro c hc
  simp only [Map.splice, List.append_nil, List.mem_append, List.mem_filter] at hc
  rcases hc with hc | hc <;> exact h.2 c hc.1

/-! ## Reading back -/

/-- An entry of a map before another. -/
theorem Map.get?_append {α : Type} (m n : Map α) (a : Nat) :
    Map.get? (m ++ n) a = (Map.get? m a).or (Map.get? n a) := by
  induction m with
  | nil => rfl
  | cons kv m ih =>
    obtain ⟨k, x⟩ := kv
    simp only [List.cons_append, Map.get?, ih]
    split <;> simp

/-- An entry of a filtered map whose test depends on the key alone. -/
theorem Map.get?_filter {α : Type} (p : Nat → Bool) (m : Map α) (a : Nat) :
    Map.get? (m.filter (fun kv => p kv.1)) a = if p a then Map.get? m a else none := by
  induction m with
  | nil => simp [Map.get?]
  | cons kv m ih =>
    obtain ⟨k, x⟩ := kv
    rw [List.filter_cons]
    by_cases hp : p k = true
    · simp only [hp, if_true, Map.get?, ih]
      by_cases h : a = k
      · subst h; simp [hp]
      · simp [h]
    · simp only [hp, Bool.false_eq_true, if_false, Map.get?, ih]
      by_cases h : a = k
      · subst h; simp [hp]
      · simp [h]

/-- An entry that is found stands in the map. -/
theorem Map.mem_of_get? {α : Type} (m : Map α) (a : Nat) (x : α) (h : Map.get? m a = some x) : (a, x) ∈ m := by
  induction m with
  | nil => simp [Map.get?] at h
  | cons kv m ih =>
    obtain ⟨k, w⟩ := kv
    simp only [Map.get?] at h
    split at h
    · rename_i hk; subst hk; cases h; exact List.mem_cons_self
    · exact List.mem_cons_of_mem _ (ih h)

/-- A run has no entry outside its keys. -/
theorem Map.get?_run_none (a : Nat) (bs : List Byte) (x : Nat) (h : x < a ∨ a + bs.length ≤ x) :
    Map.get? ((Map.run a bs).filter (fun c => c.2 != Memory.default)) x = none := by
  cases hg : Map.get? ((Map.run a bs).filter (fun c => c.2 != Memory.default)) x with
  | none => rfl
  | some b =>
    have := Map.mem_run a bs _ (List.mem_of_mem_filter (Map.mem_of_get? _ _ _ hg))
    simp only at this; omega

/-- The entries of a run, its default values left out. -/
theorem Memory.get?_run (a : Nat) (bs : List Byte) (x : Nat) :
    Map.get ((Map.run a bs).filter (fun c => c.2 != Memory.default)) x Memory.default =
      if a ≤ x then bs.getD (x - a) Memory.default else Memory.default := by
  induction bs generalizing a with
  | nil => simp [Map.run, Map.get, Map.get?]
  | cons b bs ih =>
    simp only [Map.run, List.filter_cons]
    have ih' := ih (a + 1)
    simp only [Map.get] at ih' ⊢
    by_cases hx : x = a
    · subst hx
      split
      · simp [Map.get?]
      · rename_i hb
        rw [ih']
        have : b = Memory.default := by simpa using hb
        simp [this]
    · have h2 : (Map.get? ((a, b) :: (Map.run (a + 1) bs).filter (fun c => c.2 != Memory.default)) x) =
          Map.get? ((Map.run (a + 1) bs).filter (fun c => c.2 != Memory.default)) x := by simp [Map.get?, hx]
      have h3 : ∀ c : Prop, [Decidable c] → Map.get? (if c then (a, b) :: (Map.run (a + 1) bs).filter (fun c => c.2 != Memory.default)
          else (Map.run (a + 1) bs).filter (fun c => c.2 != Memory.default)) x =
          Map.get? ((Map.run (a + 1) bs).filter (fun c => c.2 != Memory.default)) x := by
        intro c _; split
        · exact h2
        · rfl
      rw [h3, ih']
      by_cases h : a ≤ x
      · have : a + 1 ≤ x := by omega
        rw [if_pos this, if_pos h]
        obtain ⟨d, rfl⟩ : ∃ d, x = a + 1 + d := ⟨x - (a + 1), by omega⟩
        have e1 : a + 1 + d - (a + 1) = d := by omega
        have e2 : a + 1 + d - a = d + 1 := by omega
        rw [e1, e2, List.getD_cons_succ]
      · rw [if_neg h, if_neg (by omega)]

/-- Every byte after a write: those written, and all the others as they were. -/
theorem Memory.get_putBytes (m : List Host.Cell) (a : Nat) (bs : List Byte) (x : Nat) :
    Memory.get (Memory.putBytes m a bs) x =
      if a ≤ x ∧ x < a + bs.length then bs.getD (x - a) Memory.default else Memory.get m x := by
  have hr := Memory.get?_run a bs x
  unfold Memory.get Memory.putBytes Map.splice
  simp only [Map.get, Map.get?_append] at hr ⊢
  have f1 := Map.get?_filter (fun k => decide (k < a)) m x
  have f2 := Map.get?_filter (fun k => decide (a + bs.length ≤ k)) m x
  simp only [decide_eq_true_eq] at f1 f2
  rw [f1, f2]
  by_cases h1 : x < a
  · rw [if_pos h1, if_neg (by omega : ¬ (a ≤ x ∧ x < a + bs.length))]
    have h3 := Map.get?_run_none a bs x (.inl h1)
    rw [h3, if_neg (by omega)]; simp
  · rw [if_neg h1]
    by_cases h2 : a + bs.length ≤ x
    · rw [if_pos h2, if_neg (by omega)]
      have h3 := Map.get?_run_none a bs x (.inr h2)
      rw [h3]; simp
    · rw [if_neg h2, if_pos (by omega)]
      rw [if_pos (by omega)] at hr
      simpa using hr

/-! ## Global memory at its homes -/

/-- A fold keeps what every one of its changes keeps. -/
theorem foldl_keeps {α σ : Type} (P : σ → Prop) (f : σ → α → σ) (hf : ∀ s a, P s → P (f s a)) (xs : List α) (s : σ)
    (h : P s) : P (xs.foldl f s) := by
  induction xs generalizing s with
  | nil => exact h
  | cons a as ih => exact ih _ (hf s a h)

/-- Nothing but memory, its registrations and the state that follows its lines has changed: cores (their L1 and dirty
bytes), DRAM, host memory, registrations, L2, stamps, publish states, encryption views, and the count of free values. -/
def State.OnlyMem (s t : State) : Prop :=
  t = { s with
    cores := t.cores, dram := t.dram, hostMem := t.hostMem, registrations := t.registrations, l2 := t.l2
    stamps := t.stamps, pub := t.pub, cipher := t.cipher, nonce := t.nonce }

/-- Nothing has changed. -/
theorem State.OnlyMem.refl (s : State) : State.OnlyMem s s := rfl

/-- One change after another. -/
theorem State.OnlyMem.trans {s t u : State} (h1 : State.OnlyMem s t) (h2 : State.OnlyMem t u) : State.OnlyMem s u := by
  unfold State.OnlyMem at *
  rw [h2, h1]

/-- The partitions are as they were. -/
theorem State.OnlyMem.partitions {s t : State} (h : State.OnlyMem s t) : t.partitions = s.partitions := by
  have h' : t = _ := h
  rw [h']

/-- The teams are as they were. -/
theorem State.OnlyMem.teams {s t : State} (h : State.OnlyMem s t) : t.teams = s.teams := by
  have h' : t = _ := h
  rw [h']

/-- The chip scratchpad and the management core are as they were. -/
theorem State.OnlyMem.kpad {s t : State} (h : State.OnlyMem s t) : t.kpad = s.kpad ∧ t.mgmt = s.mgmt := by
  have h' : t = _ := h
  rw [h']; exact ⟨rfl, rfl⟩

/-- A fold of such changes. -/
theorem State.OnlyMem.foldl {α : Type} (f : State → α → State) (hf : ∀ s a, State.OnlyMem s (f s a)) (xs : List α)
    (s : State) : State.OnlyMem s (xs.foldl f s) := by
  induction xs generalizing s with
  | nil => exact .refl s
  | cons a as ih => exact (hf s a).trans (ih _)

/-- A byte store changes memory only. -/
theorem State.storeByte_only (s : State) (pa : Nat) (b : Byte) : State.OnlyMem s (s.storeByte pa b) := by
  unfold State.storeByte; split <;> rfl

/-- A core's change. -/
theorem State.modCore_only (s : State) (c : Nat) (f : Core → Core) : State.OnlyMem s (s.modCore c f) := rfl

/-- A line takes its stamp. -/
theorem State.stampLine_only (s : State) (pa : Nat) : State.OnlyMem s (s.stampLine pa) := rfl

/-- A registration is written back. -/
theorem State.writeBack_only (s : State) (r : Registration) : State.OnlyMem s (s.writeBack r) := by
  have hs := State.OnlyMem.foldl (fun (s : State) (ab : Nat × Byte) => s.storeByte ab.1 ab.2) (fun s ab => s.storeByte_only _ _)
    ((s.core r.core).dirty.filter (fun ab => r.pa ≤ ab.1 && ab.1 < r.pa + r.size)) s
  unfold State.writeBack
  dsimp only
  generalize (s.core r.core).dirty.filter (fun ab => r.pa ≤ ab.1 && ab.1 < r.pa + r.size) = mine at hs ⊢
  generalize mine.foldl (fun (s : State) ab => s.storeByte ab.1 ab.2) s = w at hs ⊢
  refine State.OnlyMem.trans ?_ (State.OnlyMem.foldl _ State.stampLine_only _ _)
  exact hs.trans rfl

/-- A line leaves an L2. -/
theorem State.dropL2_only (s : State) (line : Nat) : State.OnlyMem s (s.dropL2 line) :=
  (State.OnlyMem.foldl _ State.writeBack_only _ s).trans rfl

/-- A way is freed. -/
theorem State.freeWay_only (s : State) (pa : Nat) : State.OnlyMem s (s.freeWay pa) := by
  unfold State.freeWay
  dsimp only
  split
  · exact .refl s
  · split
    · exact (s.dropL2_only _).trans rfl
    · exact .refl s

/-- A line enters an L2. -/
theorem State.intoL2_only (s : State) (pa : Nat) : State.OnlyMem s (s.intoL2 pa) := by
  unfold State.intoL2
  dsimp only
  split
  · exact .refl s
  · exact (s.freeWay_only pa).trans rfl

/-- A line is touched. -/
theorem State.touchLine_only (s : State) (pa : Nat) : State.OnlyMem s (s.touchLine pa) := by
  unfold State.touchLine
  split
  · exact (s.stampLine_only pa).trans rfl
  · exact .refl s

/-- Units get a view. -/
theorem State.retag_only (s : State) (view pa n : Nat) : State.OnlyMem s (s.retag view pa n) := by
  unfold State.retag
  split
  · exact .refl s
  · refine State.OnlyMem.foldl _ (fun s k => ?_) _ _
    dsimp only
    split
    · exact .refl s
    · exact (State.OnlyMem.foldl _ (fun s j => State.storeByte_only s _ _) _ s).trans rfl

/-- A registration is given up. -/
theorem State.giveUp_only (s : State) (r : Registration) : State.OnlyMem s (s.giveUp r) :=
  (s.writeBack_only r).trans (State.OnlyMem.foldl _ State.intoL2_only _ _)

/-- Registrations are recalled. -/
theorem State.recall_only (s : State) (pa n : Nat) : State.OnlyMem s (s.recall pa n) :=
  State.OnlyMem.foldl _ State.giveUp_only _ _

/-- Bytes are written at their home past the L2. -/
theorem State.homeWritePast_only (s : State) (view pa : Nat) (bs : List Byte) :
    State.OnlyMem s (s.homeWritePast view pa bs) := by
  unfold State.homeWritePast
  split
  · exact .refl s
  · dsimp only
    refine State.OnlyMem.trans ?_ (State.OnlyMem.foldl _ State.touchLine_only _ _)
    refine (State.recall_only s pa bs.length).trans ((State.retag_only _ view pa bs.length).trans ?_)
    split <;> rfl

/-- Bytes are written at their home. -/
theorem State.homeWrite_only (s : State) (view pa : Nat) (bs : List Byte) : State.OnlyMem s (s.homeWrite view pa bs) :=
  (s.homeWritePast_only view pa bs).trans (State.OnlyMem.foldl _ State.intoL2_only _ _)

/-- Lines are zeroed. -/
theorem State.zeroLines_only (s : State) (pa n : Nat) : State.OnlyMem s (s.zeroLines pa n) := by
  unfold State.zeroLines
  refine State.OnlyMem.trans ?_ (State.OnlyMem.foldl _ State.intoL2_only _ _)
  exact (State.recall_only s pa n).trans rfl

/-- A grain is granted. -/
theorem State.grant_only (s : State) (leaf pa core : Nat) : State.OnlyMem s (s.grant leaf pa core) := by
  unfold State.grant
  dsimp only
  split
  · exact .refl s
  · refine State.OnlyMem.trans (State.OnlyMem.trans ?_ (State.OnlyMem.foldl _ State.touchLine_only _ _))
      (State.OnlyMem.foldl _ State.intoL2_only _ _)
    exact ((State.OnlyMem.foldl State.giveUp State.giveUp_only _ s).trans (State.retag_only _ _ _ _)).trans rfl

/-- Bytes are read at their homes. -/
theorem State.readAtHome_only (s : State) (pa n : Nat) : State.OnlyMem s (s.readAtHome pa n) := by
  unfold State.readAtHome State.forwardStamp
  refine State.OnlyMem.trans (State.OnlyMem.foldl _ (fun s l => ?_) (linesOf pa n) s)
    (State.OnlyMem.foldl _ State.intoL2_only _ _)
  split
  · exact s.stampLine_only l
  · exact .refl s

/-! ## Bytes that no registration covers -/

/-- What a key names after one has been removed. -/
theorem Map.get?_del {α : Type} (m : Map α) (a b : Nat) : Map.get? (Map.del m a) b = if a = b then none else Map.get? m b := by
  induction m with
  | nil => simp [Map.del, Map.get?]
  | cons kv m ih =>
    obtain ⟨k, x⟩ := kv
    have h1 : Map.del ((k, x) :: m) a = if a = k then Map.del m a else (k, x) :: Map.del m a := rfl
    have h2 : ∀ (m : Map α), Map.get? ((k, x) :: m) b = if b = k then some x else Map.get? m b := fun _ => rfl
    rw [h1, h2]
    by_cases h : a = k
    · rw [if_pos h, ih]
      by_cases hb : a = b
      · rw [if_pos hb, if_pos hb]
      · rw [if_neg hb, if_neg hb, if_neg (by omega)]
    · rw [if_neg h, h2, ih]
      by_cases hb : b = k
      · rw [if_pos hb, if_pos hb, if_neg (by omega)]
      · rw [if_neg hb, if_neg hb]

/-- From s to t the registrations of s still bound those of t, and no byte that none of `rs` covers has changed. -/
def State.KeepsOutside (rs : List Registration) (s t : State) : Prop :=
  (∀ r ∈ t.registrations, r ∈ s.registrations) ∧
  ∀ x, (∀ r ∈ rs, ¬ (r.pa ≤ x ∧ x < r.pa + r.size)) →
    Memory.get t.dram x = Memory.get s.dram x ∧ Memory.get t.hostMem x = Memory.get s.hostMem x

/-- Nothing has changed. -/
theorem State.KeepsOutside.refl (rs : List Registration) (s : State) : State.KeepsOutside rs s s :=
  ⟨fun _ h => h, fun _ _ => ⟨rfl, rfl⟩⟩

/-- One change after another. -/
theorem State.KeepsOutside.trans {rs : List Registration} {s t u : State} (h1 : State.KeepsOutside rs s t)
    (h2 : State.KeepsOutside rs t u) : State.KeepsOutside rs s u :=
  ⟨fun r h => h1.1 r (h2.1 r h), fun x h => ⟨(h2.2 x h).1.trans (h1.2 x h).1, (h2.2 x h).2.trans (h1.2 x h).2⟩⟩

/-- A change that leaves registrations and memory alone. -/
theorem State.KeepsOutside.same {rs : List Registration} {s t : State} (h1 : t.registrations = s.registrations)
    (h2 : t.dram = s.dram) (h3 : t.hostMem = s.hostMem) : State.KeepsOutside rs s t :=
  ⟨fun r h => h1 ▸ h, fun x _ => ⟨by rw [h2], by rw [h3]⟩⟩

/-- A fold of such changes, each from a state whose registrations are among `rs`. -/
theorem State.KeepsOutside.foldl {α : Type} {rs : List Registration} (f : State → α → State) :
    ∀ (xs : List α) (s : State), (∀ r ∈ s.registrations, r ∈ rs) →
      (∀ s, ∀ a ∈ xs, (∀ r ∈ s.registrations, r ∈ rs) → State.KeepsOutside rs s (f s a)) →
      State.KeepsOutside rs s (xs.foldl f s) := by
  intro xs
  induction xs with
  | nil => intro s _ _; exact .refl rs s
  | cons a as ih =>
    intro s hs hf
    have h1 := hf s a List.mem_cons_self hs
    exact h1.trans (ih (f s a) (fun r h => hs r (h1.1 r h)) (fun s b hb => hf s b (List.mem_cons_of_mem _ hb)))

/-- What one byte of memory reads as after a byte has been put. -/
theorem Memory.get_put (m : List Host.Cell) (a x : Nat) (b : Byte) :
    Memory.get (Memory.put m a b) x = if a = x then b else Memory.get m x := by
  unfold Memory.put Memory.get Map.get
  split
  · rename_i h
    rw [Map.get?_del]
    split
    · simp [h]
    · rfl
  · rw [Map.get?_put]
    split <;> split <;> simp_all

/-- Byte stores outside an address leave it, and leave the registrations. -/
theorem State.storeBytes_away (x : Nat) : ∀ (abs : List (Nat × Byte)) (s : State), (∀ ab ∈ abs, ab.1 ≠ x) →
    let t := abs.foldl (fun (s : State) ab => s.storeByte ab.1 ab.2) s
    t.registrations = s.registrations ∧ Memory.get t.dram x = Memory.get s.dram x ∧
      Memory.get t.hostMem x = Memory.get s.hostMem x := by
  intro abs
  induction abs with
  | nil => intro s _; exact ⟨rfl, rfl, rfl⟩
  | cons ab abs ih =>
    intro s h
    have i := ih (s.storeByte ab.1 ab.2) (fun c hc => h c (List.mem_cons_of_mem _ hc))
    have hx := h ab List.mem_cons_self
    have one : (s.storeByte ab.1 ab.2).registrations = s.registrations ∧
        Memory.get (s.storeByte ab.1 ab.2).dram x = Memory.get s.dram x ∧
        Memory.get (s.storeByte ab.1 ab.2).hostMem x = Memory.get s.hostMem x := by
      unfold State.storeByte
      split
      · exact ⟨rfl, (Memory.get_put _ _ _ _).trans (if_neg hx), rfl⟩
      · exact ⟨rfl, rfl, (Memory.get_put _ _ _ _).trans (if_neg hx)⟩
    exact ⟨i.1.trans one.1, i.2.1.trans one.2.1, i.2.2.trans one.2.2⟩

/-- A line takes its stamp. -/
theorem State.stampLine_outside (rs : List Registration) (s : State) (pa : Nat) : State.KeepsOutside rs s (s.stampLine pa) :=
  .same rfl rfl rfl

/-- A registration of `rs` is written back. -/
theorem State.writeBack_outside {rs : List Registration} (s : State) (r : Registration) (hr : r ∈ rs) :
    State.KeepsOutside rs s (s.writeBack r) := by
  unfold State.writeBack
  dsimp only
  generalize hm : (s.core r.core).dirty.filter (fun ab => r.pa ≤ ab.1 && ab.1 < r.pa + r.size) = mine
  have away : ∀ x, ¬ (r.pa ≤ x ∧ x < r.pa + r.size) → ∀ ab ∈ mine, ab.1 ≠ x := by
    rintro x h ab hab rfl
    rw [← hm, List.mem_filter] at hab
    simp at hab
    exact h hab.2
  have hk := fun x (hx : ∀ q ∈ rs, ¬ (q.pa ≤ x ∧ x < q.pa + q.size)) =>
    (State.storeBytes_away x mine s (away x (hx r hr))).2
  have hreg := (State.storeBytes_away (r.pa + r.size) mine s (away _ (by omega))).1
  generalize mine.foldl (fun (s : State) ab => s.storeByte ab.1 ab.2) s = w at hk hreg ⊢
  have h1 : State.KeepsOutside rs s { w.modCore r.core (fun c => { c with
      dirty := c.dirty.filter (fun ab => !(r.pa ≤ ab.1 && ab.1 < r.pa + r.size)) }) with
      registrations := w.registrations.filter (· != r) } := by
    refine ⟨fun q hq => ?_, hk⟩
    dsimp only at hq
    rw [List.mem_filter, hreg] at hq
    exact hq.1
  have stamps : ∀ (ls : List Nat) (w : State), State.KeepsOutside rs w (ls.foldl State.stampLine w) := by
    intro ls
    induction ls with
    | nil => intro w; exact .refl rs w
    | cons l ls ih => intro w; exact (State.stampLine_outside rs w l).trans (ih _)
  exact h1.trans (stamps _ _)

/-- A line enters an L2: what it writes back stood in registrations. -/
theorem State.intoL2_outside {rs : List Registration} (s : State) (pa : Nat) (hs : ∀ r ∈ s.registrations, r ∈ rs) :
    State.KeepsOutside rs s (s.intoL2 pa) := by
  have drop : ∀ line, State.KeepsOutside rs s (s.dropL2 line) := fun line =>
    (State.KeepsOutside.foldl _ _ s hs (fun w r hr _ => w.writeBack_outside r (hs r (List.mem_filter.1 hr).1))).trans
      (.same rfl rfl rfl)
  unfold State.intoL2 State.freeWay
  dsimp only
  split
  · exact .refl rs s
  · split
    · exact .same rfl rfl rfl
    · split
      · exact (drop _).trans (.same rfl rfl rfl)
      · exact .same rfl rfl rfl

/-- Lines enter an L2. -/
theorem State.intoL2s_outside {rs : List Registration} (ls : List Nat) (s : State) (hs : ∀ r ∈ s.registrations, r ∈ rs) :
    State.KeepsOutside rs s (ls.foldl State.intoL2 s) :=
  State.KeepsOutside.foldl _ ls s hs (fun w l _ hw => w.intoL2_outside l hw)

/-- A registration is given up. -/
theorem State.giveUp_outside {rs : List Registration} (s : State) (r : Registration) (hr : r ∈ rs)
    (hs : ∀ r ∈ s.registrations, r ∈ rs) : State.KeepsOutside rs s (s.giveUp r) := by
  have h := s.writeBack_outside r hr
  exact h.trans (State.intoL2s_outside _ _ (fun q hq => hs q (h.1 q hq)))

/-- Registrations are recalled. -/
theorem State.recall_outside {rs : List Registration} (s : State) (pa n : Nat) (hs : ∀ r ∈ s.registrations, r ∈ rs) :
    State.KeepsOutside rs s (s.recall pa n) :=
  State.KeepsOutside.foldl _ _ s hs (fun w r hr hw => w.giveUp_outside r (hs r (List.mem_filter.1 hr).1) hw)

/-- A registration that has been given up does not stand. -/
theorem State.giveUp_gone (s : State) (r : Registration) : r ∉ (s.giveUp r).registrations := by
  have stamps : ∀ (ls : List Nat) (w : State), (ls.foldl State.stampLine w).registrations = w.registrations := by
    intro ls
    induction ls with
    | nil => intro w; rfl
    | cons l ls ih => intro w; exact ih _
  have h : r ∉ (s.writeBack r).registrations := by
    unfold State.writeBack
    simp [stamps]
  exact fun hr => h ((State.intoL2s_outside (rs := (s.writeBack r).registrations) _ _ (fun _ h => h)).1 r hr)

/-- After a recall no registration overlaps the bytes. -/
theorem State.recall_clears (s : State) (pa n : Nat) : ∀ r ∈ (s.recall pa n).registrations,
    ¬ (r.pa < pa + n ∧ pa < r.pa + r.size) := by
  have fold : ∀ (xs : List Registration) (w : State), ∀ r ∈ xs, r ∉ (xs.foldl State.giveUp w).registrations := by
    intro xs
    induction xs with
    | nil => intro w r h; cases h
    | cons x xs ih =>
      intro w r h
      rw [List.foldl_cons]
      by_cases hx : r ∈ xs
      · exact ih _ r hx
      · have e : r = x := (List.mem_cons.1 h).resolve_right hx
        subst e
        intro hr
        have := (State.KeepsOutside.foldl (rs := r :: ((w.giveUp r).registrations ++ xs)) State.giveUp xs (w.giveUp r)
          (fun q hq => List.mem_cons_of_mem _ (List.mem_append_left _ hq))
          (fun v a ha hv => v.giveUp_outside a (List.mem_cons_of_mem _ (List.mem_append_right _ ha)) hv)).1 r hr
        exact w.giveUp_gone r this
  intro r hr ho
  have hs := (State.recall_outside (rs := s.registrations) s pa n (fun _ h => h)).1 r hr
  exact fold _ s r (List.mem_filter.2 ⟨hs, by simpa using ho⟩) hr

/-- A line is touched. -/
theorem State.touchLine_outside (rs : List Registration) (s : State) (pa : Nat) : State.KeepsOutside rs s (s.touchLine pa) := by
  unfold State.touchLine
  split <;> exact .same rfl rfl rfl

/-- Bytes written at a home in DRAM stand there. -/
theorem State.homeWrite_dram (s : State) (view a : Nat) (bs : List Byte) (i : Nat) (h : isDram a = true)
    (hi : i < bs.length) : Memory.get (s.homeWrite view a bs).dram (a + i) = bs.getD i 0 := by
  unfold State.homeWrite State.homeWritePast
  rw [if_neg (by intro e; rw [List.isEmpty_iff] at e; subst e; simp at hi)]
  dsimp only
  rw [if_pos h]
  have hc := s.recall_clears a bs.length
  have hr : ((s.recall a bs.length).retag view a bs.length).registrations = (s.recall a bs.length).registrations := by
    generalize s.recall a bs.length = w
    unfold State.retag
    split
    · rfl
    · have one : ∀ (w : State) x b, (w.storeByte x b).registrations = w.registrations := by
        intro w x b
        unfold State.storeByte
        split <;> rfl
      refine foldl_keeps (fun (t : State) => t.registrations = w.registrations) _ (fun t k ht => ?_) _ _ rfl
      dsimp only
      split
      · exact ht
      · exact foldl_keeps (fun (t : State) => t.registrations = w.registrations) _ (fun t j ht => (one t _ _).trans ht) _ _ ht
  generalize (s.recall a bs.length).retag view a bs.length = w at hr
  have hw : ∀ r ∈ w.registrations, ¬ (r.pa < a + bs.length ∧ a < r.pa + r.size) := by rw [hr]; exact hc
  have h1 := State.KeepsOutside.foldl (rs := w.registrations) State.touchLine (linesOf a bs.length)
    { w with dram := Memory.putBytes w.dram a bs } (fun _ h => h) (fun v l _ _ => State.touchLine_outside _ v l)
  have h2 := h1.trans (State.intoL2s_outside (linesOf a bs.length) _ (fun r hr => h1.1 r hr))
  have h3 := (h2.2 (a + i) (fun r hr hx => hw r hr ⟨by omega, by omega⟩)).1
  rw [h3]
  dsimp only
  rw [Memory.get_putBytes, if_pos (by omega), Nat.add_sub_cancel_left]
  rfl

/-- Lines that have been zeroed at their homes read as 0. -/
theorem State.zeroLines_zeroes (s : State) (a n k : Nat) (hk : k < n) : Memory.get (s.zeroLines a n).dram (a + k) = 0 := by
  unfold State.zeroLines
  have hc := s.recall_clears a n
  generalize s.recall a n = w at hc
  have key : ∀ v : State, v.registrations = w.registrations →
      Memory.get ((linesOf a n).foldl State.intoL2 v).dram (a + k) = Memory.get v.dram (a + k) := fun v hv =>
    ((State.intoL2s_outside (rs := w.registrations) (linesOf a n) v (fun r h => hv ▸ h)).2 (a + k)
      (fun r hr hx => hc r hr ⟨by omega, by omega⟩)).1
  refine Eq.trans (key _ ?_) ?_
  · rfl
  dsimp only
  have h : Map.get? (Map.splice w.dram a (a + n) []) (a + k) = none := by
    unfold Map.splice
    rw [List.append_nil, Map.get?_append]
    have e1 := Map.get?_filter (α := Byte) (fun x => decide (x < a)) w.dram (a + k)
    have e2 := Map.get?_filter (α := Byte) (fun x => decide (a + n ≤ x)) w.dram (a + k)
    rw [if_neg (by simp)] at e1
    rw [if_neg (by simp; omega)] at e2
    rw [e1, e2]
    rfl
  exact congrArg (fun o => o.getD Memory.default) h

end Sys2Proof.Machine
end

