-- ==== Sys2Proof/Laws/Canonical.lean ====
section
/-! SUPPORT. Every operation of the machine keeps its byte arrays in canonical form: one lemma for each operation and each
meaning, named after it. Most operations do not touch an array: `canonical` of the result is that of the state. Those that
write one keep the form where it holds (`hs`). -/

namespace Sys2Proof.Machine

/-! ## Outcomes and folds -/

/-- The four byte arrays of a state are canonical. -/
def outCanonical : Out → Bool
  | .next t => t.canonical
  | _ => true

/-- The outcome of a next state. -/
@[simp] theorem outCanonical_next (t : State) : outCanonical (.next t) = t.canonical := rfl

/-- A choice between two outcomes. -/
theorem outCanonical_ite {c : Prop} [Decidable c] {x y : Out} (hx : outCanonical x = true) (hy : outCanonical y =
    true) : outCanonical (if c then x else y) = true := by
  split
  · exact hx
  · exact hy

/-- What `canonical` says of a state written out. -/
@[simp] theorem canonical_mk x_time x_cores x_clusters x_partitions x_teams x_commands x_grids x_saved x_dram
    x_hostMem x_kpad x_registrations x_l2 x_heldLines x_stamps x_pub x_cipher x_errors x_soft x_tlb x_walkCache x_walks
    x_answers x_retired x_retiring x_keys x_holdWays x_assayCtl x_epoch x_assayCounts x_inject x_target x_checked
    x_configuration x_collWaits x_packets x_ports x_mirrors x_session x_reply x_health x_mgmt x_agenda x_cur x_stalled
    x_nonce x_nextId x_issues : (State.mk x_time x_cores x_clusters x_partitions x_teams x_commands x_grids x_saved
    x_dram x_hostMem x_kpad x_registrations x_l2 x_heldLines x_stamps x_pub x_cipher x_errors x_soft x_tlb x_walkCache
    x_walks x_answers x_retired x_retiring x_keys x_holdWays x_assayCtl x_epoch x_assayCounts x_inject x_target x_checked
    x_configuration x_collWaits x_packets x_ports x_mirrors x_session x_reply x_health x_mgmt x_agenda x_cur x_stalled
    x_nonce x_nextId x_issues).canonical = (Memory.wf x_dram && Memory.wf x_hostMem && Memory.wf x_kpad && Memory.wf
    x_mgmt.flash) := rfl

/-- The four arrays of a state, folded back. -/
@[simp] theorem canonical_fold (s : State) : (Memory.wf s.dram && Memory.wf s.hostMem && Memory.wf s.kpad && Memory.wf
    s.mgmt.flash) = s.canonical := rfl

/-- A fold of operations that keep `canonical` as it is. -/
theorem canonical_foldl {α : Type} (f : State → α → State) (h : ∀ s a, (f s a).canonical = s.canonical) (xs : List α)
    (s : State) : (xs.foldl f s).canonical = s.canonical := by
  induction xs generalizing s with
  | nil => rfl
  | cons a as ih => rw [List.foldl_cons, ih, h]

/-- A fold of operations that keep the form. -/
theorem canonical_foldl' {α : Type} {f : State → α → State} (h : ∀ s a, s.canonical = true → (f s a).canonical = true)
    (xs : List α) (s : State) (hs : s.canonical = true) : (xs.foldl f s).canonical = true := by
  induction xs generalizing s with
  | nil => exact hs
  | cons a as ih => exact ih _ (h s a hs)

/-- The same with a value carried along. -/
theorem canonical_foldlP {α β : Type} (f : β × State → α → β × State) (h : ∀ p a, (f p a).2.canonical = p.2.canonical)
    (xs : List α) (p : β × State) : (xs.foldl f p).2.canonical = p.2.canonical := by
  induction xs generalizing p with
  | nil => rfl
  | cons a as ih => rw [List.foldl_cons, ih, h]

/-- The same with a value carried along. -/
theorem canonical_foldlP' {α β : Type} {f : β × State → α → β × State} (h : ∀ p a, p.2.canonical = true → (f p
    a).2.canonical = true) (xs : List α) (p : β × State) (hs : p.2.canonical = true) : (xs.foldl f p).2.canonical =
    true := by
  induction xs generalizing p with
  | nil => exact hs
  | cons a as ih => exact ih _ (h p a hs)

/-! ## Ops -/

@[simp] theorem State.modTeam_canonical (s : State) (t : Nat) (f : Team → Team) : (State.modTeam s t f).canonical =
    s.canonical := by
  unfold State.modTeam
  split <;> simp

@[simp] theorem State.modGroup_canonical (s : State) (t g : Nat) (f : Group → Group) : (State.modGroup s t g
    f).canonical = s.canonical := by
  unfold State.modGroup
  simp

@[simp] theorem State.modThread_canonical (s : State) (t g l : Nat) (f : Thread → Thread) : (State.modThread s t g l
    f).canonical = s.canonical := by
  unfold State.modThread
  simp

@[simp] theorem State.modCore_canonical (s : State) (c : Nat) (f : Core → Core) : (State.modCore s c f).canonical =
    s.canonical := rfl

@[simp] theorem State.modCluster_canonical (s : State) (c : Nat) (f : Cluster → Cluster) : (State.modCluster s c
    f).canonical = s.canonical := rfl

@[simp] theorem State.modPart_canonical (s : State) (p : Nat) (f : Partition → Partition) : (State.modPart s p
    f).canonical = s.canonical := rfl

@[simp] theorem State.fresh_canonical (s : State) : (State.fresh s).2.canonical = s.canonical := rfl

@[simp] theorem State.halt_canonical (s : State) (p cause unit : Nat) (u : UnitFault) : (State.halt s p cause unit
    u).canonical = s.canonical := rfl

@[simp] theorem State.serve_canonical (s : State) (p unit : Nat) (u : UnitFault) : (State.serve s p unit u).canonical
    = s.canonical := rfl

@[simp] theorem takeTrap_canonical (t gi l : Nat) (vec : Dword) (pc cause index detail : Nat) (s : State) : (takeTrap
    t gi l vec pc cause index detail s).canonical = s.canonical := by
  unfold takeTrap
  split
  · dsimp only
    split
    · split <;> simp
    · split
      · split <;> simp
      · simp
  · rfl

/-! ## Mem -/

theorem State.storeByte_canonical (s : State) (pa : Nat) (b : Byte) (h : s.canonical = true) : (s.storeByte pa
    b).canonical = true := by
  unfold State.storeByte
  unfold State.canonical at h ⊢
  simp only [Bool.and_eq_true] at h
  split <;> simp [h, Memory.wf_put]

@[simp] theorem State.retag_canonical (s : State) (view pa n : Nat) (h : s.canonical = true) : (s.retag view pa
    n).canonical = true := by
  unfold State.retag
  split
  · exact h
  · refine canonical_foldl' (fun s k h => ?_) _ _ h
    dsimp only
    split
    · exact h
    · exact canonical_foldl' (fun s a h => State.storeByte_canonical s _ _ h) (List.range 16) s h

@[simp] theorem State.stampLine_canonical (s : State) (pa : Nat) : (State.stampLine s pa).canonical = s.canonical
    := rfl

@[simp] theorem State.writeBack_canonical (s : State) (r : Registration) (h : s.canonical = true) : (s.writeBack
    r).canonical = true := by
  have h1 := canonical_foldl' (f := fun (s : State) (ab : Nat × Byte) => s.storeByte ab.1 ab.2) (fun s a h => State.storeByte_canonical s _ _ h) ((s.core r.core).dirty.filter (fun ab => r.pa ≤ ab.1 && ab.1 < r.pa + r.size)) s h
  unfold State.writeBack
  exact canonical_foldl' (f := State.stampLine) (fun s a h => h) _ _ h1

@[simp] theorem State.dropL2_canonical (s : State) (line : Nat) (h : s.canonical = true) : (s.dropL2 line).canonical =
    true :=
  canonical_foldl' (f := State.writeBack) (fun s a h => State.writeBack_canonical s a h) _ _ h

@[simp] theorem State.freeWay_canonical (s : State) (pa : Nat) (h : s.canonical = true) : (s.freeWay pa).canonical =
    true := by
  unfold State.freeWay
  dsimp only
  split
  · exact h
  · split
    · exact State.dropL2_canonical s _ h
    · exact h

@[simp] theorem State.intoL2_canonical (s : State) (pa : Nat) (h : s.canonical = true) : (s.intoL2 pa).canonical =
    true := by
  unfold State.intoL2
  dsimp only
  split
  · exact h
  · exact State.freeWay_canonical s pa h
theorem State.intoL2s_canonical (ls : List Nat) (s : State) (h : s.canonical = true) : (ls.foldl State.intoL2
    s).canonical = true :=
  canonical_foldl' (fun s a h => State.intoL2_canonical s a h) _ _ h

@[simp] theorem State.touchLine_canonical (s : State) (pa : Nat) : (State.touchLine s pa).canonical = s.canonical := by
  unfold State.touchLine
  split <;> simp

@[simp] theorem State.forwardStamp_canonical (s : State) (pa n : Nat) : (State.forwardStamp s pa n).canonical =
    s.canonical := by
  unfold State.forwardStamp
  refine canonical_foldl _ (fun u a => ?_) _ _
  split <;> simp

@[simp] theorem State.readAtHome_canonical (s : State) (pa n : Nat) (hs : s.canonical = true) : (State.readAtHome s pa
    n).canonical = true := by
  unfold State.readAtHome
  simp (maxDischargeDepth := 20) +contextual [hs, canonical_foldl', canonical_foldlP']

@[simp] theorem State.correct_canonical (s : State) (pa n : Nat) : (State.correct s pa n).canonical = s.canonical := by
  unfold State.correct
  dsimp only
  split <;> simp

@[simp] theorem State.consume_canonical (s : State) (p : Nat) (u : UnitFault) (pa n : Nat) : (State.consume s p u pa
    n).canonical = s.canonical := by
  unfold State.consume
  generalize hw : s.correct pa n = w
  have : w.canonical = s.canonical := by rw [← hw, State.correct_canonical]
  simp only
  split <;> simp [this]

@[simp] theorem State.giveUp_canonical (s : State) (r : Registration) (h : s.canonical = true) : (s.giveUp
    r).canonical = true := by
  exact State.intoL2s_canonical _ _ (State.writeBack_canonical s r h)

@[simp] theorem State.recall_canonical (s : State) (pa n : Nat) (h : s.canonical = true) : (s.recall pa n).canonical =
    true :=
  canonical_foldl' (fun s a h => State.giveUp_canonical s a h) _ _ h

@[simp] theorem State.homeWritePast_canonical (s : State) (view pa : Nat) (bs : List Byte) (h : s.canonical = true) :
    (s.homeWritePast view pa bs).canonical = true := by
  unfold State.homeWritePast
  split
  · exact h
  · dsimp only
    rw [canonical_foldl State.touchLine (fun s a => State.touchLine_canonical s a)]
    have h2 : ((s.recall pa bs.length).retag view pa bs.length).canonical = true := by simp [h]
    generalize (s.recall pa bs.length).retag view pa bs.length = w at h2
    unfold State.canonical at h2 ⊢
    simp only [Bool.and_eq_true] at h2
    split <;> simp [h2, Memory.wf_putBytes]

@[simp] theorem State.homeWrite_canonical (s : State) (view pa : Nat) (bs : List Byte) (h : s.canonical = true) :
    (s.homeWrite view pa bs).canonical = true :=
  State.intoL2s_canonical _ _ (State.homeWritePast_canonical s view pa bs h)

@[simp] theorem State.zeroLines_canonical (s : State) (pa n : Nat) (h : s.canonical = true) : (s.zeroLines pa
    n).canonical = true := by
  unfold State.zeroLines
  have h2 : (s.recall pa n).canonical = true := by simp [h]
  generalize s.recall pa n = w at h2
  refine State.intoL2s_canonical _ _ ?_
  unfold State.canonical at h2 ⊢
  simp only [Bool.and_eq_true] at h2
  have := Memory.wf_clear w.dram pa n h2.1.1.1
  simp [h2, this]

@[simp] theorem State.grant_canonical (s : State) (leaf pa core : Nat) (h : s.canonical = true) : (s.grant leaf pa
    core).canonical = true := by
  unfold State.grant
  dsimp only
  split
  · exact h
  · refine State.intoL2s_canonical _ _ ?_
    rw [canonical_foldl State.touchLine (fun s a => State.touchLine_canonical s a)]
    simp only [canonical_mk, canonical_fold]
    exact State.retag_canonical _ _ _ _ (canonical_foldl' (fun s a h => State.giveUp_canonical s a h) _ _ h)

@[simp] theorem State.cachePtr_canonical (s : State) (w : WalkPtr) : (State.cachePtr s w).canonical = s.canonical := by
  unfold State.cachePtr
  split <;> simp

@[simp] theorem State.walked_canonical (s : State) (slice p asid va : Nat) (hs : s.canonical = true) : (State.walked s
    slice p asid va).canonical = true := by
  unfold State.walked
  dsimp only
  have h : ∀ (p : Nat) (u : UnitFault) (pas : List Nat), (pas.foldl (fun (s : State) pa =>
      if isDram pa then (s.readAtHome pa 8).consume p u pa 8 else s) s).canonical = true := fun p u pas =>
    canonical_foldl' (fun w a hw => by split <;> simp [hw]) _ _ hs
  split
  · exact (canonical_foldl (fun (s : State) (lt : Nat × Nat) => s.cachePtr ⟨slice, p, asid, lt.1, walkPrefix lt.1 va, lt.2⟩)
      (fun w a => State.cachePtr_canonical w _) _ _).trans (h _ _ _)
  · exact h _ _ _

@[simp] theorem State.translated_canonical (s : State) (die p asid va : Nat) (hs : s.canonical = true) :
    (State.translated s die p asid va).canonical = true := by
  unfold State.translated
  dsimp only
  split <;> simp [hs]

@[simp] theorem State.askWalk_canonical (s : State) (k : Option Asker) (die p asid va : Nat) : (State.askWalk s k die p asid
    va).canonical = s.canonical := by
  unfold State.askWalk
  dsimp only
  (repeat' split) <;> simp

@[simp] theorem State.askWalks_canonical (s : State) (k : Asker) (die p asid : Nat) (vas : List Nat) : (State.askWalks s k die
    p asid vas).canonical = s.canonical := by
  unfold State.askWalks
  refine canonical_foldl _ (fun u a => ?_) _ _
  split <;> simp

@[simp] theorem State.spend_canonical (s : State) (k : Asker) : (State.spend s k).canonical = s.canonical := by
  unfold State.spend
  split <;> simp

@[simp] theorem State.readMeets_canonical (s : State) (leaf pa n : Nat) (hs : s.canonical = true) : (State.readMeets s leaf pa
    n).canonical = true := by
  unfold State.readMeets
  split <;> simp [hs]

@[simp] theorem State.leafWrite_canonical (s : State) (leaf pa : Nat) (bs : List Byte) (hs : s.canonical = true) :
    (State.leafWrite s leaf pa bs).canonical = true := by
  unfold State.leafWrite
  split <;> simp [hs]

@[simp] theorem State.pinMeet_canonical (s : State) (die p : Nat) (u : UnitFault) (asid va n : Nat) (hs : s.canonical = true) :
    (State.pinMeet s die p u asid va n).canonical = true := by
  unfold State.pinMeet
  refine canonical_foldl' (fun w c hw => ?_) _ _ hs
  dsimp only
  (repeat' split) <;> simp [hw]

@[simp] theorem State.physRead_canonical (s : State) (p : Nat) (u : UnitFault) (pa n : Nat) (hs : s.canonical = true) :
    (State.physRead s p u pa n).2.canonical = true := by
  unfold State.physRead
  dsimp only
  split <;> simp [hs]

theorem State.pinWrite_canonical (s t : State) (die p asid va : Nat) (bs : List Byte) (h : s.pinWrite die p asid va bs = some
    t) (hs : s.canonical = true) : t.canonical = true := by
  have key : ∀ (cs : List (Nat × Nat)) (acc : Option State), (∀ u, acc = some u → u.canonical = true) → ∀ u, cs.foldl (fun acc c =>
      match acc with
      | none => none
      | some (s : State) =>
        match s.pinned die p asid c.1 with
        | some x => some ((s.translated die p asid c.1).leafWrite x.leaf x.pa ((bs.drop (c.1 - va)).take c.2))
        | none => none) acc = some u → u.canonical = true := by
    intro cs
    induction cs with
    | nil => intro acc h u hu; exact h u hu
    | cons c cs ih =>
      intro acc h u hu
      refine ih _ ?_ u hu
      intro w hw
      dsimp only at hw
      split at hw
      · cases hw
      · rename_i s0
        split at hw
        · cases hw; exact State.leafWrite_canonical _ _ _ _ (State.translated_canonical _ _ _ _ _ (h s0 rfl))
        · cases hw
  exact key _ (some s) (by rintro u ⟨⟩; exact hs) t h

@[simp] theorem State.fillLine_canonical (s : State) (p core asid va : Nat) (f : Fetch) (hs : s.canonical = true) :
    (State.fillLine s p core asid va f).canonical = true := by
  unfold State.fillLine
  split <;> simp [hs]

/-! ## Flow -/

@[simp] theorem State.countIssue_canonical (s : State) (t gi : Nat) (before : List (Nat × LaneSet × Bool)) (fromTail
    turn counted : Bool) : (State.countIssue s t gi before fromTail turn counted).canonical = s.canonical := by
  unfold State.countIssue
  split <;> simp

@[simp] theorem endClause_canonical (t gi : Nat) (s : State) : (endClause t gi s).canonical = s.canonical := by
  unfold endClause
  dsimp only
  (repeat' split) <;> simp

@[simp] theorem State.modChecked_canonical (s : State) (tm : Team) (f : Checked → Checked) : (State.modChecked s tm
    f).canonical = s.canonical := rfl

@[simp] theorem countExec_canonical (t gi : Nat) (lanes : LaneSet) (s : State) : (countExec t gi lanes s).canonical =
    s.canonical := by
  unfold countExec
  dsimp only
  (repeat' split) <;> simp

/-! ## Records -/

@[simp] theorem State.devRead_canonical (s : State) (p cause asid record va n : Nat) (hs : s.canonical = true) :
    (State.devRead s p cause asid record va n).2.canonical = true := by
  unfold State.devRead
  split <;> simp [hs]

@[simp] theorem State.devWrite_canonical (s : State) (p cause asid record va : Nat) (bs : List Byte) (hs : s.canonical
    = true) : (s.devWrite p cause asid record va bs).canonical = true := by
  unfold State.devWrite
  split
  · rename_i t h; exact State.pinWrite_canonical _ _ _ _ _ _ _ h hs
  · simp [hs]

@[simp] theorem State.devPut_canonical (s : State) (p cause asid record va n x : Nat) (hs : s.canonical = true) :
    (State.devPut s p cause asid record va n x).canonical = true := by
  unfold State.devPut
  simp [hs]

@[simp] theorem State.recordBit_canonical (s : State) (p asid record k : Nat) (on : Bool) (hs : s.canonical = true) :
    (s.recordBit p asid record k on).canonical = true := by
  unfold State.recordBit
  dsimp only
  exact State.devWrite_canonical _ _ _ _ _ _ _ (by simp [hs])

@[simp] theorem State.modGrid_canonical (s : State) (p asid rec : Nat) (f : Grid → Grid) : (State.modGrid s p asid rec
    f).canonical = s.canonical := rfl

@[simp] theorem State.publishLine_canonical (s : State) (pa scope origin : Nat) : (State.publishLine s pa scope
    origin).canonical = s.canonical := by
  unfold State.publishLine
  dsimp only
  split <;> simp

@[simp] theorem State.dropCode_canonical (s : State) (pa scope origin : Nat) : (State.dropCode s pa scope
    origin).canonical = s.canonical := rfl

@[simp] theorem State.releaseLine_canonical (s : State) (h : HeldLine) (hs : s.canonical = true) : (State.releaseLine
    s h).canonical = true := by
  unfold State.releaseLine
  dsimp only
  (repeat' split) <;> simp (maxDischargeDepth := 20) +contextual [hs, canonical_foldl', canonical_foldlP']

theorem State.releaseOne_canonical (s t : State) (c : Checked) (copy : Nat) (h : s.releaseOne c copy = some t) (hs :
    s.canonical = true) : t.canonical = true := by
  simp only [State.releaseOne, Option.map_eq_some_iff] at h
  obtain ⟨x, -, rfl⟩ := h
  simpa using State.releaseLine_canonical s x hs

@[simp] theorem State.discardRun_canonical (s : State) (c : Checked) (copy : Nat) : (State.discardRun s c
    copy).canonical = s.canonical := rfl

@[simp] theorem State.logStatus_canonical (s : State) (c : Checked) (status reason : Nat) (hs : s.canonical = true) :
    (State.logStatus s c status reason).canonical = true := by
  unfold State.logStatus
  simp [hs]

@[simp] theorem State.assayCount_canonical (s : State) (k : Nat) : (State.assayCount s k).canonical = s.canonical
    := rfl

@[simp] theorem State.disarmFor_canonical (s : State) (p record asid index : Nat) : (State.disarmFor s p record asid
    index).canonical = s.canonical := by
  unfold State.disarmFor
  (repeat' split) <;> simp

@[simp] theorem State.dropTeam_canonical (s : State) (t : Nat) : (State.dropTeam s t).canonical = s.canonical := by
  unfold State.dropTeam
  split <;> simp

@[simp] theorem State.putPhys_canonical (s : State) (pa : Nat) (bs : List Byte) (hs : s.canonical = true) :
    (State.putPhys s pa bs).canonical = true := by
  unfold State.putPhys
  (repeat' split) <;> simp [hs]

@[simp] theorem State.putRing_canonical (s : State) (p pa : Nat) (bs : List Byte) (hs : s.canonical = true) :
    (State.putRing s p pa bs).canonical = true := by
  unfold State.putRing
  split <;> simp [hs]

@[simp] theorem State.dropCommands_canonical (s : State) (t : Nat) : (State.dropCommands s t).canonical = s.canonical := rfl

theorem recOps_canonical (n : Nat) (ops : List RecOp) (s : State) (hs : s.canonical = true) : (recOps n ops
    s).canonical = true := by
  induction n generalizing ops s with
  | zero => unfold recOps; exact hs
  | succ n ih =>
    cases ops with
    | nil => unfold recOps; exact hs
    | cons op ops =>
      cases op <;> unfold recOps <;> dsimp only <;> (repeat' (split; try dsimp only)) <;> first
        | exact ih _ _ hs
        | (refine ih _ _ ?_; simp [hs]; done)
        | (refine ih _ _ ?_; simp (maxDischargeDepth := 20) +contextual [hs, canonical_foldl'])

@[simp] theorem State.runRec_canonical (s : State) (op : RecOp) (hs : s.canonical = true) : (s.runRec op).canonical =
    true := recOps_canonical _ _ _ hs

@[simp] theorem State.uncheck_canonical (s : State) (tm : Team) (reason : Nat) (hs : s.canonical = true) :
    (State.uncheck s tm reason).canonical = true := by
  unfold State.uncheck
  split <;> simp [hs]

@[simp] theorem State.arm_canonical (s : State) (p trAsid va : Nat) (unit : Nat) (u : UnitFault) (hs : s.canonical =
    true) : (s.arm p trAsid va unit u).2.canonical = true := by
  unfold State.arm
  dsimp only
  (repeat' split) <;> first
    | (simp only [apply_ite State.canonical, State.halt_canonical, ite_self, hs]; done)
    | simp (maxDischargeDepth := 20) [hs]

/-! ## Operands -/

@[simp] theorem stall_canonical (s : State) : outCanonical (stall s) = s.canonical := rfl

@[simp] theorem trapHere_canonical (v : View) (l : Nat) (cd : Nat × Nat) (s : State) : (trapHere v l cd s).canonical =
    s.canonical := by
  unfold trapHere
  simp

@[simp] theorem trapLanes_canonical (v : View) (ls : List (Nat × (Nat × Nat))) (s : State) : (trapLanes v ls
    s).canonical = s.canonical := by
  unfold trapLanes
  refine canonical_foldl _ (fun u a => ?_) _ _
  simp

@[simp] theorem State.noteVector_canonical (s : State) (t gi : Nat) (header : Word) : (State.noteVector s t gi
    header).canonical = s.canonical := by
  unfold State.noteVector
  (repeat' split) <;> simp

@[simp] theorem retire_canonical (t gi cycles : Nat) (s : State) : (retire t gi cycles s).canonical = s.canonical := by
  unfold retire
  dsimp only
  (repeat' split) <;> simp

@[simp] theorem finishCall_canonical (t gi st : Nat) (lanes : LaneSet) (s : State) : (finishCall t gi st lanes
    s).canonical = s.canonical := by
  unfold finishCall
  refine canonical_foldl _ (fun u a => ?_) _ _
  simp

@[simp] theorem frameWith_canonical (read : Fields → Form → List (Nat × Bool)) (i : Instr) (effect : View → State →
    Out) (s : State) (h : ∀ v u, outCanonical (effect v u) = u.canonical) : outCanonical (frameWith read i effect s) =
    s.canonical := by
  unfold frameWith
  split
  · simp only [apply_ite outCanonical]
    split
    · simp
    · try dsimp only
      split
      · simp
      · split
        · simp
        · simp only [apply_ite outCanonical]
          split <;> try split
          all_goals simp [h]
  · rfl
@[simp] theorem frameWith_canonical' (read : Fields → Form → List (Nat × Bool)) (i : Instr) (effect : View → State →
    Out) (s : State) (h : ∀ v u, u.canonical = true → outCanonical (effect v u) = true) (hs : s.canonical = true) :
    outCanonical (frameWith read i effect s) = true := by
  unfold frameWith
  split
  · simp only [apply_ite outCanonical]
    split
    · simp [hs]
    · try dsimp only
      split
      · simp [hs]
      · split
        · simp [hs]
        · simp only [apply_ite outCanonical]
          split <;> try split
          all_goals first | (simp [hs]; done) | (apply h; simp [hs])
  · exact hs

@[simp] theorem frame_canonical (i : Instr) (effect : View → State → Out) (s : State) (h : ∀ v u, outCanonical (effect
    v u) = u.canonical) : outCanonical (frame i effect s) = s.canonical := frameWith_canonical _ _ _ _ h
@[simp] theorem frame_canonical' (i : Instr) (effect : View → State → Out) (s : State) (h : ∀ v u, u.canonical = true
    → outCanonical (effect v u) = true) (hs : s.canonical = true) : outCanonical (frame i effect s) = true
    := frameWith_canonical' _ _ _ _ h hs

@[simp] theorem State.injected_canonical (s : State) (copy : Nat) : (State.injected s copy).canonical = s.canonical
    := rfl

@[simp] theorem injectOuts_canonical (v : View) (outs : List (Nat × LaneOut)) (s : State) : (injectOuts v outs
    s).2.canonical = s.canonical := by
  unfold injectOuts
  split <;> simp

@[simp] theorem injectShaped_canonical (v : View) (outs : List (Nat × LaneOut)) (s : State) : (injectShaped v outs
    s).2.canonical = s.canonical := by
  unfold injectShaped
  split <;> simp

@[simp] theorem finish_canonical (cycles lat : Nat) (k : Nat → LaneOut) (v : View) (s : State) : outCanonical (finish
    cycles lat k v s) = s.canonical := by
  unfold finish
  dsimp only
  split
  · simp [canonical_foldl]
  · simp only [outCanonical_next, retire_canonical, State.modGroup_canonical, State.fresh_canonical, countExec_canonical]
    rw [canonical_foldl]
    · simp [canonical_foldl]
    · intro s a; split <;> simp

@[simp] theorem vec_canonical (i : Instr) (cycles lat : Nat) (k : View → Nat → LaneOut) (s : State) : outCanonical
    (vec i cycles lat k s) = s.canonical := by
  unfold vec
  simp

@[simp] theorem sendLong_canonical (v : View) (id n : Nat) (wait : WaitKind) (lanes : LaneSet) (results : Map (List
    Word)) (sfu : Bool) (flags : Map (BitVec 5)) (s : State) : (sendLong v id n wait lanes results sfu flags
    s).canonical = s.canonical := by
  unfold sendLong
  simp

/-! ## Assay -/

@[simp] theorem State.appendLog_canonical (s : State) (c : Checked) (e : LogEntry) (hs : s.canonical = true) :
    (State.appendLog s c e).canonical = true := by
  unfold State.appendLog
  dsimp only
  (repeat' split) <;> simp [hs]

@[simp] theorem addLog_canonical (t : Nat) (e : LogEntry) (s : State) (hs : s.canonical = true) : (addLog t e
    s).canonical = true := by
  unfold addLog
  (repeat' split) <;> simp [hs]

@[simp] theorem State.diverge_canonical (s : State) (t : Nat) : (State.diverge s t).canonical = s.canonical := by
  unfold State.diverge
  simp

@[simp] theorem takeLog_canonical (t gi l kind : Nat) (s : State) : (takeLog t gi l kind s).2.canonical = s.canonical
    := by
  unfold takeLog
  (repeat' split) <;> simp

@[simp] theorem throughLog_canonical (t gi l kind cnt n x : Nat) (s : State) (hs : s.canonical = true) : (throughLog t
    gi l kind cnt n x s).2.canonical = true := by
  unfold throughLog
  dsimp only
  (repeat' split) <;> simp (maxDischargeDepth := 20) +contextual [hs, canonical_foldl', canonical_foldlP']

@[simp] theorem lanesThroughLog_canonical (v : View) (kind n : Nat) (lanes : LaneSet) (x : Nat → Nat) (s : State) (hs
    : s.canonical = true) : (lanesThroughLog v kind n lanes x s).2.canonical = true := by
  unfold lanesThroughLog
  refine canonical_foldlP' (fun u a hs => ?_) _ _ hs
  simp [hs]

@[simp] theorem signStores_canonical (t gi space : Nat) (elems : List (Nat × Nat × Nat × Nat)) (s : State) :
    (signStores t gi space elems s).canonical = s.canonical := by
  unfold signStores
  (repeat' split) <;> simp

/-! ## Alu -/

@[simp] theorem simple_canonical (i : Instr) (wide : Bool) (k : View → Nat → LaneOut) (s : State) : outCanonical
    (simple i wide k s) = s.canonical := by
  unfold simple
  simp

@[simp] theorem intSimple_canonical (i : Instr) (f : Fields) (op : Int → Int → Int) (s : State) : outCanonical
    (intSimple i f op s) = s.canonical := by
  unfold intSimple
  simp

@[simp] theorem intMul_canonical (i : Instr) (f : Fields) (op : Nat → Int → Int → Int → Int) (s : State) :
    outCanonical (intMul i f op s) = s.canonical := by
  unfold intMul
  simp

@[simp] theorem bitOp_canonical (i : Instr) (f : Fields) (op : Nat → Nat → Nat → Nat) (s : State) : outCanonical
    (bitOp i f op s) = s.canonical := by
  unfold bitOp
  simp

@[simp] theorem shiftOp_canonical (i : Instr) (f : Fields) (op : Nat → Nat → Nat → Nat) (s : State) : outCanonical
    (shiftOp i f op s) = s.canonical := by
  unfold shiftOp
  simp

@[simp] theorem execNop_canonical (f : Fields) (s : State) : outCanonical (execNop f s) = s.canonical := by
  unfold execNop
  simp

@[simp] theorem execIadd_canonical (f : Fields) (s : State) : outCanonical (execIadd f s) = s.canonical := by
  unfold execIadd
  simp

@[simp] theorem execIsub_canonical (f : Fields) (s : State) : outCanonical (execIsub f s) = s.canonical := by
  unfold execIsub
  simp

@[simp] theorem execImul_canonical (f : Fields) (s : State) : outCanonical (execImul f s) = s.canonical := by
  unfold execImul
  simp

@[simp] theorem execImulh_canonical (f : Fields) (s : State) : outCanonical (execImulh f s) = s.canonical := by
  unfold execImulh
  simp

@[simp] theorem execImad_canonical (f : Fields) (s : State) : outCanonical (execImad f s) = s.canonical := by
  unfold execImad
  simp

@[simp] theorem execImin_canonical (f : Fields) (s : State) : outCanonical (execImin f s) = s.canonical := by
  unfold execImin
  simp

@[simp] theorem execImax_canonical (f : Fields) (s : State) : outCanonical (execImax f s) = s.canonical := by
  unfold execImax
  simp

@[simp] theorem execIabs_canonical (f : Fields) (s : State) : outCanonical (execIabs f s) = s.canonical := by
  unfold execIabs
  simp

@[simp] theorem execIneg_canonical (f : Fields) (s : State) : outCanonical (execIneg f s) = s.canonical := by
  unfold execIneg
  simp

@[simp] theorem execLea_canonical (f : Fields) (s : State) : outCanonical (execLea f s) = s.canonical := by
  unfold execLea
  simp

@[simp] theorem execIcmp_canonical (f : Fields) (s : State) : outCanonical (execIcmp f s) = s.canonical := by
  unfold execIcmp
  simp

@[simp] theorem execIdot4_canonical (f : Fields) (s : State) : outCanonical (execIdot4 f s) = s.canonical := by
  unfold execIdot4
  simp

@[simp] theorem execShl_canonical (f : Fields) (s : State) : outCanonical (execShl f s) = s.canonical := by
  unfold execShl
  simp

@[simp] theorem execShr_canonical (f : Fields) (s : State) : outCanonical (execShr f s) = s.canonical := by
  unfold execShr
  simp

@[simp] theorem execSar_canonical (f : Fields) (s : State) : outCanonical (execSar f s) = s.canonical := by
  unfold execSar
  simp

@[simp] theorem execRot_canonical (f : Fields) (s : State) : outCanonical (execRot f s) = s.canonical := by
  unfold execRot
  simp

@[simp] theorem execAnd_canonical (f : Fields) (s : State) : outCanonical (execAnd f s) = s.canonical := by
  unfold execAnd
  simp

@[simp] theorem execOr_canonical (f : Fields) (s : State) : outCanonical (execOr f s) = s.canonical := by
  unfold execOr
  simp

@[simp] theorem execXor_canonical (f : Fields) (s : State) : outCanonical (execXor f s) = s.canonical := by
  unfold execXor
  simp

@[simp] theorem execNot_canonical (f : Fields) (s : State) : outCanonical (execNot f s) = s.canonical := by
  unfold execNot
  simp

@[simp] theorem execLop3_canonical (f : Fields) (s : State) : outCanonical (execLop3 f s) = s.canonical := by
  unfold execLop3
  simp

@[simp] theorem execPopc_canonical (f : Fields) (s : State) : outCanonical (execPopc f s) = s.canonical := by
  unfold execPopc
  simp

@[simp] theorem execClz_canonical (f : Fields) (s : State) : outCanonical (execClz f s) = s.canonical := by
  unfold execClz
  simp

@[simp] theorem execBrev_canonical (f : Fields) (s : State) : outCanonical (execBrev f s) = s.canonical := by
  unfold execBrev
  simp

@[simp] theorem execBfx_canonical (f : Fields) (s : State) : outCanonical (execBfx f s) = s.canonical := by
  unfold execBfx
  simp

@[simp] theorem execBfi_canonical (f : Fields) (s : State) : outCanonical (execBfi f s) = s.canonical := by
  unfold execBfi
  simp

@[simp] theorem execBperm_canonical (f : Fields) (s : State) : outCanonical (execBperm f s) = s.canonical := by
  unfold execBperm
  simp

@[simp] theorem execRng4_canonical (f : Fields) (s : State) : outCanonical (execRng4 f s) = s.canonical := by
  unfold execRng4
  simp

/-! ## Moves -/

@[simp] theorem execMov_canonical (f : Fields) (s : State) : outCanonical (execMov f s) = s.canonical := by
  unfold execMov
  simp

@[simp] theorem execMovi_canonical (f : Fields) (s : State) : outCanonical (execMovi f s) = s.canonical := by
  unfold execMovi
  simp

@[simp] theorem execSel_canonical (f : Fields) (s : State) : outCanonical (execSel f s) = s.canonical := by
  unfold execSel
  simp

@[simp] theorem execPlop_canonical (f : Fields) (s : State) : outCanonical (execPlop f s) = s.canonical := by
  unfold execPlop
  simp

@[simp] theorem execSetfe_canonical (f : Fields) (s : State) : outCanonical (execSetfe f s) = s.canonical := by
  unfold execSetfe
  refine frame_canonical _ _ _ (fun v u => ?_)
  (repeat' split) <;> simp

@[simp] theorem execMovx_canonical (f : Fields) (s : State) : outCanonical (execMovx f s) = s.canonical := by
  unfold execMovx
  refine frame_canonical _ _ _ (fun v u => ?_)
  dsimp only
  (repeat' split) <;> simp

@[simp] theorem execMovxw_canonical (f : Fields) (s : State) : outCanonical (execMovxw f s) = s.canonical := by
  unfold execMovxw
  refine frame_canonical _ _ _ (fun v u => ?_)
  dsimp only
  simp only [outCanonical_next, retire_canonical]
  rw [canonical_foldl, trapLanes_canonical]
  intro s a
  split
  · simp
  · simp

/-! ## Lanes -/

@[simp] theorem execGetid_canonical (f : Fields) (s : State) (hs : s.canonical = true) : outCanonical (execGetid f s)
    = true := by
  unfold execGetid
  refine frame_canonical' _ _ _ (fun v u hs => ?_) hs
  dsimp only
  (repeat' split) <;> simp [hs]

@[simp] theorem execVote_canonical (f : Fields) (s : State) : outCanonical (execVote f s) = s.canonical := by
  unfold execVote
  simp

@[simp] theorem execShfl_canonical (f : Fields) (s : State) : outCanonical (execShfl f s) = s.canonical := by
  unfold execShfl
  simp

@[simp] theorem execGred_canonical (f : Fields) (s : State) : outCanonical (execGred f s) = s.canonical := by
  unfold execGred
  simp

@[simp] theorem execMatchLanes_canonical (f : Fields) (s : State) : outCanonical (execMatchLanes f s) = s.canonical
    := by
  unfold execMatchLanes
  simp

@[simp] theorem packLanes_canonical (i : Instr) (n per : Nat) (s : State) : outCanonical (packLanes i n per s) =
    s.canonical := by
  unfold packLanes
  simp

@[simp] theorem unpackLanes_canonical (i : Instr) (f : Fields) (n per : Nat) (s : State) : outCanonical (unpackLanes i
    f n per s) = s.canonical := by
  unfold unpackLanes
  simp

@[simp] theorem execPack6_canonical (f : Fields) (s : State) : outCanonical (execPack6 f s) = s.canonical := by
  unfold execPack6
  simp

@[simp] theorem execUnpk6_canonical (f : Fields) (s : State) : outCanonical (execUnpk6 f s) = s.canonical := by
  unfold execUnpk6
  simp

@[simp] theorem execPack4_canonical (f : Fields) (s : State) : outCanonical (execPack4 f s) = s.canonical := by
  unfold execPack4
  simp

@[simp] theorem execUnpk4_canonical (f : Fields) (s : State) : outCanonical (execUnpk4 f s) = s.canonical := by
  unfold execUnpk4
  simp

@[simp] theorem execPack8_canonical (f : Fields) (s : State) : outCanonical (execPack8 f s) = s.canonical := by
  unfold execPack8
  simp

@[simp] theorem execUnpk8_canonical (f : Fields) (s : State) : outCanonical (execUnpk8 f s) = s.canonical := by
  unfold execUnpk8
  simp

/-! ## Fpu -/

@[simp] theorem fBinary_canonical (i : Instr) (f : Fields) (op : Fmt → Nat → Nat → Bool → Bool → Nat → Nat → Nat ×
    BitVec 5) (s : State) : outCanonical (fBinary i f op s) = s.canonical := by
  unfold fBinary
  simp

@[simp] theorem execFadd_canonical (f : Fields) (s : State) : outCanonical (execFadd f s) = s.canonical := by
  unfold execFadd
  simp

@[simp] theorem execFsub_canonical (f : Fields) (s : State) : outCanonical (execFsub f s) = s.canonical := by
  unfold execFsub
  simp

@[simp] theorem execFmul_canonical (f : Fields) (s : State) : outCanonical (execFmul f s) = s.canonical := by
  unfold execFmul
  simp

@[simp] theorem execFfma_canonical (f : Fields) (s : State) : outCanonical (execFfma f s) = s.canonical := by
  unfold execFfma
  simp

@[simp] theorem fSelect_canonical (i : Instr) (f : Fields) (larger : Bool) (s : State) : outCanonical (fSelect i f
    larger s) = s.canonical := by
  unfold fSelect
  simp

@[simp] theorem execFmin_canonical (f : Fields) (s : State) : outCanonical (execFmin f s) = s.canonical := by
  unfold execFmin
  simp

@[simp] theorem execFmax_canonical (f : Fields) (s : State) : outCanonical (execFmax f s) = s.canonical := by
  unfold execFmax
  simp

@[simp] theorem execFcmp_canonical (f : Fields) (s : State) : outCanonical (execFcmp f s) = s.canonical := by
  unfold execFcmp
  simp

@[simp] theorem execFclass_canonical (f : Fields) (s : State) : outCanonical (execFclass f s) = s.canonical := by
  unfold execFclass
  simp

@[simp] theorem execFrnd_canonical (f : Fields) (s : State) : outCanonical (execFrnd f s) = s.canonical := by
  unfold execFrnd
  simp

@[simp] theorem packedHalf_canonical (i : Instr) (f : Fields) (op : Fmt → Nat → Bool → Bool → Nat → Nat → Nat → Nat ×
    BitVec 5) (s : State) : outCanonical (packedHalf i f op s) = s.canonical := by
  unfold packedHalf
  simp

@[simp] theorem execHfma2_canonical (f : Fields) (s : State) : outCanonical (execHfma2 f s) = s.canonical := by
  unfold execHfma2
  simp

@[simp] theorem execHadd2_canonical (f : Fields) (s : State) : outCanonical (execHadd2 f s) = s.canonical := by
  unfold execHadd2
  simp

@[simp] theorem execHmul2_canonical (f : Fields) (s : State) : outCanonical (execHmul2 f s) = s.canonical := by
  unfold execHmul2
  simp

@[simp] theorem execCvt_canonical (f : Fields) (s : State) : outCanonical (execCvt f s) = s.canonical := by
  unfold execCvt
  simp

@[simp] theorem execCvtq_canonical (f : Fields) (s : State) : outCanonical (execCvtq f s) = s.canonical := by
  unfold execCvtq
  simp

@[simp] theorem execSclx_canonical (f : Fields) (s : State) : outCanonical (execSclx f s) = s.canonical := by
  unfold execSclx
  simp

@[simp] theorem execFscl_canonical (f : Fields) (s : State) : outCanonical (execFscl f s) = s.canonical := by
  unfold execFscl
  simp

/-! ## Sfu -/

@[simp] theorem sfu_canonical (i : Instr) (f : Fields) (code : Nat) (s : State) : outCanonical (sfu i f code s) =
    s.canonical := by
  unfold sfu
  simp

@[simp] theorem execFrcp_canonical (f : Fields) (s : State) : outCanonical (execFrcp f s) = s.canonical := by
  unfold execFrcp
  simp

@[simp] theorem execFrsq_canonical (f : Fields) (s : State) : outCanonical (execFrsq f s) = s.canonical := by
  unfold execFrsq
  simp

@[simp] theorem execFsqrt_canonical (f : Fields) (s : State) : outCanonical (execFsqrt f s) = s.canonical := by
  unfold execFsqrt
  simp

@[simp] theorem execFexp2_canonical (f : Fields) (s : State) : outCanonical (execFexp2 f s) = s.canonical := by
  unfold execFexp2
  simp

@[simp] theorem execFlog2_canonical (f : Fields) (s : State) : outCanonical (execFlog2 f s) = s.canonical := by
  unfold execFlog2
  simp

@[simp] theorem execFsin_canonical (f : Fields) (s : State) : outCanonical (execFsin f s) = s.canonical := by
  unfold execFsin
  simp

@[simp] theorem execFcos_canonical (f : Fields) (s : State) : outCanonical (execFcos f s) = s.canonical := by
  unfold execFcos
  simp

@[simp] theorem execFtanh_canonical (f : Fields) (s : State) : outCanonical (execFtanh f s) = s.canonical := by
  unfold execFtanh
  simp

/-! ## Land -/

@[simp] theorem landReg_canonical (t gi seq reg : Nat) (vals : Map Word) (marks : LaneSet) (cnts : Map Nat) (s :
    State) : (landReg t gi seq reg vals marks cnts s).canonical = s.canonical := by
  unfold landReg
  dsimp only
  (repeat' split) <;> simp

@[simp] theorem landWords_canonical (t gi : Nat) (o : LongOp) (s : State) : (landWords t gi o s).canonical =
    s.canonical := by
  unfold landWords
  refine canonical_foldl _ (fun u a => ?_) _ _
  dsimp only
  (repeat' split) <;> simp

@[simp] theorem landOp_canonical (t gi id : Nat) (s : State) : (landOp t gi id s).canonical = s.canonical := by
  unfold landOp
  split <;> simp

@[simp] theorem landResult_canonical (t gi id : Nat) (s : State) : (landResult t gi id s).canonical = s.canonical := by
  unfold landResult
  (repeat' split) <;> simp

@[simp] theorem execSfuResultLands_canonical (team group op : Nat) (s : State) : outCanonical (execSfuResultLands team
    group op s) = s.canonical := by
  unfold execSfuResultLands
  dsimp only
  (repeat' split) <;> simp [canonical_foldl]

/-! ## Turn -/

@[simp] theorem State.advance_canonical (s : State) (dt : Nat) : (State.advance s dt).canonical = s.canonical := by
  unfold State.advance
  split <;> simp

/-! ## Local -/

@[simp] theorem writeReach_canonical (t : Nat) (shadow : Bool) (bs : List Byte) (s : State) (r : Reach) (hs :
    s.canonical = true) : (writeReach t shadow bs s r).canonical = true := by
  cases r <;> simp only [writeReach, State.modTeam_canonical, hs]
  unfold State.canonical at hs ⊢
  simp only [Bool.and_eq_true] at hs
  simp [hs, Memory.wf_putBytes]

@[simp] theorem queueLocal_canonical (v : View) (insn kind typ aop : Nat) (quiet : Bool) (parts : List (Nat × Nat × List
    MemElem)) (s : State) : (queueLocal v insn kind typ aop quiet parts s).canonical = s.canonical := by
  unfold queueLocal
  simp

@[simp] theorem sendLocal_canonical (v : View) (insn kind aop : Nat) (quiet shadow : Bool) (rs : List (Nat × Reach))
    (data cmp : Nat → Nat) (s : State) : (sendLocal v insn kind aop quiet shadow rs data cmp s).canonical =
    s.canonical := by
  unfold sendLocal
  simp

@[simp] theorem localLoad_canonical (i : Instr) (f : Fields) (long : Nat) (reach : View → State → Nat → Nat → Nat →
    Except (Nat × Nat) Reach) (s : State) : outCanonical (localLoad i f long reach s) = s.canonical := by
  unfold localLoad
  exact frame_canonical _ _ _ (fun v u => by simp)

@[simp] theorem localStore_canonical (i : Instr) (f : Fields) (space : Nat) (shadow : Bool) (reach : View → State →
    Nat → Nat → Nat → Except (Nat × Nat) Reach) (s : State) : outCanonical (localStore i f space shadow reach s) =
    s.canonical := by
  unfold localStore
  exact frame_canonical _ _ _ (fun v u => by simp)

@[simp] theorem localAtomic_canonical (i : Instr) (f : Fields) (space : Nat) (reach : View → State → Nat → Nat → Nat →
    Except (Nat × Nat) Reach) (s : State) : outCanonical (localAtomic i f space reach s) = s.canonical := by
  unfold localAtomic
  refine frame_canonical _ _ _ (fun v u => ?_)
  simp only [outCanonical_next, retire_canonical, sendLocal_canonical]
  split <;> simp

@[simp] theorem execLds_canonical (f : Fields) (s : State) : outCanonical (execLds f s) = s.canonical := by
  unfold execLds
  simp

@[simp] theorem execSts_canonical (f : Fields) (s : State) : outCanonical (execSts f s) = s.canonical := by
  unfold execSts
  simp

@[simp] theorem execAtoms_canonical (f : Fields) (s : State) : outCanonical (execAtoms f s) = s.canonical := by
  unfold execAtoms
  simp

@[simp] theorem execLdw_canonical (f : Fields) (s : State) : outCanonical (execLdw f s) = s.canonical := by
  unfold execLdw
  simp

@[simp] theorem execStw_canonical (f : Fields) (s : State) : outCanonical (execStw f s) = s.canonical := by
  unfold execStw
  simp

@[simp] theorem execStx_canonical (f : Fields) (s : State) : outCanonical (execStx f s) = s.canonical := by
  unfold execStx
  simp

@[simp] theorem execLdk_canonical (f : Fields) (s : State) : outCanonical (execLdk f s) = s.canonical := by
  unfold execLdk
  simp

@[simp] theorem execStk_canonical (f : Fields) (s : State) : outCanonical (execStk f s) = s.canonical := by
  unfold execStk
  simp

@[simp] theorem execAtomk_canonical (f : Fields) (s : State) : outCanonical (execAtomk f s) = s.canonical := by
  unfold execAtomk
  simp

@[simp] theorem execSbar_canonical (f : Fields) (s : State) : outCanonical (execSbar f s) = s.canonical := by
  unfold execSbar
  refine frame_canonical _ _ _ (fun v u => ?_)
  split <;> simp

@[simp] theorem execJoin_canonical (f : Fields) (s : State) (hs : s.canonical = true) : outCanonical (execJoin f s) =
    true := by
  unfold execJoin
  refine frame_canonical' _ _ _ (fun v u hs => ?_) hs
  dsimp only
  (repeat' split) <;> simp [hs]

@[simp] theorem execLeave_canonical (f : Fields) (s : State) : outCanonical (execLeave f s) = s.canonical := by
  unfold execLeave
  refine frame_canonical _ _ _ (fun v u => ?_)
  dsimp only
  split <;> simp

@[simp] theorem State.backRead_canonical (s : State) (tm : Team) (g : Group) (va n : Nat) (hs : s.canonical = true) :
    (State.backRead s tm g va n).2.canonical = true := by
  unfold State.backRead
  refine canonical_foldlP' (fun u a hs => ?_) _ _ hs
  (repeat' split) <;> simp [hs]

@[simp] theorem State.backWrite_canonical (s : State) (tm : Team) (va : Nat) (bs : List Byte) (hs : s.canonical =
    true) : (s.backWrite tm va bs).canonical = true := by
  unfold State.backWrite
  refine canonical_foldl' (fun s a hs => ?_) _ _ hs
  split <;> simp [hs]

@[simp] theorem State.violate_canonical (s : State) (v : View) (va : Nat) : (State.violate s v va).canonical =
    s.canonical := by
  unfold State.violate
  split <;> simp

@[simp] theorem State.pageFault_canonical (s : State) (t : Nat) (pf : PageFault) : (State.pageFault s t pf).canonical
    = s.canonical := by
  unfold State.pageFault
  simp

@[simp] theorem sliceAccess_canonical (i : Instr) (write : Bool) (check : View → Nat → Except (Nat × Nat) SliceReach)
    (effect : View → List (Nat × SliceReach) → State → Out) (s : State) (h : ∀ v rs u, u.canonical = true →
    outCanonical (effect v rs u) = true) (hs : s.canonical = true) : outCanonical (sliceAccess i write check effect s)
    = true := by
  unfold sliceAccess
  refine frame_canonical' _ _ _ (fun v u hs => ?_) hs
  dsimp only
  (repeat' split) <;> first
    | (simp [hs]; done)
    | (apply h; simp [hs])

@[simp] theorem sliceStore_canonical (cycles n : Nat) (value : View → Nat → Nat) (v : View) (rs : List (Nat ×
    SliceReach)) (s : State) (hs : s.canonical = true) : outCanonical (sliceStore cycles n value v rs s) = true := by
  unfold sliceStore
  simp (maxDischargeDepth := 20) +contextual [hs, canonical_foldl', canonical_foldlP']

@[simp] theorem sliceLoad_canonical (cycles regs : Nat) (extend : Nat → Nat) (v : View) (rs : List (Nat × SliceReach))
    (s : State) (hs : s.canonical = true) : outCanonical (sliceLoad cycles regs extend v rs s) = true := by
  unfold sliceLoad
  dsimp only
  simp only [outCanonical_next, retire_canonical, sendLong_canonical, State.fresh_canonical, countExec_canonical]
  exact canonical_foldlP' (fun p a hs => by simp [hs]) _ _ hs

@[simp] theorem execSpill_canonical (f : Fields) (s : State) (hs : s.canonical = true) : outCanonical (execSpill f s)
    = true := by
  unfold execSpill
  simp (maxDischargeDepth := 20) +contextual [hs, canonical_foldl', canonical_foldlP']

@[simp] theorem execFill_canonical (f : Fields) (s : State) (hs : s.canonical = true) : outCanonical (execFill f s) =
    true := by
  unfold execFill
  simp (maxDischargeDepth := 20) +contextual [hs, canonical_foldl', canonical_foldlP']

@[simp] theorem execLdl_canonical (f : Fields) (s : State) (hs : s.canonical = true) : outCanonical (execLdl f s) =
    true := by
  unfold execLdl
  simp (maxDischargeDepth := 20) +contextual [hs, canonical_foldl', canonical_foldlP']

@[simp] theorem execStl_canonical (f : Fields) (s : State) (hs : s.canonical = true) : outCanonical (execStl f s) =
    true := by
  unfold execStl
  simp (maxDischargeDepth := 20) +contextual [hs, canonical_foldl', canonical_foldlP']

/-! ## MemPipe -/

@[simp] theorem loadDone_canonical (t gi : Nat) (o : MemOp) (lane x : Nat) (s : State) : (loadDone t gi o lane x
    s).canonical = s.canonical := by
  unfold loadDone
  simp

@[simp] theorem tryLoads_canonical (t gi : Nat) (o : MemOp) (s : State) : (tryLoads t gi o s).canonical = s.canonical
    := by
  unfold tryLoads
  refine canonical_foldl _ (fun u a => ?_) _ _
  (repeat' split) <;> simp

@[simp] theorem globalLoad_canonical (i : Instr) (f : Fields) (kind : MemKind) (s : State) : outCanonical (globalLoad
    i f kind s) = s.canonical := by
  unfold globalLoad
  refine frame_canonical _ _ _ (fun v u => ?_)
  (repeat' split) <;> simp

@[simp] theorem globalStore_canonical (i : Instr) (f : Fields) (kind : MemKind) (s : State) : outCanonical
    (globalStore i f kind s) = s.canonical := by
  unfold globalStore
  refine frame_canonical _ _ _ (fun v u => ?_)
  (repeat' split) <;> simp

@[simp] theorem execLd_canonical (f : Fields) (s : State) : outCanonical (execLd f s) = s.canonical := by
  unfold execLd
  simp

@[simp] theorem execLdq_canonical (f : Fields) (s : State) : outCanonical (execLdq f s) = s.canonical := by
  unfold execLdq
  simp

@[simp] theorem execSt_canonical (f : Fields) (s : State) : outCanonical (execSt f s) = s.canonical := by
  unfold execSt
  simp

@[simp] theorem execStq_canonical (f : Fields) (s : State) : outCanonical (execStq f s) = s.canonical := by
  unfold execStq
  simp

@[simp] theorem execAtom_canonical (f : Fields) (s : State) : outCanonical (execAtom f s) = s.canonical := by
  unfold execAtom
  simp

@[simp] theorem execRed_canonical (f : Fields) (s : State) : outCanonical (execRed f s) = s.canonical := by
  unfold execRed
  simp

@[simp] theorem execCas_canonical (f : Fields) (s : State) : outCanonical (execCas f s) = s.canonical := by
  unfold execCas
  simp

@[simp] theorem State.dropL1_canonical (s : State) (core : Nat) (l : L1Line) (hs : s.canonical = true) : (State.dropL1
    s core l).canonical = true := by
  unfold State.dropL1
  refine canonical_foldl' (fun u a hs => ?_) _ _ hs
  simp [hs]

@[simp] theorem State.roomL1_canonical (s : State) (core va asid : Nat) (hs : s.canonical = true) : (State.roomL1 s
    core va asid).canonical = true := by
  unfold State.roomL1
  dsimp only
  (repeat' split) <;> simp [hs]

@[simp] theorem State.fillL1_canonical (s : State) (core va asid pa leaf : Nat) (sectors : BitVec 4) (bs : List Byte)
    (hs : s.canonical = true) : (State.fillL1 s core va asid pa leaf sectors bs).canonical = true := by
  unfold State.fillL1
  simp [hs]

@[simp] theorem State.bring_canonical (s : State) (tm : Team) (asid : Nat) (l1 : Bool) (x : Nat) (hs : s.canonical = true) :
    (State.bring s tm asid l1 x).canonical = true := by
  unfold State.bring
  dsimp only
  (repeat' split) <;> simp [hs]

@[simp] theorem prefetch_canonical (t : Nat) (tm : Team) (asid : Nat) (l1 : Bool) (x : Nat) (s : State) (hs : s.canonical =
    true) : (prefetch t tm asid l1 x s).canonical = true := by
  unfold prefetch
  (repeat' split) <;> simp [hs]

@[simp] theorem execPfch_canonical (f : Fields) (s : State) (hs : s.canonical = true) : outCanonical (execPfch f s) =
    true := by
  unfold execPfch
  refine frame_canonical' _ _ _ (fun v u hs => ?_) hs
  simp only [outCanonical_next, retire_canonical, countExec_canonical]
  split
  · exact hs
  · exact canonical_foldl' (fun s a hs => by simp [hs]) _ _ hs

@[simp] theorem execLogv_canonical (f : Fields) (s : State) (hs : s.canonical = true) : outCanonical (execLogv f s) =
    true := by
  unfold execLogv
  refine frame_canonical' _ _ _ (fun v u hs => ?_) hs
  split <;> simp [hs]

@[simp] theorem execFence_canonical (f : Fields) (s : State) : outCanonical (execFence f s) = s.canonical := by
  unfold execFence
  refine frame_canonical _ _ _ (fun v u => ?_)
  split <;> simp

@[simp] theorem execAfence_canonical (f : Fields) (s : State) : outCanonical (execAfence f s) = s.canonical := by
  unfold execAfence
  refine frame_canonical _ _ _ (fun v u => ?_)
  dsimp only
  split <;> simp

@[simp] theorem State.dropPending_canonical (s : State) (t gi id : Nat) : (State.dropPending s t gi id).canonical =
    s.canonical := by
  unfold State.dropPending
  simp

@[simp] theorem State.selfInvalidate_canonical (s : State) (core : Nat) : (State.selfInvalidate s core).canonical =
    s.canonical := rfl

@[simp] theorem execFenceComplete_canonical (team group fence : Nat) (s : State) : outCanonical (execFenceComplete
    team group fence s) = s.canonical := by
  unfold execFenceComplete
  (repeat' split) <;> simp

@[simp] theorem State.accessFault_canonical (s : State) (t gi addr idx lane va : Nat) : (State.accessFault s t gi addr idx lane va).canonical =
    s.canonical := by
  unfold State.accessFault
  (repeat' split) <;> simp

@[simp] theorem State.pendingFault_canonical (s : State) (t gi : Nat) (p : Pending) (va : Nat) : (State.pendingFault s t gi p
    va).canonical = s.canonical := by
  unfold State.pendingFault
  simp

@[simp] theorem State.purgeL1_canonical (s : State) (core pa n : Nat) (hs : s.canonical = true) : (State.purgeL1 s
    core pa n).canonical = true :=
  canonical_foldl' (f := State.giveUp) (fun u a hs => State.giveUp_canonical u a hs) _ _ hs

@[simp] theorem execAfenceComplete_canonical (team group fence : Nat) (s : State) (hs : s.canonical = true) :
    outCanonical (execAfenceComplete team group fence s) = true := by
  unfold execAfenceComplete
  dsimp only
  (repeat' split) <;> simp (maxDischargeDepth := 20) +contextual [hs, canonical_foldl', canonical_foldlP']

@[simp] theorem useLeaf_canonical (t gi : Nat) (o : MemOp) (line leaf pa : Nat) (s : State) (hs : s.canonical = true)
    : (useLeaf t gi o line leaf pa s).canonical = true := by
  unfold useLeaf
  dsimp only
  (repeat' split) <;> simp [hs]

@[simp] theorem execLineRequestTranslation_canonical (team group op line : Nat) (s : State) (hs : s.canonical = true)
    : outCanonical (execLineRequestTranslation team group op line s) = true := by
  unfold execLineRequestTranslation
  dsimp only
  (repeat' split) <;> simp [hs]

@[simp] theorem State.answerWalk_canonical (s : State) (w : Walk) (hs : s.canonical = true) : (State.answerWalk s w).canonical
    = true := by
  unfold State.answerWalk
  refine canonical_foldl' (fun u k hu => ?_) _ _ hs
  (repeat' split) <;> simp [hu]

@[simp] theorem execWalkCompletes_canonical (walk : Nat) (s : State) (hs : s.canonical = true) : outCanonical
    (execWalkCompletes walk s) = true := by
  unfold execWalkCompletes
  dsimp only
  (repeat' split) <;> simp [hs, canonical_foldl]

/-! ## Ctrl -/

@[simp] theorem View.modRun_canonical (v : View) (f : ClauseRun → ClauseRun) (s : State) : (View.modRun v f
    s).canonical = s.canonical := by
  unfold View.modRun
  simp

@[simp] theorem plain_canonical (v : View) (s : State) : outCanonical (plain v s) = s.canonical := by
  unfold plain
  simp

@[simp] theorem transfer_canonical (i : Instr) (link : Bool) (target : View → Nat → Option Nat) (s : State) :
    outCanonical (transfer i link target s) = s.canonical := by
  unfold transfer
  simp

@[simp] theorem execBra_canonical (f : Fields) (s : State) : outCanonical (execBra f s) = s.canonical := by
  unfold execBra
  simp

@[simp] theorem execBrc_canonical (f : Fields) (s : State) : outCanonical (execBrc f s) = s.canonical := by
  unfold execBrc
  simp

@[simp] theorem execBrx_canonical (f : Fields) (s : State) : outCanonical (execBrx f s) = s.canonical := by
  unfold execBrx
  simp

@[simp] theorem execRet_canonical (f : Fields) (s : State) : outCanonical (execRet f s) = s.canonical := by
  unfold execRet
  simp

@[simp] theorem execCall_canonical (f : Fields) (s : State) : outCanonical (execCall f s) = s.canonical := by
  unfold execCall
  simp

@[simp] theorem execCallx_canonical (f : Fields) (s : State) : outCanonical (execCallx f s) = s.canonical := by
  unfold execCallx
  simp

@[simp] theorem execExit_canonical (f : Fields) (s : State) : outCanonical (execExit f s) = s.canonical := by
  unfold execExit
  simp

@[simp] theorem execYield_canonical (f : Fields) (s : State) : outCanonical (execYield f s) = s.canonical := by
  unfold execYield
  simp

@[simp] theorem execKset_canonical (f : Fields) (s : State) : outCanonical (execKset f s) = s.canonical := by
  unfold execKset
  refine frame_canonical _ _ _ (fun v u => ?_)
  dsimp only
  split <;> simp

@[simp] theorem execKwait_canonical (f : Fields) (s : State) : outCanonical (execKwait f s) = s.canonical := by
  unfold execKwait
  simp

@[simp] theorem execBar_canonical (f : Fields) (s : State) : outCanonical (execBar f s) = s.canonical := by
  unfold execBar
  refine frame_canonical _ _ _ (fun v u => ?_)
  split <;> simp

@[simp] theorem trapNow_canonical (i : Instr) (f : Fields) (cause : Nat) (s : State) : outCanonical (trapNow i f cause
    s) = s.canonical := by
  unfold trapNow
  simp [canonical_foldl]

@[simp] theorem execTrap_canonical (f : Fields) (s : State) : outCanonical (execTrap f s) = s.canonical := by
  unfold execTrap
  simp

@[simp] theorem execBrk_canonical (f : Fields) (s : State) : outCanonical (execBrk f s) = s.canonical := by
  unfold execBrk
  simp

@[simp] theorem execTret_canonical (f : Fields) (s : State) : outCanonical (execTret f s) = s.canonical := by
  unfold execTret
  simp

@[simp] theorem execHalt_canonical (f : Fields) (s : State) : outCanonical (execHalt f s) = s.canonical := by
  unfold execHalt
  refine frame_canonical _ _ _ (fun v u => ?_)
  split <;> simp

@[simp] theorem readValue_canonical (i : Instr) (n : Nat) (logged : Bool) (value : View → State → Nat → Nat) (s :
    State) (hs : s.canonical = true) : outCanonical (readValue i n logged value s) = true := by
  unfold readValue
  refine frame_canonical' _ _ _ (fun v u hs => ?_) hs
  (repeat' split) <;> simp [hs]

@[simp] theorem execCrr_canonical (f : Fields) (s : State) (hs : s.canonical = true) : outCanonical (execCrr f s) =
    true := by
  unfold execCrr
  simp [hs]

@[simp] theorem execTime_canonical (f : Fields) (s : State) (hs : s.canonical = true) : outCanonical (execTime f s) =
    true := by
  unfold execTime
  simp [hs]

@[simp] theorem execCyc_canonical (f : Fields) (s : State) (hs : s.canonical = true) : outCanonical (execCyc f s) =
    true := by
  unfold execCyc
  simp [hs]

@[simp] theorem crWrite_canonical (v : View) (n l x : Nat) (s : State) : (crWrite v n l x s).canonical = s.canonical
    := by
  unfold crWrite
  split <;> simp

@[simp] theorem execCrw_canonical (f : Fields) (s : State) : outCanonical (execCrw f s) = s.canonical := by
  unfold execCrw
  simp [canonical_foldl]

@[simp] theorem execPreq_canonical (f : Fields) (s : State) (hs : s.canonical = true) : outCanonical (execPreq f s) =
    true := by
  unfold execPreq
  refine frame_canonical' _ _ _ (fun v u hs => ?_) hs
  split <;> simp [hs]

@[simp] theorem signRecords_canonical (v : View) (rs : List (Nat × Nat)) (s : State) : (signRecords v rs s).canonical
    = s.canonical := by
  unfold signRecords
  split
  · rfl
  · exact canonical_foldl _ (fun u a => by simp) _ _

@[simp] theorem sendRecords_canonical (v : View) (insn aop : Nat) (quiet : Bool) (rs : List (Nat × Nat)) (data cmp : Nat → Nat)
    (s : State) : (sendRecords v insn aop quiet rs data cmp s).canonical = s.canonical := by
  unfold sendRecords
  simp

@[simp] theorem execJadd_canonical (f : Fields) (s : State) : outCanonical (execJadd f s) = s.canonical := by
  unfold execJadd
  refine frame_canonical _ _ _ (fun v u => ?_)
  dsimp only
  split <;> simp

@[simp] theorem State.spawn_canonical (s : State) (p asid rec block succ unit : Nat) (u : UnitFault) (hs : s.canonical =
    true) : (State.spawn s p asid rec block succ unit u).2.canonical = true := by
  unfold State.spawn
  dsimp only
  (repeat' split) <;> first
    | exact hs
    | (simp (maxDischargeDepth := 20) [hs]; done)

@[simp] theorem armLanes_canonical (i : Instr) (aop : Nat) (data cmp : View → Nat → Nat) (s : State) : outCanonical (armLanes
    i aop data cmp s) = s.canonical := by
  unfold armLanes
  exact frame_canonical _ _ _ (fun v u => by simp)

@[simp] theorem execLaunch_canonical (f : Fields) (s : State) : outCanonical (execLaunch f s) = s.canonical := by
  unfold execLaunch
  simp

@[simp] theorem execSpawn_canonical (f : Fields) (s : State) : outCanonical (execSpawn f s) = s.canonical := by
  unfold execSpawn
  simp

/-! ## Gate -/

@[simp] theorem State.publishRanges_canonical (s : State) (rs : List (Nat × Nat)) (scope origin : Nat) (tag : Nat →
    Bool) (mine : HeldLine → Bool) (hs : s.canonical = true) : (State.publishRanges s rs scope origin tag
    mine).canonical = true := by
  unfold State.publishRanges
  refine canonical_foldl' (fun u a hs => ?_) _ _ hs
  split <;> simp [hs]

@[simp] theorem execPublish_canonical (f : Fields) (s : State) : outCanonical (execPublish f s) = s.canonical := by
  unfold execPublish
  refine frame_canonical _ _ _ (fun v u => ?_)
  dsimp only
  rw [outCanonical_next, retire_canonical]
  have h : ∀ (rs : List (Nat × Nat × Nat)) (f : State → Nat × Nat × Nat → State), (∀ w r, (f w r).canonical = w.canonical) →
      ∀ bad lanes, (countExec v.t v.gi lanes (rs.foldl f (trapLanes v bad u))).canonical = u.canonical := fun rs f hf bad lanes => by
    rw [countExec_canonical, canonical_foldl f hf, trapLanes_canonical]
  split
  · rw [State.fresh_canonical]
    exact h _ _ (fun w r => by split <;> simp) _ _
  · rw [State.modGroup_canonical, State.fresh_canonical]
    exact h _ _ (fun w r => by split <;> simp) _ _

@[simp] theorem execPublishComplete_canonical (team group fence : Nat) (s : State) (hs : s.canonical = true) :
    outCanonical (execPublishComplete team group fence s) = true := by
  unfold execPublishComplete
  dsimp only
  (repeat' split) <;> simp [hs]

@[simp] theorem execPubCtrlGo_canonical (part : Nat) (value : Dword) (s : State) (hs : s.canonical = true) :
    outCanonical (execPubCtrlGo part value s) = true := by
  unfold execPubCtrlGo
  dsimp only
  (repeat' split) <;> simp [hs]

@[simp] theorem State.gateEntry_canonical (s : State) (p asid n : Nat) (u : UnitFault) (hs : s.canonical = true) :
    (State.gateEntry s p asid n u).2.canonical = true := by
  unfold State.gateEntry
  dsimp only
  (repeat' split) <;> simp [hs]

@[simp] theorem execGate_canonical (f : Fields) (s : State) (hs : s.canonical = true) : outCanonical (execGate f s) = true := by
  unfold execGate
  refine frame_canonical' _ _ _ (fun v u hu => ?_) hs
  dsimp only
  split
  · simp [hu]
  · have h : ∀ c : Prop, ∀ [Decidable c] (x : Except Unit (Option GateEntry) × State), x.2.canonical = true →
        (if c then (.ok none, u) else x).2.canonical = true := fun c _ x hx => by split <;> simp [hu, hx]
    split <;> simp only [plain_canonical, State.violate_canonical, State.modGroup_canonical] <;>
      exact h _ _ (State.gateEntry_canonical _ _ _ _ _ hu)

@[simp] theorem execGret_canonical (f : Fields) (s : State) : outCanonical (execGret f s) = s.canonical := by
  unfold execGret
  simp

@[simp] theorem gateStatus_canonical (t gi : Nat) (c : GateCall) (st : Nat → Nat) (s : State) : (gateStatus t gi c st
    s).canonical = s.canonical := by
  unfold gateStatus
  dsimp only
  (repeat' split) <;> simp [canonical_foldl]

@[simp] theorem endCall_canonical (t gi : Nat) (c : GateCall) (st : Nat → Nat) (s : State) : (endCall t gi c st
    s).canonical = s.canonical := by
  unfold endCall
  (repeat' split) <;> simp

@[simp] theorem takeCall_canonical (t gi l : Nat) (c : GateCall) (s : State) : (takeCall t gi l c s).2.canonical =
    s.canonical := by
  unfold takeCall
  simp [canonical_foldl, canonical_foldlP]

@[simp] theorem replayCall_canonical (t gi : Nat) (c : GateCall) (s : State) : (replayCall t gi c s).canonical =
    s.canonical := by
  unfold replayCall
  simp [canonical_foldl, canonical_foldlP]

theorem State.claim_canonical (s : State) (die p : Nat) (c : GateCall) (k : Nat) (taken : Bool) (t : State) (h : s.claim die p
    c k taken = some t) (hs : s.canonical = true) : t.canonical = true := by
  unfold State.claim at h
  repeat' (split at h)
  all_goals first | cases h | exact State.pinWrite_canonical _ _ _ _ _ _ _ h hs

@[simp] theorem State.callFault_canonical (s : State) (t gi : Nat) (c : GateCall) (va : Nat) : (State.callFault s t gi c
    va).canonical = s.canonical := by
  unfold State.callFault
  simp

@[simp] theorem execGateEntry_canonical (team group : Nat) (s : State) (hs : s.canonical = true) : outCanonical
    (execGateEntry team group s) = true := by
  unfold execGateEntry
  dsimp only
  (repeat' split) <;> try (simp [hs]; done)
  rename_i h
  rw [Option.bind_eq_some_iff] at h
  obtain ⟨a, h1, h2⟩ := h
  have := State.pinWrite_canonical _ _ _ _ _ _ _ h2 (State.claim_canonical _ _ _ _ _ _ _ h1 (by simp [hs]))
  simp only [outCanonical_next, State.modTeam_canonical, canonical_mk, canonical_fold]
  exact this

@[simp] theorem execGateCompletion_canonical (team group : Nat) (s : State) (hs : s.canonical = true) : outCanonical
    (execGateCompletion team group s) = true := by
  unfold execGateCompletion
  dsimp only
  split
  · split
    · exact hs
    · split
      · exact hs
      · split
        · simp [hs]
        · split
          · exact hs
          · split
            · simp [hs]
            · rename_i h
              have h1 := State.claim_canonical _ _ _ _ _ _ _ h (by simp [hs])
              simp only [outCanonical_next, endCall_canonical]
              split
              · refine canonical_foldl' (fun s a hs => ?_) _ _ h1
                refine addLog_canonical _ _ _ ?_
                exact canonical_foldl' (fun s a hs => addLog_canonical _ _ _ hs) _ _ hs
              · exact h1
  · exact hs

/-! ## Hold -/

theorem State.holdBytes_canonical (s : State) (tm : Team) (view pa : Nat) (bs : List Byte) (t : State) (hs :
    s.canonical = true) (h : s.holdBytes tm view pa bs = some t) : t.canonical = true := by
  unfold State.holdBytes at h
  dsimp only at h
  split at h
  · cases h; exact hs
  · split at h
    · cases h
    · cases h
      split
      · exact State.freeWay_canonical s _ hs
      · exact hs
theorem State.runStore_canonical (s : State) (tm : Team) (leaf pa : Nat) (bs : List Byte) (t : State) (hs : s.canonical =
    true) (h : s.runStore tm leaf pa bs = .ok t) : t.canonical = true := by
  have key : ∀ x, (match s.holdBytes tm (s.viewOf leaf pa) pa bs with
      | some s => Except.ok s
      | none => Except.error 3) = x → x = (Except.ok t : Except Nat State) → t.canonical = true := by
    intro x hx h
    split at hx <;> rename_i h1
    · subst hx; cases h; exact State.holdBytes_canonical _ _ _ _ _ _ hs h1
    · subst hx; cases h
  unfold State.runStore at h
  dsimp only at h
  split at h
  · cases h; simp [hs]
  · cases h; exact hs
  · split at h
    · cases h
    · exact key _ rfl h
  · exact key _ rfl h

/-! ## Engine -/

@[simp] theorem sendCommand_canonical (i : Instr) (s : State) : outCanonical (sendCommand i s) = s.canonical := by
  unfold sendCommand
  refine frameWith_canonical _ _ _ _ (fun v u => ?_)
  dsimp only
  (repeat' split) <;> simp

@[simp] theorem execCpy_canonical (f : Fields) (s : State) : outCanonical (execCpy f s) = s.canonical := by
  unfold execCpy
  simp

@[simp] theorem execCpyt_canonical (f : Fields) (s : State) : outCanonical (execCpyt f s) = s.canonical := by
  unfold execCpyt
  simp

@[simp] theorem execGthr_canonical (f : Fields) (s : State) : outCanonical (execGthr f s) = s.canonical := by
  unfold execGthr
  simp

@[simp] theorem execSctr_canonical (f : Fields) (s : State) : outCanonical (execSctr f s) = s.canonical := by
  unfold execSctr
  simp

@[simp] theorem execColl_canonical (f : Fields) (s : State) : outCanonical (execColl f s) = s.canonical := by
  unfold execColl
  simp

@[simp] theorem execBin_canonical (f : Fields) (s : State) : outCanonical (execBin f s) = s.canonical := by
  unfold execBin
  simp

@[simp] theorem execRel_canonical (f : Fields) (s : State) : outCanonical (execRel f s) = s.canonical := by
  unfold execRel
  simp

@[simp] theorem execMirr_canonical (f : Fields) (s : State) : outCanonical (execMirr f s) = s.canonical := by
  unfold execMirr
  simp

@[simp] theorem execFillz_canonical (f : Fields) (s : State) : outCanonical (execFillz f s) = s.canonical := by
  unfold execFillz
  simp

@[simp] theorem execZmap_canonical (f : Fields) (s : State) : outCanonical (execZmap f s) = s.canonical := by
  unfold execZmap
  simp

@[simp] theorem State.dropBuffers_canonical (s : State) (tm : Team) (name asid : Nat) : (s.dropBuffers tm name
    asid).canonical = s.canonical := by
  unfold State.dropBuffers
  refine canonical_foldl _ (fun s r => canonical_foldl _ (fun s c => ?_) _ _) _ _
  split
  · rfl
  · rfl

@[simp] theorem State.observe_canonical (s : State) (t gi : Nat) : (s.observe t gi).canonical = s.canonical := by
  unfold State.observe
  split
  · rw [State.modGroup_canonical]
    exact canonical_foldl _ (fun s x => State.dropBuffers_canonical s _ _ _) _ _
  · rfl

@[simp] theorem execSeqw_canonical (f : Fields) (s : State) : outCanonical (execSeqw f s) = s.canonical := by
  unfold execSeqw
  refine frame_canonical _ _ _ (fun v u => ?_)
  dsimp only
  (repeat' split) <;> simp

@[simp] theorem execSeqr_canonical (f : Fields) (s : State) (hs : s.canonical = true) : outCanonical (execSeqr f s) =
    true := by
  unfold execSeqr
  refine frame_canonical' _ _ _ (fun v u hs => ?_) hs
  dsimp only
  split
  · simp [hs]
  · rw [finish_canonical]
    split
    · simp [hs]
    · exact lanesThroughLog_canonical _ _ _ _ _ _ hs

@[simp] theorem State.modCommand_canonical (s : State) (id : Nat) (f : Command → Command) : (State.modCommand s id
    f).canonical = s.canonical := rfl

@[simp] theorem State.rotateQueue_canonical (s : State) (c : Command) : (State.rotateQueue s c).canonical =
    s.canonical := rfl

@[simp] theorem execCommandAccept_canonical (command : Nat) (s : State) : outCanonical (execCommandAccept command s) =
    s.canonical := by
  unfold execCommandAccept
  (repeat' split) <;> simp

/-! ## EngineRun -/

@[simp] theorem State.logPiece_canonical (s : State) (t : Nat) (c : Command) (va : Nat) (hs : s.canonical = true) :
    (State.logPiece s t c va).canonical = true := by
  unfold State.logPiece
  dsimp only
  (repeat' split) <;> simp (maxDischargeDepth := 20) +contextual [hs, canonical_foldl', canonical_foldlP']

theorem canonical_kpad (s : State) (a : Nat) (bs : List Byte) (hs : s.canonical = true) :
    ({ s with kpad := Memory.putBytes s.kpad a bs } : State).canonical = true := by
  unfold State.canonical at hs ⊢
  simp only [Bool.and_eq_true] at hs
  simp [hs, Memory.wf_putBytes]
theorem State.putPiece_canonical (s : State) (t : Nat) (c : Command) (p : Piece) (bs : List Byte) (u : State) (hs :
    s.canonical = true) (h : s.putPiece t c p bs = .ok u) : u.canonical = true := by
  have sign : ∀ (b : Prop) [Decidable b] (w : State), w.canonical = true →
      (if b then w else w.modCommand c.id (fun c => c.wrote p.dk p.dst bs) : State).canonical = true := by
    intro b _ w hw
    split <;> simp [hw]
  unfold State.putPiece at h
  split at h
  · cases h; exact hs
  · dsimp only at h
    split at h
    · split at h
      · cases h; exact sign _ _ hs
      · split at h
        · cases hr : (State.runStore _ _ _ _ _ : Except Nat State) with
          | error e => rw [hr] at h; cases h
          | ok w =>
            rw [hr] at h; cases h
            exact sign _ _ (State.runStore_canonical _ _ _ _ _ _ (by simp [hs]) hr)
        · cases h; exact hs
    · cases h; exact sign _ _ (by simp [hs])
    · split at h
      · cases h; exact sign _ _ hs
      · split at h <;> (cases h; exact sign _ _ (by simp [hs]))
    · cases h
      refine sign _ _ ?_
      split
      · exact hs
      · exact canonical_kpad _ _ _ hs

@[simp] theorem State.putPieces_canonical (s : State) (t : Nat) (tm : Team) (c : Command) (pbs : List (Piece × List Byte))
    (hs : s.canonical = true) : (s.putPieces t tm c pbs).1.canonical = true := by
  have key : ∀ (xs : List (Piece × List Byte)) (acc : State × List Piece), acc.1.canonical = true →
      (xs.foldl (fun (acc : State × List Piece) pb =>
        if !acc.2.isEmpty then (acc.1, acc.2 ++ [pb.1])
        else
          match acc.1.putPiece t c pb.1 pb.2 with
          | .ok s => (s, [])
          | .error reason => (acc.1.uncheck tm reason, [pb.1])) acc).1.canonical = true := by
    intro xs
    induction xs with
    | nil => exact fun acc h => h
    | cons x xs ih =>
      refine fun acc h => ih _ ?_
      dsimp only
      split
      · exact h
      · split
        · rename_i hp; exact State.putPiece_canonical _ _ _ _ _ _ h hp
        · simp [h]
  exact key pbs (s, []) hs

@[simp] theorem State.engineViolation_canonical (s : State) (t : Nat) (c : Command) (va : Nat) :
    (State.engineViolation s t c va).canonical = s.canonical := by
  unfold State.engineViolation
  (repeat' split) <;> simp

@[simp] theorem State.movePieces_canonical (s : State) (t : Nat) (c : Command) (rows : List Piece) (hs : s.canonical
    = true) : (s.movePieces t c rows).canonical = true := by
  unfold State.movePieces
  split
  · exact hs
  · extract_lets k alone now pieces known fine good bad rest lines s1
    have h1 : s1.canonical = true := canonical_foldl' (fun s a hs => State.logPiece_canonical s t c a hs) _ _ hs
    clear_value s1
    split
    · exact h1
    · rename_i tm _
      extract_lets data
      have h2 := State.putPieces_canonical s1 t tm c (good.zip data) h1
      generalize s1.putPieces t tm c (good.zip data) = q at h2 ⊢
      obtain ⟨w, left⟩ := q
      dsimp -zeta only at h2 ⊢
      extract_lets rest' stay
      clear_value rest' known fine bad
      (repeat' split) <;> simp [stay, h2]

@[simp] theorem State.binPut_canonical (s : State) (t : Nat) (c : Command) (a x : Nat) : (State.binPut s t c a
    x).canonical = s.canonical := by
  unfold State.binPut
  simp

@[simp] theorem State.runBin_canonical (s : State) (t : Nat) (c : Command) (ndest cap pbase : Nat) : (State.runBin s t
    c ndest cap pbase).canonical = s.canonical := by
  unfold State.runBin
  dsimp only
  split
  all_goals
    refine Eq.trans (b := State.canonical (c.items.foldl _ s)) rfl (canonical_foldl _ (fun u a => ?_) _ _)
    split
    · rfl
    · split <;> simp

@[simp] theorem State.runRel_canonical (s : State) (t : Nat) (c : Command) : (State.runRel s t c).canonical =
    s.canonical := rfl

@[simp] theorem State.commandReads_canonical (s : State) (c : Command) (va n : Nat) (hs : s.canonical = true) :
    (State.commandReads s c va n).canonical = true := by
  unfold State.commandReads
  refine canonical_foldl' (fun u a hs => ?_) _ _ hs
  dsimp only
  (repeat' split) <;> simp [hs]

@[simp] theorem State.ask_canonical (s : State) (cluster who size prio team command : Nat) : (State.ask s cluster who
    size prio team command).canonical = s.canonical := rfl

@[simp] theorem State.sendPackets_canonical (s : State) (c : Command) (dest off : Nat) (data : List Byte) (n : Nat) :
    (State.sendPackets s c dest off data n).canonical = s.canonical := rfl

@[simp] theorem State.packetsDone_canonical (s : State) (command : Nat) : (State.packetsDone s command).canonical =
    s.canonical := by
  unfold State.packetsDone
  split <;> simp

@[simp] theorem State.collMeet_canonical (s : State) (c : Command) (hs : s.canonical = true) : (State.collMeet s c).canonical =
    true := by
  unfold State.collMeet
  dsimp only
  (repeat' split) <;> simp [hs]

@[simp] theorem State.collAsk_canonical (s : State) (x : CollEntry) (c : Command) : (State.collAsk s x c).canonical =
    s.canonical := by
  unfold State.collAsk
  simp

@[simp] theorem execCollInstanceStart_canonical (part name : Nat) (s : State) (hs : s.canonical = true) : outCanonical
    (execCollInstanceStart part name s) = true := by
  unfold execCollInstanceStart
  split
  · exact hs
  · split
    · exact hs
    · dsimp only
      split
      · exact hs
      · have h1 : ∀ (x : CollEntry) (cs : List Command) (w : State), w.canonical = true → (cs.foldl (fun (s : State) c =>
            (s.collMeet c).commandReads c (x.buffers c.minor c.a).1.1 (x.buffers c.minor c.a).1.2) w).canonical = true :=
          fun x cs w hw => canonical_foldl' (fun s a hs => by simp [hs]) _ _ hw
        refine outCanonical_ite ?_ ?_
        · rw [outCanonical_next, canonical_foldl _ (fun u c => State.collAsk_canonical u _ c)]
          exact hs
        split
        · rw [outCanonical_next, State.engineViolation_canonical]
          exact h1 _ _ _ (by simpa using hs)
        · rw [outCanonical_next]
          refine canonical_foldl' (fun s a hs => ?_) _ _ (h1 _ _ _ (by simpa using hs))
          try dsimp only
          split
          · rename_i h
            rw [State.packetsDone_canonical]
            split at h
            · cases h
            · exact (canonical_foldl _ (fun s a => by simp) _ _).trans (State.pinWrite_canonical _ _ _ _ _ _ _ h hs)
          · simp [hs]

@[simp] theorem State.modMirror_canonical (s : State) (dest part : Nat) (f : Mirror → Mirror) : (State.modMirror s
    dest part f).canonical = s.canonical := rfl

@[simp] theorem State.beginCut_canonical (s : State) (c : Command) : (State.beginCut s c).canonical = s.canonical
    := rfl

@[simp] theorem State.setInterval_canonical (s : State) (p : Nat) : (State.setInterval s p).canonical = s.canonical := rfl

@[simp] theorem State.endCut_canonical (s : State) (c : Command) : (State.endCut s c).canonical = s.canonical := by
  unfold State.endCut
  dsimp only
  (repeat' split) <;> simp

@[simp] theorem State.tagBlocks_canonical (s : State) (c : Command) (dest n : Nat) : (State.tagBlocks s c dest
    n).canonical = s.canonical := rfl

@[simp] theorem State.mirrDone_canonical (s : State) (c : Command) : (State.mirrDone s c).canonical = s.canonical := by
  unfold State.mirrDone
  split
  · rfl
  · dsimp only
    have h : (match c.dest, c.patched c.c with
      | some dest, .ok n => if c.code = 0 then s.tagBlocks c dest n else s
      | _, _ => s).canonical = s.canonical := by
      (repeat' split) <;> simp
    split
    · rw [State.endCut_canonical]; exact h
    · exact h

@[simp] theorem State.startWork_canonical (s : State) (c : Command) (hs : s.canonical = true) : (State.startWork s
    c).canonical = true := by
  unfold State.startWork
  dsimp only
  (repeat' split) <;> simp [hs, canonical_foldl]

@[simp] theorem State.drive_canonical (s : State) (c : Command) (mode : RunMode) (away : Bool) (hs : s.canonical =
    true) : (State.drive s c mode away).canonical = true := by
  unfold State.drive
  dsimp only
  (repeat' split) <;> simp [hs]

@[simp] theorem execCommandStart_canonical (command : Nat) (s : State) (hs : s.canonical = true) : outCanonical
    (execCommandStart command s) = true := by
  unfold execCommandStart
  split <;> simp [hs]

@[simp] theorem execCommandCompletion_canonical (command : Nat) (s : State) (hs : s.canonical = true) : outCanonical
    (execCommandCompletion command s) = true := by
  unfold execCommandCompletion
  dsimp only
  (repeat' split) <;> simp (maxDischargeDepth := 20) +contextual [hs, canonical_foldl', canonical_foldlP']

/-! ## Matrix -/

@[simp] theorem State.modSeq_canonical (s : State) (t : Nat) (f : Sequencer → Sequencer) : (State.modSeq s t
    f).canonical = s.canonical := by
  unfold State.modSeq
  simp

@[simp] theorem matrixHalt_canonical (t : Nat) (addr idx code : Nat) (s : State) : (matrixHalt t addr idx code
    s).canonical = s.canonical := by
  unfold matrixHalt
  split <;> simp

@[simp] theorem seqRetire_canonical (t : Nat) (r : ClauseRun) (s : State) : (seqRetire t r s).canonical = s.canonical
    := by
  unfold seqRetire
  simp

@[simp] theorem matFrame_canonical (i : Instr) (effect : Nat → Team → ClauseRun → Fields → State → Out) (s : State) (h
    : ∀ t tm r f u, outCanonical (effect t tm r f u) = u.canonical) : outCanonical (matFrame i effect s) = s.canonical
    := by
  unfold matFrame
  repeat' split
  all_goals simp [h]
@[simp] theorem matFrame_canonical' (i : Instr) (effect : Nat → Team → ClauseRun → Fields → State → Out) (s : State)
    (h : ∀ t tm r f u, u.canonical = true → outCanonical (effect t tm r f u) = true) (hs : s.canonical = true) :
    outCanonical (matFrame i effect s) = true := by
  unfold matFrame
  repeat' split
  all_goals simp [h, hs]

theorem macroOp_canonical' (i : Instr) (size : Team → Fields → Nat) (check : State → Nat → Team → Fields → Option Nat)
    (effect : State → Nat → Team → Fields → State) (s : State) (more : Team → Bool) (h : ∀ u t tm f, u.canonical = true →
    (effect u t tm f).canonical = true) (hs : s.canonical = true) : outCanonical (macroOp i size check effect s more) =
    true := by
  unfold macroOp
  refine matFrame_canonical' _ _ _ (fun t tm r f u hs => ?_) hs
  dsimp only
  (repeat' split) <;> simp [hs, h]
@[simp] theorem macroOp_canonical (i : Instr) (size : Team → Fields → Nat) (check : State → Nat → Team → Fields →
    Option Nat) (effect : State → Nat → Team → Fields → State) (s : State) (more : Team → Bool) (h : ∀ u t tm f, (effect u
    t tm f).canonical = u.canonical) : outCanonical (macroOp i size check effect s more) = s.canonical := by
  unfold macroOp
  refine matFrame_canonical _ _ _ (fun t tm r f u => ?_)
  dsimp only
  (repeat' split) <;> simp [h]

@[simp] theorem mmaEffect_canonical (s : State) (t : Nat) (tm : Team) (f : Fields) : (mmaEffect s t tm f).canonical =
    s.canonical := by
  unfold mmaEffect
  dsimp only
  (repeat' split) <;> simp

@[simp] theorem execMma_canonical (f : Fields) (s : State) : outCanonical (execMma f s) = s.canonical := by
  unfold execMma
  simp

@[simp] theorem execMmaG_canonical (f : Fields) (s : State) : outCanonical (execMmaG f s) = s.canonical := by
  unfold execMmaG
  simp

@[simp] theorem execMmaS_canonical (f : Fields) (s : State) : outCanonical (execMmaS f s) = s.canonical := by
  unfold execMmaS
  simp

@[simp] theorem execMmaGs_canonical (f : Fields) (s : State) : outCanonical (execMmaGs f s) = s.canonical := by
  unfold execMmaGs
  simp

@[simp] theorem execTzero_canonical (f : Fields) (s : State) : outCanonical (execTzero f s) = s.canonical := by
  unfold execTzero
  simp

@[simp] theorem advance64_canonical (s : State) (t : Nat) (f : Fields) : (advance64 s t f).canonical = s.canonical
    := by
  unfold advance64
  split <;> simp

@[simp] theorem execTld_canonical (f : Fields) (s : State) : outCanonical (execTld f s) = s.canonical := by
  unfold execTld
  simp

@[simp] theorem tstPut_canonical (t : Nat) (tm : Team) (m : OperandMap) (x k bitsOf : Nat) (s : State) : (tstPut t tm
    m x k bitsOf s).canonical = s.canonical := by
  unfold tstPut
  refine canonical_foldl _ (fun u a => ?_) _ _
  (repeat' split) <;> simp

@[simp] theorem tstRow_canonical (s : State) (t : Nat) (tm : Team) (f : Fields) : (tstRow s t tm f).canonical = s.canonical := by
  unfold tstRow
  dsimp only
  split <;> simp [canonical_foldl]

@[simp] theorem execTst_canonical (f : Fields) (s : State) : outCanonical (execTst f s) = s.canonical := by
  unfold execTst
  simp

@[simp] theorem execTepi_canonical (f : Fields) (s : State) : outCanonical (execTepi f s) = s.canonical := by
  unfold execTepi
  simp

@[simp] theorem execOmap_canonical (f : Fields) (s : State) : outCanonical (execOmap f s) = s.canonical := by
  unfold execOmap
  refine matFrame_canonical _ _ _ (fun t tm r f u => ?_)
  split <;> simp

@[simp] theorem seqArrive_canonical (i : Instr) (waits : Bool) (s : State) : outCanonical (seqArrive i waits s) =
    s.canonical := by
  unfold seqArrive
  refine matFrame_canonical _ _ _ (fun t tm r f u => ?_)
  dsimp only
  (repeat' split) <;> simp

@[simp] theorem execMsig_canonical (f : Fields) (s : State) : outCanonical (execMsig f s) = s.canonical := by
  unfold execMsig
  simp

@[simp] theorem execMwait_canonical (f : Fields) (s : State) : outCanonical (execMwait f s) = s.canonical := by
  unfold execMwait
  simp

@[simp] theorem execMloop_canonical (f : Fields) (s : State) : outCanonical (execMloop f s) = s.canonical := by
  unfold execMloop
  simp

@[simp] theorem execMend_canonical (f : Fields) (s : State) : outCanonical (execMend f s) = s.canonical := by
  unfold execMend
  simp

@[simp] theorem execMnop_canonical (f : Fields) (s : State) : outCanonical (execMnop f s) = s.canonical := by
  unfold execMnop
  simp

@[simp] theorem execMatrixOpComplete_canonical (team : Nat) (s : State) : outCanonical (execMatrixOpComplete team s) =
    s.canonical := by
  unfold execMatrixOpComplete
  (repeat' split) <;> simp

/-! ## Clause -/

@[simp] theorem State.cacheCode_canonical (s : State) (u : UnitFault) (p core asid addr upTo : Nat) (hs : s.canonical
    = true) : (State.cacheCode s u p core asid addr upTo).canonical = true := by
  unfold State.cacheCode
  refine canonical_foldl' (fun u a hs => ?_) _ _ hs
  dsimp only
  split <;> simp [hs]

@[simp] theorem Candidate.noteIssue_canonical (c : Candidate) (s : State) : (Candidate.noteIssue c s).canonical =
    s.canonical := by
  unfold Candidate.noteIssue
  simp

@[simp] theorem trapEntry_canonical (c : Candidate) (pc index cause detail : Nat) (s : State) : (trapEntry c pc index
    cause detail s).canonical = s.canonical := by
  unfold trapEntry
  simp [canonical_foldl]

@[simp] theorem clauseFault_canonical (c : Candidate) (f : ClauseFault) (s : State) : (clauseFault c f s).canonical =
    s.canonical := by
  unfold clauseFault
  split <;> simp

theorem canonical_issue (s : State) (n : Nat) (c : Issuer) : ({ s with issues := n, cur := c } : State).canonical =
    s.canonical := rfl
theorem canonical_cur (s : State) (c : Issuer) : ({ s with cur := c } : State).canonical = s.canonical := rfl
@[simp] theorem startClause_canonical (c : Candidate) (d : Decoded) (core slot : Nat) (s : State) : (startClause c d
    core slot s).canonical = s.canonical := by
  unfold startClause
  extract_lets call run s1
  have h1 : s1.canonical = s.canonical := (State.modGroup_canonical _ _ _ _).trans (Candidate.noteIssue_canonical _ _)
  clear_value s1
  split
  · exact (State.modCore_canonical _ _ _).trans h1
  · exact (State.modCore_canonical _ _ _).trans h1
  · exact h1

@[simp] theorem State.askPipe_canonical (s : State) (core slot : Nat) (pipe : Bool) (c : Candidate) : (State.askPipe s core
    slot pipe c).canonical = s.canonical := rfl

@[simp] theorem issueEntry_canonical (c : Candidate) (core slot : Nat) (s : State) (hs : s.canonical = true) :
    (issueEntry c core slot s).canonical = true := by
  unfold issueEntry
  extract_lets due before s1 k u found misses
  have h1 : s1.canonical = true := by
    refine (canonical_foldl _ (fun s l => ?_) _ _).trans hs
    exact (takeTrap_canonical _ _ _ _ _ _ _ _ _).trans (State.modThread_canonical _ _ _ _ _)
  clear_value s1
  split
  · exact (State.countIssue_canonical _ _ _ _ _ _ _).trans h1
  · split
    · exact (trapEntry_canonical _ _ _ _ _ _).trans hs
    · have h2 : ∀ n, ((s.cacheCode u c.tm.part core c.g.asid c.entry.pc n).spend k).canonical = true := fun n =>
        (State.spend_canonical _ _).trans (State.cacheCode_canonical _ _ _ _ _ _ _ hs)
      clear_value misses found
      split
      · exact (State.askWalks_canonical _ _ _ _ _ _).trans hs
      · split
        · exact (clauseFault_canonical _ _ _).trans (h2 _)
        · extract_lets s2
          have h3 : s2.canonical = true := h2 _
          clear_value s2
          split
          · exact (trapEntry_canonical _ _ _ _ _ _).trans h3
          · split
            · split
              · exact (startClause_canonical _ _ _ _ _).trans h3
              · exact (State.askPipe_canonical _ _ _ _ _).trans h3
            · exact (startClause_canonical _ _ _ _ _).trans h3

@[simp] theorem State.noteEligible_canonical (s : State) : (State.noteEligible s).canonical = s.canonical := rfl

@[simp] theorem State.passTime_canonical (s : State) (dt : Nat) : (State.passTime s dt).canonical = s.canonical := by
  unfold State.passTime
  split <;> simp

@[simp] theorem decodeStream_canonical (t : Nat) (tm : Team) (s : State) (hs : s.canonical = true) : (decodeStream t
    tm s).canonical = true := by
  unfold decodeStream
  extract_lets q u0 u found upTo k misses s1 fail
  have h1 : s1.canonical = true := (State.spend_canonical _ _).trans (State.cacheCode_canonical _ _ _ _ _ _ _ hs)
  clear_value s1
  split
  · exact (matrixHalt_canonical _ _ _ _ _).trans hs
  · split
    · exact (State.askWalks_canonical _ _ _ _ _ _).trans hs
    · have h2 : ∀ a b, (fail a b).canonical = true := fun a b => (matrixHalt_canonical _ _ _ _ _).trans h1
      clear_value fail misses upTo found
      (repeat' split) <;> first
        | exact h2 _ _
        | exact (State.pageFault_canonical _ _ _).trans h1
        | exact (State.diverge_canonical _ _).trans h1
        | exact (State.halt_canonical _ _ _ _ _).trans h1
        | exact (canonical_cur _ _).trans ((State.modSeq_canonical _ _ _).trans ((State.serve_canonical _ _ _ _).trans h1))

@[simp] theorem execClauseDecode_canonical (core slot : Nat) (s : State) (hs : s.canonical = true) : outCanonical
    (execClauseDecode core slot s) = true := by
  unfold execClauseDecode
  split
  · split
    · simp only [outCanonical_next]
      split
      · exact decodeStream_canonical _ _ _ hs
      · exact hs
    · exact hs
  · split
    · exact hs
    · extract_lets all asleep who w
      have hw : w.canonical = true := by
        refine Eq.trans ?_ hs
        clear_value who asleep all
        simp only [w]
        split
        · rfl
        · split
          · rfl
          · exact State.ask_canonical _ _ _ _ _ _ _
      clear_value w
      split
      · exact issueEntry_canonical _ _ _ _ hw
      · exact hw

/-! ## Power -/

@[simp] theorem execReservationGrant_canonical (cluster : Nat) (s : State) : outCanonical (execReservationGrant
    cluster s) = s.canonical := by
  unfold execReservationGrant
  dsimp only
  (repeat' split) <;> simp

@[simp] theorem execReservationUrgent_canonical (cluster requester : Nat) (s : State) : outCanonical
    (execReservationUrgent cluster requester s) = s.canonical := rfl

@[simp] theorem execReservationReturn_canonical (cluster requester : Nat) (s : State) : outCanonical
    (execReservationReturn cluster requester s) = s.canonical := rfl

@[simp] theorem execEngineReservationRenew_canonical (cluster requester : Nat) (s : State) : outCanonical
    (execEngineReservationRenew cluster requester s) = s.canonical := by
  unfold execEngineReservationRenew
  dsimp only
  (repeat' split) <;> simp

@[simp] theorem execPipeSleep_canonical (core slot : Nat) (s : State) : outCanonical (execPipeSleep core slot s) =
    s.canonical := rfl

@[simp] theorem execPipeWake_canonical (core slot : Nat) (s : State) : outCanonical (execPipeWake core slot s) =
    s.canonical := by
  unfold execPipeWake
  dsimp only
  split <;> simp

@[simp] theorem execPoolClassWrite_canonical (cluster : Nat) (value : Dword) (s : State) : outCanonical
    (execPoolClassWrite cluster value s) = s.canonical := rfl

@[simp] theorem execPoolMove_canonical (cluster : Nat) (s : State) : outCanonical (execPoolMove cluster s) =
    s.canonical := by
  unfold execPoolMove
  split <;> simp

@[simp] theorem State.modClusters_canonical (s : State) (p : Nat) (f : Cluster → Cluster) : (State.modClusters s p
    f).canonical = s.canonical := rfl

@[simp] theorem State.endLease_canonical (s : State) (p : Nat) : (State.endLease s p).canonical = s.canonical := rfl

@[simp] theorem execBoostRequest_canonical (part : Nat) (value : Dword) (envelopeHolds : Bool) (s : State) :
    outCanonical (execBoostRequest part value envelopeHolds s) = s.canonical := by
  unfold execBoostRequest
  dsimp only
  (repeat' split) <;> simp

@[simp] theorem execBoostCancel_canonical (part : Nat) (value : Dword) (s : State) : outCanonical (execBoostCancel
    part value s) = s.canonical := by
  unfold execBoostCancel
  split <;> simp

@[simp] theorem execBoostRevoke_canonical (part : Nat) (s : State) : outCanonical (execBoostRevoke part s) =
    s.canonical := rfl

@[simp] theorem execBoostLeaseEnd_canonical (part : Nat) (s : State) : outCanonical (execBoostLeaseEnd part s) =
    s.canonical := by
  unfold execBoostLeaseEnd
  split <;> simp

@[simp] theorem execClockRestart_canonical (cluster : Nat) (s : State) : outCanonical (execClockRestart cluster s) =
    s.canonical := by
  unfold execClockRestart
  dsimp only
  split <;> simp

@[simp] theorem execDroopAlarm_canonical (cluster dipMillivolts : Nat) (s : State) : outCanonical (execDroopAlarm
    cluster dipMillivolts s) = s.canonical := rfl

@[simp] theorem execStretchEnd_canonical (cluster : Nat) (s : State) : outCanonical (execStretchEnd cluster s) =
    s.canonical := rfl

@[simp] theorem execHalfIssueWindowEnd_canonical (cluster : Nat) (s : State) : outCanonical (execHalfIssueWindowEnd
    cluster s) = s.canonical := rfl

/-! ## Image -/

@[simp] theorem State.putRunState_canonical (s : State) (tm : Team) (hs : s.canonical = true) : (State.putRunState s
    tm).canonical = true := by
  unfold State.putRunState
  dsimp only
  (repeat' split) <;> simp (maxDischargeDepth := 20) +contextual [hs, canonical_foldl', canonical_foldlP']

@[simp] theorem State.getRunState_canonical (s : State) (tm : Team) (hs : s.canonical = true) : (State.getRunState s
    tm).2.canonical = true := by
  unfold State.getRunState
  split <;> simp [hs]

/-! ## Sched -/

@[simp] theorem execKick_canonical (part : Nat) (record : Dword) (s : State) (hs : s.canonical = true) : outCanonical
    (execKick part record s) = true := by
  unfold execKick
  dsimp only
  (repeat' split) <;> simp [hs]

@[simp] theorem execPreempt_canonical (u_ : Nat) (value : Dword) (s : State) : outCanonical (execPreempt u_ value s) =
    s.canonical := by
  unfold execPreempt
  split <;> simp

@[simp] theorem State.dispense_canonical (s : State) (g : Grid) (n : Nat) (hs : s.canonical = true) : (State.dispense
    s g n).2.canonical = true := by
  unfold State.dispense
  dsimp only
  (repeat' split) <;> simp [hs]

@[simp] theorem State.startRun_canonical (s : State) (g : Grid) (n core copy : Nat) (mode : RunMode) : (State.startRun
    s g n core copy mode).canonical = s.canonical := rfl

@[simp] theorem State.dequeue_canonical (s : State) (p : Nat) (e : Nat × Nat) : (State.dequeue s p e).canonical =
    s.canonical := rfl

@[simp] theorem State.askRoom_canonical (s : State) (p level : Nat) (lb : LaunchBlock) : (State.askRoom s p level
    lb).canonical = s.canonical := by
  unfold State.askRoom
  dsimp only
  (repeat' split) <;> simp

/-- What a placement leaves has its byte arrays in canonical form. -/
def okTry : Try → Bool
  | .placed s => s.canonical
  | _ => true
theorem State.tryRestore_canonical (s : State) (p : Nat) (x : SavedTeam) (g : Grid) (hs : s.canonical = true) : okTry
    (s.tryRestore p x g) = true := by
  unfold State.tryRestore
  extract_lets c apart u0 s0
  have h0 : s0.canonical = true := State.pinMeet_canonical _ _ _ _ _ _ _ hs
  clear_value s0
  split
  · split <;> rfl
  · split
    · exact (State.halt_canonical _ _ _ _ _).trans hs
    · extract_lets tm tm1
      have h1 := State.getRunState_canonical s0 tm1 h0
      generalize s0.getRunState tm1 = q at h1 ⊢
      obtain ⟨tm2, w⟩ := q
      dsimp -zeta only at h1 ⊢
      split
      · exact State.uncheck_canonical _ _ _ h1
      · extract_lets w1
        have h2 : w1.canonical = w.canonical := State.dequeue_canonical _ _ _
        clear_value w1
        exact (State.selfInvalidate_canonical _ _).trans (h2.trans h1)
theorem State.tryRun_canonical (s : State) (p : Nat) (e : Nat × Nat) (c : Checked) (g : Grid) (hs : s.canonical =
    true) : okTry (s.tryRun p e c g) = true := by
  unfold State.tryRun
  split
  · rfl
  · exact (State.startRun_canonical _ _ _ _ _ _).trans ((State.dequeue_canonical _ _ _).trans hs)
theorem State.tryGrid_canonical (s : State) (p : Nat) (e : Nat × Nat) (g : Grid) (hs : s.canonical = true) : okTry
    (s.tryGrid p e g) = true := by
  unfold State.tryGrid
  extract_lets n owners src u s0 s1 s2 s3 s4 s5 s6
  have h0 : s0.canonical = true := canonical_foldl' (fun w c hw => State.pinMeet_canonical w _ _ _ _ _ _ hw) _ _ hs
  clear_value s0
  split
  · exact (State.halt_canonical _ _ _ _ _).trans h0
  · split
    · rfl
    · split
      · rfl
      · split
        · rfl
        · have h1 : s1.canonical = true := by
            simp only [s1]; split
            · exact (State.dequeue_canonical _ _ _).trans h0
            · exact h0
          clear_value s1
          have h2 : s2.canonical = true := (State.modGrid_canonical _ _ _ _ _).trans h1
          clear_value s2
          have h3 : s3.canonical = true := State.devPut_canonical _ _ _ _ _ _ _ _ h2
          clear_value s3
          have h4 : s4.canonical = true := State.devPut_canonical _ _ _ _ _ _ _ _ h3
          clear_value s4
          have h5 : s5.canonical = true := State.devPut_canonical _ _ _ _ _ _ _ _ h4
          clear_value s5
          have h6 : s6.canonical = true := State.devPut_canonical _ _ _ _ _ _ _ _ h5
          clear_value s6
          exact (State.startRun_canonical _ _ _ _ _ _).trans (State.dispense_canonical _ _ _ h6)
theorem State.tryEntry_canonical (s : State) (p : Nat) (e : Nat × Nat) (hs : s.canonical = true) : okTry (s.tryEntry p
    e) = true := by
  unfold State.tryEntry
  split
  · split
    · exact State.tryRestore_canonical _ _ _ _ hs
    · rfl
  · split
    · split
      · exact State.tryRun_canonical _ _ _ _ _ hs
      · rfl
    · split
      · exact State.tryGrid_canonical _ _ _ _ hs
      · rfl
theorem State.placeFirst_canonical (s : State) (p : Nat) (es : List (Nat × (Nat × Nat))) (hs : s.canonical = true) :
    (s.placeFirst p es).canonical = true := by
  induction es with
  | nil => exact hs
  | cons a as ih =>
    obtain ⟨level, e⟩ := a
    unfold State.placeFirst
    have h := State.tryEntry_canonical s p e hs
    split
    · rename_i h1; rw [h1] at h; exact h
    · exact ih
    · exact (State.askRoom_canonical _ _ _ _).trans hs
@[simp] theorem execTeamPlacement_canonical (part : Nat) (s : State) (hs : s.canonical = true) : outCanonical
    (execTeamPlacement part s) = true := by
  unfold execTeamPlacement
  extract_lets x
  split
  · exact hs
  · exact State.placeFirst_canonical _ _ _ hs

@[simp] theorem execSbarSwap_canonical (team : Nat) (s : State) : outCanonical (execSbarSwap team s) = s.canonical
    := by
  unfold execSbarSwap
  dsimp only
  (repeat' split) <;> simp [canonical_foldl]

@[simp] theorem State.leaveSharing_canonical (s : State) (team : Nat) : (State.leaveSharing s team).canonical =
    s.canonical := by
  unfold State.leaveSharing
  (repeat' split) <;> simp

@[simp] theorem execLeaveComplete_canonical (team : Nat) (s : State) : outCanonical (execLeaveComplete team s) =
    s.canonical := by
  unfold execLeaveComplete
  dsimp only
  (repeat' split) <;> simp

@[simp] theorem execVoluntarySave_canonical (team : Nat) (s : State) : outCanonical (execVoluntarySave team s) =
    s.canonical := by
  unfold execVoluntarySave
  (repeat' split) <;> simp

@[simp] theorem execForcedSave_canonical (team : Nat) (s : State) : outCanonical (execForcedSave team s) = s.canonical
    := by
  unfold execForcedSave
  (repeat' split) <;> simp

@[simp] theorem State.writeSave_canonical (s : State) (team : Nat) (tm : Team) (g : Grid) (cause : Nat) (hs :
    s.canonical = true) : (State.writeSave s team tm g cause).canonical = true := by
  unfold State.writeSave
  extract_lets parked s1 tm1 groups tm2 mine
  have h1 : s1.canonical = true := (State.leaveSharing_canonical _ _).trans hs
  clear_value s1
  split
  · exact (State.halt_canonical _ _ _ _ _).trans h1
  · rename_i w hw
    have h2 := State.pinWrite_canonical _ _ _ _ _ _ _ hw h1
    extract_lets s2 s3
    have h3 : s2.canonical = true := State.putRunState_canonical _ _ h2
    clear_value s2
    have h4 : s3.canonical = true := (State.dropTeam_canonical _ _).trans h3
    clear_value s3
    exact h4

@[simp] theorem execSaveImageWrite_canonical (team : Nat) (s : State) (hs : s.canonical = true) : outCanonical
    (execSaveImageWrite team s) = true := by
  unfold execSaveImageWrite
  split
  · exact hs
  · split
    · exact hs
    · split
      · exact hs
      · extract_lets w
        have h1 : w.canonical = true := State.writeSave_canonical _ _ _ _ _ hs
        clear_value w
        split
        · exact h1
        · exact State.runRec_canonical _ _ h1

theorem State.flushFaults_canonical (s : State) (p : Nat) (ks : List Parked) (hs : s.canonical = true) :
    (s.flushFaults p ks).canonical = true := by
  induction ks generalizing s with
  | nil => exact hs
  | cons k rest ih =>
    unfold State.flushFaults
    split
    · exact ih _ hs
    · extract_lets x size s1 s2
      have h1 : s1.canonical = true := State.putRing_canonical _ _ _ _ hs
      clear_value s1
      have h2 : s2.canonical = true := (State.modPart_canonical _ _ _).trans h1
      clear_value s2
      split
      · exact hs
      · exact ih _ h2
@[simp] theorem execPageNotPresentSave_canonical (team : Nat) (s : State) (hs : s.canonical = true) : outCanonical
    (execPageNotPresentSave team s) = true := by
  unfold execPageNotPresentSave
  split
  · exact hs
  · split
    · split
      · exact hs
      · extract_lets entry w
        have h1 : w.canonical = true := State.writeSave_canonical _ _ _ _ _ hs
        clear_value w
        split
        · exact h1
        · exact State.flushFaults_canonical _ _ _ ((State.modPart_canonical _ _ _).trans h1)
    · exact hs

@[simp] theorem execFaultRingReadAdvance_canonical (part : Nat) (read : Word) (s : State) (hs : s.canonical = true) :
    outCanonical (execFaultRingReadAdvance part read s) = true := by
  unfold execFaultRingReadAdvance
  split
  · exact hs
  · exact State.flushFaults_canonical _ _ _ ((State.modPart_canonical _ _ _).trans hs)

@[simp] theorem execFaultResume_canonical (part : Nat) (record : Dword) (s : State) (hs : s.canonical = true) :
    outCanonical (execFaultResume part record s) = true := by
  unfold execFaultResume
  dsimp only
  (repeat' split) <;> simp (maxDischargeDepth := 20) [hs]

@[simp] theorem State.shootCore_canonical (s : State) (x : Partition) (core : Nat) (hs : s.canonical = true) :
    (State.shootCore s x core).canonical = true := by
  unfold State.shootCore
  exact canonical_foldl' (f := State.giveUp) (fun u a hs => State.giveUp_canonical u a hs) _ _ hs

@[simp] theorem execShootdownStart_canonical (part : Nat) (ctrl : Dword) (s : State) (hs : s.canonical = true) :
    outCanonical (execShootdownStart part ctrl s) = true := by
  unfold execShootdownStart
  dsimp only
  (repeat' split) <;> simp (maxDischargeDepth := 20) +contextual [hs, canonical_foldl', canonical_foldlP']

@[simp] theorem execShootdownComplete_canonical (part : Nat) (s : State) : outCanonical (execShootdownComplete part s)
    = s.canonical := by
  unfold execShootdownComplete
  dsimp only
  split <;> simp

@[simp] theorem State.reclaim_canonical (s : State) (team : Nat) : (State.reclaim s team).canonical = s.canonical := by
  unfold State.reclaim
  simp

@[simp] theorem execTeamEnd_canonical (team : Nat) (s : State) (hs : s.canonical = true) : outCanonical (execTeamEnd
    team s) = true := by
  unfold execTeamEnd
  dsimp only
  (repeat' split) <;> simp [hs]

/-! ## Wear -/

@[simp] theorem State.rewriteHealth_canonical (s : State) : (State.rewriteHealth s).canonical = s.canonical := rfl

@[simp] theorem execHealthRecordRewrite_canonical (s : State) : outCanonical (execHealthRecordRewrite s) = s.canonical
    := rfl

@[simp] theorem State.drainCore_canonical (s : State) (core : Nat) : (State.drainCore s core).canonical = s.canonical
    := rfl

@[simp] theorem State.zeroUnit_canonical (s : State) (core k : Nat) : (State.zeroUnit s core k).canonical =
    s.canonical := rfl

@[simp] theorem State.zeroArrays_canonical (s : State) (core : Nat) : (State.zeroArrays s core).canonical =
    s.canonical := by
  unfold State.zeroArrays
  refine canonical_foldl _ (fun u a => ?_) _ _
  simp

@[simp] theorem State.deactivate_canonical (s : State) (core : Nat) : (State.deactivate s core).canonical =
    s.canonical := rfl

@[simp] theorem State.dropLone_canonical (s : State) : (State.dropLone s).canonical = s.canonical := by
  unfold State.dropLone
  refine canonical_foldl _ (fun u a => ?_) _ _
  split
  · exact canonical_foldl _ (fun w b => State.deactivate_canonical w b) _ _
  · rfl

theorem State.reduceTo_canonical (s : State) (n : Nat) (ps : List Nat) : (s.reduceTo n ps).canonical = s.canonical
    := by
  induction ps generalizing s with
  | nil => rfl
  | cons p ps ih =>
    unfold State.reduceTo
    split
    · rfl
    · split
      · exact (ih _).trans (State.deactivate_canonical _ _)
      · exact ih _
theorem tries_canonical (c : Nat → State → Bool) (w t : State) (ms ns : List Nat)
    (h : (ns.filterMap (fun n => let t := w.reduceTo n ms; if c n t then some { t with configuration := n } else none)).head? = some t) : t.canonical = w.canonical := by
  obtain ⟨n, -, hn⟩ := List.mem_filterMap.mp (List.mem_of_mem_head? h)
  dsimp only at hn
  split at hn
  · cases hn
    exact State.reduceTo_canonical _ _ _
  · cases hn
@[simp] theorem State.reconfigure_canonical (s : State) : (State.reconfigure s).canonical = s.canonical := by
  unfold State.reconfigure
  extract_lets s1 legal tries
  have h1 : s1.canonical = s.canonical := State.dropLone_canonical _
  have h2 : ∀ t, tries.head? = some t → t.canonical = s1.canonical := fun t ht =>
    tries_canonical (fun n t => legal && t.used (List.range 128) == n) s1 t s1.byMargin _ ht
  clear_value tries legal s1
  split
  · rename_i t h
    exact (h2 t h).trans h1
  · refine (canonical_foldl _ (fun s p => ?_) _ _).trans h1
    split
    · exact State.halt_canonical _ _ _ _ _
    · rfl

@[simp] theorem State.fence_canonical (s : State) (core : Nat) : (State.fence s core).canonical = s.canonical := by
  unfold State.fence
  split
  · rfl
  · dsimp only
    rw [State.rewriteHealth_canonical, State.reconfigure_canonical, State.drainCore_canonical, State.modCore_canonical]
    split
    · exact State.zeroArrays_canonical _ _
    · rfl

@[simp] theorem State.demerit_canonical (s : State) (core : Nat) : (State.demerit s core).canonical = s.canonical := by
  unfold State.demerit
  dsimp only
  split <;> simp

@[simp] theorem execDemeritDecay_canonical (core : Nat) (s : State) : outCanonical (execDemeritDecay core s) =
    s.canonical := rfl

@[simp] theorem State.noteMargins_canonical (s : State) (cluster : Nat) (report : Nat → Option Int) (ps : List Nat) :
    (State.noteMargins s cluster report ps).canonical = s.canonical := by
  unfold State.noteMargins
  refine canonical_foldl _ (fun u a => ?_) _ _
  split <;> simp

@[simp] theorem State.recalibrate_canonical (s : State) (cluster : Nat) (m : Option Int) : (s.recalibrate cluster
    m).canonical = s.canonical := by
  cases m <;> rfl
@[simp] theorem execRecalibration_canonical (cluster : Nat) (margins : List (Nat × Int)) (s : State) : outCanonical
    (execRecalibration cluster margins s) = s.canonical := by
  unfold execRecalibration
  dsimp only
  rw [outCanonical_next, canonical_foldl State.fence (fun s a => State.fence_canonical s a), State.noteMargins_canonical, State.recalibrate_canonical]

/-! ## Vote -/

@[simp] theorem State.putResult_canonical (s : State) (c : Checked) (copy : Nat) (r : RunResult) (hs : s.canonical =
    true) : (State.putResult s c copy r).canonical = true := by
  unfold State.putResult
  simp [hs]

@[simp] theorem State.queueRun_canonical (s : State) (c : Checked) (copy : Nat) (hs : s.canonical = true) :
    (State.queueRun s c copy).canonical = true := by
  unfold State.queueRun
  split <;> simp [hs]

@[simp] theorem State.setChecked_canonical (s : State) (c : Checked) (f : Checked → Checked) : (State.setChecked s c
    f).canonical = s.canonical := rfl

@[simp] theorem execLeadEnd_canonical (team : Nat) (s : State) (hs : s.canonical = true) : outCanonical (execLeadEnd
    team s) = true := by
  unfold execLeadEnd
  dsimp only
  (repeat' split) <;> simp (maxDischargeDepth := 20) +contextual [hs, canonical_foldl', canonical_foldlP']

@[simp] theorem State.settleVote_canonical (s : State) (c : Checked) (v : Verdict) (hs : s.canonical = true) :
    (s.settleVote c v).canonical = true := by
  unfold State.settleVote
  split
  · rename_i t h
    have h0 := State.releaseOne_canonical _ _ _ _ h hs
    split
    · simpa using h0
    · exact h0
  · dsimp only
    split
    · split <;> simp [hs]
    · have h1 : (v.losers.foldl State.demerit (s.discardRun c v.other)).canonical = true :=
        (canonical_foldl State.demerit (fun s a => State.demerit_canonical s a) _ _).trans ((State.discardRun_canonical _ _ _).trans hs)
      generalize v.losers.foldl State.demerit (s.discardRun c v.other) = w at h1 ⊢
      exact State.runRec_canonical _ _ (State.logStatus_canonical _ _ _ _ ((State.setChecked_canonical _ _ _).trans h1))

@[simp] theorem State.decideFor_canonical (s : State) (c : Checked) (winner other : Nat) (losers : List Nat) :
    (State.decideFor s c winner other losers).canonical = s.canonical := rfl

@[simp] theorem execRunCompare_canonical (checked : Nat) (s : State) (hs : s.canonical = true) : outCanonical
    (execRunCompare checked s) = true := by
  unfold execRunCompare
  dsimp only
  (repeat' split) <;> simp (maxDischargeDepth := 20) +contextual [hs, canonical_foldl', canonical_foldlP']

@[simp] theorem State.injectWrite_canonical (s : State) (value : Dword) : (State.injectWrite s value).canonical =
    s.canonical := by
  unfold State.injectWrite
  (repeat' split) <;> simp

@[simp] theorem execInjectArm_canonical (value : Dword) (s : State) : outCanonical (execInjectArm value s) =
    s.canonical := by
  unfold execInjectArm
  simp

@[simp] theorem execInjectDisarm_canonical (value : Dword) (s : State) : outCanonical (execInjectDisarm value s) =
    s.canonical := by
  unfold execInjectDisarm
  simp

/-! ## Halts -/

@[simp] theorem execExternalHalt_canonical (part : Nat) (value : Dword) (s : State) : outCanonical (execExternalHalt
    part value s) = s.canonical := by
  unfold execExternalHalt
  split <;> simp

@[simp] theorem State.putStop_canonical (s : State) (p place : Nat) (bs : List Byte) (hs : s.canonical = true) :
    (State.putStop s p place bs).canonical = true := by
  unfold State.putStop
  dsimp only
  split <;> simp [hs]

@[simp] theorem execUnitStop_canonical (part index : Nat) (late : Bool) (s : State) (hs : s.canonical = true) :
    outCanonical (execUnitStop part index late s) = true := by
  unfold execUnitStop
  dsimp only
  (repeat' split) <;> simp [hs]

@[simp] theorem execWatchdogExpiry_canonical (team : Nat) (s : State) : outCanonical (execWatchdogExpiry team s) =
    s.canonical := by
  unfold execWatchdogExpiry
  dsimp only
  (repeat' split) <;> simp

/-! ## Platform -/

@[simp] theorem State.renumber_canonical (s : State) : (State.renumber s).canonical = s.canonical := rfl

@[simp] theorem State.emptyPartition_canonical (s : State) (p : Nat) : (State.emptyPartition s p).canonical =
    s.canonical := by
  unfold State.emptyPartition
  refine canonical_foldl _ (fun u a => ?_) _ _
  simp

@[simp] theorem State.clearHalt_canonical (s : State) (p : Nat) : (State.clearHalt s p).canonical = s.canonical := by
  unfold State.clearHalt
  split <;> simp

@[simp] theorem execPartitionReconfigure_canonical (parts : List Nat) (s : State) : outCanonical
    (execPartitionReconfigure parts s) = s.canonical := by
  unfold execPartitionReconfigure
  have h1 : (parts.foldl (fun (s : State) p => s.modPart p (fun x => { x with paused := true })) s).canonical = s.canonical :=
    canonical_foldl _ (fun u a => State.modPart_canonical _ _ _) _ _
  generalize parts.foldl (fun (s : State) p => s.modPart p (fun x => { x with paused := true })) s = w at h1
  dsimp only
  split
  · rw [outCanonical_next, canonical_foldl _ (fun u a => State.modPart_canonical _ _ _), State.renumber_canonical,
      canonical_foldl State.clearHalt (fun u a => State.clearHalt_canonical _ _)]
    exact h1
  · exact h1

@[simp] theorem execPartitionConfigure_canonical (part : Nat) (cfg : PartitionConfig) (s : State) : outCanonical
    (execPartitionConfigure part cfg s) = s.canonical := by
  unfold execPartitionConfigure
  split <;> simp

theorem canonical_and (s : State) : s.canonical = true ↔ Memory.wf s.dram = true ∧ Memory.wf s.hostMem = true ∧
    Memory.wf s.kpad = true ∧ Memory.wf s.mgmt.flash = true := by
  unfold State.canonical
  simp only [Bool.and_eq_true, and_assoc]
@[simp] theorem execFirmwareUpdate_canonical (offset : Nat) (image : List Byte) (s : State) (hs : s.canonical = true)
    : outCanonical (execFirmwareUpdate offset image s) = true := by
  unfold execFirmwareUpdate
  refine outCanonical_ite hs ?_
  rw [canonical_and] at hs
  rw [outCanonical_next, canonical_and]
  exact ⟨hs.1, hs.2.1, hs.2.2.1, Memory.wf_putBytes _ _ _ hs.2.2.2⟩

@[simp] theorem execSliceRetirement_canonical (die slice : Nat) (s : State) (hs : s.canonical = true) : outCanonical
    (execSliceRetirement die slice s) = true := by
  unfold execSliceRetirement
  dsimp only
  (repeat' split) <;> simp (maxDischargeDepth := 20) +contextual [hs, canonical_foldl', canonical_foldlP']

@[simp] theorem execPartnerPairing_canonical (part partner : Nat) (partnerFeed : Half) (override : Bool) (size : Nat)
    (s : State) : outCanonical (execPartnerPairing part partner partnerFeed override size s) = s.canonical := by
  unfold execPartnerPairing
  dsimp only
  split <;> simp

@[simp] theorem execPartnerRestore_canonical (part first count cut : Nat) (s : State) : outCanonical
    (execPartnerRestore part first count cut s) = s.canonical := by
  unfold execPartnerRestore
  dsimp only
  split <;> simp

@[simp] theorem State.modPort_canonical (s : State) (n : Nat) (f : Port → Port) : (State.modPort s n f).canonical =
    s.canonical := rfl

@[simp] theorem execFabricPortFailure_canonical (port : Nat) (s : State) : outCanonical (execFabricPortFailure port s)
    = s.canonical := rfl

@[simp] theorem execPortRetrainComplete_canonical (port : Nat) (s : State) : outCanonical (execPortRetrainComplete
    port s) = s.canonical := rfl

@[simp] theorem State.cutOff_canonical (s : State) : (State.cutOff s).canonical = s.canonical := rfl

@[simp] theorem execPortRemoval_canonical (port : Nat) (s : State) : outCanonical (execPortRemoval port s) =
    s.canonical := rfl

@[simp] theorem execMissedHeartbeat_canonical (port : Nat) (s : State) : outCanonical (execMissedHeartbeat port s) =
    s.canonical := rfl

@[simp] theorem execEscapeEntry_canonical (packet : Nat) (s : State) : outCanonical (execEscapeEntry packet s) =
    s.canonical := rfl

@[simp] theorem State.rankArrives_canonical (s : State) (part name rank : Nat) (data : List Byte) : (State.rankArrives
    s part name rank data).canonical = s.canonical := by
  unfold State.rankArrives
  dsimp only
  (repeat' split) <;> simp

@[simp] theorem execFabricPacket_canonical (arrival : FabricArrival) (s : State) (hs : s.canonical = true) :
    outCanonical (execFabricPacket arrival s) = true := by
  unfold execFabricPacket
  (repeat' split) <;> simp [hs]

@[simp] theorem State.scrubWrite_canonical (s : State) (p : Nat) (value : Dword) : (State.scrubWrite s p
    value).canonical = s.canonical := by
  unfold State.scrubWrite
  dsimp only
  (repeat' split) <;> simp

@[simp] theorem execScrubGo_canonical (part : Nat) (value : Dword) (s : State) : outCanonical (execScrubGo part value
    s) = s.canonical := by
  unfold execScrubGo
  simp

@[simp] theorem State.scrubUnit_canonical (s : State) (part phase k : Nat) (hs : s.canonical = true) : (s.scrubUnit
    part phase k).canonical = true := by
  unfold State.scrubUnit
  dsimp only
  split
  · split
    · exact (State.zeroUnit_canonical _ _ _).trans hs
    · exact hs
  · split
    · rw [canonical_and] at hs ⊢
      exact ⟨hs.1, hs.2.1, Memory.wf_filter _ _ hs.2.2.1, hs.2.2.2⟩
    · exact hs
  · split
    · split
      · exact State.zeroLines_canonical _ _ _ hs
      · exact hs
    · exact hs

@[simp] theorem execScrubPhaseEnd_canonical (part : Nat) (s : State) (hs : s.canonical = true) : outCanonical
    (execScrubPhaseEnd part s) = true := by
  unfold execScrubPhaseEnd
  refine outCanonical_ite hs (outCanonical_ite ?_ (outCanonical_ite ?_ ?_))
  · exact (State.modPart_canonical _ _ _).trans (State.scrubUnit_canonical _ _ _ _ hs)
  · refine (State.modPart_canonical _ _ _).trans ?_
    split
    · exact hs
    · exact hs
  · rw [outCanonical_next]
    split
    · exact (State.rewriteHealth_canonical _).trans ((State.modPart_canonical _ _ _).trans hs)
    · exact (State.modPart_canonical _ _ _).trans hs

@[simp] theorem execScrubProgressRead_canonical (part : Nat) (s : State) : outCanonical (execScrubProgressRead part s)
    = s.canonical := rfl

@[simp] theorem execDeviceReset_canonical (s : State) (hs : s.canonical = true) : outCanonical (execDeviceReset s) =
    true := by
  unfold execDeviceReset
  extract_lets src s1 s2
  have h1 : s1.canonical = true := by
    rw [canonical_and] at hs ⊢
    exact ⟨hs.1, hs.2.1, rfl, hs.2.2.2⟩
  clear_value s1
  have h2 : s2.canonical = true := (State.renumber_canonical _).trans h1
  clear_value s2
  split
  · exact (State.rewriteHealth_canonical _).trans h2
  · exact h2

/-! ## Spdm -/

@[simp] theorem State.answer_canonical (s : State) (bs : List Byte) : (State.answer s bs).canonical = s.canonical
    := rfl

theorem State.gritus_canonical (s : State) (f : State → State) (h : ∀ u, (f u).canonical = u.canonical) : outCanonical
    (s.gritus f) = s.canonical := by
  unfold State.gritus
  split
  · exact h _
  · rfl

@[simp] theorem State.respond_canonical (s : State) (request : List Byte) (code : Nat) : (State.respond s request
    code).canonical = s.canonical := rfl

@[simp] theorem State.sessionRequest_canonical (s : State) (request : List Byte) (code : Nat) (established : Bool) (f
    : Session → Option Session) : (State.sessionRequest s request code established f).canonical = s.canonical := by
  unfold State.sessionRequest
  (repeat' split) <;> simp

@[simp] theorem execGetVersion_canonical (request : List Byte) (s : State) : outCanonical (execGetVersion request s) =
    s.canonical := by
  unfold execGetVersion
  exact State.gritus_canonical _ _ (fun u => by
    simp)

@[simp] theorem execGetCapabilities_canonical (request : List Byte) (s : State) : outCanonical (execGetCapabilities
    request s) = s.canonical := by
  unfold execGetCapabilities
  exact State.gritus_canonical _ _ (fun u => by
    simp)

@[simp] theorem execNegotiateAlgorithms_canonical (request : List Byte) (s : State) : outCanonical
    (execNegotiateAlgorithms request s) = s.canonical := by
  unfold execNegotiateAlgorithms
  exact State.gritus_canonical _ _ (fun u => by
    simp)

@[simp] theorem execGetDigests_canonical (request : List Byte) (s : State) : outCanonical (execGetDigests request s) =
    s.canonical := by
  unfold execGetDigests
  exact State.gritus_canonical _ _ (fun u => by
    simp)

@[simp] theorem execGetCertificate_canonical (request : List Byte) (s : State) : outCanonical (execGetCertificate
    request s) = s.canonical := by
  unfold execGetCertificate
  exact State.gritus_canonical _ _ (fun u => by
    simp)

@[simp] theorem execChallenge_canonical (request : List Byte) (s : State) : outCanonical (execChallenge request s) =
    s.canonical := by
  unfold execChallenge
  exact State.gritus_canonical _ _ (fun u => by
    simp)

@[simp] theorem execSpdmUnsupportedRequest_canonical (u_ : Nat) (s : State) : outCanonical (execSpdmUnsupportedRequest
    u_ s) = s.canonical := by
  unfold execSpdmUnsupportedRequest
  exact State.gritus_canonical _ _ (fun u => by
    simp)

@[simp] theorem State.latch_canonical (s : State) (n : Nat) : (State.latch s n).canonical = s.canonical := rfl

@[simp] theorem execGetMeasurements_canonical (signature : Bool) (param2 : Nat) (context : List Byte) (s : State) :
    outCanonical (execGetMeasurements signature param2 context s) = s.canonical := by
  unfold execGetMeasurements
  exact State.gritus_canonical _ _ (fun u => by
    dsimp only
    split
    · exact State.answer_canonical _ _
    · refine (State.answer_canonical _ _).trans ?_
      split
      · exact State.latch_canonical _ _
      · split
        · exact canonical_foldl _ State.latch_canonical _ _
        · rfl)

@[simp] theorem execKeyExchange_canonical (request : List Byte) (part : Nat) (s : State) : outCanonical
    (execKeyExchange request part s) = s.canonical := by
  unfold execKeyExchange
  exact State.gritus_canonical _ _ (fun u => by
    exact State.respond_canonical u request 0xE4)

@[simp] theorem execFinish_canonical (request : List Byte) (s : State) : outCanonical (execFinish request s) =
    s.canonical := by
  unfold execFinish
  exact State.gritus_canonical _ _ (fun u => by
    simp)

@[simp] theorem execKeyUpdate_canonical (request : List Byte) (s : State) : outCanonical (execKeyUpdate request s) =
    s.canonical := by
  unfold execKeyUpdate
  exact State.gritus_canonical _ _ (fun u => by
    simp)

@[simp] theorem execHeartbeat_canonical (request : List Byte) (s : State) : outCanonical (execHeartbeat request s) =
    s.canonical := by
  unfold execHeartbeat
  exact State.gritus_canonical _ _ (fun u => by
    simp)

@[simp] theorem execEndSession_canonical (request : List Byte) (s : State) : outCanonical (execEndSession request s) =
    s.canonical := by
  unfold execEndSession
  exact State.gritus_canonical _ _ (fun u => by
    simp)

@[simp] theorem execVendorKeyLoad_canonical (inSession : Bool) (payload : List Byte) (s : State) : outCanonical
    (execVendorKeyLoad inSession payload s) = s.canonical := by
  unfold execVendorKeyLoad
  exact State.gritus_canonical _ _ (fun u => by
    dsimp only
    split
    · exact State.answer_canonical _ _
    · split
      · exact State.answer_canonical _ _
      · split
        · exact State.answer_canonical _ _
        · split
          · exact State.answer_canonical _ _
          · exact State.answer_canonical u [0#8])

@[simp] theorem execVendorKeyZeroise_canonical (inSession : Bool) (payload : List Byte) (s : State) : outCanonical
    (execVendorKeyZeroise inSession payload s) = s.canonical := by
  unfold execVendorKeyZeroise
  exact State.gritus_canonical _ _ (fun u => by
    dsimp only
    split
    · exact State.answer_canonical _ _
    · split
      · exact State.answer_canonical _ _
      · split
        · exact State.answer_canonical _ _
        · exact State.answer_canonical u [0#8])

/-! ## Regs -/

@[simp] theorem after_canonical (o : Out) (s : State) (h : outCanonical o = true) (hs : s.canonical = true) : (after o
    s).canonical = true := by
  unfold after
  split
  · exact h
  · exact hs
theorem after_canonical_eq (o : Out) (s : State) (h : outCanonical o = s.canonical) : (after o s).canonical =
    s.canonical := by
  unfold after
  split
  · exact h
  · rfl

@[simp] theorem State.regRead_canonical (s : State) (pa n : Nat) (hs : s.canonical = true) : (State.regRead s pa
    n).2.canonical = true := by
  unfold State.regRead
  split <;> simp [hs]

@[simp] theorem State.writePart_canonical (s : State) (p off : Nat) (w : Dword) (hs : s.canonical = true) :
    (State.writePart s p off w).canonical = true := by
  unfold State.writePart
  (repeat' split) <;> simp [hs]

@[simp] theorem State.writeAssay_canonical (s : State) (off : Nat) (w : Dword) (hs : s.canonical = true) :
    (State.writeAssay s off w).canonical = true := by
  unfold State.writeAssay
  (repeat' split) <;> simp [hs]

@[simp] theorem State.writeCluster_canonical (s : State) (k off : Nat) (w : Dword) (hs : s.canonical = true) :
    (State.writeCluster s k off w).canonical = true := by
  unfold State.writeCluster
  dsimp only
  (repeat' split) <;> simp [hs]

@[simp] theorem State.regPut_canonical (s : State) (pa : Nat) (w : Dword) (hs : s.canonical = true) : (State.regPut s
    pa w).canonical = true := by
  unfold State.regPut
  (repeat' split) <;> simp [hs]

@[simp] theorem State.regWrite_canonical (s : State) (pa n x : Nat) (hs : s.canonical = true) : (State.regWrite s pa n
    x).canonical = true := by
  unfold State.regWrite
  simp [hs]

@[simp] theorem execRegisterWrite_canonical (part : Nat) (address : Nat) (value : Dword) (s : State) (hs : s.canonical
    = true) : outCanonical (execRegisterWrite part address value s) = true := by
  unfold execRegisterWrite
  (repeat' split) <;> simp [hs]

@[simp] theorem State.plainWrite_canonical (s : State) (pa : Nat) (bs : List Byte) (hs : s.canonical = true) :
    (State.plainWrite s pa bs).canonical = true := by
  unfold State.plainWrite
  split <;> simp [hs]

@[simp] theorem State.plainRead_canonical (s : State) (pa n : Nat) (hs : s.canonical = true) : (State.plainRead s pa
    n).2.canonical = true := by
  unfold State.plainRead
  split <;> simp [hs]

@[simp] theorem execHostWrite_canonical (part : Nat) (_requester : Nat) (address : Nat) (data : List Byte) (s : State)
    (hs : s.canonical = true) : outCanonical (execHostWrite part _requester address data s) = true := by
  unfold execHostWrite
  split <;> simp [hs]

@[simp] theorem execHostRead_canonical (part : Nat) (_requester : Nat) (address size : Nat) (s : State) (hs :
    s.canonical = true) : outCanonical (execHostRead part _requester address size s) = true := by
  unfold execHostRead
  dsimp only
  (repeat' split) <;> simp [hs]

@[simp] theorem execHostAtomic_canonical (part : Nat) (op : HostAtomicOp) (address size : Nat) (operand compare : Nat)
    (s : State) (hs : s.canonical = true) : outCanonical (execHostAtomic part op address size operand compare s) =
    true := by
  unfold execHostAtomic
  dsimp only
  (repeat' split) <;> simp [hs]

/-! ## Perform -/

@[simp] theorem State.serveElem_canonical (s : State) (tm : Team) (gi : Nat) (g : Group) (e : MemElem) :
    (State.serveElem s tm gi g e).canonical = s.canonical := rfl

@[simp] theorem State.readElem_canonical (s : State) (tm : Team) (gi : Nat) (g : Group) (e : MemElem) (hs :
    s.canonical = true) : (State.readElem s tm gi g e).2.canonical = true := by
  unfold State.readElem
  dsimp only
  (repeat' split) <;> simp [hs]

@[simp] theorem State.fillFor_canonical (s : State) (tm : Team) (g : Group) (o : MemOp) (e : MemElem) (hs :
    s.canonical = true) : (State.fillFor s tm g o e).canonical = true := by
  unfold State.fillFor
  split <;> simp [hs]

@[simp] theorem logValue_canonical (t gi l kind flag cnt size x : Nat) (s : State) (hs : s.canonical = true) :
    (logValue t gi l kind flag cnt size x s).canonical = true := by
  unfold logValue
  refine canonical_foldl' (fun u a hs => ?_) _ _ hs
  simp [hs]

@[simp] theorem State.takeElem_canonical (s : State) (t gi : Nat) (g : Group) (tm : Team) (o : MemOp) (e : MemElem)
    (flag : Nat) : (State.takeElem s t gi g tm o e flag).canonical = s.canonical := by
  unfold State.takeElem
  simp [canonical_foldl, canonical_foldlP]

@[simp] theorem State.testRecent_canonical (s : State) (tm : Team) (mode : RunMode) (e : MemElem) (hs : s.canonical =
    true) : (State.testRecent s tm mode e).canonical = true := by
  unfold State.testRecent
  split <;> simp [hs]

@[simp] theorem loadElem_canonical (t gi : Nat) (o : MemOp) (e : MemElem) (s : State) (hs : s.canonical = true) :
    (loadElem t gi o e s).canonical = true := by
  unfold loadElem
  dsimp only
  (repeat' split) <;> simp (maxDischargeDepth := 20) +contextual [hs, canonical_foldl', canonical_foldlP']

@[simp] theorem execLoadMissAtHome_canonical (team group op line : Nat) (s : State) (hs : s.canonical = true) :
    outCanonical (execLoadMissAtHome team group op line s) = true := by
  unfold execLoadMissAtHome
  split
  · exact hs
  · exact canonical_foldl' (fun u a hs => loadElem_canonical _ _ _ _ _ hs) _ _ hs

@[simp] theorem storeDone_canonical (t gi id lane : Nat) (s : State) : (storeDone t gi id lane s).canonical =
    s.canonical := by
  unfold storeDone
  simp

@[simp] theorem State.coreWrite_canonical (s : State) (tm : Team) (o : MemOp) (e : MemElem) (hs : s.canonical = true)
    : (State.coreWrite s tm o e).canonical = true := by
  unfold State.coreWrite
  simp [hs]

@[simp] theorem State.throughWrite_canonical (s : State) (tm : Team) (gi : Nat) (g : Group) (e : MemElem) (hs :
    s.canonical = true) : (State.throughWrite s tm gi g e).canonical = true := by
  unfold State.throughWrite
  (repeat' split) <;> simp [hs]

@[simp] theorem State.rmw_canonical (s : State) (tm : Team) (gi : Nat) (g : Group) (o : MemOp) (e : MemElem) (hs :
    s.canonical = true) : (State.rmw s tm gi g o e).2.canonical = true := by
  unfold State.rmw
  dsimp only
  (repeat' split) <;> simp (maxDischargeDepth := 20) +contextual [hs, canonical_foldl', canonical_foldlP']

@[simp] theorem replayAtomic_canonical (t gi : Nat) (o : MemOp) (e : MemElem) (s : State) : (replayAtomic t gi o e
    s).canonical = s.canonical := by
  unfold replayAtomic
  dsimp only
  (repeat' split) <;> simp [canonical_foldl, canonical_foldlP]

@[simp] theorem performAtomic_canonical (t gi : Nat) (tm : Team) (g : Group) (o : MemOp) (e : MemElem) (s : State) (hs
    : s.canonical = true) : (performAtomic t gi tm g o e s).canonical = true := by
  unfold performAtomic
  dsimp only
  (repeat' split) <;> simp [hs]

@[simp] theorem storeElem_canonical (t gi : Nat) (tm : Team) (g : Group) (o : MemOp) (e : MemElem) (s : State) (hs :
    s.canonical = true) : (storeElem t gi tm g o e s).canonical = true := by
  unfold storeElem
  dsimp only
  (repeat' split) <;> first
    | (simp [hs]; done)
    | (rename_i h; simpa using State.runStore_canonical _ _ _ _ _ _ (by simp [hs]) h)

@[simp] theorem execStorePerforms_canonical (team group : Nat) (s : State) (hs : s.canonical = true) : outCanonical
    (execStorePerforms team group s) = true := by
  unfold execStorePerforms
  (repeat' split) <;> simp [hs]

@[simp] theorem execRegistrationRequest_canonical (core : Nat) (s : State) (hs : s.canonical = true) : outCanonical
    (execRegistrationRequest core s) = true := by
  unfold execRegistrationRequest
  dsimp only
  (repeat' split) <;> simp (maxDischargeDepth := 20) [hs]

@[simp] theorem State.localWrite_canonical (s : State) (t : Nat) (o : LocalOp) (e : MemElem) (bs : List Byte) (hs :
    s.canonical = true) : (State.localWrite s t o e bs).canonical = true := by
  unfold State.localWrite
  simp [hs]

@[simp] theorem recordElem_canonical (t gi : Nat) (tm : Team) (g : Group) (o : LocalOp) (e : MemElem) (s : State) (hs :
    s.canonical = true) : (recordElem t gi tm g o e s).2.canonical = true := by
  unfold recordElem
  dsimp only
  (repeat' split) <;> simp [hs]

@[simp] theorem localResult_canonical (t gi : Nat) (o : LocalOp) (e : MemElem) (x : Nat) (s : State) (hs : s.canonical = true) :
    (localResult t gi o e x s).canonical = true := by
  unfold localResult
  dsimp only
  split <;> split <;> simp_all

@[simp] theorem localElem_canonical (t gi : Nat) (o : LocalOp) (e : MemElem) (s : State) (hs : s.canonical = true) :
    (localElem t gi o e s).canonical = true := by
  unfold localElem
  have h : ∀ (b : Prop) [Decidable b] (bs : List Byte), (if b then s else s.localWrite t o e bs).canonical = true := by
    intro b _ bs
    split <;> simp [hs]
  dsimp only
  (repeat' split) <;> simp [hs, h]

@[simp] theorem performLocal_canonical (t gi : Nat) (o : LocalOp) (s : State) (hs : s.canonical = true) :
    (performLocal t gi o s).canonical = true := by
  unfold performLocal
  simp (maxDischargeDepth := 20) +contextual [hs, canonical_foldl', canonical_foldlP']

@[simp] theorem execResultLands_canonical (team group op : Nat) (s : State) (hs : s.canonical = true) : outCanonical
    (execResultLands team group op s) = true := by
  unfold execResultLands
  (repeat' split) <;> simp [hs]

@[simp] theorem execCacheReplacement_canonical (l2 : Bool) (core asid line : Nat) (s : State) (hs : s.canonical =
    true) : outCanonical (execCacheReplacement l2 core asid line s) = true := by
  unfold execCacheReplacement
  (repeat' split) <;> simp [hs]

/-! ## Mgmt -/

theorem State.modMgmt_canonical (s : State) (f : Mgmt → Mgmt) (h : (f s.mgmt).flash = s.mgmt.flash) : (s.modMgmt
    f).canonical = s.canonical := by
  unfold State.modMgmt
  rw [canonical_mk, h]
  rfl

@[simp] theorem execMgmtReset_canonical (s : State) : outCanonical (execMgmtReset s) = s.canonical := rfl

@[simp] theorem execFlashProgram_canonical (address : Nat) (value : Dword) (s : State) (hs : s.canonical = true) :
    outCanonical (execFlashProgram address value s) = true := by
  unfold execFlashProgram
  split
  · rw [canonical_and] at hs
    rw [outCanonical_next, canonical_and]
    exact ⟨hs.1, hs.2.1, hs.2.2.1, Memory.wf_putBytes _ _ _ hs.2.2.2⟩
  · exact hs

@[simp] theorem execSealVerify_canonical (value : Dword) (s : State) : outCanonical (execSealVerify value s) =
    s.canonical := by
  unfold execSealVerify
  rw [outCanonical_next]
  split
  · exact State.modMgmt_canonical _ _ rfl
  · rfl

@[simp] theorem execSealResult_canonical (s : State) : outCanonical (execSealResult s) = s.canonical := by
  unfold execSealResult
  rw [outCanonical_next]
  split
  · exact State.modMgmt_canonical _ _ rfl
  · rfl

@[simp] theorem execMeasExtend_canonical (value : Dword) (s : State) : outCanonical (execMeasExtend value s) =
    s.canonical := by
  unfold execMeasExtend
  split
  · rfl
  · exact State.modMgmt_canonical _ _ rfl

@[simp] theorem execMeasLatch_canonical (register : Nat) (s : State) : outCanonical (execMeasLatch register s) =
    s.canonical := by
  unfold execMeasLatch
  split <;> simp

@[simp] theorem execAssign_canonical (value : Dword) (s : State) : outCanonical (execAssign value s) = s.canonical
    := by
  unfold execAssign
  extract_lets core code s1
  have h1 : s1.canonical = s.canonical := State.modMgmt_canonical _ _ rfl
  clear_value s1
  rw [outCanonical_next]
  split
  · exact (State.modCore_canonical _ _ _).trans h1
  · exact h1

@[simp] theorem State.mgmtRead_canonical (s : State) (off : Nat) : (s.mgmtRead off).2.canonical = s.canonical := by
  unfold State.mgmtRead
  dsimp only
  split
  · exact after_canonical_eq _ _ (execMeasLatch_canonical _ _)
  · rfl

@[simp] theorem State.mgmtWrite_canonical (s : State) (off : Nat) (w : Dword) : (s.mgmtWrite off w).canonical =
    s.canonical := by
  unfold State.mgmtWrite
  split
  · exact State.modMgmt_canonical _ _ rfl
  · exact State.modMgmt_canonical _ _ rfl
  · exact after_canonical_eq _ _ (execSealVerify_canonical _ _)
  · exact after_canonical_eq _ _ (execMeasExtend_canonical _ _)
  · exact after_canonical_eq _ _ (execAssign_canonical _ _)
  · split
    · exact State.modMgmt_canonical _ _ rfl
    · split
      · exact State.modMgmt_canonical _ _ rfl
      · split
        · exact State.modMgmt_canonical _ _ rfl
        · rfl

/-! ## Riscv -/

theorem State.mgmtLoad_canonical (s t : State) (a n x : Nat) (h : s.mgmtLoad a n = some (x, t)) (hs : s.canonical =
    true) : t.canonical = true := by
  unfold State.mgmtLoad at h
  split at h
  · split at h
    · cases h; exact hs
    · cases h
  · split at h
    · have := congrArg (fun o : Option (Nat × State) => (o.map Prod.snd).getD s) h
      change (s.mgmtRead _).2 = t at this
      rw [← this, State.mgmtRead_canonical]; exact hs
    · cases h
  · split at h
    · split at h
      · have e := congrArg Prod.snd (Option.some.inj h)
        exact (congrArg State.canonical e.symm).trans (State.regRead_canonical _ _ _ hs)
      · have e := congrArg Prod.snd (Option.some.inj h)
        exact (congrArg State.canonical e.symm).trans ((State.forwardStamp_canonical _ _ _).trans hs)
    · cases h
  · cases hf : s.mgmtFetch a n with
    | none => rw [hf] at h; cases h
    | some y => rw [hf] at h; cases h; exact hs
theorem State.mgmtStore_canonical (s t : State) (a n x : Nat) (h : s.mgmtStore a n x = some t) (hs : s.canonical =
    true) : t.canonical = true := by
  unfold State.mgmtStore at h
  split at h
  · cases h; exact (State.modMgmt_canonical _ _ rfl).trans hs
  · split at h
    · cases h; exact after_canonical _ _ (execFlashProgram_canonical _ _ _ hs) hs
    · cases h
  · split at h
    · cases h; exact (State.mgmtWrite_canonical _ _ _).trans hs
    · cases h
  · split at h
    · have e := Option.some.inj h
      rw [← e]
      split
      · exact State.regWrite_canonical _ _ _ _ hs
      · exact State.homeWritePast_canonical _ _ _ _ hs
    · cases h
  · cases h
theorem flash_setReg (m : Mgmt) (r x : Nat) : (m.setReg r x).flash = m.flash := by
  unfold Mgmt.setReg; split <;> rfl
theorem flash_csrWrite (m : Mgmt) (n x : Nat) : (m.csrWrite n x).flash = m.flash := by
  unfold Mgmt.csrWrite
  repeat' split
  all_goals rfl
theorem State.rvLoad_canonical (s t : State) (rd a f3 : Nat) (h : s.rvLoad rd a f3 = .ok t) (hs : s.canonical = true)
    : t.canonical = true := by
  unfold State.rvLoad at h
  dsimp only at h
  split at h
  · cases h
  · split at h
    · cases h
    · split at h
      · cases h
      · rename_i hl
        cases h
        exact (State.modMgmt_canonical _ _ (flash_setReg _ _ _)).trans (State.mgmtLoad_canonical _ _ _ _ _ hl hs)
theorem State.rvStore_canonical (s t : State) (a f3 x : Nat) (h : s.rvStore a f3 x = .ok t) (hs : s.canonical = true)
    : t.canonical = true := by
  unfold State.rvStore at h
  dsimp only at h
  split at h
  · cases h
  · split at h
    · cases h
    · split at h
      · cases h
      · rename_i hl
        cases h
        exact State.mgmtStore_canonical _ _ _ _ _ hl hs
theorem State.rvAtomic_canonical (s t : State) (w rd a v : Nat) (h : s.rvAtomic w rd a v = .ok t) (hs : s.canonical =
    true) : t.canonical = true := by
  have hp : ∀ n x, ((s.mgmtStore a n x).getD s).canonical = true := by
    intro n x
    cases hm : s.mgmtStore a n x with
    | none => exact hs
    | some u => exact State.mgmtStore_canonical _ _ _ _ _ hm hs
  unfold State.rvAtomic at h
  dsimp only at h
  repeat' (split at h)
  all_goals first
    | (cases h; done)
    | (cases h; exact (State.modMgmt_canonical _ _ (flash_setReg _ _ _)).trans hs)
    | (cases h; exact (State.modMgmt_canonical _ _ (flash_setReg _ _ _)).trans (hp _ _))
theorem State.rvCsr_canonical (s t : State) (w rd rs1 : Nat) (h : s.rvCsr w rd rs1 = .ok t) (hs : s.canonical = true)
    : t.canonical = true := by
  unfold State.rvCsr at h
  dsimp only at h
  split at h
  · cases h
  · split at h
    · cases h
    · cases h
      refine (State.modMgmt_canonical _ _ ((flash_setReg _ _ _).trans ?_)).trans hs
      split
      · exact flash_csrWrite _ _ _
      · rfl
theorem State.rvExec_canonical (s t : State) (w len pc : Nat) (h : s.rvExec w len = .ok (t, pc)) (hs : s.canonical =
    true) : t.canonical = true := by
  have hv : ∀ (x : Option Nat) (rd seq : Nat), (match x with
      | some x => Except.ok (s.modMgmt (·.setReg rd x), seq)
      | none => Except.error ((2, 0) : Nat × Nat)) = Except.ok (t, pc) → t.canonical = true := by
    intro x rd seq hx
    split at hx
    · cases hx; exact (State.modMgmt_canonical _ _ (flash_setReg _ _ _)).trans hs
    · cases hx
  have ha : ∀ (r : Except (Nat × Nat) State) (seq : Nat), (∀ u, r = .ok u → u.canonical = true) → r.map (fun s => (s, seq)) = .ok (t, pc) → t.canonical = true := by
    intro r seq hr hx
    cases r with
    | error e => cases hx
    | ok u => cases hx; exact hr _ rfl
  unfold State.rvExec at h
  extract_lets m pc0 seq rd a b f3 iImm sImm bImm jImm illegal value also at h
  have hi : illegal ≠ .ok (t, pc) := by simp [illegal]
  have hok : ∀ (u : State) (n : Nat), u.canonical = true → Except.ok (u, n) = (Except.ok (t, pc) : Except (Nat × Nat) (State × Nat)) → t.canonical = true := by
    intro u n hu he
    cases he; exact hu
  have hv' : ∀ x, value x = .ok (t, pc) → t.canonical = true := fun x hx => hv x _ _ hx
  have ha' : ∀ r, (∀ u, r = .ok u → u.canonical = true) → also r = .ok (t, pc) → t.canonical = true := fun r hr hx => ha r _ hr hx
  have hm : ∀ r x : Nat, (s.modMgmt (·.setReg r x)).canonical = true := fun r x => (State.modMgmt_canonical _ _ (flash_setReg _ _ _)).trans hs
  clear_value value also illegal
  split at h
  · exact hv' _ h
  · exact hv' _ h
  · exact hok _ _ (hm _ _) h
  · split at h
    · exact hok _ _ (hm _ _) h
    · exact absurd h hi
  · split at h
    · exact hok _ _ hs h
    · exact absurd h hi
  · exact ha' _ (fun u hu => State.rvLoad_canonical _ _ _ _ _ hu hs) h
  · exact ha' _ (fun u hu => State.rvStore_canonical _ _ _ _ _ hu hs) h
  · exact hv' _ h
  · exact hv' _ h
  · exact hv' _ h
  · exact hv' _ h
  · exact ha' _ (fun u hu => State.rvAtomic_canonical _ _ _ _ _ _ hu hs) h
  · split at h
    · exact hok _ _ hs h
    · exact absurd h hi
  · split at h
    · exact ha' _ (fun u hu => State.rvCsr_canonical _ _ _ _ _ hu hs) h
    · split at h
      · cases h
      · cases h
      · exact hok _ _ ((State.modMgmt_canonical _ _ rfl).trans hs) h
      · exact hok _ _ hs h
      · exact absurd h hi
  · exact absurd h hi
@[simp] theorem execMgmtCoreInstruction_canonical (s : State) (hs : s.canonical = true) : outCanonical
    (execMgmtCoreInstruction s) = true := by
  unfold execMgmtCoreInstruction
  split
  · exact (State.modMgmt_canonical _ _ rfl).trans hs
  · split
    · exact (State.modMgmt_canonical _ _ rfl).trans hs
    · rename_i h
      exact (State.modMgmt_canonical _ _ rfl).trans (State.rvExec_canonical _ _ _ _ _ h hs)

/-! ## Step -/

end Sys2Proof.Machine
end

