-- ==== Sys2Proof/Laws/Encoding.lean ====
section
/-! SUPPORT. The fields of an encoding, bit by bit, and what the decoder builds from them (R13–R21). -/

namespace Sys2Proof

/-- Every bit of the first word of an encoding (R14, R15). -/
theorem word0_bit (len : BitVec 2) (m : Nat) (f : Fields) (i : Nat) : (word0 len m f).getLsbD i =
    if i < 6 then f.b.getLsbD i else if i < 12 then f.a.getLsbD (i - 6) else if i < 18 then f.d.getLsbD (i - 12)
    else if i < 21 then f.gp.getLsbD (i - 18) else if i < 22 then f.gn
    else if i < 30 then (BitVec.ofNat 8 m).getLsbD (i - 22) else len.getLsbD (i - 30) := by
  have e : (word0 len m f).getLsbD i = @BitVec.getLsbD (2 + 8 + 1 + 3 + 6 + 6 + 6) (len ++ BitVec.ofNat 8 m ++ BitVec.ofBool f.gn ++ f.gp ++
    f.d.extractLsb' 0 6 ++ f.a.extractLsb' 0 6 ++ f.b.extractLsb' 0 6) i := rfl
  rw [e]
  simp only [BitVec.getLsbD_append, BitVec.getLsbD_extractLsb', BitVec.getLsbD_ofBool]
  simp only [Nat.zero_add, Nat.sub_sub, Nat.reduceAdd]
  split_ifs <;> first
    | omega
    | rfl
    | (rw [show decide _ = true from decide_eq_true (by omega), Bool.true_and])

/-- Every bit of the second word (R16). -/
theorem word1_bit (f : Fields) (i : Nat) : (word1 f).getLsbD i =
    if i < 8 then f.c.getLsbD i else if i < 10 then f.b.getLsbD (i - 8 + 6) else if i < 12 then f.a.getLsbD (i - 10 + 6)
    else if i < 14 then f.d.getLsbD (i - 12 + 6) else if i < 17 then f.te.getLsbD (i - 14)
    else if i < 24 then f.minor.getLsbD (i - 17) else f.mod.getLsbD (i - 24) := by
  have e : (word1 f).getLsbD i = @BitVec.getLsbD (8 + 7 + 3 + 2 + 2 + 2 + 8) (f.mod ++ f.minor ++ f.te ++ f.d.extractLsb' 6 2 ++
    f.a.extractLsb' 6 2 ++ f.b.extractLsb' 6 2 ++ f.c) i := rfl
  rw [e]
  simp only [BitVec.getLsbD_append, BitVec.getLsbD_extractLsb']
  simp only [Nat.sub_sub, Nat.reduceAdd]
  split_ifs <;> first
    | omega
    | rfl
    | (rw [show decide _ = true from decide_eq_true (by omega), Bool.true_and, Nat.add_comm])

/-- A bit field as an extracted vector. -/
theorem bits_extract {w : Nat} (x : BitVec w) (h l : Nat) : bits x.toNat h l = (x.extractLsb' l (h + 1 - l)).toNat
    := by
  simp [bits, BitVec.extractLsb'_toNat]

/-- LEN of the first word. -/
theorem word0_len (len : BitVec 2) (m : Nat) (f : Fields) : bits (word0 len m f).toNat 31 30 = len.toNat := by
  rw [bits_extract]
  congr 1
  apply BitVec.eq_of_getLsbD_eq; intro i hi; change i < 2 at hi
  rw [BitVec.getLsbD_extractLsb', word0_bit]
  split_ifs <;> first | omega | (rw [decide_eq_true (by omega), Bool.true_and]; congr 1; omega)

/-- The major opcode of the first word. -/
theorem word0_major (len : BitVec 2) (m : Nat) (f : Fields) (hm : m < 256) : bits (word0 len m f).toNat 29 22 = m := by
  rw [bits_extract]
  have : (word0 len m f).extractLsb' 22 (29 + 1 - 22) = BitVec.ofNat 8 m := by
    apply BitVec.eq_of_getLsbD_eq; intro i hi; change i < 8 at hi
    rw [BitVec.getLsbD_extractLsb', word0_bit]
    split_ifs <;> first | omega | (rw [decide_eq_true (by omega), Bool.true_and]; congr 1; omega)
  rw [this]; simp; omega

/-- The fields read from the two words of an encoding are the fields encoded. -/
theorem fields_eta (f : Fields) (len : BitVec 2) (m : Nat) (lit : Option Word) (hl : f.lit = lit) :
    fieldsOf (word0 len m f) (word1 f) lit = f := by
  have key : ∀ {w : Nat} (x y : BitVec w), (∀ i, i < w → x.getLsbD i = y.getLsbD i) → x = y := fun x y h => BitVec.eq_of_getLsbD_eq h
  have e : ∀ g : Fields, g.gn = f.gn → g.gp = f.gp → g.d = f.d → g.a = f.a → g.b = f.b → g.c = f.c → g.te = f.te → g.minor = f.minor → g.mod = f.mod → g.lit = f.lit → g = f := by
    intro g; cases g; cases f; simp only; rintro rfl rfl rfl rfl rfl rfl rfl rfl rfl rfl; rfl
  have app : ∀ (x : BitVec 2) (y : BitVec 6) (i : Nat), (x ++ y : BitVec 8).getLsbD i = if i < 6 then y.getLsbD i else x.getLsbD (i - 6) := by
    intro x y i; rw [show (x ++ y : BitVec 8).getLsbD i = @BitVec.getLsbD (2 + 6) (x ++ y) i from rfl, BitVec.getLsbD_append]
  apply e
  · change (word0 len m f).getLsbD 21 = _; rw [word0_bit]; rfl
  · apply key; intro i hi
    change ((word0 len m f).extractLsb' 18 3).getLsbD i = _
    rw [BitVec.getLsbD_extractLsb', word0_bit]
    split_ifs <;> first | omega | (rw [decide_eq_true (by omega), Bool.true_and]; congr 1; omega)
  · apply key; intro i hi
    change ((word1 f).extractLsb' 12 2 ++ (word0 len m f).extractLsb' 12 6 : BitVec 8).getLsbD i = _
    rw [app]
    split_ifs
    · rw [BitVec.getLsbD_extractLsb', word0_bit]
      split_ifs <;> first | omega | (rw [decide_eq_true (by omega), Bool.true_and]; congr 1; omega)
    · rw [BitVec.getLsbD_extractLsb', word1_bit]
      split_ifs <;> first | omega | (rw [decide_eq_true (by omega), Bool.true_and]; congr 1; omega)
  · apply key; intro i hi
    change ((word1 f).extractLsb' 10 2 ++ (word0 len m f).extractLsb' 6 6 : BitVec 8).getLsbD i = _
    rw [app]
    split_ifs
    · rw [BitVec.getLsbD_extractLsb', word0_bit]
      split_ifs <;> first | omega | (rw [decide_eq_true (by omega), Bool.true_and]; congr 1; omega)
    · rw [BitVec.getLsbD_extractLsb', word1_bit]
      split_ifs <;> first | omega | (rw [decide_eq_true (by omega), Bool.true_and]; congr 1; omega)
  · apply key; intro i hi
    change ((word1 f).extractLsb' 8 2 ++ (word0 len m f).extractLsb' 0 6 : BitVec 8).getLsbD i = _
    rw [app]
    split_ifs
    · rw [BitVec.getLsbD_extractLsb', word0_bit]
      split_ifs <;> first | omega | (rw [decide_eq_true (by omega), Bool.true_and]; congr 1; omega)
    · rw [BitVec.getLsbD_extractLsb', word1_bit]
      split_ifs <;> first | omega | (rw [decide_eq_true (by omega), Bool.true_and]; congr 1; omega)
  · apply key; intro i hi
    change ((word1 f).extractLsb' 0 8).getLsbD i = _
    rw [BitVec.getLsbD_extractLsb', word1_bit]
    split_ifs <;> first | omega | (rw [decide_eq_true (by omega), Bool.true_and]; congr 1; omega)
  · apply key; intro i hi
    change ((word1 f).extractLsb' 14 3).getLsbD i = _
    rw [BitVec.getLsbD_extractLsb', word1_bit]
    split_ifs <;> first | omega | (rw [decide_eq_true (by omega), Bool.true_and]; congr 1; omega)
  · apply key; intro i hi
    change ((word1 f).extractLsb' 17 7).getLsbD i = _
    rw [BitVec.getLsbD_extractLsb', word1_bit]
    split_ifs <;> first | omega | (rw [decide_eq_true (by omega), Bool.true_and]; congr 1; omega)
  · apply key; intro i hi
    change ((word1 f).extractLsb' 24 8).getLsbD i = _
    rw [BitVec.getLsbD_extractLsb', word1_bit]
    split_ifs <;> first | omega | (rw [decide_eq_true (by omega), Bool.true_and]; congr 1; omega)
  · exact hl.symm

/-- What the decoder builds for a major has these fields and that major. -/
theorem instrOf_fields (m : Nat) (f : Fields) (i : Instr) (h : instrOf m f = some i) : i.fields = some f ∧ i.major = m
    := by
  unfold instrOf at h
  split at h <;> (try split at h) <;> (try split at h) <;> first | (cases h; done) | (cases h; refine ⟨rfl, ?_⟩; simp only [Instr.major]; omega)

/-- A well-formed instruction is what the decoder builds from its major and its fields. -/
theorem instrOf_major (i : Instr) (f : Fields) (h : i.wellFormed = true) (hf : i.fields = some f) : instrOf i.major f
    = some i := by
  have mma : ∀ (f : Fields) (k : Nat), k < 4 → f.minor.toNat % 4 = k → instrOf 0xE0 f = [some (Instr.mma f), some (.mmaG f), some (.mmaS f), some (.mmaGs f)].getD k none := by
    intro f k hk hm
    have : instrOf 0xE0 f = (match f.minor.toNat % 4 with
      | 0 => some (.mma f)
      | 1 => some (.mmaG f)
      | 2 => some (.mmaS f)
      | _ => some (.mmaGs f)) := by unfold instrOf; rfl
    rw [this, hm]
    match k, hk with
    | 0, _ => rfl
    | 1, _ => rfl
    | 2, _ => rfl
    | 3, _ => rfl
  cases i <;> first
    | (obtain rfl := Option.some.inj hf; simp only [Instr.major, instrOf]; done)
    | (exfalso; unfold Instr.fields at hf; cases hf; done)
    | (obtain rfl := Option.some.inj hf
       refine mma _ 0 (by decide) ?_
       unfold Instr.wellFormed Instr.form Forms.ok Instr.fields at h
       dsimp only at h
       split at h
       · rename_i h1 h2
         split at h2
         · rename_i h3; simp at h3; omega
         · cases h2
       · cases h)
    | (obtain rfl := Option.some.inj hf
       refine mma _ 1 (by decide) ?_
       unfold Instr.wellFormed Instr.form Forms.ok Instr.fields at h
       dsimp only at h
       split at h
       · rename_i h1 h2
         split at h2
         · rename_i h3; simp at h3; omega
         · cases h2
       · cases h)
    | (obtain rfl := Option.some.inj hf
       refine mma _ 2 (by decide) ?_
       unfold Instr.wellFormed Instr.form Forms.ok Instr.fields at h
       dsimp only at h
       split at h
       · rename_i h1 h2
         split at h2
         · rename_i h3; simp at h3; omega
         · cases h2
       · cases h)
    | (obtain rfl := Option.some.inj hf
       refine mma _ 3 (by decide) ?_
       unfold Instr.wellFormed Instr.form Forms.ok Instr.fields at h
       dsimp only at h
       split at h
       · rename_i h1 h2
         split at h2
         · rename_i h3; simp at h3; omega
         · cases h2
       · cases h)

/-- A major fits eight bits. -/
theorem major_lt (i : Instr) : i.major < 256 := by
  cases i <;> simp [Instr.major]

end Sys2Proof
end

