-- ==== Sys2Proof/Laws/Frames.lean ====
section
/-! SUPPORT. What the three outcomes of a vector instruction leave unchanged (`View.done`, `View.sent`, `View.passed`), from
what each of their parts leaves unchanged. -/

namespace Sys2Proof.Machine

/-- What a map reads as after a put. -/
theorem Map.get_put {α : Type} (m : Map α) (a b : Nat) (x d : α) : Map.get (Map.put m a x) b d = if b = a then x else
    Map.get m b d := by
  unfold Map.get
  rw [Map.get?_put]
  split <;> rfl

/-- What a thread keeps of a trap. -/
def Thread.traps (th : Thread) : Dword × Dword × Dword := (th.trapPc, th.trapCause, th.trapDetail)

/-- From g to h a group keeps what an outcome may not change: the registers outside `W`, as long as no write in flight
names one of them; every thread's trap registers; and no team register is written if none was. -/
structure Group.Keeps (W : Nat → Prop) (g h : Group) : Prop where
  flies : (∀ c, g.clause = some c → ∀ w ∈ c.fly, W w.reg) → ∀ c, h.clause = some c → ∀ w ∈ c.fly, W w.reg
  regs : (∀ c, g.clause = some c → ∀ w ∈ c.fly, W w.reg) → ∀ r, ¬ W r → Map.get h.regs r [] = Map.get g.regs r []
  traps : ∀ l, Thread.traps (h.thread l) = Thread.traps (g.thread l)
  team : (∀ c, g.clause = some c → c.teamWrites = []) → ∀ c, h.clause = some c → c.teamWrites = []

/-- Nothing has changed. -/
theorem Group.Keeps.refl (W : Nat → Prop) (g : Group) : Group.Keeps W g g := ⟨fun h => h, fun _ _ _ => rfl, fun _ =>
    rfl, fun h => h⟩

/-- One change after another. -/
theorem Group.Keeps.trans {W : Nat → Prop} {g h k : Group} (a : Group.Keeps W g h) (b : Group.Keeps W h k) :
    Group.Keeps W g k :=
  ⟨fun f => b.flies (a.flies f), fun f r hr => (b.regs (a.flies f) r hr).trans (a.regs f r hr), fun l => (b.traps l).trans (a.traps l),
    fun f => b.team (a.team f)⟩

/-- A change elsewhere in the group. -/
theorem Group.Keeps.same {W : Nat → Prop} {g h : Group} (hr : h.regs = g.regs) (ht : h.threads = g.threads) (hc :
    h.clause = g.clause) :
    Group.Keeps W g h := by
  refine ⟨by rw [hc]; exact fun h => h, fun _ _ _ => by rw [hr], fun l => by unfold Group.thread; rw [ht], by rw [hc]; exact fun h => h⟩

/-- A change of a thread that leaves its trap registers. -/
theorem Group.Keeps.modThread (W : Nat → Prop) (g : Group) (l : Nat) (f : Thread → Thread) (hf : ∀ th, Thread.traps (f
    th) = Thread.traps th) :
    Group.Keeps W g (g.modThread l f) := by
  refine ⟨fun h => h, fun _ _ _ => rfl, fun m => ?_, fun h => h⟩
  rw [Group.thread_modThread]
  split
  · exact hf _
  · rfl

/-- A fold of such changes. -/
theorem Group.Keeps.fold {α : Type} {W : Nat → Prop} (f : Group → α → Group) (xs : List α)
    (hf : ∀ a ∈ xs, ∀ g, Group.Keeps W g (f g a)) (g : Group) : Group.Keeps W g (xs.foldl f g) := by
  induction xs generalizing g with
  | nil => exact .refl W g
  | cons a as ih => exact (hf a (List.mem_cons_self ..) g).trans (ih (fun b hb => hf b (List.mem_cons_of_mem _ hb)) _)

/-- Signing a write leaves the trap registers. -/
theorem Thread.signReg_traps (th : Thread) (x c n : Nat) : Thread.traps (th.signReg x c n) = Thread.traps th := by
  have h : ∀ z, Thread.traps { th with rs := z } = Thread.traps th := fun _ => rfl
  exact h _

/-- Signing the writes of lanes. -/
theorem Group.Keeps.signLanes (W : Nat → Prop) (t : Team) (gi reg : Nat) (lanes : LaneSet) (cnts : Map Nat) (g :
    Group) :
    Group.Keeps W g (signLanes t gi reg lanes cnts g) := by
  unfold Machine.signLanes
  split
  · exact .refl W g
  · refine .fold _ _ (fun a _ g => ?_) g
    split
    · exact .refl W g
    · exact .modThread W g a _ (fun th => th.signReg_traps _ _ _)

/-- A write in flight to a register of `W` takes effect. -/
theorem Group.Keeps.applyFly {W : Nat → Prop} (t : Team) (gi : Nat) (w : Fly) (g : Group) (hw : W w.reg) :
    Group.Keeps W g (applyFly t gi w g) := by
  unfold Machine.applyFly
  split
  · unfold writeReg
    dsimp only
    split
    · exact .refl W g
    · refine .trans (h := _) ?_ (.signLanes W t gi w.reg _ _ _)
      refine ⟨fun h => h, fun _ r hr => ?_, fun l => rfl, fun h => h⟩
      change Map.get (Map.put g.regs w.reg _) r [] = _
      rw [Map.get_put, if_neg]
      rintro rfl; exact hr hw
  · unfold setFullEmpty
    dsimp only
    split <;> exact .same rfl rfl rfl

/-- A predicate write in flight takes effect. -/
theorem Group.Keeps.applyPredFly (W : Nat → Prop) (t : Team) (w : PredFly) (g : Group) : Group.Keeps W g (applyPredFly
    t w g) := by
  unfold Machine.applyPredFly
  split
  · exact .refl W g
  · refine .fold _ _ (fun a _ g => .modThread W g a _ (fun th => ?_)) g
    dsimp only
    split <;> rfl

/-- The threads that a barrier or SBAR holds are looked at again. -/
theorem Group.Keeps.releaseK (W : Nat → Prop) (g : Group) : Group.Keeps W g g.releaseK := by
  unfold Group.releaseK
  refine .fold _ _ (fun a _ g => ?_) g
  dsimp only
  split
  · refine .fold _ _ (fun a _ g => .modThread W g a _ (fun th => ?_)) g
    split <;> rfl
  · exact .refl W g

/-- The members of the writes in flight after one more has been put among them. -/
theorem insertFly_mem (w x : Fly) (ws : List Fly) (h : x ∈ insertFly w ws) : x = w ∨ x ∈ ws := by
  induction ws with
  | nil => simpa [insertFly] using h
  | cons y ys ih =>
    unfold insertFly at h
    split at h
    · simpa using h
    · rcases List.mem_cons.mp h with rfl | h
      · right; exact List.mem_cons_self ..
      · rcases ih h with h | h
        · exact .inl h
        · exact .inr (List.mem_cons_of_mem _ h)

/-- Every write in flight takes effect. -/
theorem Group.Keeps.settleAll (W : Nat → Prop) (t : Team) (gi : Nat) (g : Group) : Group.Keeps W g (settleAll t gi g)
    := by
  unfold Machine.settleAll
  cases hc : g.clause with
  | none => exact .refl W g
  | some r =>
    dsimp only
    have k : (∀ w ∈ r.fly, W w.reg) → Group.Keeps W g (r.predFly.foldl (fun g w => Machine.applyPredFly t w g) (r.fly.foldl (fun g w => Machine.applyFly t gi w g) g)) :=
      fun h => .trans (.fold _ _ (fun a ha g => .applyFly t gi a g (h a ha)) g) (.fold _ _ (fun a _ g => .applyPredFly W t a g) _)
    have p : ∀ g : Group, ∀ l, Thread.traps ((r.predFly.foldl (fun g w => Machine.applyPredFly t w g) (r.fly.foldl (fun g w => Machine.applyFly t gi w g) g)).thread l) = Thread.traps (g.thread l) := by
      intro g l
      exact (Group.Keeps.trans (W := fun _ => True) (.fold _ _ (fun a ha g => .applyFly t gi a g trivial) g) (.fold _ _ (fun a _ g => .applyPredFly _ t a g) _)).traps l
    refine ⟨fun _ c h => ?_, fun h => (k (h r hc)).regs h, p g, fun h c hc' => ?_⟩
    · simp only [Option.some.injEq] at h
      subst h
      exact fun w hw => absurd hw (List.not_mem_nil)
    · simp only [Option.some.injEq] at hc'
      subst hc'
      exact h r hc

/-- The writes of an outcome, all to registers of `W`, are put in flight. -/
theorem Group.Keeps.launchWrites {W : Nat → Prop} (v : View) (lat seq : Nat) (outs : List (Nat × LaneOut)) (g : Group)
    (hw : ∀ lo ∈ outs, ∀ rw ∈ lo.2.regs, W rw.1) : Group.Keeps W g (launchWrites v lat seq outs g) := by
  refine ⟨fun h c hc => ?_, fun _ _ _ => rfl, fun _ => rfl, fun h c hc => ?_⟩
  rotate_left
  · unfold Machine.launchWrites at hc
    simp only [Option.map_eq_some_iff] at hc
    obtain ⟨r, hr, rfl⟩ := hc
    exact h r hr
  unfold Machine.launchWrites at hc
  simp only [Option.map_eq_some_iff] at hc
  obtain ⟨r, hr, rfl⟩ := hc
  dsimp only
  have hf : ∀ (xs : List Fly) (ys : List Fly), (∀ w ∈ xs, W w.reg) → (∀ w ∈ ys, W w.reg) → ∀ w ∈ xs.foldl (fun fs w => insertFly w fs) ys, W w.reg := by
    intro xs
    induction xs with
    | nil => exact fun ys _ h => h
    | cons x xs ih =>
      intro ys hx hy
      refine ih _ (fun w hw => hx w (List.mem_cons_of_mem _ hw)) (fun w hw => ?_)
      rcases insertFly_mem _ _ _ hw with rfl | hw
      · exact hx _ (List.mem_cons_self ..)
      · exact hy w hw
  refine hf _ _ (fun w hw2 => ?_) (h r hr)
  simp only [List.mem_filterMap, Option.map_eq_some_iff] at hw2
  obtain ⟨k, -, reg, hk, rfl⟩ := hw2
  unfold regAt at hk
  simp only [Option.map_eq_some_iff] at hk
  obtain ⟨a, ha, rfl⟩ := hk
  obtain ⟨lo, hlo, he⟩ := List.exists_of_findSome?_eq_some ha
  exact hw lo hlo a (List.mem_of_getElem? he)


/-- What the frame says of another group: its registers, threads, and full/empty and poison marks. -/
def Group.shown (g : Group) : Map (List Word) × List Thread × Map LaneSet × Map LaneSet := (g.regs, g.threads, g.empty, g.poison)

/-- From x to y a team keeps its arrays, its groups' number, the shown part of every other group, and its own group as
`Group.Keeps` says. -/
structure Team.Keeps (W : Nat → Prop) (gi : Nat) (x y : Team) : Prop where
  kept : (y.pad, y.visible, y.shadow, y.tiles, y.slices) = (x.pad, x.visible, x.shadow, x.tiles, x.slices)
  length : y.groups.length = x.groups.length
  other : ∀ j, j ≠ gi → (y.groups[j]?).map Group.shown = (x.groups[j]?).map Group.shown
  own : ∀ g h, x.groups[gi]? = some g → y.groups[gi]? = some h → Group.Keeps W g h
  vec : (∀ g c, x.groups[gi]? = some g → g.clause = some c → c.teamWrites = []) → y.trapVec = x.trapVec

/-- A change elsewhere in the team. -/
theorem Team.Keeps.same {W : Nat → Prop} {gi : Nat} {x y : Team}
    (h : (y.pad, y.visible, y.shadow, y.tiles, y.slices) = (x.pad, x.visible, x.shadow, x.tiles, x.slices))
    (hg : y.groups = x.groups) (hv : y.trapVec = x.trapVec) : Team.Keeps W gi x y :=
  ⟨h, by rw [hg], fun _ _ => by rw [hg], fun g k h1 h2 => by rw [hg, h1] at h2; cases h2; exact .refl W g, fun _ => hv⟩

/-- One change after another. -/
theorem Team.Keeps.trans {W : Nat → Prop} {gi : Nat} {x y z : Team} (a : Team.Keeps W gi x y) (b : Team.Keeps W gi y
    z) :
    Team.Keeps W gi x z := by
  refine ⟨b.kept.trans a.kept, b.length.trans a.length, fun j hj => (b.other j hj).trans (a.other j hj), fun g h h1 h2 => ?_,
    fun h => (b.vec (fun k c hk hc => ?_)).trans (a.vec h)⟩
  rotate_left
  · have hl : gi < x.groups.length := by
      rw [← a.length]
      exact (List.getElem?_eq_some_iff.1 hk).1
    have h3 := List.getElem?_eq_getElem hl
    exact (a.own _ k h3 hk).team (fun c hc => h _ c h3 hc) c hc
  have hl : gi < y.groups.length := by
    rw [a.length]
    exact (List.getElem?_eq_some_iff.1 h1).1
  have h3 := List.getElem?_eq_getElem hl
  exact (a.own g _ h1 h3).trans (b.own _ h h3 h2)

/-- A change of the group itself. -/
theorem Team.Keeps.modGroup {W : Nat → Prop} {gi : Nat} (x : Team) (f : Group → Group)
    (hf : ∀ g, x.groups[gi]? = some g → Group.Keeps W g (f g)) : Team.Keeps W gi x (x.modGroup gi f) := by
  refine ⟨rfl, modNth_length _ _ _, fun j hj => ?_, fun g h h1 h2 => ?_, fun _ => rfl⟩
  · simp only [Team.modGroup, modNth_getElem?, if_neg hj]
  · simp only [Team.modGroup, modNth_getElem?, if_true, h1, Option.map_some, Option.some.injEq] at h2
    subst h2; exact hf g h1

/-- A change of any group that leaves what is shown. -/
theorem Team.Keeps.modAny {W : Nat → Prop} {gi : Nat} (x : Team) (j : Nat) (f : Group → Group)
    (hr : ∀ g, (f g).shown = g.shown) (hc : ∀ g, (f g).clause = g.clause) : Team.Keeps W gi x (x.modGroup j f) := by
  have hk : ∀ g, Group.Keeps W g (f g) := fun g =>
    .same (congrArg Prod.fst (hr g)) (congrArg (fun x => x.2.1) (hr g)) (hc g)
  refine ⟨rfl, modNth_length _ _ _, fun i _ => ?_, fun g h h1 h2 => ?_, fun _ => rfl⟩
  · simp only [Team.modGroup, modNth_getElem?]
    split
    · rw [Option.map_map]; congr 1; funext g; exact hr g
    · rfl
  · simp only [Team.modGroup, modNth_getElem?] at h2
    split at h2
    · rw [h1] at h2; simp only [Option.map_some, Option.some.injEq] at h2; subst h2; exact hk g
    · rw [h1] at h2; cases h2; exact .refl W g

/-- A change of every group that leaves what is shown. -/
theorem Team.Keeps.mapGroups {W : Nat → Prop} {gi : Nat} (x y : Team)
    (h : (y.pad, y.visible, y.shadow, y.tiles, y.slices) = (x.pad, x.visible, x.shadow, x.tiles, x.slices))
    (f : Nat → Group → Group) (hg : ∀ j, y.groups[j]? = (x.groups[j]?).map (f j))
    (hr : ∀ j g, (f j g).shown = g.shown) (hc : ∀ j g, (f j g).clause = g.clause) (hv : y.trapVec = x.trapVec) :
    Team.Keeps W gi x y := by
  refine ⟨h, ?_, fun j _ => ?_, fun g k h1 h2 => ?_, fun _ => hv⟩
  · apply le_antisymm
    · by_contra hlt
      have := hg x.groups.length
      rw [List.getElem?_eq_getElem (by omega), List.getElem?_eq_none (le_refl _)] at this
      cases this
    · by_contra hlt
      have := hg y.groups.length
      rw [List.getElem?_eq_none (le_refl _), List.getElem?_eq_getElem (by omega)] at this
      cases this
  · rw [hg, Option.map_map]; congr 1; funext g; exact hr j g
  · rw [hg, h1] at h2; simp only [Option.map_some, Option.some.injEq] at h2; subst h2
    exact .same (congrArg Prod.fst (hr gi g)) (congrArg (fun x => x.2.1) (hr gi g)) (hc gi g)

/-- A fold of such changes. -/
theorem Team.Keeps.fold {α : Type} {W : Nat → Prop} {gi : Nat} (f : Team → α → Team) (hf : ∀ x a, Team.Keeps W gi x (f
    x a))
    (xs : List α) (x : Team) : Team.Keeps W gi x (xs.foldl f x) := by
  induction xs generalizing x with
  | nil => exact .same rfl rfl rfl
  | cons a as ih => exact (hf x a).trans (ih _)

/-- Held arrivals are made. -/
theorem Team.Keeps.arriveHeld (W : Nat → Prop) (gi : Nat) (x : Team) (n now : Nat) :
    Team.Keeps W gi x (x.arriveHeld n now) := by
  unfold Team.arriveHeld
  split
  · split <;> exact .same rfl rfl rfl
  · exact .same rfl rfl rfl

/-- A barrier phase completes. -/
theorem Team.Keeps.completePhase (W : Nat → Prop) (gi : Nat) (x : Team) (n now : Nat) :
    Team.Keeps W gi x (x.completePhase n now) := by
  unfold Team.completePhase
  refine .trans (y := _) (.trans (y := _) ?_ (.arriveHeld W gi _ n now)) (.fold _ (fun x a => ?_) _ _)
  · refine .mapGroups _ _ rfl (fun j g => { g with
        urgency := if (((x.barriers[n]?).getD .fresh).order.map Prod.fst).contains j && x.lb.nprod ≤ j then
          placeOf j (((x.barriers[n]?).getD .fresh).order.map Prod.fst) else g.urgency
        holds := g.holds.filter (fun h => !h.waits n) }) (fun j => ?_) (fun _ _ => rfl) (fun _ _ => rfl) rfl
    dsimp only
    rw [List.getElem?_map]
    by_cases hj : j < x.groups.length
    · have hz : ((List.range x.groups.length).zip x.groups)[j]? = some (j, x.groups[j]) := by
        rw [List.getElem?_zip_eq_some]; exact ⟨List.getElem?_range hj, List.getElem?_eq_getElem hj⟩
      rw [hz, List.getElem?_eq_getElem hj]
      rfl
    · have hz : ((List.range x.groups.length).zip x.groups)[j]? = none := by
        apply List.getElem?_eq_none
        rw [List.length_zip, List.length_range, Nat.min_self]
        omega
      have hn : x.groups[j]? = none := List.getElem?_eq_none (by omega)
      rw [hz, hn]
      rfl
  · dsimp only
    split
    · rename_i cnt only _
      exact .trans (y := { x with barriers := modNth (·.arrive (some a) cnt now) n x.barriers }) (.same rfl rfl rfl)
        (.modAny _ a (fun g =>
          let rest := g.holds.eraseP (fun h => (Hold.next? n h).isSome)
          { g with holds := if only then rest else rest ++ [Hold.bar n false cnt false] }) (fun _ => rfl) (fun _ => rfl))
    · exact .same rfl rfl rfl

/-- A barrier is checked. -/
theorem Team.Keeps.checkBarrier (W : Nat → Prop) (gi n now : Nat) (k : Nat) (x : Team) :
    Team.Keeps W gi x (x.checkBarrier n now k) := by
  induction k generalizing x with
  | zero => exact .same rfl rfl rfl
  | succ k ih =>
    unfold Team.checkBarrier
    split
    · exact (Team.Keeps.completePhase W gi x n now).trans (ih _)
    · exact .same rfl rfl rfl

/-- Every barrier is checked. -/
theorem Team.Keeps.checkBarriers (W : Nat → Prop) (gi now : Nat) (x : Team) : Team.Keeps W gi x (x.checkBarriers now)
    :=
  .fold _ (fun x n => .checkBarrier W gi n now 40 x) _ x

/-- SBAR is checked. -/
theorem Team.Keeps.checkSbar (W : Nat → Prop) (gi : Nat) (x : Team) : Team.Keeps W gi x x.checkSbar := by
  unfold Team.checkSbar
  split
  · split
    · exact .mapGroups x _ rfl (fun _ g => { g with sbarArrived := false, holds := g.holds.filter (· != .sbar) })
        (fun j => by simp [Team.releaseSbar]) (fun _ _ => rfl) (fun _ _ => rfl) rfl
    · exact .same rfl rfl rfl
  · exact .same rfl rfl rfl


/-- From s to u a state keeps memory, partitions, clusters, commands, grids, the cores but for what their slots note of
the issue, every other team, and its own team as `Team.Keeps` says. -/
structure State.Keeps (W : Nat → Prop) (t gi : Nat) (s u : State) : Prop where
  memory : u.sameMemory s
  partitions : u.partitions = s.partitions
  clusters : u.clusters = s.clusters
  cores : ∀ c, u.core c = { s.core c with slots := (u.core c).slots }
  registrations : u.registrations = s.registrations
  commands : u.commands = s.commands
  grids : u.grids = s.grids
  mgmt : u.mgmt = s.mgmt
  other : ∀ k, k ≠ t → u.team? k = s.team? k
  own : ∀ x, s.team? t = some x → ∃ y, u.team? t = some y ∧ Team.Keeps W gi x y

/-- Nothing has changed. -/
theorem State.Keeps.refl (W : Nat → Prop) (t gi : Nat) (s : State) : State.Keeps W t gi s s :=
  ⟨⟨rfl, rfl, rfl⟩, rfl, rfl, fun _ => rfl, rfl, rfl, rfl, rfl, fun _ _ => rfl, fun x h => ⟨x, h, .same rfl rfl rfl⟩⟩

/-- One change after another. -/
theorem State.Keeps.trans {W : Nat → Prop} {t gi : Nat} {s u v : State} (a : State.Keeps W t gi s u) (b : State.Keeps
    W t gi u v) :
    State.Keeps W t gi s v := by
  refine ⟨⟨a.memory.1.trans b.memory.1, a.memory.2.1.trans b.memory.2.1, a.memory.2.2.trans b.memory.2.2⟩,
    b.partitions.trans a.partitions, b.clusters.trans a.clusters, fun c => (b.cores c).trans (by rw [a.cores c]), b.registrations.trans a.registrations,
    b.commands.trans a.commands, b.grids.trans a.grids, b.mgmt.trans a.mgmt, fun k hk => (b.other k hk).trans (a.other k hk), fun x hx => ?_⟩
  obtain ⟨y, hy, k1⟩ := a.own x hx
  obtain ⟨z, hz, k2⟩ := b.own y hy
  exact ⟨z, hz, k1.trans k2⟩

/-- A change of the team itself. -/
theorem State.Keeps.modTeam {W : Nat → Prop} {t gi : Nat} (s : State) (f : Team → Team)
    (hf : ∀ x, s.team? t = some x → Team.Keeps W gi x (f x)) : State.Keeps W t gi s (s.modTeam t f) := by
  refine ⟨⟨by simp, by simp, by simp⟩, by simp, by simp, fun c => by simp [State.core], by simp, by simp, by simp, by simp, fun k hk => ?_, fun x hx => ?_⟩
  · rw [State.team?_modTeam, if_neg hk]
  · exact ⟨f x, by rw [State.team?_modTeam, if_pos rfl, hx]; rfl, hf x hx⟩

/-- A change of the group itself. -/
theorem State.Keeps.modGroup {W : Nat → Prop} {t gi : Nat} (s : State) (f : Group → Group)
    (hf : ∀ g, s.group? t gi = some g → Group.Keeps W g (f g)) : State.Keeps W t gi s (s.modGroup t gi f) := by
  refine .modTeam s _ (fun x hx => .modGroup x f (fun g hg => hf g ?_))
  unfold State.group?; rw [hx]; exact hg

/-- A fresh number is taken. -/
theorem State.Keeps.fresh (W : Nat → Prop) (t gi : Nat) (s : State) : State.Keeps W t gi s s.fresh.2 :=
  ⟨⟨rfl, rfl, rfl⟩, rfl, rfl, fun _ => rfl, rfl, rfl, rfl, rfl, fun _ _ => rfl, fun x h => ⟨x, h, .same rfl rfl rfl⟩⟩

/-- An issue is counted. -/
theorem State.Keeps.countIssue (W : Nat → Prop) (t gi : Nat) (s : State) (before : List (Nat × LaneSet × Bool))
    (fromTail turn counted : Bool) : State.Keeps W t gi s (s.countIssue t gi before fromTail turn counted) := by
  unfold State.countIssue
  split
  · exact .modGroup s _ (fun g _ => .same rfl rfl rfl)
  · exact .refl W t gi s

/-- The team registers that an instruction writes (R384) leave arrays and groups. -/
theorem Team.writeReg_kept (x : Team) (ws : List (Nat × Nat × Nat)) :
    let y := ws.foldl Team.writeReg x
    (y.pad, y.visible, y.shadow, y.tiles, y.slices) = (x.pad, x.visible, x.shadow, x.tiles, x.slices) ∧ y.groups = x.groups := by
  induction ws generalizing x with
  | nil => exact ⟨rfl, rfl⟩
  | cons w ws ih =>
    have h := ih (x.writeReg w)
    have h1 : ((x.writeReg w).pad, (x.writeReg w).visible, (x.writeReg w).shadow, (x.writeReg w).tiles, (x.writeReg w).slices) =
        (x.pad, x.visible, x.shadow, x.tiles, x.slices) ∧ (x.writeReg w).groups = x.groups := by
      unfold Team.writeReg
      split
      · split <;> exact ⟨rfl, rfl⟩
      · split
        · split <;> exact ⟨rfl, rfl⟩
        · exact ⟨rfl, rfl⟩
    exact ⟨h.1.trans h1.1, h.2.trans h1.2⟩

/-- A clause that takes the team registers in force keeps its writes, and the group everything that is shown. -/
theorem Team.Keeps.recapture (W : Nat → Prop) (gi : Nat) (x : Team) : Team.Keeps W gi x x.recapture := by
  refine ⟨rfl, by simp [Team.recapture], fun j _ => ?_, fun g h h1 h2 => ?_, fun _ => rfl⟩
  · simp only [Team.recapture, List.getElem?_map, Option.map_map]
    rfl
  · simp only [Team.recapture, List.getElem?_map, h1, Option.map_some, Option.some.injEq] at h2
    subst h2
    have key : ∀ c, g.clause.map (fun r => if r.nominal ≠ 0 then r else
        { r with fpMode := if (match g.gate with | some k => !k.waiting | none => false) = true then r.fpMode else x.fpMode
                 trapVec := x.trapVec }) = some c →
        ∃ r, g.clause = some r ∧ c.fly = r.fly ∧ c.teamWrites = r.teamWrites := by
      intro c hc
      obtain ⟨r, hr, rfl⟩ := Option.map_eq_some_iff.1 hc
      refine ⟨r, hr, ?_⟩
      split <;> exact ⟨rfl, rfl⟩
    refine ⟨fun hf c hc w hw => ?_, fun _ _ _ => rfl, fun _ => rfl, fun ht c hc => ?_⟩
    · obtain ⟨r, hr, h3, -⟩ := key c hc
      exact hf r hr w (h3 ▸ hw)
    · obtain ⟨r, hr, -, h3⟩ := key c hc
      rw [h3]; exact ht r hr

/-- A clause ends. -/
theorem State.Keeps.endClause (W : Nat → Prop) (t gi : Nat) (s : State) : State.Keeps W t gi s (endClause t gi s) := by
  unfold Machine.endClause
  split
  · rename_i tm g ht hg
    split
    · exact .refl W t gi s
    · rename_i r hr
      dsimp only
      have k1 : Group.Keeps W g (r.active.lanes.foldl (fun (g : Group) l => g.modThread l (fun th =>
          if r.exited.getLsbD l then { th with live := false, parked := none, idx := 0 }
          else if r.tret.getLsbD l then { th.trapReturn with parked := Map.get? r.parkOn l }
          else { th with pc := Map.get r.targets l r.next, idx := 0, parked := Map.get? r.parkOn l })) (Machine.settleAll tm gi g)) := by
        refine (Group.Keeps.settleAll W tm gi g).trans (.fold _ _ (fun l _ g => .modThread W g l _ (fun th => ?_)) _)
        split
        · rfl
        · split <;> rfl
      generalize (r.active.lanes.foldl _ (Machine.settleAll tm gi g) : Group) = g1 at k1 ⊢
      have k2 : Group.Keeps W g1 ({ g1 with clause := none } : Group).releaseK :=
        Group.Keeps.trans (h := { g1 with clause := none })
          ⟨(fun _ c hc => by cases hc), fun _ _ _ => rfl, fun _ => rfl, (fun _ c hc => by cases hc)⟩ (.releaseK W _)
      generalize (({ g1 with clause := none } : Group).releaseK) = g2 at k2 ⊢
      have k3 : Group.Keeps W g2 (if r.yielded = true then { g2 with saveNext := tm.request } else g2) := by
        split
        · exact .same rfl rfl rfl
        · exact .refl W g2
      generalize (if r.yielded = true then { g2 with saveNext := tm.request } else g2) = g3 at k3 ⊢
      have k := (k1.trans k2).trans k3
      have e1 : State.Keeps W t gi s (s.modGroup t gi (fun _ => g3)) :=
        .modGroup s _ (fun g' hg' => by rw [hg] at hg'; cases hg'; exact k)
      have e2 : State.Keeps W t gi s (if r.teamWrites.isEmpty = true then s.modGroup t gi (fun _ => g3)
          else (s.modGroup t gi (fun _ => g3)).modTeam t (fun tm => (r.teamWrites.foldl Team.writeReg tm).recapture)) := by
        split
        · exact e1
        · rename_i hw
          refine ⟨⟨by simp, by simp, by simp⟩, by simp, by simp, fun c => by simp [State.core], by simp, by simp, by simp, by simp,
            fun k hk => ?_, fun x hx => ?_⟩
          · rw [State.team?_modTeam, if_neg hk]; exact e1.other k hk
          · obtain ⟨y, hy, ky⟩ := e1.own x hx
            refine ⟨(r.teamWrites.foldl Team.writeReg y).recapture, by rw [State.team?_modTeam, if_pos rfl, hy]; rfl, ?_⟩
            obtain ⟨q1, q2⟩ := Team.writeReg_kept y r.teamWrites
            have kz := Team.Keeps.recapture W gi (r.teamWrites.foldl Team.writeReg y)
            have hx' : x.groups[gi]? = some g := by
              unfold State.group? at hg; rw [hx] at hg; exact hg
            refine ⟨kz.kept.trans (q1.trans ky.kept), kz.length.trans (by rw [q2]; exact ky.length),
              fun j hj => (kz.other j hj).trans (by rw [q2]; exact ky.other j hj), fun a b ha hb => ?_,
              fun hv => absurd (by rw [hv g r hx' hr]; rfl) hw⟩
            have hl : gi < (r.teamWrites.foldl Team.writeReg y).groups.length := by
              rw [← kz.length]; exact (List.getElem?_eq_some_iff.1 hb).1
            have h3 := List.getElem?_eq_getElem hl
            exact (ky.own a _ ha (by rw [← q2]; exact h3)).trans (kz.own _ b h3 hb)
      generalize (if r.teamWrites.isEmpty = true then s.modGroup t gi (fun _ => g3)
          else (s.modGroup t gi (fun _ => g3)).modTeam t (fun tm => (r.teamWrites.foldl Team.writeReg tm).recapture)) = s1 at e2 ⊢
      have e3 := e2.trans (.countIssue W t gi s1 r.tailBefore r.fromTail r.yielded r.counted)
      split
      · exact e3.trans (.modTeam _ _ (fun x _ => (Team.Keeps.checkBarriers W gi _ x).trans (.checkSbar W gi _)))
      · exact e3
  · exact .refl W t gi s

/-- A slot notes a vector instruction. -/
theorem State.Keeps.noteVector (W : Nat → Prop) (t gi gj : Nat) (s : State) (h : Word) : State.Keeps W t gi s
    (s.noteVector t gj h) := by
  unfold State.noteVector
  split
  · split
    · refine ⟨⟨rfl, rfl, rfl⟩, rfl, rfl, fun c => ?_, rfl, rfl, rfl, rfl, fun _ _ => rfl, fun x h => ⟨x, h, .same rfl rfl rfl⟩⟩
      rw [State.core_modCore]
      split <;> rfl
    · exact .refl W t gi s
  · exact .refl W t gi s

/-- An instruction retires, after its slot has noted it. -/
theorem State.Keeps.retireTail (W : Nat → Prop) (t gi cycles : Nat) (s : State) : State.Keeps W t gi s
    (let s := s.modGroup t gi (fun g => { g with clause := g.clause.map (fun r =>
      { r with idx := r.idx + 1, nominal := r.nominal + cycles }) })
     match (s.group? t gi).bind (·.clause) with
     | some r => if r.insns.length < r.idx || r.active == 0 then Machine.endClause t gi s else s
     | none => s) := by
  have h : State.Keeps W t gi s (s.modGroup t gi (fun g => { g with clause := g.clause.map (fun r =>
      { r with idx := r.idx + 1, nominal := r.nominal + cycles }) })) := by
    refine .modGroup s _ (fun g _ => ⟨fun h c hc => ?_, fun _ _ _ => rfl, fun _ => rfl, fun h c hc => ?_⟩) <;>
      simp only [Option.map_eq_some_iff] at hc <;> obtain ⟨r, hr, rfl⟩ := hc <;> exact h r hr
  dsimp only
  split
  · split
    · exact h.trans (.endClause W t gi _)
    · exact h
  · exact h

/-- An instruction retires. -/
theorem State.Keeps.retire (W : Nat → Prop) (t gi cycles : Nat) (s : State) : State.Keeps W t gi s (retire t gi cycles
    s) := by
  have h0 : State.Keeps W t gi s (match (s.group? t gi).bind (·.clause) with
      | some r => s.noteVector t gi r.header | none => s) := by
    split
    · exact .noteVector W t gi gi s _
    · exact .refl W t gi s
  exact h0.trans (.retireTail W t gi cycles _)

/-- Executed threads are counted. -/
theorem State.Keeps.countExec (W : Nat → Prop) (t gi : Nat) (lanes : LaneSet) (s : State) : State.Keeps W t gi s
    (countExec t gi lanes s) := by
  unfold Machine.countExec
  split
  · rename_i tm g _ _
    dsimp only
    have h : State.Keeps W t gi s (s.modGroup t gi (fun g => lanes.lanes.foldl (fun (g : Group) l =>
        g.modThread l (fun th => { th with
          cnt := if (tm.mode != .unchecked && !g.inLogged l) = true then th.cnt + 1 else th.cnt
          budget := if g.inCall l = true then th.budget - 1 else th.budget })) g)) :=
      .modGroup s _ (fun g _ => by
        refine .fold _ _ (fun l _ g => ?_) g
        exact .modThread W g l _ (fun _ => rfl))
    split
    · split
      · split
        · exact h.trans (.modTeam _ _ (fun x _ => .same rfl rfl rfl))
        · exact h
      · exact h
    · exact h
  · exact .refl W t gi s

/-- Floating-point flags are raised. -/
theorem State.Keeps.raiseFlags (W : Nat → Prop) (v : View) (k : Nat → LaneOut) (s : State) : State.Keeps W v.t v.gi s
    (v.raiseFlags k s) := by
  unfold View.raiseFlags
  induction v.outs k generalizing s with
  | nil => exact .refl W _ _ s
  | cons a as ih =>
    rw [List.foldl_cons]
    refine State.Keeps.trans ?_ (ih _)
    split
    · exact .refl W _ _ s
    · exact .modGroup s _ (fun g _ => .modThread W g _ _ (fun _ => rfl))

/-- Marking destinations empty leaves registers, threads and the clause. -/
theorem markEmpty_same (tm : Team) (gi dst n : Nat) (lanes : LaneSet) (g : Group) :
    (markEmpty tm gi dst n lanes g).2.regs = g.regs ∧ (markEmpty tm gi dst n lanes g).2.threads = g.threads ∧
    (markEmpty tm gi dst n lanes g).2.clause = g.clause := by
  unfold markEmpty
  dsimp only
  generalize (List.range n).map _ = marks
  induction List.range n generalizing g with
  | nil => exact ⟨rfl, rfl, rfl⟩
  | cons a as ih => rw [List.foldl_cons]; exact ih _

/-- A long-latency result is sent. -/
theorem State.Keeps.sendLong (W : Nat → Prop) (v : View) (id n : Nat) (wait : WaitKind) (lanes : LaneSet) (results :
    Map (List Word)) (sfu : Bool)
    (flags : Map (BitVec 5)) (s : State) : State.Keeps W v.t v.gi s (sendLong v id n wait lanes results sfu flags s) := by
  unfold Machine.sendLong
  refine .modGroup s _ (fun g _ => ?_)
  split
  · exact .refl W g
  · obtain ⟨h1, h2, h3⟩ := markEmpty_same v.team v.gi v.f.d.toNat n lanes g
    exact .same h1 h2 h3

/-- The outcome of a fixed-latency instruction keeps everything outside the registers that it writes. -/
theorem View.done_keeps {W : Nat → Prop} (v : View) (cycles lat : Nat) (k : Nat → LaneOut) (s : State)
    (hw : ∀ lo ∈ v.outs k, ∀ rw ∈ lo.2.regs, W rw.1) : State.Keeps W v.t v.gi s (v.done cycles lat k s) := by
  unfold View.done
  exact ((((State.Keeps.raiseFlags W v k s).trans (.countExec W _ _ _ _)).trans (.fresh W _ _ _)).trans
    (.modGroup _ _ (fun g _ => .launchWrites v lat _ _ g hw))).trans (.retire W _ _ _ _)

/-- The outcome of a long-latency instruction. -/
theorem View.sent_keeps (W : Nat → Prop) (v : View) (cycles n : Nat) (wait : WaitKind) (results : Map (List Word))
    (sfu : Bool)
    (flags : Map (BitVec 5)) (s : State) : State.Keeps W v.t v.gi s (v.sent cycles n wait results sfu flags s) := by
  unfold View.sent
  exact (((State.Keeps.countExec W _ _ _ s).trans (.fresh W _ _ _)).trans (.sendLong W _ _ _ _ _ _ _ _ _)).trans (.retire W _ _ _ _)

/-- The outcome of an instruction without a result. -/
theorem View.passed_keeps (W : Nat → Prop) (v : View) (cycles : Nat) (s : State) : State.Keeps W v.t v.gi s (v.passed
    cycles s) := by
  unfold View.passed
  exact (State.Keeps.countExec W _ _ _ s).trans (.retire W _ _ _ _)
end Sys2Proof.Machine
end

