-- ==== Sys2Proof/Laws/Issue.lean ====
section
/-! SUPPORT. What the common frame and the common end of an instruction do when it issues normally. -/

namespace Sys2Proof.Machine

/-! ## Sets of lanes -/

/-- Membership of a lane in the set that a list gives, beyond a set already there. -/
theorem LaneSet.foldl_getLsbD (ls : List Nat) (m : LaneSet) (i : Nat) (hi : i < 32) :
    (ls.foldl (fun m l => m ||| ((1#32) <<< l)) m).getLsbD i = (m.getLsbD i || ls.contains i) := by
  induction ls generalizing m with
  | nil => simp
  | cons l ls ih =>
    rw [List.foldl_cons, ih]
    simp only [BitVec.getLsbD_or, List.contains_cons]
    have : ((1#32) <<< l).getLsbD i = (i == l) := by
      simp only [BitVec.getLsbD_shiftLeft, hi, decide_true, Bool.true_and, BitVec.getLsbD_one]
      by_cases h : i = l
      · subst h; simp
      · by_cases h2 : i < l
        · simp [h, h2]
        · have : ¬ (i - l = 0) := by omega
          simp [h, this]
    rw [this, Bool.or_assoc]

/-- Membership in the set of a list. -/
theorem LaneSet.ofList_getLsbD (ls : List Nat) (i : Nat) (hi : i < 32) :
    (LaneSet.ofList ls).getLsbD i = ls.contains i := by
  rw [LaneSet.ofList, LaneSet.foldl_getLsbD _ _ _ hi]; simp

/-- A lane stands in the list of a set exactly when it is in the set. -/
theorem LaneSet.mem_lanes (m : LaneSet) (l : Nat) : l ∈ m.lanes ↔ l < 32 ∧ m.getLsbD l = true := by
  simp [LaneSet.lanes, allLanes]

/-- The set of the lanes of a set is that set. -/
@[simp] theorem LaneSet.ofList_lanes (m : LaneSet) : LaneSet.ofList m.lanes = m := by
  apply BitVec.eq_of_getLsbD_eq
  intro i hi
  rw [LaneSet.ofList_getLsbD _ _ hi]
  by_cases h : m.getLsbD i = true
  · rw [h]; simpa using (LaneSet.mem_lanes m i).2 ⟨hi, h⟩
  · have : i ∉ m.lanes := fun hm => h ((LaneSet.mem_lanes m i).1 hm).2
    simp only [Bool.not_eq_true] at h
    rw [h]; simpa using this

/-- A set with no lane has none in its list. -/
@[simp] theorem LaneSet.lanes_zero : LaneSet.lanes 0 = [] := by decide

/-- The set of no lanes. -/
@[simp] theorem LaneSet.ofList_nil : LaneSet.ofList [] = 0 := rfl

/-- Filtering a set by a test that no lane of it passes. -/
theorem LaneSet.filter_none (m : LaneSet) (p : Nat → Bool) (h : m.lanes.any p = false) : LaneSet.filter m p = 0 := by
  have : (LaneSet.lanes m).filter p = [] := by
    rw [List.filter_eq_nil_iff]
    intro a ha hp
    have : m.lanes.any p = true := List.any_eq_true.2 ⟨a, ha, hp⟩
    simp_all
  simp [LaneSet.filter, this]

/-- Taking nothing from a set. -/
@[simp] theorem LaneSet.and_not_zero (m : LaneSet) : m &&& ~~~ (0 : LaneSet) = m := by
  have h : ~~~ (0 : LaneSet) = BitVec.allOnes 32 := by decide
  rw [h, BitVec.and_allOnes]

/-! ## The frame -/

/-- The machine after the visible writes have taken effect is the start of the instruction's effect. -/
theorem State.modGroup_const (s : State) (t gi : Nat) (f : Group → Group) (g : Group) (h : s.group? t gi = some g) :
    s.modGroup t gi f = s.modGroup t gi (fun _ => f g) := by
  unfold State.modGroup State.modTeam
  unfold State.group? State.team? at h
  cases ht : Map.get? s.teams t with
  | none => simp
  | some tm =>
    simp only [ht, Option.bind_some] at h
    simp only [Team.modGroup]
    rw [modNth_const f gi tm.groups g h]

/-- What issuing normally gives: every condition of it, and the view. -/
theorem State.issue?_some {read : Fields → Form → List (Nat × Bool)} {i : Instr} {s : State} {v : View}
    (h : s.issue? read i = some v) :
    ∃ g0 r0, s.issuing = some (v.t, v.gi, v.team, g0, r0) ∧ i.fields = some v.f ∧ i.form = some v.form ∧
      v.g = settle v.team v.gi r0.nominal g0 ∧ v.g.clause = some v.run ∧ s.stopped v.team = false ∧
      v.lanes = guarded v.g v.run v.f ∧ spent v.g v.lanes = 0 ∧
      (barredInCall i.major && v.lanes.lanes.any v.g.inCall) = false ∧
      blocked v.g v.lanes (read v.f v.form) = false ∧
      v.lanes.lanes.any (fun l => (readTrap v.g l (read v.f v.form)).isSome) = false := by
  unfold State.issue? at h
  split at h
  · rename_i t gi tm g0 r0 f k h1 h2 h3
    simp only at h
    split at h
    · simp at h
    · rename_i r hr
      split at h
      · simp at h
      · rename_i hc
        simp only [Option.some.injEq] at h
        subst h
        simp only [Bool.or_eq_true, not_or, Bool.not_eq_true] at hc
        obtain ⟨⟨⟨⟨c1, c2⟩, c3⟩, c4⟩, c5⟩ := hc
        refine ⟨g0, r0, h1, h2, h3, rfl, hr, c1, rfl, ?_, c3, c4, c5⟩
        simpa using c2
  · simp at h

/-- The issuer's group is what the view was made from. -/
theorem State.issuing_some {s : State} {t gi : Nat} {tm : Team} {g : Group} {r : ClauseRun}
    (h : s.issuing = some (t, gi, tm, g, r)) :
    s.cur = .group t gi ∧ s.team? t = some tm ∧ s.group? t gi = some g ∧ g.clause = some r := by
  unfold State.issuing at h
  split at h
  · simp at h
  · rename_i t' gi' hc
    split at h
    · rename_i tm' g' ht hg
      simp only [Option.map_eq_some_iff] at h
      obtain ⟨r', hr, he⟩ := h
      simp only [Prod.mk.injEq] at he
      obtain ⟨rfl, rfl, rfl, rfl, rfl⟩ := he
      exact ⟨hc, ht, hg, hr⟩
    · simp at h

/-- An instruction that issues normally has exactly its own effect, on the view and from its start (R32). -/
theorem frameWith_issue {read : Fields → Form → List (Nat × Bool)} {i : Instr} {s : State} {v : View}
    (effect : View → State → Out) (h : s.issue? read i = some v) :
    frameWith read i effect s = effect v (v.start s) := by
  obtain ⟨g0, r0, h1, h2, h3, h4, h5, h6, h7, h8, h9, h10, h11⟩ := State.issue?_some h
  obtain ⟨-, hteam, hgroup, hclause⟩ := State.issuing_some h1
  have hs : s.modGroup v.t v.gi (settle v.team v.gi r0.nominal) = v.start s := by
    rw [State.modGroup_const s v.t v.gi _ g0 hgroup, ← h4]; rfl
  have hg : (v.start s).group? v.t v.gi = some v.g := by
    simp [View.start, State.group?_modGroup, hgroup]
  have hb : (if barredInCall i.major = true then LaneSet.filter v.lanes v.g.inCall else 0) = (0 : LaneSet) := by
    split
    · rename_i hm; rw [hm, Bool.true_and] at h9; exact LaneSet.filter_none _ _ h9
    · rfl
  have ht : v.lanes.lanes.filterMap (fun l => (readTrap v.g l (read v.f v.form)).map (fun c => (l, c))) = [] := by
    rw [List.filterMap_eq_nil_iff]
    intro a ha
    rw [List.any_eq_false] at h11
    have := h11 a ha
    simp only [Bool.not_eq_true, Option.isSome_eq_false_iff, Option.isNone_iff_eq_none] at this
    simp [this]
  unfold frameWith
  rw [h1, h2, h3]
  simp only [h6, Bool.false_eq_true, if_false, hs, hg, h5, ← h7, h8, finishCall, LaneSet.lanes_zero, List.foldl_nil,
    LaneSet.and_not_zero, hb, h10, List.map_nil, List.nil_append, ht, trapLanes, LaneSet.ofList_nil]

/-! ## The end of a fixed-latency instruction -/

/-- A fixed-latency instruction none of whose threads traps executes in every thread. -/
theorem finish_clean {cycles lat : Nat} {k : Nat → LaneOut} {v : View} {s : State} (h : v.clean s k = true) :
    finish cycles lat k v s = .next (v.done cycles lat k s) := by
  simp only [View.clean, Bool.and_eq_true, Option.isNone_iff_eq_none] at h
  obtain ⟨ho, hsh⟩ := h
  rw [List.all_eq_true] at ho
  have key : ∀ lo ∈ v.outs k, lo.2.trap = none ∧ (lo.2.flags &&& BitVec.ofNat 5 v.fpMode) = 0 ∧
      ∀ rw ∈ lo.2.regs, s.injects v.team v.gi lo.1 rw.1 = false := by
    intro lo hlo
    have := ho lo hlo
    simp only [Bool.and_eq_true, Option.isNone_iff_eq_none, beq_iff_eq, List.all_eq_true, Bool.not_eq_true'] at this
    exact ⟨this.1.1, this.1.2, this.2⟩
  have h1 : (v.outs k).filter (fun lo => lo.2.trap.isNone && (lo.2.flags &&& BitVec.ofNat 5 v.fpMode) != 0) = [] := by
    rw [List.filter_eq_nil_iff]; intro lo hlo; simp [(key lo hlo).2.1]
  have h2 : (v.outs k).filterMap (fun lo => lo.2.trap.map (fun c => (lo.1, c))) = [] := by
    rw [List.filterMap_eq_nil_iff]; intro lo hlo; simp [(key lo hlo).1]
  have h3 : (v.outs k).filter (fun lo => lo.2.trap.isNone && (lo.2.flags &&& BitVec.ofNat 5 v.fpMode) == 0) = v.outs k := by
    rw [List.filter_eq_self]; intro lo hlo; simp [(key lo hlo).1, (key lo hlo).2.1]
  have h4 : injectOuts v (v.outs k) s = (v.outs k, s) := by
    unfold injectOuts
    rw [if_neg]
    rw [List.any_eq_true]
    rintro ⟨lo, hlo, hx⟩
    simp only [Bool.and_eq_true, List.any_eq_true] at hx
    obtain ⟨-, rw_, hrw, hi⟩ := hx
    rw [(key lo hlo).2.2 rw_ hrw] at hi
    exact absurd hi (by simp)
  have h5 : (v.outs k).map Prod.fst = v.lanes.lanes := by simp [View.outs, Function.comp_def]
  unfold finish
  simp only [View.outs] at h1 h2 h3 h4 h5 hsh
  simp only [h1, h2, h3, List.foldl_nil, List.map_nil, trapLanes, h4, injectShaped, hsh, h5, LaneSet.ofList_lanes, Option.isSome_none,
    Bool.false_eq_true, if_false]
  rfl

/-- A fixed-latency instruction that issues normally, with no thread trapping (R32, R74, R75). -/
theorem vec_done {i : Instr} {cycles lat : Nat} {k : View → Nat → LaneOut} {s : State} {v : View}
    (h : s.issue? sources i = some v) (hc : v.clean (v.start s) (k v) = true) :
    vec i cycles lat k s = .next (v.done cycles lat (k v) (v.start s)) := by
  unfold vec frame
  rw [frameWith_issue _ h]
  exact finish_clean hc

/-- An instruction with no result traps in no thread. -/
theorem plain_done (v : View) (s : State) : plain v s = .next (v.plainly s) := by
  apply finish_clean
  have hm : ∀ ls : List Nat, ((ls.map (fun l => (l, ({} : LaneOut)))).map (fun lo => lo.2.regs.length)).foldl max 0 = 0 := by
    intro ls
    induction ls with
    | nil => rfl
    | cons l ls ih => simpa using ih
  simp only [View.clean, View.outs, shapeFault, hm]
  simp

/-- The check of an instruction gives the threads that pass it and those that fail it. -/
theorem splitReach_eq {ρ : Type} (v : View) (check : Nat → Except (Nat × Nat) ρ) :
    splitReach v check = (v.good check, v.failing check) := rfl

/-- A thread passes a check exactly when it executes and the check gives it something. -/
theorem View.mem_good {ρ : Type} {v : View} {check : Nat → Except (Nat × Nat) ρ} {l : Nat} {x : ρ} :
    (l, x) ∈ v.good check ↔ l ∈ v.lanes.lanes ∧ check l = .ok x := by
  unfold View.good
  rw [List.mem_filterMap]
  constructor
  · rintro ⟨a, ha, h⟩
    cases hc : check a <;> simp only [hc, Option.some.injEq, reduceCtorEq, Prod.mk.injEq] at h
    obtain ⟨rfl, rfl⟩ := h
    exact ⟨ha, hc⟩
  · rintro ⟨ha, h⟩
    exact ⟨l, ha, by simp [h]⟩

/-- A thread fails a check exactly when it executes and the check gives it a trap. -/
theorem View.mem_failing {ρ : Type} {v : View} {check : Nat → Except (Nat × Nat) ρ} {l : Nat} {c : Nat × Nat} :
    (l, c) ∈ v.failing check ↔ l ∈ v.lanes.lanes ∧ check l = .error c := by
  unfold View.failing
  rw [List.mem_filterMap]
  constructor
  · rintro ⟨a, ha, h⟩
    cases hc : check a <;> simp only [hc, Option.some.injEq, reduceCtorEq, Prod.mk.injEq] at h
    obtain ⟨rfl, rfl⟩ := h
    exact ⟨ha, hc⟩
  · rintro ⟨ha, h⟩
    exact ⟨l, ha, by simp [h]⟩

/-- The executing lanes, each mapped to itself, are the executing ones. -/
@[simp] theorem LaneSet.ofList_map_self (m : LaneSet) : LaneSet.ofList (m.lanes.map (fun l => l)) = m := by
  simp

/-- A set that is not empty has a lane. -/
theorem LaneSet.lanes_ne_nil {m : LaneSet} (h : m ≠ 0) : m.lanes ≠ [] := by
  intro hn; apply h; rw [← LaneSet.ofList_lanes m, hn]; rfl

/-- No trap leaves the machine as it is. -/
@[simp] theorem trapLanes_nil (v : View) (s : State) : trapLanes v [] s = s := rfl

/-! ## The sequencer -/

/-- A matrix instruction that issues normally has exactly its own effect (R259). -/
theorem matFrame_issue {i : Instr} {s : State} {t : Nat} {tm : Team} {r : ClauseRun} {f : Fields}
    (effect : Nat → Team → ClauseRun → Fields → State → Out) (h : s.matIssue? i = some (t, tm, r, f)) :
    matFrame i effect s = effect t tm r f s := by
  unfold State.matIssue? at h
  split at h
  · rename_i t' f' h1 h2
    split at h
    · rename_i tm' h3
      split at h
      · rename_i r' h4
        split at h
        · simp at h
        · rename_i hc
          simp only [Option.some.injEq, Prod.mk.injEq] at h
          obtain ⟨rfl, rfl, rfl, rfl⟩ := h
          simp only [Bool.or_eq_true, not_or, Bool.not_eq_true] at hc
          obtain ⟨⟨⟨⟨⟨c1, c2⟩, c3⟩, c6⟩, c4⟩, c5⟩ := hc
          unfold matFrame
          simp only [h1, h2, h3, h4, c1, c2, c3, c4, c5, c6, Bool.or_self, Bool.false_eq_true, if_false]
      · simp at h
    · simp at h
  · simp at h

end Sys2Proof.Machine
end

