-- ==== Sys2Proof/Laws/Traps.lean ====
section
/-! SUPPORT. A trap that a thread takes at an instruction stays taken to the instruction's end: what the other threads do,
their counting, their writes and the end of the clause leave it as it is. -/

namespace Sys2Proof.Machine

/-! ## A thread that stands where a trap left it -/

/-- Trap mode, PC, INDEX and the three trap registers. -/
abbrev TrapMark := Bool × Nat × Nat × Dword × Dword × Dword

/-- What a trap leaves in a thread (R377, R378). -/
def Thread.stand (th : Thread) : TrapMark :=
  (th.trapMode, th.pc, th.idx, th.trapPc, th.trapCause, th.trapDetail)

/-- The thread takes no part in the clause in progress and stands as it did. -/
def Group.Away (l : Nat) (x : TrapMark) (g : Group) : Prop :=
  (g.thread l).stand = x ∧ ∀ r, g.clause = some r → r.active.getLsbD l = false

/-- The same of a thread of a resident team. -/
def State.Away (t gi l : Nat) (x : TrapMark) (s : State) : Prop :=
  ∃ g, s.group? t gi = some g ∧ g.Away l x

/-- A change that leaves the threads and the clause. -/
theorem Group.Away.same {l : Nat} {x : TrapMark} {g h : Group} (ht : h.threads = g.threads)
    (hc : h.clause = g.clause) (a : g.Away l x) : h.Away l x := by
  refine ⟨?_, by rw [hc]; exact a.2⟩
  unfold Group.thread; rw [ht]; exact a.1

/-- A change of the clause that brings no thread into it. -/
theorem Group.Away.clause {l : Nat} {x : TrapMark} {g h : Group} (ht : h.threads = g.threads)
    (hc : ∀ r, h.clause = some r → ∃ q, g.clause = some q ∧ (q.active.getLsbD l = false → r.active.getLsbD l = false))
    (a : g.Away l x) : h.Away l x := by
  refine ⟨?_, fun r hr => ?_⟩
  · unfold Group.thread; rw [ht]; exact a.1
  · obtain ⟨q, hq, k⟩ := hc r hr; exact k (a.2 q hq)

/-- A change of another thread, or of what a trap does not leave. -/
theorem Group.Away.modThread {l m : Nat} {x : TrapMark} {g : Group} {f : Thread → Thread}
    (hf : m ≠ l ∨ ∀ th, (f th).stand = th.stand) (a : g.Away l x) : (g.modThread m f).Away l x := by
  refine ⟨?_, a.2⟩
  rw [Group.thread_modThread]
  split
  · rename_i h
    rcases hf with hf | hf
    · exact absurd h.1.symm hf
    · rw [hf]; exact a.1
  · exact a.1

/-- Such changes one after another. -/
theorem Group.Away.fold {α : Type} {l : Nat} {x : TrapMark} {f : Group → α → Group} {xs : List α}
    (hf : ∀ a ∈ xs, ∀ g : Group, g.Away l x → (f g a).Away l x) {g : Group} (h : g.Away l x) : (xs.foldl f g).Away l x := by
  induction xs generalizing g with
  | nil => exact h
  | cons a as ih => exact ih (fun b hb => hf b (List.mem_cons_of_mem _ hb)) (hf a (List.mem_cons_self ..) g h)

/-- Another thread leaves the clause. -/
theorem Group.Away.dropLane {l m : Nat} {x : TrapMark} {g : Group} (a : g.Away l x) :
    (g.dropLane m).Away l x := by
  refine Group.Away.clause (g := g) rfl (fun r hr => ?_) a
  obtain ⟨q, hq, rfl⟩ := Option.map_eq_some_iff.1 hr
  exact ⟨q, hq, fun h => by simp [h]⟩

/-- Signing a write leaves what a trap leaves. -/
theorem Thread.signReg_stand (th : Thread) (x c n : Nat) : (th.signReg x c n).stand = th.stand := by
  have h : ∀ z, Thread.stand { th with rs := z } = th.stand := fun _ => rfl
  exact h _

/-- Signing a store leaves what a trap leaves. -/
theorem Thread.signStore_stand (th : Thread) (x a n d : Nat) : (th.signStore x a n d).stand = th.stand := by
  have h : ∀ (th : Thread) z, Thread.stand { th with ss := z } = th.stand := fun _ _ => rfl
  unfold Thread.signStore
  induction chunksOf a n d generalizing th with
  | nil => rfl
  | cons c cs ih => rw [List.foldl_cons, ih]; exact h _ _

/-- Writes of registers are signed. -/
theorem Group.Away.signLanes {l : Nat} {x : TrapMark} {g : Group} (t : Team) (gi reg : Nat)
    (lanes : LaneSet) (cnts : Map Nat) (a : g.Away l x) : (signLanes t gi reg lanes cnts g).Away l x := by
  unfold Machine.signLanes
  split
  · exact a
  · refine a.fold (fun m _ g a => ?_)
    split
    · exact a
    · exact a.modThread (.inr fun th => th.signReg_stand _ _ _)

/-- Every write in flight takes effect. -/
theorem Group.Away.settleAll {l : Nat} {x : TrapMark} {g : Group} (t : Team) (gi : Nat)
    (a : g.Away l x) : (settleAll t gi g).Away l x := by
  unfold Machine.settleAll
  cases hc : g.clause with
  | none => exact a
  | some r =>
    dsimp only
    have k : (r.predFly.foldl (fun g w => applyPredFly t w g) (r.fly.foldl (fun g w => applyFly t gi w g) g)).Away l x := by
      refine Group.Away.fold (fun w _ g a => ?_) (Group.Away.fold (fun w _ g a => ?_) a)
      · unfold applyPredFly
        split
        · exact a
        · refine a.fold (fun m _ g a => a.modThread (.inr fun th => ?_))
          dsimp only
          split <;> rfl
      · unfold applyFly
        split
        · unfold writeReg
          dsimp only
          split
          · exact a
          · refine Group.Away.signLanes _ _ _ _ _ (Group.Away.same ?_ ?_ a) <;> rfl
        · unfold setFullEmpty
          dsimp only
          split <;> exact a.same rfl rfl
    refine ⟨k.1, fun q hq => ?_⟩
    cases hq
    exact a.2 r hc

/-- Reconvergence barriers release threads. -/
theorem Group.Away.releaseK {l : Nat} {x : TrapMark} {g : Group} (a : g.Away l x) :
    g.releaseK.Away l x := by
  unfold Group.releaseK
  refine a.fold (fun k _ g a => ?_)
  dsimp only
  split
  · refine a.fold (fun m _ g a => a.modThread (.inr fun th => ?_))
    split <;> rfl
  · exact a

/-! ## The same through changes of the machine -/

/-- A change outside the teams. -/
theorem State.Away.outside {t gi l : Nat} {x : TrapMark} {s u : State} (h : u.teams = s.teams)
    (a : s.Away t gi l x) : u.Away t gi l x := by
  unfold State.Away State.group? State.team? at *
  rw [h]; exact a

/-- A change of a team that keeps what the thread's group shows of it. -/
theorem State.Away.modTeam {t gi l : Nat} {x : TrapMark} {s : State} (k : Nat) (f : Team → Team)
    (hf : ∀ (tm : Team) g, tm.groups[gi]? = some g → g.Away l x → ∃ h, (f tm).groups[gi]? = some h ∧ h.Away l x)
    (a : s.Away t gi l x) : (s.modTeam k f).Away t gi l x := by
  obtain ⟨g, hg, ha⟩ := a
  unfold State.group? at hg
  cases ht : s.team? t with
  | none => rw [ht] at hg; cases hg
  | some tm =>
    rw [ht] at hg
    by_cases h : t = k
    · obtain ⟨h', h1, h2⟩ := hf tm g hg ha
      refine ⟨h', ?_, h2⟩
      unfold State.group?
      rw [State.team?_modTeam, if_pos h, ht]; exact h1
    · refine ⟨g, ?_, ha⟩
      unfold State.group?
      rw [State.team?_modTeam, if_neg h, ht]; exact hg

/-- A change of a team that leaves its groups. -/
theorem State.Away.modTeamSame {t gi l : Nat} {x : TrapMark} {s : State} (k : Nat) (f : Team → Team)
    (hf : ∀ tm : Team, (f tm).groups = tm.groups) (a : s.Away t gi l x) : (s.modTeam k f).Away t gi l x :=
  a.modTeam k f (fun tm g h b => ⟨g, by rw [hf]; exact h, b⟩)

/-- A change of a group that keeps it. -/
theorem State.Away.modGroup {t gi l : Nat} {x : TrapMark} {s : State} (k j : Nat) (f : Group → Group)
    (hf : ∀ g : Group, g.Away l x → (f g).Away l x) (a : s.Away t gi l x) : (s.modGroup k j f).Away t gi l x := by
  obtain ⟨g, hg, ha⟩ := a
  by_cases h : t = k ∧ gi = j
  · exact ⟨f g, by rw [State.group?_modGroup, if_pos h, hg]; rfl, hf g ha⟩
  · exact ⟨g, by rw [State.group?_modGroup, if_neg h]; exact hg, ha⟩

/-- A change of another thread, or of what a trap does not leave. -/
theorem State.Away.modThread {t gi l : Nat} {x : TrapMark} {s : State} (k j m : Nat)
    (f : Thread → Thread) (hf : m ≠ l ∨ ∀ th, (f th).stand = th.stand) (a : s.Away t gi l x) : (s.modThread k j m f).Away t gi l x :=
  a.modGroup k j _ (fun _ b => b.modThread hf)

/-- Such changes one after another. -/
theorem State.Away.fold {α : Type} {t gi l : Nat} {x : TrapMark} {f : State → α → State} {xs : List α}
    (hf : ∀ a ∈ xs, ∀ s : State, s.Away t gi l x → (f s a).Away t gi l x) {s : State} (h : s.Away t gi l x) :
    (xs.foldl f s).Away t gi l x := by
  induction xs generalizing s with
  | nil => exact h
  | cons a as ih => exact ih (fun b hb => hf b (List.mem_cons_of_mem _ hb)) (hf a (List.mem_cons_self ..) s h)

/-- A partition halts. -/
theorem State.Away.halt {t gi l : Nat} {x : TrapMark} {s : State} (p cause unit : Nat) (u : UnitFault)
    (a : s.Away t gi l x) : (s.halt p cause unit u).Away t gi l x := by
  refine State.Away.outside ?_ a
  rfl

/-- Another thread traps. -/
theorem State.Away.takeTrap {t gi l : Nat} {x : TrapMark} {s : State} {m : Nat} (h : m ≠ l)
    (k j : Nat) (vec : Dword) (pc cause index detail : Nat) (a : s.Away t gi l x) :
    (takeTrap k j m vec pc cause index detail s).Away t gi l x := by
  unfold Machine.takeTrap
  split
  · dsimp only
    have d : (s.modGroup k j (·.dropLane m)).Away t gi l x := a.modGroup k j _ (fun _ b => b.dropLane)
    split
    · split
      · exact d.modThread _ _ _ _ (.inl h)
      · exact d.modThread _ _ _ _ (.inl h)
    · split
      · split
        · exact d.modTeamSame _ _ (fun _ => rfl)
        · exact d.modTeamSame _ _ (fun _ => rfl)
        · exact d.halt _ _ _ _
      · exact d.modThread _ _ _ _ (.inl h)
  · exact a

/-- Other threads trap. -/
theorem State.Away.trapLanes {t gi l : Nat} {x : TrapMark} {s : State} (v : View)
    (ls : List (Nat × (Nat × Nat))) (h : ∀ lc ∈ ls, lc.1 ≠ l) (a : s.Away t gi l x) : (trapLanes v ls s).Away t gi l x :=
  State.Away.fold (fun lc hl _ b => b.takeTrap (h lc hl) _ _ _ _ _ _ _) a

/-- Executed threads are counted. -/
theorem State.Away.countExec {t gi l : Nat} {x : TrapMark} {s : State} (k j : Nat) (lanes : LaneSet)
    (a : s.Away t gi l x) : (countExec k j lanes s).Away t gi l x := by
  unfold Machine.countExec
  split
  · rename_i tm g _ _
    dsimp only
    have d := a.modGroup k j (fun g => lanes.lanes.foldl (fun (g : Group) l =>
        g.modThread l (fun th => { th with
          cnt := if (tm.mode != .unchecked && !g.inLogged l) = true then th.cnt + 1 else th.cnt
          budget := if g.inCall l = true then th.budget - 1 else th.budget })) g)
        (fun g b => b.fold (fun m _ g c => by
          refine Group.Away.modThread (.inr fun _ => ?_) c
          rfl))
    split
    · split
      · split
        · exact d.modTeamSame _ _ (fun _ => rfl)
        · exact d
      · exact d
    · exact d
  · exact a

/-- A fresh number is taken. -/
theorem State.Away.fresh {t gi l : Nat} {x : TrapMark} {s : State} (a : s.Away t gi l x) :
    s.fresh.2.Away t gi l x := a.outside rfl

/-- Stores enter the store signature. -/
theorem State.Away.signStores {t gi l : Nat} {x : TrapMark} {s : State} (k j space : Nat)
    (elems : List (Nat × Nat × Nat × Nat)) (a : s.Away t gi l x) : (signStores k j space elems s).Away t gi l x := by
  unfold Machine.signStores
  split
  · split
    · exact a
    · refine a.modGroup _ _ _ (fun g b => b.fold (fun e _ g c => ?_))
      split
      · exact c
      · exact c.modThread (.inr fun th => th.signStore_stand _ _ _ _)
  · exact a

/-- A long-latency result is sent. -/
theorem State.Away.sendLong {t gi l : Nat} {x : TrapMark} {s : State} (v : View) (id n : Nat)
    (wait : WaitKind) (lanes : LaneSet) (results : Map (List Word)) (sfu : Bool) (flags : Map (BitVec 5)) (a : s.Away t gi l x) :
    (sendLong v id n wait lanes results sfu flags s).Away t gi l x := by
  unfold Machine.sendLong
  refine a.modGroup _ _ _ (fun g b => ?_)
  split
  · exact b
  · dsimp only
    refine Group.Away.same ?_ ?_ b <;>
    · unfold markEmpty
      dsimp only
      generalize (List.range n).map _ = marks
      clear b
      induction List.range n generalizing g with
      | nil => rfl
      | cons c cs ih => exact ih _

/-- Elements of a scratchpad, a window or a record enter their group's queue. -/
theorem State.Away.queueLocal {t gi l : Nat} {x : TrapMark} {s : State} (v : View)
    (insn kind typ aop : Nat) (quiet : Bool) (parts : List (Nat × Nat × List MemElem)) (a : s.Away t gi l x) :
    (queueLocal v insn kind typ aop quiet parts s).Away t gi l x := by
  unfold Machine.queueLocal
  refine State.Away.outside (s := s.modGroup v.t v.gi _) rfl (a.modGroup _ _ _ (fun g b => b.same rfl rfl))

/-- Writes are put in flight. -/
theorem State.Away.launchWrites {t gi l : Nat} {x : TrapMark} {s : State} (v : View)
    (lat seq : Nat) (outs : List (Nat × LaneOut)) (a : s.Away t gi l x) :
    (s.modGroup v.t v.gi (launchWrites v lat seq outs)).Away t gi l x := by
  refine a.modGroup _ _ _ (fun g b => Group.Away.clause (g := g) rfl (fun r hr => ?_) b)
  unfold Machine.launchWrites at hr
  obtain ⟨q, hq, rfl⟩ := Option.map_eq_some_iff.1 hr
  exact ⟨q, hq, id⟩

/-! ## The end of a clause -/

/-- A change of a team's groups, each for itself, that leaves threads and clauses. -/
theorem Group.Away.ofMap {gi l : Nat} {x : TrapMark} {y z : List Group} (f : Nat → Group → Group)
    (hy : ∀ j, z[j]? = (y[j]?).map (f j)) (hf : ∀ j (g : Group), g.Away l x → (f j g).Away l x) {g : Group} (hg : y[gi]? = some g)
    (a : g.Away l x) : ∃ h, z[gi]? = some h ∧ h.Away l x :=
  ⟨f gi g, by rw [hy, hg]; rfl, hf gi g a⟩

/-- Numbered elements of a list. -/
theorem getElem?_range_zip_map {α β : Type} (xs : List α) (f : Nat × α → β) (j : Nat) :
    (((List.range xs.length).zip xs).map f)[j]? = (xs[j]?).map (fun y => f (j, y)) := by
  rw [List.getElem?_map]
  by_cases hj : j < xs.length
  · have hz : ((List.range xs.length).zip xs)[j]? = some (j, xs[j]) := by
      rw [List.getElem?_zip_eq_some]; exact ⟨List.getElem?_range hj, List.getElem?_eq_getElem hj⟩
    rw [hz, List.getElem?_eq_getElem hj]; rfl
  · have hz : ((List.range xs.length).zip xs)[j]? = none := by
      apply List.getElem?_eq_none
      rw [List.length_zip, List.length_range, Nat.min_self]; omega
    rw [hz, List.getElem?_eq_none (by omega)]; rfl

/-- The group of a team with a thread that stands where a trap left it. -/
def Team.Away (gi l : Nat) (x : TrapMark) (tm : Team) : Prop :=
  ∃ g, tm.groups[gi]? = some g ∧ g.Away l x

/-- Such changes of a team one after another. -/
theorem Team.Away.fold {α : Type} {gi l : Nat} {x : TrapMark} {f : Team → α → Team}
    (hf : ∀ (tm : Team) a, tm.Away gi l x → (f tm a).Away gi l x) (xs : List α) {tm : Team} (h : tm.Away gi l x) :
    (xs.foldl f tm).Away gi l x := by
  induction xs generalizing tm with
  | nil => exact h
  | cons a as ih => exact ih (hf tm a h)

/-- A change of a team that leaves its groups. -/
theorem Team.Away.same {gi l : Nat} {x : TrapMark} {tm y : Team} (h : y.groups = tm.groups)
    (a : tm.Away gi l x) : y.Away gi l x := by
  obtain ⟨g, hg, b⟩ := a
  exact ⟨g, by rw [h]; exact hg, b⟩

/-- An arrival that waited for the next phase leaves the groups. -/
theorem Team.arriveHeld_groups (tm : Team) (n now : Nat) : (tm.arriveHeld n now).groups = tm.groups := by
  unfold Team.arriveHeld
  split
  · dsimp only
    split <;> rfl
  · rfl

/-- A barrier phase completes. -/
theorem Team.Away.completePhase {gi l : Nat} {x : TrapMark} {tm : Team} (n now : Nat)
    (a : tm.Away gi l x) : (tm.completePhase n now).Away gi l x := by
  unfold Team.completePhase
  dsimp only
  refine Team.Away.fold (fun y j b => ?_) _ ?_
  · split
    · obtain ⟨g, hg, hb⟩ := b
      unfold Team.Away Team.modGroup
      dsimp only
      rw [modNth_getElem?]
      split
      · rw [hg]; exact ⟨_, rfl, Group.Away.same rfl rfl hb⟩
      · exact ⟨g, hg, hb⟩
    · exact b
  · obtain ⟨g, hg, hb⟩ := a
    refine Team.Away.same (Team.arriveHeld_groups _ n now) ?_
    refine Exists.intro ?w (And.intro ?h ?b)
    case h => rw [getElem?_range_zip_map, hg]; rfl
    case b => exact Group.Away.same rfl rfl hb

/-- Barriers are checked. -/
theorem Team.Away.checkBarriers {gi l : Nat} {x : TrapMark} {tm : Team} (now : Nat)
    (a : tm.Away gi l x) : (tm.checkBarriers now).Away gi l x := by
  unfold Team.checkBarriers
  refine Team.Away.fold (fun y n b => ?_) _ a
  generalize 40 = k
  induction k generalizing y with
  | zero => exact b
  | succ k ih =>
    unfold Team.checkBarrier
    split
    · exact ih _ (b.completePhase n now)
    · exact b

/-- SBAR is checked. -/
theorem Team.Away.checkSbar {gi l : Nat} {x : TrapMark} {tm : Team} (a : tm.Away gi l x) :
    tm.checkSbar.Away gi l x := by
  unfold Team.checkSbar
  split
  · split
    · obtain ⟨g, hg, hb⟩ := a
      refine Exists.intro ?w (And.intro ?h ?b)
      case h => simp only [Team.releaseSbar, List.getElem?_map, hg, Option.map_some]; rfl
      case b => exact Group.Away.same rfl rfl hb
    · exact a
  · exact a

/-- The team registers that a clause wrote take effect. -/
theorem Team.writeReg_groups (ws : List (Nat × Nat × Nat)) (tm : Team) : (ws.foldl Team.writeReg tm).groups = tm.groups := by
  induction ws generalizing tm with
  | nil => rfl
  | cons w ws ih =>
    rw [List.foldl_cons, ih]
    unfold Team.writeReg
    split
    · split <;> rfl
    · split
      · split <;> rfl
      · rfl

/-- A clause ends. -/
theorem State.Away.endClause {t gi l : Nat} {x : TrapMark} {s : State} (a : s.Away t gi l x) :
    (endClause t gi s).Away t gi l x := by
  unfold Machine.endClause
  split
  · rename_i tm g ht hg
    split
    · exact a
    · rename_i r hr
      dsimp only
      obtain ⟨g0, hg0, ha⟩ := a
      rw [hg] at hg0; cases hg0
      have out : r.active.getLsbD l = false := ha.2 r hr
      have k1 : (r.active.lanes.foldl (fun (g : Group) l => g.modThread l (fun th =>
          if r.exited.getLsbD l then { th with live := false, parked := none, idx := 0 }
          else if r.tret.getLsbD l then { th.trapReturn with parked := Map.get? r.parkOn l }
          else { th with pc := Map.get r.targets l r.next, idx := 0, parked := Map.get? r.parkOn l }))
          (Machine.settleAll tm gi g)).Away l x := by
        refine Group.Away.fold (fun m hm g b => b.modThread (.inl ?_)) (ha.settleAll tm gi)
        rintro rfl
        rw [LaneSet.mem_lanes, out] at hm
        exact absurd hm.2 (by decide)
      generalize (r.active.lanes.foldl _ (Machine.settleAll tm gi g) : Group) = g1 at k1 ⊢
      have k2 : (({ g1 with clause := none } : Group).releaseK).Away l x := by
        refine Group.Away.releaseK ⟨k1.1, fun q hq => ?_⟩
        cases hq
      generalize (({ g1 with clause := none } : Group).releaseK) = g2 at k2 ⊢
      have k3 : (if r.yielded = true then { g2 with saveNext := tm.request } else g2).Away l x := by
        split
        · exact k2.same rfl rfl
        · exact k2
      generalize (if r.yielded = true then { g2 with saveNext := tm.request } else g2) = g3 at k3 ⊢
      have e1 : (s.modGroup t gi (fun _ => g3)).Away t gi l x :=
        ⟨g3, by rw [State.group?_modGroup, if_pos ⟨rfl, rfl⟩, hg]; rfl, k3⟩
      have e2 : (if r.teamWrites.isEmpty = true then s.modGroup t gi (fun _ => g3)
          else (s.modGroup t gi (fun _ => g3)).modTeam t (fun tm => (r.teamWrites.foldl Team.writeReg tm).recapture)).Away t gi l x := by
        split
        · exact e1
        · refine e1.modTeam t _ (fun tm g hg b => ?_)
          refine Exists.intro ?after (And.intro ?here ?away)
          case here => simp only [Team.recapture, Team.writeReg_groups, List.getElem?_map, hg, Option.map_some]; rfl
          refine Group.Away.clause (g := g) rfl (fun q hq => ?_) b
          obtain ⟨q0, hq0, rfl⟩ := Option.map_eq_some_iff.1 hq
          refine ⟨q0, hq0, fun h => ?_⟩
          split <;> exact h
      generalize (if r.teamWrites.isEmpty = true then s.modGroup t gi (fun _ => g3)
          else (s.modGroup t gi (fun _ => g3)).modTeam t (fun tm => (r.teamWrites.foldl Team.writeReg tm).recapture)) = s1 at e2 ⊢
      have e3 : (s1.countIssue t gi r.tailBefore r.fromTail r.yielded r.counted).Away t gi l x := by
        unfold State.countIssue
        split
        · exact e2.modGroup _ _ _ (fun _ b => b.same rfl rfl)
        · exact e2
      split
      · exact e3.modTeam _ _ (fun tm g hg b => (Team.Away.checkBarriers _ ⟨g, hg, b⟩).checkSbar)
      · exact e3
  · exact a

/-- An instruction retires. -/
theorem State.Away.retire {t gi l : Nat} {x : TrapMark} {s : State} (cycles : Nat)
    (a : s.Away t gi l x) : (retire t gi cycles s).Away t gi l x := by
  have h0 : (match (s.group? t gi).bind (·.clause) with
      | some r => s.noteVector t gi r.header | none => s).Away t gi l x := by
    split
    · unfold State.noteVector
      split
      · split
        · exact a.outside rfl
        · exact a
      · exact a
    · exact a
  unfold Machine.retire
  dsimp only
  have h1 := h0.modGroup t gi (fun g => { g with clause := g.clause.map (fun r =>
    { r with idx := r.idx + 1, nominal := r.nominal + cycles }) }) (fun g b => Group.Away.clause (g := g) rfl (fun r hr => by
      obtain ⟨q, hq, rfl⟩ := Option.map_eq_some_iff.1 hr; exact ⟨q, hq, id⟩) b)
  split
  · split
    · exact h1.endClause
    · exact h1
  · exact h1

/-! ## A thread that may still trap -/

/-- The group of the view, with a thread that has not trapped: its callee, its trap mode and its place are those of the view. -/
def View.Fresh (v : View) (l : Nat) (s : State) : Prop :=
  ∃ g, s.group? v.t v.gi = some g ∧ g.gate = v.g.gate ∧ g.threads.length = v.g.threads.length ∧
    (g.thread l).trapMode = (v.g.thread l).trapMode ∧ (g.thread l).status = (v.g.thread l).status

/-- At the start of an instruction no thread of the view has trapped. -/
theorem View.fresh_start {i : Instr} {s : State} {v : View} {read : Fields → Form → List (Nat × Bool)}
    (h : s.issue? read i = some v) (l : Nat) : v.Fresh l (v.start s) := by
  obtain ⟨g0, r0, h1, -⟩ := State.issue?_some h
  obtain ⟨-, -, hg, -⟩ := State.issuing_some h1
  exact ⟨v.g, by simp [View.start, State.group?_modGroup, hg], rfl, rfl, rfl, rfl⟩

/-- A change of a group that keeps what a later trap looks at. -/
theorem View.Fresh.modGroup {v : View} {l : Nat} {s : State} (f : Group → Group)
    (hf : ∀ g : Group, (f g).gate = g.gate ∧ (f g).threads.length = g.threads.length ∧
      ((f g).thread l).trapMode = (g.thread l).trapMode ∧ ((f g).thread l).status = (g.thread l).status)
    (a : v.Fresh l s) : v.Fresh l (s.modGroup v.t v.gi f) := by
  obtain ⟨g, hg, h1, h2, h3, h4⟩ := a
  obtain ⟨k1, k2, k3, k4⟩ := hf g
  exact ⟨f g, by rw [State.group?_modGroup, if_pos ⟨rfl, rfl⟩, hg]; rfl, k1.trans h1, k2.trans h2, k3.trans h3, k4.trans h4⟩

/-- A change of another thread, or of what a later trap does not look at. -/
theorem View.Fresh.modThread {v : View} {l m : Nat} {s : State} (f : Thread → Thread)
    (hf : m ≠ l ∨ ∀ th, (f th).trapMode = th.trapMode ∧ (f th).status = th.status) (a : v.Fresh l s) :
    v.Fresh l (s.modThread v.t v.gi m f) := by
  refine View.Fresh.modGroup _ (fun g => ⟨rfl, modNth_length _ _ _, ?_⟩) a
  rw [Group.thread_modThread]
  split
  · rename_i h
    rcases hf with hf | hf
    · exact absurd h.1.symm hf
    · exact hf _
  · exact ⟨rfl, rfl⟩

/-- A change outside the teams. -/
theorem View.Fresh.outside {v : View} {l : Nat} {s u : State} (h : u.teams = s.teams) (a : v.Fresh l s) : v.Fresh l u := by
  unfold View.Fresh State.group? State.team? at *
  rw [h]; exact a

/-- A change of the team that leaves its groups. -/
theorem View.Fresh.modTeam {v : View} {l : Nat} {s : State} (f : Team → Team) (hf : ∀ tm : Team, (f tm).groups = tm.groups)
    (a : v.Fresh l s) : v.Fresh l (s.modTeam v.t f) := by
  obtain ⟨g, hg, h⟩ := a
  refine ⟨g, ?_, h⟩
  unfold State.group? at hg ⊢
  rw [State.team?_modTeam, if_pos rfl]
  cases ht : s.team? v.t with
  | none => rw [ht] at hg; cases hg
  | some tm => rw [ht] at hg; simp only [Option.map_some, Option.bind_some, hf]; exact hg

/-- Another thread traps. -/
theorem View.Fresh.trapHere {v : View} {l m : Nat} {s : State} (h : m ≠ l) (cd : Nat × Nat) (a : v.Fresh l s) :
    v.Fresh l (trapHere v m cd s) := by
  unfold Machine.trapHere Machine.takeTrap
  split
  · dsimp only
    have d : v.Fresh l (s.modGroup v.t v.gi (·.dropLane m)) := a.modGroup _ (fun _ => ⟨rfl, rfl, rfl, rfl⟩)
    split
    · split
      · exact d.modThread _ (.inl h)
      · exact d.modThread _ (.inl h)
    · split
      · split
        · exact d.modTeam _ (fun _ => rfl)
        · exact d.modTeam _ (fun _ => rfl)
        · exact d.outside rfl
      · exact d.modThread _ (.inl h)
  · exact a

/-- A thread that has a handler takes a trap at the instruction (R377, R378). -/
theorem View.Fresh.trap {v : View} {l : Nat} {s : State} (hl : l < 32) {pc : Nat} (hh : v.handler l = some pc)
    (cd : Nat × Nat) (a : v.Fresh l s) :
    (Machine.trapHere v l cd s).Away v.t v.gi l
      (true, pc, 0, BitVec.ofNat 64 v.run.addr, causeWord cd.1 v.run.idx, BitVec.ofNat 64 cd.2) := by
  obtain ⟨g, hg, h1, h2, h3, h4⟩ := a
  have hin : g.inCall l = v.g.inCall l := by unfold Group.inCall; rw [h1, h4]
  unfold View.handler at hh
  split at hh
  · cases hh
  · rename_i hm
    obtain ⟨hlen, hmode⟩ := not_or.1 hm
    have hmode' : (g.thread l).trapMode = false := by rw [h3]; simpa using hmode
    obtain ⟨tm, ht⟩ : ∃ tm, s.team? v.t = some tm := by
      unfold State.group? at hg
      cases ht : s.team? v.t with
      | none => rw [ht] at hg; cases hg
      | some tm => exact ⟨tm, rfl⟩
    have enter : ∀ target, ((s.modGroup v.t v.gi (·.dropLane l)).modThread v.t v.gi l (fun th => { th with
        trapMode := true, pc := target, idx := 0, trapPc := BitVec.ofNat 64 v.run.addr
        trapCause := causeWord cd.1 v.run.idx, trapDetail := BitVec.ofNat 64 cd.2 })).Away v.t v.gi l
        (true, target, 0, BitVec.ofNat 64 v.run.addr, causeWord cd.1 v.run.idx, BitVec.ofNat 64 cd.2) := by
      intro target
      refine Exists.intro ?after (And.intro ?here ?away)
      case here =>
        unfold State.modThread
        rw [State.group?_modGroup, if_pos ⟨rfl, rfl⟩, State.group?_modGroup, if_pos ⟨rfl, rfl⟩, hg]
        rfl
      refine ⟨?_, fun r hr => ?_⟩
      · rw [Group.thread_modThread, if_pos ⟨rfl, by change l < g.threads.length; omega⟩]
        rfl
      · change (g.clause.map _) = some r at hr
        obtain ⟨q, hq, rfl⟩ := Option.map_eq_some_iff.1 hr
        simp only [BitVec.getLsbD_and, BitVec.getLsbD_not, BitVec.getLsbD_shiftLeft]
        simp [hl]
    unfold Machine.trapHere Machine.takeTrap
    rw [ht, hg]
    simp only [hmode', Bool.false_or, hin]
    split at hh
    · rename_i hc
      simp only [Option.some.injEq] at hh
      rw [if_pos hc, if_neg (by simp), h1, ← hh]
      exact enter _
    · rename_i hc
      split at hh
      · cases hh
      · rename_i hv
        simp only [Option.some.injEq] at hh
        rw [if_neg hc, if_neg (by simpa using hv), ← hh]
        exact enter _

/-- Of a list of threads that trap, each one once, one that has a handler takes its trap. -/
theorem View.Fresh.trapLanes {v : View} {l : Nat} {s : State} (hl : l < 32) {pc : Nat} (hh : v.handler l = some pc)
    (cd : Nat × Nat) (ls : List (Nat × (Nat × Nat))) (hd : (ls.map Prod.fst).Nodup) (hm : (l, cd) ∈ ls) (a : v.Fresh l s) :
    (Machine.trapLanes v ls s).Away v.t v.gi l
      (true, pc, 0, BitVec.ofNat 64 v.run.addr, causeWord cd.1 v.run.idx, BitVec.ofNat 64 cd.2) := by
  induction ls generalizing s with
  | nil => cases hm
  | cons lc ls ih =>
    simp only [List.map_cons, List.nodup_cons] at hd
    rcases List.mem_cons.1 hm with rfl | hm
    · exact State.Away.trapLanes v ls (fun k hk he => hd.1 (List.mem_map.2 ⟨k, hk, he⟩)) (a.trap hl hh cd)
    · refine ih hd.2 hm (a.trapHere ?_ _)
      rintro rfl
      exact hd.1 (List.mem_map.2 ⟨(_, cd), hm, rfl⟩)

/-- Where other threads trap, a thread has not. -/
theorem View.Fresh.others {v : View} {l : Nat} {s : State} (ls : List (Nat × (Nat × Nat))) (h : ∀ lc ∈ ls, lc.1 ≠ l)
    (a : v.Fresh l s) : v.Fresh l (Machine.trapLanes v ls s) := by
  induction ls generalizing s with
  | nil => exact a
  | cons lc ls ih =>
    exact ih (fun k hk => h k (List.mem_cons_of_mem _ hk)) (a.trapHere (h lc (List.mem_cons_self ..)) _)

/-- The lanes of a set, each one once. -/
theorem LaneSet.lanes_nodup (m : LaneSet) : m.lanes.Nodup := by
  unfold LaneSet.lanes
  exact List.Nodup.filter _ (by unfold allLanes; exact List.nodup_range)

/-- The threads that fail a check, each one once. -/
theorem View.failing_nodup {ρ : Type} (v : View) (check : Nat → Except (Nat × Nat) ρ) : ((v.failing check).map Prod.fst).Nodup := by
  have h : (v.failing check).map Prod.fst = v.lanes.lanes.filter (fun l => match check l with | .ok _ => false | .error _ => true) := by
    unfold View.failing
    induction v.lanes.lanes with
    | nil => rfl
    | cons a as ih =>
      rw [List.filterMap_cons, List.filter_cons]
      cases check a <;> simp [ih]
  rw [h]
  exact (LaneSet.lanes_nodup _).filter _

/-- A thread that fails its check has trapped after the failing threads have. -/
theorem View.checked_away {ρ : Type} {i : Instr} {s : State} {v : View} {read : Fields → Form → List (Nat × Bool)}
    (h : s.issue? read i = some v) (check : Nat → Except (Nat × Nat) ρ) {l pc cause detail : Nat} (hl : l ∈ v.lanes.lanes)
    (he : check l = .error (cause, detail)) (hh : v.handler l = some pc) :
    (v.checked check s).Away v.t v.gi l
      (true, pc, 0, BitVec.ofNat 64 v.run.addr, causeWord cause v.run.idx, BitVec.ofNat 64 detail) :=
  View.Fresh.trapLanes ((LaneSet.mem_lanes _ _).1 hl).1 hh (cause, detail) _ (v.failing_nodup check) (View.mem_failing.2 ⟨hl, he⟩)
    (v.fresh_start h l)

/-- A thread that stands where its trap left it has trapped. -/
theorem View.trapped_of_away {v : View} {l pc cause detail : Nat} {u : State}
    (a : u.Away v.t v.gi l (true, pc, 0, BitVec.ofNat 64 v.run.addr, causeWord cause v.run.idx, BitVec.ofNat 64 detail)) :
    v.trapped l pc cause detail u := by
  obtain ⟨g, hg, ha, -⟩ := a
  simp only [Thread.stand, Prod.mk.injEq] at ha
  exact ⟨g, hg, ha.1, ha.2.1, ha.2.2.1, ha.2.2.2.1, ha.2.2.2.2.1, ha.2.2.2.2.2⟩

/-- An instruction all of whose failing threads trap first, and whose rest leaves them where they stand, traps them. -/
theorem View.traps_of {ρ : Type} {v : View} {s : State} {i : Instr} {check : Nat → Except (Nat × Nat) ρ}
    (h : s.issue? sources i = some v → ∃ (cycles : Nat) (rest : State → State),
      exec i s = .next (retire v.t v.gi cycles (rest (v.checked check s))) ∧
      ∀ (u : State) l x, u.Away v.t v.gi l x → (rest u).Away v.t v.gi l x) : v.traps s i check := by
  intro l pc cause detail hi hl he hh
  obtain ⟨cycles, rest, hx, hr⟩ := h hi
  exact ⟨_, hx, View.trapped_of_away ((hr _ _ _ (View.checked_away hi check hl he hh)).retire cycles)⟩

end Sys2Proof.Machine
end

