-- ==== Sys2Proof/Tests/Slice0.lean ====
section
/-! SUPPORT. Tests: words written out from the layouts, ill-formed terms, and for every statement with hypotheses a machine that
meets them, a clause each, at boundary values. -/

namespace Sys2Proof.Tests

set_option Elab.async false

open Sys2Proof.Machine

/-! ## Helpers -/

/-- An unguarded instruction with every operand, MINOR and MOD 0. -/
def F : Fields := ⟨false, 7, 0, 0, 0, 0, 0, 0, 0, none⟩

/-- The words of an instruction as one number, the first word lowest. -/
def packed (i : Instr) : Nat := (encode i).foldr (fun w x => w.toNat + 2 ^ 32 * x) 0

/-- The machine right after reset with one instruction placed as the next. -/
def placed (i : Instr) : State := State.reset.withFetchWord (32 * (encode i).length) (packed i)

/-- The instruction issues normally in a state, and something holds of what it sees. -/
def sees (i : Instr) (s : State) (p : View → Bool) : Bool := (s.issue? sources i).any p

/-- The hypotheses of an `Executes` statement hold where the instruction is placed. -/
def meets (i : Instr) (k : View → Nat → LaneOut) : Bool :=
  sees i (placed i) (fun v => v.lanes != 0 && v.clean (v.start (placed i)) (k v))

/-- What a step gives, if a next state. -/
def next (s : State) : State := match step s with | .next t => t | _ => { s with stalled := true }

/-- What an instruction or event gives, if a next state. -/
def after (i : Instr) (s : State) : State := match exec i s with | .next t => t | _ => { s with stalled := true }

/-- The machine with a register of the placed group set in every lane. -/
def withReg (r : Nat) (x : Word) (s : State) : State :=
  s.modGroup 0 0 (fun g => { g with regs := Map.put g.regs r (List.replicate 32 x) })

/-- A register of a lane of the placed group after its writes have landed. -/
def regOf (s : State) (r l : Nat) : Word :=
  match s.team? 0, s.group? 0 0 with
  | some tm, some g => readReg tm 0 (settleAll tm 0 g) r l
  | _, _ => 0

/-! ## Decoding: words written out from the layouts of R15 and R17 and the majors of R25 and R34 -/

/-- ALU: `iadd v5, v3, v4`, one word of major 0x08. -/
theorem test_decode_iadd :
    decodeTableWord 32 0b00_00001000_0_111_000101_000011_000100 = some (.iadd { F with d := 5, a := 3, b := 4 }) := by decide

/-- ALU: `(!p2) isub v200, v130, v70` with MINOR 1 and TEA, TEB set, two words of major 0x09. -/
theorem test_decode_isub_high :
    decodeTableWord 64 0b00000000_0000001_011_11_10_01_00000000_01_00001001_1_010_001000_000010_000110 =
      some (.isub { F with gn := true, gp := 2, d := 200, a := 130, b := 70, te := 3, minor := 1 }) := by decide

/-- ALU: `iadd v1, v2, 0x89ABCDEF`, three words. -/
theorem test_decode_iadd_literal :
    decodeTableWord 96 0x89ABCDEF_00000000_821C1080 = some (.iadd { F with d := 1, a := 2, lit := some 0x89ABCDEF }) := by decide

/-- FPU: `fadd v5, v3, v4`, major 0x40; `frcp v5, v3`, major 0x50. -/
theorem test_decode_fpu :
    decodeTableWord 32 0b00_01000000_0_111_000101_000011_000100 = some (.fadd { F with d := 5, a := 3, b := 4 }) ∧
    decodeTableWord 32 0b00_01010000_0_111_000101_000011_000000 = some (.frcp { F with d := 5, a := 3 }) := by decide

/-- MEM: `ld.s8 v5, [v4 + 3]`, major 0x80. -/
theorem test_decode_ld :
    decodeTableWord 32 0b00_10000000_0_111_000101_000100_000011 = some (.ld { F with d := 5, a := 4, b := 3 }) := by decide

/-- LOCAL: `lds.s8 v5, [v4 + 3]`, major 0xA0. -/
theorem test_decode_lds :
    decodeTableWord 32 0b00_10100000_0_111_000101_000100_000011 = some (.lds { F with d := 5, a := 4, b := 3 }) := by decide

/-- CTRL: `exit`, major 0xB6; `crr v40, cr 2`, major 0xC2; `halt 3`, major 0xCB. -/
theorem test_decode_ctrl :
    decodeTableWord 32 0b00_10110110_0_111_000000_000000_000000 = some (.exit F) ∧
    decodeTableWord 32 0b00_11000010_0_111_101000_000000_000010 = some (.crr { F with d := 40, b := 2 }) ∧
    decodeTableWord 32 0b00_11001011_0_111_000000_000000_000011 = some (.halt { F with b := 3 }) := by decide

/-- ENGINE: `cpy` with D v2, A v4, B v6, C v8, major 0xD0, two words. -/
theorem test_decode_cpy :
    decodeTableWord 64 0b00000000_0000000_000_00_00_00_00001000_01_11010000_0_111_000010_000100_000110 =
      some (.cpy { F with d := 2, a := 4, b := 6, c := 8 }) := by decide

/-- MATRIX: `mma t1, om2, om3`, major 0xE0. -/
theorem test_decode_mma :
    decodeTableWord 32 0b00_11100000_0_111_000001_000010_000011 = some (.mma { F with d := 1, a := 2, b := 3 }) := by decide

/-- A header is no instruction (R14), and a major without a row is refused by name (R25). -/
theorem test_decode_refuses :
    decode [0xC9181578] = .error .header ∧ decode [0b00_11111111_0_111_000000_000000_000000] = .error (.unassigned 0xFF) := by
  decide

/-! ## Well-formedness: an ill-formed term for each check -/

/-- Check 12 of R26 refuses an odd pair, a register off 4 for a quad, registers past v255, a predicate past p7, an
immediate past its top, an operand in an unused field, and a TE bit for a source that is no register (R19, R20, R22). -/
theorem test_illFormed_operands :
    Instr.wellFormed (.iadd { F with minor := 2, d := 3 }) = false ∧
    Instr.wellFormed (.iadd { F with minor := 2, a := 3 }) = false ∧
    Instr.wellFormed (.iadd { F with minor := 2, b := 3 }) = false ∧
    Instr.wellFormed (.imad { F with minor := 2, c := 3 }) = false ∧
    Instr.wellFormed (.rng4 { F with d := 2 }) = false ∧
    Instr.wellFormed (.spill { F with minor := 7, a := 249 }) = false ∧
    Instr.wellFormed (.icmp { F with d := 8 }) = false ∧
    Instr.wellFormed (.kwait { F with a := 8 }) = false ∧
    Instr.wellFormed (.nop { F with d := 1 }) = false ∧
    Instr.wellFormed (.nop { F with te := 1 }) = false ∧
    Instr.wellFormed (.ld { F with te := 2 }) = false ∧
    Instr.wellFormed (.iadd { F with te := 4 }) = false := by decide

/-- Unassigned MINOR and MOD values, a literal where none is allowed and none where one is needed (R18, R21, R23). -/
theorem test_illFormed_forms :
    Instr.wellFormed (.iadd { F with minor := 4 }) = false ∧ Instr.wellFormed (.iadd { F with mod := 1 }) = false ∧
    Instr.wellFormed (.mov { F with lit := some 0 }) = false ∧ Instr.wellFormed (.bra F) = false ∧
    Instr.wellFormed (.fadd { F with mod := 5 }) = false ∧ Instr.wellFormed (.shfl F) = false ∧
    Instr.wellFormed (.ld { F with minor := 2 }) = false ∧ Instr.wellFormed (.st F) = false ∧
    Instr.wellFormed (.crr { F with b := 7 }) = false ∧ Instr.wellFormed (.crw { F with b := 0x10 }) = false ∧
    Instr.wellFormed (.fence F) = false ∧ Instr.wellFormed (.tzero F) = false ∧
    Instr.wellFormed (.spill { F with lit := some 2 }) = false := by decide

/-- An event has no words. -/
theorem test_illFormed_event : Instr.wellFormed .deviceReset = false := by decide

/-- Well-formed instructions at the boundaries of the same checks. -/
theorem test_wellFormed :
    Instr.wellFormed (.iadd { F with minor := 3, d := 254, a := 254, b := 254, te := 3, mod := 8 }) = true ∧
    Instr.wellFormed (.rng4 { F with d := 252, a := 252, b := 254 }) = true ∧
    Instr.wellFormed (.spill { F with minor := 7, a := 248 }) = true ∧
    Instr.wellFormed (.icmp { F with d := 7, mod := 5 }) = true ∧
    Instr.wellFormed (.bra { F with lit := some 0xFFFFFFFC }) = true ∧
    Instr.wellFormed (.st { F with minor := 12, a := 254, b := 255, c := 252 }) = true := by decide

/-! ## Fixed-latency instructions issue normally -/

/-- MOV, MOVI, SEL, PLOP and NOP issue normally where they are placed. -/
theorem witness_MovesExecute :
    let f : Fields := F;
      meets (.nop f) (fun _ _ => {}) = true ∧
      meets (.mov f) (fun v l => { regs := writesOf f.d.toNat (v.a l) (2 ^ f.minor.toNat) }) = true ∧
      meets (.movi f) (fun _ _ => { regs := writesOf f.d.toNat (moviValue f) (if f.minor.toNat = 0 then 1 else 2) }) = true ∧
      meets (.sel f) (fun v l =>
        let n := if f.minor.toNat = 1 then 64 else 32
        outN v (if v.p l f.c.toNat != f.mod.getLsbD 0 then v.a l else v.bInt l n false) n) = true ∧
      meets (.plop f) (fun v l =>
        { preds := [(f.d.toNat, f.mod.getLsbD ((if v.p l f.a.toNat then 4 else 0) + (if v.p l f.b.toNat then 2 else 0) +
            (if v.p l f.c.toNat then 1 else 0)))] }) = true := by decide +kernel

/-- The same with the largest operands of a quad. -/
theorem witness_MovesExecute_top :
    let f : Fields := { F with minor := 2, d := 252, a := 252 };
  meets (.mov f) (fun v l => { regs := writesOf f.d.toNat (v.a l) (2 ^ f.minor.toNat) }) = true := by decide +kernel

/-- The 32-bit forms. -/
theorem witness_IntegerOperationsExecute :
    let f : Fields := F;
    meets (.iadd f) (fun v l => intResult v (intA v l + intB v l)) = true ∧
    meets (.isub f) (fun v l => intResult v (intA v l - intB v l)) = true ∧
    meets (.imin f) (fun v l => intResult v (min (intA v l) (intB v l))) = true ∧
    meets (.imax f) (fun v l => intResult v (max (intA v l) (intB v l))) = true ∧
    meets (.iabs f) (fun v l => intResult v (intA v l).natAbs) = true ∧
    meets (.ineg f) (fun v l => intResult v (-intA v l)) = true ∧
    meets (.icmp f) (fun v l =>
      { preds := [(f.d.toNat, compareInt (f.mod.toNat % 8) (intA v l) (intB v l))] }) = true := by decide +kernel

/-- The 64-bit forms, with the largest operands. -/
theorem witness_IntegerOperationsExecute_wide :
    let f : Fields := { F with minor := 2, a := 254, b := 254, d := 6 };
    meets (.iadd f) (fun v l => intResult v (intA v l + intB v l)) = true ∧
    meets (.isub f) (fun v l => intResult v (intA v l - intB v l)) = true ∧
    meets (.imin f) (fun v l => intResult v (min (intA v l) (intB v l))) = true ∧
    meets (.imax f) (fun v l => intResult v (max (intA v l) (intB v l))) = true ∧
    meets (.iabs f) (fun v l => intResult v (intA v l).natAbs) = true ∧
    meets (.ineg f) (fun v l => intResult v (-intA v l)) = true ∧
    meets (.icmp f) (fun v l =>
      { preds := [(f.d.toNat, compareInt (f.mod.toNat % 8) (intA v l) (intB v l))] }) = true := by decide +kernel

/-- The multiplying operations. -/
theorem witness_MultiplyOperationsExecute :
    let f : Fields := F;
    meets (.imul f) (fun v l => intResult v (intA v l * intB v l)) = true ∧
    meets (.imulh f) (fun v l =>
      intResult v (intA v l * intB v l / (2 ^ t4Width f.minor.toNat : Int))) = true ∧
    meets (.imad f) (fun v l => intResult v (intA v l * intB v l + intC v l)) = true ∧
    meets (.lea f) (fun v l =>
      outN v (wrap 64 ((v.a l : Int) + readInt (f.minor.toNat == 0) 32 (v.b l) * (2 ^ (f.mod.toNat % 8) : Nat))) 64) = true ∧
    meets (.idot4 f) (fun v l =>
      let dot := (List.range 4).foldl (fun (x : Int) k =>
        x + byteOf (!f.minor.getLsbD 0) (v.a l) k * byteOf (!f.minor.getLsbD 1) (v.b l) k) (sext (v.c l) 32)
      out32 v (wrap 32 (if f.mod.getLsbD 3 then clamp true 32 dot else dot))) = true ∧
    meets (.rng4 f) (fun v l =>
      let x := philox 10 (bits (v.a l) 31 0, bits (v.a l) 63 32, bits (v.a l) 95 64, bits (v.a l) 127 96)
        (bits (v.b l) 31 0, bits (v.b l) 63 32)
      { regs := writesOf f.d.toNat (x.1 + x.2.1 * 2 ^ 32 + x.2.2.1 * 2 ^ 64 + x.2.2.2 * 2 ^ 96) 4 }) = true := by decide +kernel

/-- Bitwise operations, shifts and rotations. -/
theorem witness_LogicAndBitFieldsExecute_logic :
    let f : Fields := F;
      let n := bWidth f
      meets (.and f) (fun v l => outN v ((v.a l &&& v.bInt l n false) % 2 ^ n) n) = true ∧
      meets (.or f) (fun v l => outN v ((v.a l ||| v.bInt l n false) % 2 ^ n) n) = true ∧
      meets (.xor f) (fun v l => outN v ((v.a l ^^^ v.bInt l n false) % 2 ^ n) n) = true ∧
      meets (.not f) (fun v l => outN v ((2 ^ 64 - 1 - v.a l % 2 ^ 64) % 2 ^ n) n) = true ∧
      meets (.lop3 f) (fun v l =>
        outN v (lop3 f.mod.toNat (v.a l) (v.bInt l n false) (v.c l) % 2 ^ n) n) = true ∧
      meets (.shl f) (fun v l => outN v (if n ≤ v.b l then 0 else (v.a l <<< v.b l) % 2 ^ n) n) = true ∧
      meets (.shr f) (fun v l => outN v (if n ≤ v.b l then 0 else v.a l >>> v.b l) n) = true ∧
      meets (.sar f) (fun v l => outN v (wrap n (sext (v.a l) n / (2 ^ min (v.b l) (n - 1) : Nat))) n) = true ∧
      meets (.rot f) (fun v l =>
        outN v (rotl n (v.a l) (if 2 ≤ f.minor.toNat then (n - v.b l % n) % n else v.b l % n)) n) = true := by decide +kernel

/-- Their 64-bit forms. -/
theorem witness_LogicAndBitFieldsExecute_wide :
    let f : Fields := { F with minor := 1 };
      let n := bWidth f
      meets (.and f) (fun v l => outN v ((v.a l &&& v.bInt l n false) % 2 ^ n) n) = true ∧
      meets (.or f) (fun v l => outN v ((v.a l ||| v.bInt l n false) % 2 ^ n) n) = true ∧
      meets (.xor f) (fun v l => outN v ((v.a l ^^^ v.bInt l n false) % 2 ^ n) n) = true ∧
      meets (.not f) (fun v l => outN v ((2 ^ 64 - 1 - v.a l % 2 ^ 64) % 2 ^ n) n) = true ∧
      meets (.lop3 f) (fun v l =>
        outN v (lop3 f.mod.toNat (v.a l) (v.bInt l n false) (v.c l) % 2 ^ n) n) = true ∧
      meets (.shl f) (fun v l => outN v (if n ≤ v.b l then 0 else (v.a l <<< v.b l) % 2 ^ n) n) = true ∧
      meets (.shr f) (fun v l => outN v (if n ≤ v.b l then 0 else v.a l >>> v.b l) n) = true ∧
      meets (.sar f) (fun v l => outN v (wrap n (sext (v.a l) n / (2 ^ min (v.b l) (n - 1) : Nat))) n) = true ∧
      meets (.rot f) (fun v l =>
        outN v (rotl n (v.a l) (if 2 ≤ f.minor.toNat then (n - v.b l % n) % n else v.b l % n)) n) = true := by decide +kernel

/-- Bit counts, fields and permutations. -/
theorem witness_LogicAndBitFieldsExecute :
    let f : Fields := F;
      let n := bWidth f
      meets (.popc f) (fun v l => out32 v (popCount (v.a l) n)) = true ∧
      meets (.clz f) (fun v l => out32 v (if v.a l = 0 then n else n - 1 - Nat.log2 (v.a l))) = true ∧
      meets (.brev f) (fun v l => outN v (reverseBits (v.a l) n) n) = true ∧
      meets (.bfi f) (fun v l => outN v (insertField n (v.a l) (v.b l) (v.c l)) n) = true ∧
      meets (.bfx f) (fun v l =>
        outN v (extractField (t4Signed f.minor.toNat) (t4Width f.minor.toNat) (v.a l) (v.b l)) (t4Width f.minor.toNat)) = true ∧
      meets (.bperm f) (fun v l => out32 v (permBytes (v.a l) (v.b l) (v.c l))) = true := by decide +kernel

/-- Votes, shuffles, reductions and matches. -/
theorem witness_GroupOperationsExecute :
    (let f : Fields := F; meets (.vote f) (fun v _ =>
      let q := fun l => v.p l f.a.toNat != f.mod.getLsbD 0
      match f.minor.toNat with
      | 0 => out32 v (LaneSet.ofList (v.lanes.lanes.filter q)).toNat
      | 1 => { preds := [(f.d.toNat, v.lanes.lanes.all q)] }
      | 2 => { preds := [(f.d.toNat, v.lanes.lanes.any q)] }
      | _ => { preds := [(f.d.toNat, v.lanes.lanes.all q || !v.lanes.lanes.any q)] }) = true)∧(let f : Fields := { F with minor := 10 }; meets (.shfl f) (fun v l =>
        let u := match shflLane (f.minor.toNat / 32) (32 >>> f.mod.toNat) l (v.b l) with
          | some j => if v.lanes.has j then j else l
          | none => l
        outN v (v.a u) (if isWide (f.minor.toNat % 32) then 64 else 32)) = true)∧(let f : Fields := { F with minor := 14 }; meets (.gred f) (fun v _ =>
        let n := if isWide f.minor.toNat then 64 else 32
        let o := f.mod.toNat
        outN v (if f.minor.toNat = 13 ∨ f.minor.toNat = 14
          then reduceFloat (fmtOf f.minor.toNat) (o / 16) (o % 8) (o / 8 % 2 == 1) (v.lanes.lanes.map v.a)
          else reduceInt (o / 16) (f.minor.toNat == 2 || f.minor.toNat == 3) (o / 8 % 2 == 1) n (v.lanes.lanes.map v.a)) n) = true)∧(let f : Fields := { F with minor := 10 }; meets (.matchLanes f) (fun v l =>
        let same := fun u => v.a u == v.a l
        if f.minor.toNat < 32 then out32 v (LaneSet.ofList (v.lanes.lanes.filter same)).toNat
        else
          { out32 v (if v.lanes.lanes.all same then v.lanes.toNat else 0) with
            preds := [(f.c.toNat, v.lanes.lanes.all same)] }) = true) := by decide +kernel

/-- Packing and unpacking. -/
theorem witness_PackingAndIdentityExecute_packing :
    let f : Fields := F;
      let pack := fun (n per : Nat) (v : View) (l : Nat) =>
        out32 v (if l < 32 / per then
          (List.range per).foldl (fun x k => x + packElem v n (per * l + k) * 2 ^ (n * k)) 0 else 0)
      let unpack := fun (n per : Nat) (v : View) (l : Nat) =>
        let src := if v.lanes.has (l / per) then v.a (l / per) else 0
        let x := src >>> (n * (l % per)) % 2 ^ n
        out32 v (if f.minor.toNat = 1 then wrap 32 (sext x n) else x)
      meets (.pack6 f) (pack 6 4) = true ∧ meets (.pack4 f) (pack 4 8) = true ∧ meets (.pack8 f) (pack 8 4) = true ∧
      meets (.unpk6 f) (unpack 6 4) = true ∧ meets (.unpk4 f) (unpack 4 8) = true ∧ meets (.unpk8 f) (unpack 8 4) = true := by decide +kernel

/-- The floating-point operations of .f32. -/
theorem witness_FloatOperationsExecute :
    let f : Fields := F;
      let binary := fun (op : Fmt → Nat → Nat → Bool → Bool → Nat → Nat → Nat × BitVec 5) (v : View) (l : Nat) =>
        fOut v (op (formFmt f) (rndOf f) (if rndOf f = 4 then v.c l else 0) (satOf f) (flushes v.fpMode (formFmt f))
          (fSrc v (v.a l)) (fSrc v (fB v l)))
      meets (.fadd f) (binary fAdd) = true ∧
      meets (.fsub f) (binary fSub) = true ∧
      meets (.fmul f) (binary fMul) = true ∧
      meets (.ffma f) (fun v l =>
        fOut v (fFma (formFmt f) (rndOf f) (satOf f) (flushes v.fpMode (formFmt f)) (fSrc v (v.a l)) (fSrc v (fB v l))
          (fSrc v (v.c l)))) = true ∧
      meets (.fmin f) (fun v l => fOut v (fMinMax (formFmt f) false (fSrc v (v.a l)) (fSrc v (fB v l)))) = true ∧
      meets (.fmax f) (fun v l => fOut v (fMinMax (formFmt f) true (fSrc v (v.a l)) (fSrc v (fB v l)))) = true ∧
      meets (.fcmp f) (fun v l =>
        let r := fCompare (formFmt f) (f.mod.toNat % 8) (fSrc v (v.a l)) (fSrc v (fB v l))
        { preds := [(f.d.toNat, r.1)], flags := r.2 }) = true ∧
      meets (.fclass f) (fun v l => out32 v (fClass (formFmt f) (v.a l))) = true ∧
      meets (.frnd f) (fun v l => fOut v (fRound (formFmt f) (rndOf f) (fSrc v (v.a l)))) = true := by decide +kernel

/-- The same of .f64. -/
theorem witness_FloatOperationsExecute_wide :
    let f : Fields := { F with minor := 1 };
      let binary := fun (op : Fmt → Nat → Nat → Bool → Bool → Nat → Nat → Nat × BitVec 5) (v : View) (l : Nat) =>
        fOut v (op (formFmt f) (rndOf f) (if rndOf f = 4 then v.c l else 0) (satOf f) (flushes v.fpMode (formFmt f))
          (fSrc v (v.a l)) (fSrc v (fB v l)))
      meets (.fadd f) (binary fAdd) = true ∧
      meets (.fsub f) (binary fSub) = true ∧
      meets (.fmul f) (binary fMul) = true ∧
      meets (.ffma f) (fun v l =>
        fOut v (fFma (formFmt f) (rndOf f) (satOf f) (flushes v.fpMode (formFmt f)) (fSrc v (v.a l)) (fSrc v (fB v l))
          (fSrc v (v.c l)))) = true ∧
      meets (.fmin f) (fun v l => fOut v (fMinMax (formFmt f) false (fSrc v (v.a l)) (fSrc v (fB v l)))) = true ∧
      meets (.fmax f) (fun v l => fOut v (fMinMax (formFmt f) true (fSrc v (v.a l)) (fSrc v (fB v l)))) = true ∧
      meets (.fcmp f) (fun v l =>
        let r := fCompare (formFmt f) (f.mod.toNat % 8) (fSrc v (v.a l)) (fSrc v (fB v l))
        { preds := [(f.d.toNat, r.1)], flags := r.2 }) = true ∧
      meets (.fclass f) (fun v l => out32 v (fClass (formFmt f) (v.a l))) = true ∧
      meets (.frnd f) (fun v l => fOut v (fRound (formFmt f) (rndOf f) (fSrc v (v.a l)))) = true := by decide +kernel

/-- The packed 16-bit forms. -/
theorem witness_FloatOperationsExecute_packed :
    let f : Fields := F;
      let packed := fun (op : Fmt → Nat → Bool → Bool → Nat → Nat → Nat → Nat × BitVec 5) (v : View) (l : Nat) =>
        let fmt := halfFmt f
        let elem := fun (x j : Nat) => flushSource v.fpMode fmt (bits x (16 * j + 15) (16 * j))
        let one := fun j => op fmt (rndOf f) (satOf f) (flushes v.fpMode fmt) (elem (v.a l) j) (elem (v.b l) j) (elem (v.c l) j)
        { out32 v ((one 0).1 + (one 1).1 * 2 ^ 16) with flags := (one 0).2 ||| (one 1).2 }
      meets (.hfma2 f) (packed fFma) = true ∧
      meets (.hadd2 f) (packed (fun fmt m sat fl a b _ => fAdd fmt m 0 sat fl a b)) = true ∧
      meets (.hmul2 f) (packed (fun fmt m sat fl a b _ => fMul fmt m 0 sat fl a b)) = true := by decide +kernel

/-- Conversions, quantisation, the block scale and scaling. -/
theorem witness_FloatOperationsExecute_conversions :
    (let f : Fields := { F with minor := 13 }; meets (.cvt f) (fun v l =>
        let r := convert f.minor.toNat f.c.toNat (rndOf f) (if rndOf f = 4 then v.b l else 0) (satOf f) v.fpMode (v.a l)
        { outN v r.1 (if codeBits f.minor.toNat == 64 then 64 else 32) with flags := r.2 }) = true) ∧
      (let f : Fields := { F with minor := 17, mod := 8 }; meets (.cvtq f) (fun v l =>
        let dst := f.minor.toNat % 32
        let r := quantise dst (quantSource f) (rndOf f) (if rndOf f = 4 then v.c l else 0) v.fpMode (v.a l) (v.b l % 256)
        { out32 v (if dst = 0 then wrap 32 (sext r.1 8) else r.1) with flags := r.2 }) = true) ∧
      (let f : Fields := { F with minor := 17 }; meets (.sclx f) (fun v l =>
        let fs := quantSource f
        let r := blockScale (f.minor.toNat % 32) (decodeFloat fs (flushSource v.fpMode fs (v.a l % 2 ^ fs.width)))
        { out32 v r.1 with flags := r.2 }) = true) ∧
      (let f : Fields := F; meets (.fscl f) (fun v l =>
        let fmt := fsclFmt f
        let r := scaleValue fmt (f.minor.getLsbD 2) (rndOf f) (if rndOf f = 4 then v.c l else 0) (satOf f)
          (flushes v.fpMode fmt) (flushSource v.fpMode fmt (v.a l % 2 ^ fmt.width)) (v.b l)
        { outN v r.1 (if f.minor.toNat % 4 = 1 then 64 else 32) with flags := r.2 }) = true) := by decide +kernel

/-! ## The other instructions issue normally -/

/-- A change of the placed team. -/
def team (f : Team → Team) (s : State) : State := s.modTeam 0 f

/-- A change of the placed team's launch block. -/
def block (f : LaunchBlock → LaunchBlock) (s : State) : State := team (fun tm => { tm with lb := f tm.lb }) s

/-- A change of the placed group. -/
def group (f : Group → Group) (s : State) : State := s.modGroup 0 0 f

/-- A check that a memory instruction makes gives what `x` says in every executing thread, of which there is one. -/
def reachesAt {ρ : Type} [DecidableEq ρ] (v : View) (check : Nat → Except (Nat × Nat) ρ) (x : Nat → ρ) : Bool :=
  v.lanes != 0 && v.lanes.lanes.all (fun l => match check l with | .ok y => y == x l | .error _ => false)

/-- A machine whose placed clause has captured a trap handler, and enables every trap of a raised flag. -/
def handled (s : State) : State :=
  group (fun g => { g with clause := g.clause.map (fun r => { r with trapVec := 0x7000, fpMode := 31 }) }) s

/-- The instruction issues normally, and its check gives lane 0 the trap of this cause and detail, which has a handler. -/
def trapsAt {ρ : Type} (i : Instr) (s : State) (check : View → Nat → Except (Nat × Nat) ρ) (c : Nat × Nat) : Bool :=
  sees i (handled s) (fun v => v.lanes.has 0 && (v.handler 0).isSome && (match check v 0 with | .error x => x == c | .ok _ => false))

/-- The instruction issues normally where it is placed, in some thread. -/
def runs (i : Instr) (p : View → Bool) : Bool := sees i (placed i) (fun v => v.lanes != 0 && p v)

/-- SETFE in its three forms, MOVX and MOVXW over v0. -/
theorem witness_MovesExecute_indexed :
    meets (.setfe { F with minor := 2 }) (fun v l => { preds := [(0, !(Map.get v.g.empty 0 0).getLsbD l &&
      !(Map.get v.g.poison 0 0).getLsbD l)] }) = true ∧
    runs (.setfe F) (fun _ => true) = true ∧ runs (.setfe { F with minor := 1, a := 255 }) (fun _ => true) = true ∧
    runs (.movx F) (fun v => v.lanes.lanes.all (fun l => !badIndex v 1 (v.a l) &&
      !blocked v.g (1#32 <<< l) [(v.a l, false)] && (readTrap v.g l [(v.a l, false)]).isNone)) = true ∧
    runs (.movxw F) (fun v => v.lanes.lanes.all (fun l => !badIndex v 1 (v.a l) && v.a l == 0) &&
      (shapeFault v (v.lanes.lanes.map (fun l => (l, { regs := writesOf 0 (v.b l) 1 })))).isNone &&
      (v.start (placed (.movxw F))).target.isNone) = true := by decide +kernel

/-- MOVXW where it is placed meets every hypothesis of its clause together. -/
theorem witness_MovesExecute_movxw : ∃ v, (placed (.movxw F)).issue? sources (.movxw F) = some v ∧
    (∀ l ∈ v.lanes.lanes, badIndex v 1 (v.a l) = false) ∧
    (∀ x, shapeFault v ((v.lanes.lanes.filter (fun l => v.a l == x)).map (fun l =>
      (l, ({ regs := writesOf x (v.b l) 1 } : LaneOut)))) = none) ∧ (v.start (placed (.movxw F))).target = none := by
  have h := witness_MovesExecute_indexed.2.2.2.2
  unfold runs sees at h
  rw [Option.any_eq_true] at h
  obtain ⟨v, hv, h⟩ := h
  simp only [Bool.and_eq_true, List.all_eq_true, Bool.not_eq_true', beq_iff_eq, Option.isNone_iff_eq_none] at h
  obtain ⟨-, ⟨h1, h2⟩, h3⟩ := h
  refine ⟨v, hv, fun l hl => (h1 l hl).1, fun x => ?_, h3⟩
  by_cases hx : x = 0
  · subst hx
    rw [List.filter_eq_self.2 (fun l hl => by rw [beq_iff_eq]; exact (h1 l hl).2)]
    exact h2
  · rw [List.filter_eq_nil_iff.2 (fun l hl => by rw [(h1 l hl).2, beq_iff_eq]; exact fun e => hx e.symm)]
    rfl

/-- GETID outside the log in an unchecked run, and at both ends of the logged selectors in a checked one. -/
theorem witness_PackingAndIdentityExecute :
    meets (.getid F) (fun v l => out32 v (getidValue v (v.start (placed (.getid F))) 0 l)) = true ∧
    meets (.getid { F with minor := 17 }) (fun v l => out32 v (getidValue v (v.start (placed (.getid F))) 17 l)) = true ∧
    ([12, 16].all (fun sel =>
      let i := Instr.getid { F with minor := BitVec.ofNat 7 sel }
      let s := team (fun tm => { tm with mode := .lead }) (placed i)
      sees i s (fun v => !logWaits v.team v.g && v.clean (lanesThroughLog v 4 1 v.lanes (getidValue v (v.start s) sel) (v.start s)).2
        (fun l => out32 v (Map.get (lanesThroughLog v 4 1 v.lanes (getidValue v (v.start s) sel) (v.start s)).1 l 0)))) = true) := by
  decide +kernel

/-- Each special function. -/
theorem witness_SpecialFunctionsExecute :
    [Instr.frcp F, .frsq F, .fsqrt F, .fexp2 F, .flog2 F, .fsin F, .fcos F, .ftanh F, .frcp { F with minor := 1 }].all
      (fun i => runs i (fun _ => true)) = true := by decide +kernel

/-- Loads at address 0 and at the last byte of the address space, which R188 admits; a load past it, which it does not. -/
theorem witness_GlobalLoadsIssue :
    [Instr.ld F, .ldq F].all (fun i => runs i (fun v => reachesAt v (globalReach 1 v) (fun _ => 0))) = true ∧
    (let s := withReg 1 0xFFFFF (withReg 0 0xFFFFFFFF (placed (.ld F)))
     sees (.ld F) s (fun v => reachesAt v (globalReach 1 v) (fun _ => 0xFFFFFFFFFFFFF))) = true ∧
    (let s := withReg 1 0x100000 (placed (.ld F))
     sees (.ld F) s (fun v => v.lanes.lanes.all (fun l => globalAddr v l == 0x10000000000000))) = true := by decide +kernel

/-- Stores and atomics at address 0, the widest at a multiple of 16. -/
theorem witness_GlobalStoresIssue :
    [Instr.st { F with minor := 8 }, .stq { F with minor := 8 }].all (fun i =>
      runs i (fun v => reachesAt v (globalReach 1 v) (fun _ => 0))) = true ∧
    [Instr.red { F with minor := 2 }, .atom { F with minor := 10, mod := 6 }, .cas { F with minor := 10 }].all (fun i =>
      runs i (fun v => reachesAt v (globalReach 4 v) (fun _ => 0))) = true ∧
    runs (.st { F with minor := 12, b := 240 }) (fun v => reachesAt v (globalReach 16 v) (fun _ => 240)) = true := by
  decide +kernel

/-- A machine with page tables for identifier 0 of partition 0: the first GiB is mapped to physical 0x40000000 with R,
W and PIN, the second to 0x80000000 with R and X. -/
def mapped (s : State) : State :=
  { s with
    dram := Memory.putBytes (Memory.putBytes (Memory.putBytes s.dram 0x1000 (leBytes 0x10001 8)) 0x10000 (leBytes 0x20001 8))
      0x20000 (leBytes 0x4000004F 8 ++ leBytes 0x80000017 8) }.modPart 0 (fun p => { p with asTable := 0x1000 })

/-- The tables translate, at both ends of the first mapping. -/
theorem test_mapped :
    (mapped State.reset).walk 0 0 0 = .leaf 0x4000004F 0x40000000 0x40000000 ∧
    (mapped State.reset).walk 0 0 0x3FFFFFFF = .leaf 0x4000004F 0x7FFFFFFF 0x40000000 ∧
    (mapped State.reset).walk 0 0 0x80000000 = .notPresent 1 ∧ (mapped State.reset).walk 0 1 0 = .violation := by decide +kernel

/-- What brings a line of a page in: the hypotheses of PFCH's effect on an address. -/
def fetches (x : Nat) (u : State) : Bool :=
  match u.translate 0 0 0 x with
  | .leaf e pa _ =>
    let u0 := u.translated 0 0 0 x
    decide (x < 2 ^ 52) && !hasBit e 5 && isDram pa && hasBit e 2 && !u0.refused pa && !u0.errors.contains (pa >>> 7) &&
      !u0.unitDown 0 (u0.homeUnit pa) && bits e 51 50 != 1
  | _ => false

/-- PFCH in both kinds of run; an address without a leaf; both ends of a page, through its walk and from its cached leaf. -/
theorem witness_OrderingInstructionsIssue_prefetch :
    runs (.pfch F) (fun v => v.team.mode == .unchecked) = true ∧
    (let s := team (fun tm => { tm with mode := .lead }) (placed (.pfch F))
     sees (.pfch F) s (fun v => v.team.mode != .unchecked)) = true ∧
    (match State.reset.translate 0 0 0 0 with | .leaf .. => false | _ => true) = true ∧
    [0, 0x3FFFFFFF].all (fun x => fetches x (mapped State.reset) && fetches x ((mapped State.reset).translated 0 0 0 x)) = true := by
  decide +kernel

/-- FENCE, AFENCE and PUBLISH over bytes 0 and over the last byte, LOGV. -/
theorem witness_OrderingInstructionsIssue :
    runs (.fence { F with d := 4, a := 1, b := 31 }) (fun _ => true) = true ∧
    (let i := Instr.afence { F with lit := some 1 }
     runs i (fun v => reachesAt v (rangeReach v) (fun _ => some (0, 1)))) = true ∧
    (let i := Instr.publish { F with d := 3, lit := some 1 }
     let s := withReg 1 0xFFFFF (withReg 0 0xFFFFFFFF (placed i))
     sees i s (fun v => reachesAt v (publishReach v) (fun _ => some (0xFFFFFFFFFFFFF, 1)) && v.team.mode == .unchecked)) = true ∧
    (let i := Instr.publish { F with lit := some 1 }
     let s := team (fun tm => { tm with mode := .trail, lb := { tm.lb with flags := 1 } }) (placed i)
     sees i s (fun v => reachesAt v (publishReach v) (fun _ => some (0, 1)) && v.team.mode == .trail)) = true ∧
    runs (.logv { F with minor := 10 }) (fun v => !logWaits v.team v.g) = true := by decide +kernel

/-- A state in which the placed team has 64 private bytes and a window of 64 bytes, and its partition one chip piece. -/
def withArrays (s : State) : State :=
  (block (fun lb => { lb with priv := 64, win := 64 }) s).modPart 0 (fun p => { p with config := { p.config with pieces0 := 1 } })

/-- An access to an array reaches its element, in a run of each kind. -/
def localPasses (i : Instr) (mode : RunMode) (n : Nat) (reach : View → State → Nat → Nat → Nat → Except (Nat × Nat) Reach)
    (addr : View → Nat → Nat) (x : Reach) : Bool :=
  let s := team (fun tm => { tm with mode := mode }) (withArrays (placed i))
  sees i s (fun v => reachesAt v (fun l => reach v (v.start s) l (addr v l) n) (fun _ => x) && v.team.mode == mode)

/-- Loads of the first and the last element of each array, in both kinds of run. -/
theorem witness_LocalLoadsExecute :
    ([(0, RunMode.unchecked), (63, .lead)].all (fun om =>
      let f := { F with b := BitVec.ofNat 8 om.1 }
      localPasses (.lds f) om.2 1 padReach localAddr (.pad om.1) &&
      localPasses (.ldw f) om.2 1 winReach localAddr (.window 0 om.1) &&
      localPasses (.ldk f) om.2 1 chipReach localAddr (.chip om.1))) = true := by decide +kernel

/-- Stores to the first and the last element of each array, in both kinds of run and in a replaying one. -/
theorem witness_LocalStoresExecute :
    ([(0, RunMode.unchecked), (63, .lead), (63, .trail)].all (fun om =>
      let f := { F with minor := 8, b := BitVec.ofNat 8 om.1 }
      localPasses (.sts f) om.2 1 padReach localAddr (.pad om.1) &&
      localPasses (.stw f) om.2 1 winReach localAddr (.window 0 om.1) &&
      localPasses (.stx f) om.2 1 winReach localAddr (.window 0 om.1) &&
      localPasses (.stk f) om.2 1 chipReach localAddr (.chip om.1))) = true := by decide +kernel

/-- Atomics on both arrays, returning the old value (operation 7, compare and swap) and quiet (operation 0); an element whose
array and window an entry of the instruction already names. -/
theorem witness_LocalAtomicsExecute :
    ([(10, 7, RunMode.unchecked), (2, 16, .unchecked), (10, 7, .lead), (2, 16, .trail)].all (fun m =>
      let f := { F with minor := BitVec.ofNat 7 m.1, mod := BitVec.ofNat 8 m.2.1 }
      let addr := fun (v : View) l => v.a l % 2 ^ 32
      localPasses (.atoms f) m.2.2 4 padReach addr (.pad 0) && localPasses (.atomk f) m.2.2 4 chipReach addr (.chip 0))) =
      true ∧
    (let ps : List (Nat × Nat × List MemElem) := [(2, 3, []), (2, 4, [])]
     ps = [(2, 3, [])] ++ (2, 4, []) :: [] ∧ ∀ p ∈ [((2, 3, []) : Nat × Nat × List MemElem)], ¬ (p.1 = 2 ∧ p.2.1 = 4)) := by
  decide +kernel

/-- A misaligned address of each kind of access, in a team with a handler, and one past the array. -/
theorem witness_AddressChecks :
    (let one := fun (i : Instr) => withArrays (withReg 0 1 (placed i))
     [Instr.ld { F with minor := 10 }, .ldq { F with minor := 10 }, .st { F with minor := 10 }, .stq { F with minor := 10 },
       .red { F with minor := 2 }, .atom { F with minor := 10, mod := 6 }, .cas { F with minor := 10 }].all (fun i =>
       trapsAt i (one i) (fun v => globalReach 4 v) (6, 1)) &&
     [Instr.jadd { F with lit := some 1 }, .launch F, .spawn F].all (fun i => trapsAt i (one i) recordReach (6, 1)) &&
     (let i := Instr.afence { F with lit := some 1 }
      trapsAt i (withReg 1 0x100000 (placed i)) rangeReach (6, 2 ^ 52)) &&
     (let i := Instr.publish { F with lit := some 1 }
      trapsAt i (team (fun tm => { tm with mode := .lead }) (placed i)) publishReach (13, 0))) = true ∧
    (let reach := fun (i : Instr) (r : View → State → Nat → Nat → Nat → Except (Nat × Nat) Reach) (addr : View → Nat → Nat) (x : Nat)
         (c : Nat × Nat) =>
       let s := withArrays (withReg 0 (BitVec.ofNat 32 x) (placed i))
       trapsAt i s (fun v l => r v (v.start (handled s)) l (addr v l) 4) c
     let f := { F with minor := 10 }
     let atomic := fun (v : View) l => v.a l % 2 ^ 32
     [Instr.lds f, .sts f].all (fun i => reach i padReach localAddr 1 (6, 1) && reach i padReach localAddr 4096 (12, 4096 * 2 ^ 32)) &&
     [Instr.ldw f, .stw f, .stx f].all (fun i => reach i winReach localAddr 1 (6, 1) && reach i winReach localAddr 64 (12, 64 * 2 ^ 32) &&
       reach i winReach localAddr 0x40000 (12, 0x40000 * 2 ^ 32 + 1)) &&
     [Instr.ldk f, .stk f].all (fun i => reach i chipReach localAddr 1 (6, 1) && reach i chipReach localAddr 0x40000 (12, 0x40000 * 2 ^ 32)) &&
     reach (.atoms { f with mod := 7 }) padReach atomic 1 (6, 1) && reach (.atomk { f with mod := 7 }) chipReach atomic 1 (6, 1)) = true := by decide +kernel

/-- A machine in which partition 0 has the tables of `mapped`, the placed team two slice units and backing bytes from `base` on. -/
def backed (base : Nat) (i : Instr) : State :=
  block (fun lb => { lb with slice := 1, backw := 64, backbase := base }) (mapped (placed i))

/-- A slice instruction past its slice, in a state where something holds of what it sees. -/
def slicing (i : Instr) (s : State) (p : View → State → List (Nat × SliceReach) → Bool) : Bool :=
  sees i s (fun v => p v (v.start s) (v.good (fun l => sliceReach v l 64 32)))

/-- SBAR, LEAVE and JOIN; slices inside their 64 bytes, up to the last byte; slices past them, with pages that are unknown and known,
that are not present, that have no W, that a stopped unit serves, and behind a run that releases what it held. -/
theorem witness_SharingAndSlicesExecute :
    [Instr.sbar F, .leave F, .join { F with b := 7 }].all (fun i => runs i (fun v => !logWaits v.team v.g &&
      !(v.start (placed i)).leaveAhead (clusterOf v.team.core))) = true ∧
    (let s := team (fun tm => { tm with leaving := 1 }) (placed (.join F))
     sees (.join F) s (fun v => (v.start s).leaveAhead (clusterOf v.team.core))) = true ∧
    (let s := fun (i : Instr) => block (fun lb => { lb with slice := 1 }) (placed i)
     let at_ := fun (o n : Nat) (_ : Nat) => (⟨o, n, 0, 0⟩ : SliceReach)
     let fits := fun (i : Instr) (reach : View → Nat → Except (Nat × Nat) SliceReach) (x : Nat → SliceReach) =>
       sees i (s i) (fun v => reachesAt v (reach v) x && (backPages (v.good (reach v))).isEmpty)
     fits (.spill { F with minor := 7, b := 32 }) (fun v l => sliceReach v l 32 32) (at_ 32 32) &&
     fits (.fill { F with minor := 7, b := 32 }) (fun v l => sliceReach v l 32 32) (at_ 32 32) &&
     fits (.stl { F with minor := 8, b := 63 }) (laneReach 1) (at_ 63 1) &&
     fits (.ldl { F with b := 63 }) (laneReach 1) (at_ 63 1)) = true ∧
    (let k : Asker := ⟨2, 0, 0⟩
     let page := fun (base : Nat) (s : State) => { s with answers := [⟨k, 0, base >>> 16⟩] }
     let fill := Instr.fill { F with minor := 7, b := 64 }
     let spill := Instr.spill { F with minor := 7, b := 64 }
     let known := fun (s : State) (g : List (Nat × SliceReach)) => s.allKnown k 0 0 0 (backPages g)
     slicing fill (backed 0 fill) (fun _ s g => !known s g) &&
     [fill, spill].all (fun i => slicing i (page 0 (backed 0 i)) (fun v s g => known s g && !s.releasing v.team &&
       (s.backFault v.team (i == spill) g).isNone && !s.backDown v.team (i == spill) g)) &&
     slicing fill (page 0x80000000 (backed 0x80000000 fill)) (fun v s g => known s g &&
       match s.backFault v.team false g with | some (_, .notPresent _) => true | _ => false) &&
     slicing spill (page 0x40000000 (backed 0x40000000 spill)) (fun v s g => known s g &&
       match s.backFault v.team true g with | some (_, .violation) => true | _ => false) &&
     (let s := (page 0 (backed 0 fill)).modPart 0 (fun x => { x with halted := true, stopped := List.range 1023 })
      ((s.team? 0).any (fun tm => s.backDown tm false [(0, ⟨64, 0, 0, 32⟩)]))) &&
     (let h : HeldLine := ⟨0, 0, 0, 0, 0, 0, 0, [], none⟩
      slicing fill { page 0 (backed 0 fill) with heldLines := [h] } (fun v s g => known s g && s.releasing v.team))) = true := by decide +kernel

/-! ## Control flow -/

/-- A transfer whose target passes, and which traps in no thread. -/
def transfers (i : Instr) (s : State) (link : Bool) (target : View → Nat → Option Nat) : Bool :=
  sees i s (fun v =>
    let note := fun (m : Map Nat) =>
      v.lanes.lanes.foldl (fun m l => match target v l with | some x => Map.put m l x | none => m) m
    v.lanes != 0 && v.lanes.lanes.all (fun l => (target v l).all (fun x => x % 4 == 0 && decide (x < 2 ^ 52))) &&
    v.clean (v.modRun (fun r => { r with targets := note r.targets }) (v.start s)) (fun l =>
      match target v l with
      | some _ => if link then ({ regs := writesOf v.f.d.toNat v.run.next 2 } : LaneOut) else {}
      | none => {}))

/-- Every transfer, to the first and to the last word of the address space; a branch that is taken and one that is not. -/
theorem witness_TransfersExecute :
    (let go := fun (i : Instr) (link : Bool) (target : View → Nat → Option Nat) => transfers i (placed i) link target
     let f : Fields := { F with lit := some 0 }
     let top : Fields := { F with lit := some 0xFFFFFFFC }
     go (.bra f) false (fun v _ => some v.offsetTarget) && go (.bra top) false (fun v _ => some v.offsetTarget) &&
     go (.brc { f with minor := 2 }) false (fun v l => if branchTaken 2 0 (v.a l) then some v.offsetTarget else none) &&
     go (.brc { f with minor := 2, mod := 1 }) false (fun v l => if branchTaken 2 1 (v.a l) then some v.offsetTarget else none) &&
     go (.brx F) false (fun v l => some (v.a l)) && go (.ret F) false (fun v l => some (v.a l)) &&
     go (.call f) true (fun v _ => some v.offsetTarget) && go (.callx F) true (fun v l => some (v.a l)) &&
     transfers (.brx F) (withReg 1 0xFFFFF (withReg 0 0xFFFFFFFC (placed (.brx F)))) false (fun v l => some (v.a l))) = true := by
  decide +kernel

/-- EXIT, YIELD, KWAIT, the three forms of KSET, and BAR with its largest barrier and count. -/
theorem witness_BarriersAndExitExecute :
    [Instr.exit F, .yield F, .kwait { F with a := 7 }, .kset F, .kset { F with minor := 1 }, .kset { F with minor := 2, a := 7 },
      .bar { F with a := 15, b := 33 }, .bar { F with minor := 1 }].all (fun i => runs i (fun _ => true)) = true := by
  decide +kernel

/-- TRAP, BRK, HALT, and TRET in threads that are in trap mode and in threads that are not. -/
theorem witness_TrapInstructionsExecute :
    [Instr.trap { F with b := 255 }, .brk F, .halt F].all (fun i => runs i (fun _ => true)) = true ∧
    runs (.tret F) (fun v => v.lanes.lanes.all (fun l => !(v.g.thread l).trapMode)) = true ∧
    sees (.tret F) (group (fun g => g.modThread 31 (fun th => { th with trapMode := true })) (placed (.tret F)))
      (fun v => (v.g.thread 31).trapMode && v.lanes.has 31 && !(v.g.thread 0).trapMode) = true := by decide +kernel

/-- Control registers on both sides of 0x10, both counters, CRW, and PREQ in both forms. -/
theorem witness_ControlRegistersExecute :
    [Instr.crr F, .crr { F with b := 0x10 }, .time F, .cyc F, .crw F].all (fun i => runs i (fun v => !logWaits v.team v.g)) =
      true ∧
    ([0, 1].all (fun m =>
      let i := Instr.preq { F with minor := BitVec.ofNat 7 m }
      runs i (fun v =>
        let logged := lanesThroughLog v 4 1 v.lanes (fun _ =>
          if m = 1 then v.team.budgetLeft else if v.team.request then 1 else 0) (v.start (placed i))
        !logWaits v.team v.g && v.clean logged.2 (fun l => if m = 1 then out32 v (Map.get logged.1 l 0)
          else { preds := [(0, Map.get logged.1 l 0 != 0)] })))) = true := by decide +kernel

/-- Record instructions at the first and at the last record address, performed and in a replaying run. -/
theorem witness_RecordInstructionsExecute :
    ([(RunMode.unchecked, 0, 0), (.trail, 0xFFFFFFE0, 0xFFFFF)].all (fun m =>
      [Instr.jadd { F with lit := some 1 }, .launch F, .spawn F].all (fun i =>
        let s := team (fun tm => { tm with mode := m.1 }) (withReg 1 m.2.2 (withReg 0 m.2.1 (placed i)))
        let x := fun (_ : Nat) => m.2.1.toNat + 2 ^ 32 * m.2.2.toNat
        sees i s (fun v => reachesAt v (recordReach v) x && v.team.mode == m.1)))) = true := by decide +kernel

/-- A machine with a gate directory for identifier 0 and one valid gate of one frame without arguments. -/
def gated (s : State) : State :=
  { s with
    dram := Memory.putBytes (Memory.putBytes (Memory.putBytes s.dram 0x3000 (leBytes 0x4001 8)) 0x4018 (leBytes 0x9000 4 ++ leBytes 1 2))
      0x4027 [0x80] }.modPart 0 (fun p => { p with gateDir := 0x3000 })

/-- What a GATE of identifier 0 meets: with `all` every executing thread in trap mode, otherwise some thread that is not and
the entry that a test accepts. -/
def gates (s : State) (all : Bool) (entry : Except Unit (Option GateEntry) → View → Bool) : Bool :=
  sees (.gate F) s (fun v => v.lanes != 0 && v.lanes.lanes.all (fun l => (v.g.thread l).trapMode) == all &&
    (all || entry ((v.start s).gateEntry v.team.part v.g.asid 0 UnitFault.none).1 v))

/-- GATE in trap mode; without an entry, with an invalid and with a valid one, and without memory where the directory is. -/
theorem witness_GateInstructionsExecute :
    (let bare := placed (.gate F)
     let trapped := fun (ls : List Nat) (s : State) =>
       group (fun g => ls.foldl (fun g l => g.modThread l (fun th => { th with trapMode := true })) g) s
     let statusIs := fun (n : Nat) (x : Except Unit (Option GateEntry)) (v : View) =>
       match x with | .ok (some e) => e.status v.team v.gi == n | _ => false
     gates (trapped (List.range 32) bare) true (fun _ _ => true) &&
     gates bare false (fun x _ => match x with | .ok none => true | _ => false) &&
     gates { gated bare with dram := Memory.putBytes (gated bare).dram 0x4027 [0] } false (statusIs 1) &&
     gates (trapped [3] (gated bare)) false (statusIs 0) &&
     gates (bare.modPart 0 (fun p => { p with gateDir := 0xFFFFFFFFF000#64 })) false (fun x _ => match x with | .error () => true | _ => false)) =
      true := by decide +kernel

/-- A call that every thread of the placed group has entered. -/
def entered : GateCall where
  waiting := false
  frame := 0
  frameIndex := 0
  callerAsid := 0
  gate := 0
  logged := false
  entered := BitVec.allOnes 32
  named := BitVec.allOnes 32
  early := []
  entryPa := 0x4000
  asid := 0
  handler := 0
  pc := 0
  frameBase := 0
  frameSize := 0x9000
  nframes := 1
  narg := 0
  nret := 0
  slice := 0
  fpMode := 0
  scratch := 0
  budget := 1
  domain := 0
  dest := 0
  trapStatus := false
  addr := 0
  idx := 1
  next := 0
  cnts := []
  regs := []
  empty := []
  poison := []
  threads := []
  pad := []

/-- The placed group inside a callee, with budget left. -/
def inCallee (s : State) : State :=
  group (fun g => { g with gate := some entered, threads := g.threads.map (fun th => { th with budget := 1 }) }) s

/-- GRET in both forms. -/
theorem witness_GateInstructionsExecute_gret :
    [Instr.gret F, .gret { F with minor := 1 }].all (fun i =>
      sees i (inCallee (placed i)) (fun v => v.lanes != 0 && v.lanes.lanes.all v.g.inCall)) = true := by decide +kernel

/-- A pending fence that keeps back every access of the placed group's threads. -/
def fencing (s : State) : State :=
  group (fun g => { g with pending := [⟨1, 0, 1, 0, BitVec.allOnes 32, 0, 31, 31, [], 0⟩] }) s

/-- SEQW at its boundary, SEQW of a number not reached, SEQR of the number and of the error word; both behind a fence. -/
theorem witness_SequenceInstructionsExecute :
    runs (.seqw F) (fun v => !v.g.fenced v.lanes 4 && v.lanes.lanes.all (fun l => decide (v.a l ≤ (v.g.stream 0).done))) = true ∧
    sees (.seqw F) (withReg 0 1 (placed (.seqw F))) (fun v => v.lanes.has 0 && decide ((v.g.stream 0).done < v.a 0)) = true ∧
    [Instr.seqw F, .seqr F].all (fun i => sees i (fencing (placed i)) (fun v => v.g.fenced v.lanes 4)) = true ∧
    ([0, 14].all (fun m =>
      let i := Instr.seqr { F with minor := BitVec.ofNat 7 m }
      runs i (fun v =>
        let e := m % 4
        let logged := lanesThroughLog v 4 1 v.lanes
          (fun _ => if hasBit m 2 then (v.g.stream e).err else (v.g.stream e).done) (v.start (placed i))
        let cleared := if hasBit m 3 then logged.2.modGroup v.t v.gi (fun g => g.modStream e (fun x => { x with err := 0 }))
          else logged.2
        !v.g.fenced v.lanes 4 && !logWaits v.team v.g &&
        v.clean cleared (fun l => { regs := writesOf 0 (Map.get logged.1 l 0) 2 })))) = true := by decide +kernel

/-! ## Engine commands -/

/-- What a command of the placed instruction meets in its leader, lane 0: no block, and with `trap` a failing check, with
`full` no room, and otherwise room and no trap once it is sent. -/
def commands (i : Instr) (s : State) (trap full : Bool) : Bool :=
  (s.issue? (fun f k => (commandSources f k i.major).2) i).any (fun v =>
    let srcs := (commandSources v.f v.form i.major).1
    let e := engineOf i.major
    let b := (v.lit.filter (fun _ => i.major == 0xD6)).getD (v.operand v.form.b v.f.b.toNat 0)
    let check := firstTrap [readTrap v.g 0 srcs, commandCheck v (v.start s) i.major (v.a 0) b (v.c 0)]
    let n := (v.g.stream e).issued + 1
    let cmd : Command := {
      id := (v.start s).fresh.1, team := v.t, part := v.team.part, group := v.gi, lanes := v.lanes, engine := e, major := i.major
      minor := v.f.minor.toNat, mod := v.f.mod.toNat, ticket := n
      a := if i.major = 0xD5 then 0 else v.a 0, b := if i.major = 0xD5 then 0 else b, c := v.c 0
      lit := v.lit, asid := v.g.asid, slot := v.gi % 4, core := v.team.core, held := v.f.mod.getLsbD 7, patch := none
      items := if i.major = 0xD5 then v.lanes.lanes.map (fun l => (v.a l, v.b l)) else [], dest := none
      state := 0, todo := [], code := 0, written := [] }
    let queued := { (v.start s).fresh.2 with commands := (v.start s).fresh.2.commands ++ [cmd] }
    let sent := queued.modGroup v.t v.gi (fun g => g.modStream e (fun x => { x with issued := n }))
    v.lanes.lanes.head? == some 0 && !blocked v.g (1#32 <<< 0) srcs && check.isSome == trap &&
      (trap || ((v.start s).hasRoom v.t v.gi v.team e == !full &&
        (full || v.clean sent (fun _ => { regs := writesOf v.f.d.toNat n 2 })))))

/-- One command that waits in the queue of core 0's copy/gather engine. -/
def waitingCommand (e : Nat) : Command := {
  id := 1, team := 0, part := 0, group := 0, lanes := 1, engine := e, major := 0xD0, minor := 0, mod := 0, ticket := 1
  a := 0, b := 0, c := 0, lit := none, asid := 0, slot := 0, core := 0, held := false, patch := none, items := [], dest := none
  state := 0, todo := [], code := 0, written := [] }

/-- Every command is sent; one that no thread executes and one whose source is empty; a copy of 2 bytes fails its check; the
queues of both kinds of engine are full. -/
theorem witness_CommandsAreSent :
    [Instr.cpy F, .cpyt F, .gthr F, .sctr F, .coll { F with lit := some 0 }, .bin F, .rel F, .mirr { F with lit := some 0 },
      .fillz F, .zmap F].all (fun i => commands i (withArrays (placed i)) false false) = true ∧
    sees (.cpy { F with gp := 0 }) (placed (.cpy { F with gp := 0 })) (fun v => v.lanes == 0) = true ∧
    (let s := group (fun g => { g with empty := [(0, 1)] }) (placed (.cpy F))
     (s.issue? (fun f k => (commandSources f k 0xD0).2) (.cpy F)).any (fun v => v.lanes.lanes.head? == some 0 &&
       blocked v.g (1#32 <<< 0) (commandSources v.f v.form 0xD0).1)) = true ∧
    commands (.cpy { F with c := 4 }) (withReg 4 2 (placed (.cpy { F with c := 4 }))) true false = true ∧
    commands (.cpy F) { placed (.cpy F) with commands := List.replicate 16 (waitingCommand 0) } false true = true ∧
    commands (.bin F) { placed (.bin F) with commands := List.replicate 8 (waitingCommand (engineOf 0xD5)) } false true = true := by
  decide +kernel

/-! ## The matrix sequencer -/

/-- The placed matrix instruction issues normally, and something holds of its team. -/
def sequences (i : Instr) (s : State) (p : Team → Bool) : Bool := (s.matIssue? i).any (fun x => p x.2.1)

/-- The placed team with 64 slots and 4096 private bytes, its maps with format 5. -/
def tiled (s : State) : State :=
  team (fun tm => { tm with seq := { tm.seq with om := tm.seq.om.map (fun m => { m with fmt := 5 }) } })
    (block (fun lb => { lb with tiles := 64, priv := 4096 }) s)

/-- A change of the placed team's sequencer. -/
def seqs (f : Sequencer → Sequencer) (s : State) : State := team (fun tm => { tm with seq := f tm.seq }) s

/-- The check that a macro-operation of the placed team makes fails in `i`. -/
def fails (i : Instr) (check : State → Nat → Team → Fields → Option Nat) (s : State) : Bool :=
  (s.matIssue? i).any (fun x => (check s x.1 x.2.1 x.2.2.2).isSome)

/-- A request of the placed team's matrix engine at its cluster's arbiter. -/
def asking (s : State) : State :=
  s.modCluster 0 (fun x => { x with requests := [⟨20, 1, 0, 0, false, 0, 0⟩] })

/-- Another team of the same core, whose turn at the matrix engine it is. -/
def behind (s : State) : State :=
  { s with teams := s.teams ++ [(1, { Team.ofWords s (encode (.tzero F)) true with order := 2 })] }.modCore 0
    (fun c => { c with matrixLast := 1 })

/-- A macro-operation with its reservation; one whose turn it is to ask for it; three that wait; one that fails its check;
one that is ended. -/
theorem witness_MacroOperationsExecute :
    (let i := Instr.tzero { F with d := 63, b := 1 }
     let s := tiled (placed i)
     let s0 := seqs (fun q => { q with res := 0 }) s
     let asks := fun (tm : Team) (u : State) =>
       (u.cluster (clusterOf tm.core)).requests.any (fun q => q.requester == 20 + tm.core % 4)
     sequences i s (fun tm => tm.seq.res == 2) && sequences i s0 (fun tm => tm.seq.res == 0 && !asks tm s0 && s0.matrixTurn tm) &&
     sequences i (seqs (fun q => { q with res := 1 }) s) (fun tm => tm.seq.res == 1) &&
     sequences i (asking s0) (fun tm => tm.seq.res == 0 && asks tm (asking s0)) &&
     sequences i (behind s0) (fun tm => tm.seq.res == 0 && !(behind s0).matrixTurn tm) &&
     fails i (fun _ _ tm f => if f.d.toNat + f.b.toNat ≤ tm.lb.tiles then none else some 2) (placed i) &&
     ((seqs (fun q => { q with busy := true }) s).team? 0).any (fun tm => tm.seq.busy)) = true := by decide +kernel

/-- The placed MMA with 64 rows of A and 16 of B passes its checks and holds its reservation. -/
def multiplies (i : Instr) : Bool :=
  ((tiled (placed i)).matIssue? i).any (fun x => x.2.1.seq.res == 2 && (mmaCheck (tiled (placed i)) x.1 x.2.1 x.2.2.2).isNone)

/-- MMA and the gathering form, with steps past both operands. -/
theorem witness_MatrixInstructionsExecute_products :
    (multiplies (.mma { F with mod := 1 }) && multiplies (.mmaG { F with minor := 1, mod := 0xC1, lit := some 0 })) = true := by
  decide +kernel

/-- The forms that skip zero blocks. -/
theorem witness_MatrixInstructionsExecute_skip :
    (multiplies (.mmaS { F with minor := 2, mod := 1, lit := some 0 }) &&
      multiplies (.mmaGs { F with minor := 3, mod := 1, lit := some 0 })) = true := by decide +kernel

/-- TZERO of one and of all slots, TLD, TST, and TEPI with a scale and a bias. -/
theorem witness_MatrixInstructionsExecute_tiles :
    [Instr.tzero { F with d := 63, b := 1 }, .tzero { F with b := 64 }].all (fun i => sequences i (tiled (placed i)) (fun tm =>
      tm.seq.res == 2 && (i.fields.any (fun f => decide (f.d.toNat + f.b.toNat ≤ tm.lb.tiles))))) = true ∧
    sequences (.tld F) (tiled (placed (.tld F))) (fun tm => tm.seq.res == 2 &&
      (let m := tm.om 0
       loadable m.format && !m.mx && !m.win && decide (0 < tm.lb.tiles) && m.useOk &&
         (List.range 64).all (fun x => windowOk tm m x 64))) = true ∧
    sequences (.tst F) (tiled (placed (.tst F))) (fun tm => tm.seq.res == 2 &&
      (tstCheck (tiled (placed (.tst F))) 0 tm F).isNone) = true ∧
    (let f : Fields := { F with minor := 24 }
     sequences (.tepi f) (tiled (placed (.tepi f))) (fun tm => tm.seq.res == 2 &&
      (let m := tm.om 0
       vectorOk m && decide (0 < tm.lb.tiles) && m.useOk && windowOk tm m 0 64))) = true := by decide +kernel

/-- OMAP of a base, of a format at its largest value, and two values that are not allowed; MSIG and MWAIT that arrive, that
are held, and that go on; MLOOP that goes back and one that ends, MEND, MNOP. -/
theorem witness_SequencerControlExecutes :
    (let at_ := fun (i : Instr) (p : Team → Bool) => sequences i (placed i) p
     let barrier := fun (tm : Team) => (tm.barriers[15]?).getD Barrier.fresh
     at_ (.omap { F with d := 15, lit := some 0xFFFFFFF0 }) (fun _ => 0xFFFFFFF0 % 16 == 0) &&
     at_ (.omap { F with d := 15, lit := some 0xFFFFFFF1 }) (fun _ => 0xFFFFFFF1 % 16 != 0) &&
     at_ (.omap { F with minor := 3, lit := some 0x73A }) (fun _ =>
       bits 0x73A 31 11 == 0 && bits 0x73A 7 6 == 0 && decide (bits 0x73A 3 0 ≤ 10)) &&
     at_ (.omap { F with minor := 3, lit := some 0x73B }) (fun _ => !decide (bits 0x73B 3 0 ≤ 10)) &&
     [Instr.msig { F with a := 15, b := 33 }, .mwait { F with a := 15, b := 1 }].all (fun i =>
       let held := team (fun tm => { tm with barriers := modNth (fun b => { b with seq := true }) 15 tm.barriers }) (placed i)
       at_ i (fun tm => !tm.seq.arrived && !(barrier tm).seq) && sequences i held (fun tm => !tm.seq.arrived && (barrier tm).seq) &&
       sequences i (seqs (fun q => { q with arrived := true }) (placed i)) (fun tm => tm.seq.arrived)) &&
     at_ (.mloop { F with b := 2, lit := some 0 }) (fun tm => decide (tm.seq.lc.getD 0 0 + 1 < 2)) &&
     at_ (.mloop { F with b := 1, lit := some 0 }) (fun tm => !decide (tm.seq.lc.getD 0 0 + 1 < 1)) &&
     at_ (.mend F) (fun _ => true) && at_ (.mnop F) (fun _ => true)) = true := by decide +kernel

/-! ## Words, steps, registers, frames and traps -/

/-- A header word, an instruction's words and an unassigned major (R14, R25); well-formed instructions at the first and the
last operand of their forms. -/
theorem witness_DecodedFields :
    bits (0xC9181578#32).toNat 31 30 = 3 ∧ (decode [0b00_00001000_0_111_000101_000011_000100#32]).isOk = true ∧
    (bits (0b00_11111111_0_111_000000_000000_000000#32).toNat 29 22 = 255 ∧
      bits (0b00_11111111_0_111_000000_000000_000000#32).toNat 31 30 = 0 ∧ (instrOf 255 F).isNone = true) ∧
    Instr.wellFormed (.iadd F) = true ∧ Instr.wellFormed (.rng4 { F with d := 252, a := 252, b := 254 }) = true := by decide

/-- No event has an opcode, so no fields. -/
theorem witness_DecodedFields_unassigned (f : Fields) : instrOf 255 f = none := rfl

/-- An instruction with nothing planned; one that the agenda names after 3 ticks; an event after 5. -/
theorem witness_StepRunsTheInstruction :
    (let s := placed (.nop F)
     let runsAt := fun (s : State) => match s.current with | some ws => (decode ws).isOk | none => false
     s.agenda = [] ∧ s.stalled = false ∧ runsAt s = true ∧
     (let m : Move := ⟨3, .issue (.group 0 0)⟩
      runsAt { s.passTime m.dt with agenda := [], stalled := false, cur := .group 0 0 } = true) ∧
     Instr.deviceReset.fields = none ∧ (s.clauseOf s.cur).isSome = true) := by decide +kernel

/-- The placed machine is in canonical form and its step answers a next state, as a step of the machine after reset does. -/
theorem witness_StepKeepsMemoryCanonical :
    (let goes := fun (s : State) => s.canonical && match step s with | .next _ => true | _ => false
     goes (placed (.nop F)) && goes (placed (.st F))) = true := by decide +kernel

/-- Writes to registers of shapes G, U and A by both end lanes, two that fit and two that do not. -/
theorem witness_ShapedWrites :
    (let xs : Map Word := [(0, 7), (31, 7)]
     xs ≠ [] ∧ (∀ lx ∈ xs, lx.2 = 7) ∧ Map.sorted xs = true ∧ 2 ≤ xs.length ∧ (∀ lx ∈ xs, lx.1 < 32)) ∧
    (let xs : Map Word := [(0, 7), (31, 8)]
     (∃ a ∈ xs, ∃ b ∈ xs, a.2 ≠ b.2) ∧ Map.sorted xs = true ∧ 2 ≤ xs.length) ∧
    (shapeWrite 2 [0, 0] [(0, 5), (31, 36)]).isSome = true ∧ (shapeWrite 2 [0, 0] [(0, 5), (2, 6)]).isNone = true := by decide

/-- A group whose v0 is empty in lane 0 and poisoned in lane 31. -/
def marked : Group := { Group.launch 0 0 0 with empty := [(0, 1)], poison := [(0, 0x80000000)] }

/-- The reads of that group, and a thread whose guard holds. -/
theorem witness_EmptyAndPoisonedReads :
    (Map.get marked.empty 0 0).getLsbD 0 = true ∧
    ((Map.get marked.empty 0 0).getLsbD 31 = false ∧ (Map.get marked.poison 0 0).getLsbD 31 = true) ∧
    ((Map.get marked.empty 0 0).getLsbD 1 = false ∧ (Map.get marked.poison 0 0).getLsbD 1 = false) ∧
    (guarded marked (ClauseRun.ofWords []) F).getLsbD 31 = true := by decide

/-- A group in a clause with a write of v0 that is visible at cycle 4. -/
def flying : Group :=
  { Group.launch 0 0 0 with
    clause := some { ClauseRun.ofWords [] with fly := [⟨1, 4, 0, 0, [(0, 9), (31, 9)], []⟩] } }

/-- The write is seen from its cycle on, in a register of shape G. -/
theorem witness_VisibleWrites :
    ((placed (.nop F)).team? 0).any (fun tm => tm.shape 0 0 == 3 && tm.shape 0 255 == 3 &&
      readReg tm 0 (settle tm 0 4 flying) 0 31 == 9 && readReg tm 0 (settle tm 0 3 flying) 0 31 == 0) = true ∧
    flying.clause.isSome = true := by decide +kernel

/-- The placed group, whose clause has no write in flight; the bytes that a store's neighbours hold. -/
theorem witness_OutcomeFrames :
    (let s := placed (.nop F)
     (s.team? 0).isSome && (s.group? 0 0).any (fun g => g.clause.any (fun r => r.fly.isEmpty && r.teamWrites.isEmpty))) = true := by
  decide +kernel

/-- The places next to a store of one byte in each array, a line with room, and a byte under no registration whose unit
has the writer's view. -/
theorem witness_StoreFrames :
    (let s := placed (.nop F)
     let r : Registration := ⟨0x1000, 32, 0⟩
     (s.team? 0).isSome && decide ((s.core 0).l1.length < 8192) && decide (¬ (r.pa ≤ 0xFFF ∧ 0xFFF < r.pa + r.size)) &&
       decide (¬ (r.pa ≤ 0x1020 ∧ 0x1020 < r.pa + r.size)) && Map.get s.cipher (0xFFF / 16) 0 == 0) = true := by decide +kernel

/-- A thread that is not in trap mode, of a team with a handler; one in trap mode of an unchecked team and one of a trail. -/
theorem witness_TrapEntry :
    (let s := placed (.trap F)
     (s.group? 0 0).any (fun g => decide (31 < g.threads.length) && !g.inCall 31 && !(g.thread 31).trapMode) &&
     (s.team? 0).any (fun tm => tm.mode == .unchecked && decide (tm.part < s.partitions.length) && !(s.part tm.part).halted) &&
     ((group (fun g => g.modThread 31 (fun th => { th with trapMode := true })) s).group? 0 0).any (fun g =>
       (g.thread 31).trapMode && !g.inCall 31) &&
     ((team (fun tm => { tm with mode := .trail }) s).team? 0).any (fun tm => tm.mode == .trail)) = true := by decide +kernel

/-! ## Issue, landing, memory -/

/-- The placed group between two clauses, its threads at 0x1000. -/
def idle (s : State) : State :=
  group (fun g => { g with clause := none, threads := g.threads.map (fun th => { th with pc := 0x1000 }) }) s

/-- Core 0's instruction cache holds these words at 0x1000. -/
def coded (ws : List Word) (s : State) : State :=
  let bytes := ws.flatMap (fun w => leBytes w.toNat 4)
  s.modCore 0 (fun c => { c with icache := [⟨0x1000, 0, 0x40001000, bytes ++ List.replicate (128 - bytes.length) 0⟩] })

/-- A header of one instruction of a class (R7). -/
def headerOf (cls : Nat) : Word := BitVec.ofNat 32 (3 * 2 ^ 30 + 2 ^ 26 + cls * 2 ^ 23)

/-- The placed group between two clauses, before a clause of one instruction. -/
def before (i : Instr) : State := coded (headerOf (classOf i.major) :: encode i) (idle (placed i))

/-- Slot 0 of core 0 is awake and free, and chooses a group of which something holds. -/
def chooses (s : State) (p : Candidate → Except ClauseFault Decoded → Bool) : Bool :=
  !s.slotBusy 0 0 && !((s.core 0).slot 0).asleep && (s.slotChoice 0 0).any (fun c =>
    p c (s.decodeClause c.tm.part 0 c.g.asid c.entry.pc false (fun r => c.tm.shape c.gi r == 0)))

/-- The threads of an entry with a pending trap. -/
def pending (c : Candidate) : LaneSet := LaneSet.filter c.entry.lanes (fun l => (c.g.thread l).pend.isSome)

/-- The entry that a free slot issues: a pending trap; a misaligned address and one past the top; code that no page holds; an
index past the clause; a clause of no shared pipe, and one of the memory collector. -/
theorem witness_IssueAndLandingEvents :
    (let at_ := fun (pc : Nat) => group (fun g => { g with threads := g.threads.map (fun th => { th with pc := pc }) }) (before (.nop F))
     let fine := fun (c : Candidate) => pending c == 0 && c.entry.pc % 4 == 0 && decide (c.entry.pc < 2 ^ 52)
     let pipe := fun (want : Option Bool) (c : Candidate) (x : Except ClauseFault Decoded) =>
       fine c && match x with | .ok d => decide (c.entry.idx ≤ headerCount d.header.toNat) && clausePipe d.header d.insns == want | _ => false
     !State.reset.slotBusy 0 3 && (State.reset.slotChoice 0 3).isNone &&
     chooses (group (fun g => g.modThread 31 (fun th => { th with pend := some 0 })) (before (.nop F))) (fun c _ => pending c != 0) &&
     chooses (at_ 0x1002) (fun c _ => pending c == 0 && c.entry.pc % 4 != 0) &&
     chooses (at_ (2 ^ 52)) (fun c _ => pending c == 0 && c.entry.pc % 4 == 0 && !decide (c.entry.pc < 2 ^ 52)) &&
     chooses (at_ (2 ^ 52 - 4)) (fun c x => fine c && match x with | .error _ => true | _ => false) &&
     chooses (group (fun g => g.modThread 0 (fun th => { th with idx := 2 })) (before (.nop F))) (fun c x =>
       fine c && match x with | .ok d => decide (headerCount d.header.toNat < c.entry.idx) | _ => false) &&
     chooses (before (.nop F)) (pipe none) && chooses (before (.ld F)) (pipe (some false)) &&
     chooses (before (.frcp F)) (pipe (some true)) && ((placed (.mnop F)).teams.filter (fun kt => kt.2.core == 0)).length == 1) = true := by
  decide +kernel

/-- An operation of the placed group and what holds of it. -/
def operation (s : State) (p : Team → Group → LongOp → Bool) : Bool :=
  (s.team? 0).any (fun tm => (s.group? 0 0).any (fun g => g.ops.any (p tm g)))

/-- A scratchpad load whose turn it is, a long result that is fixed, and a special function's. -/
theorem witness_IssueAndLandingEvents_results :
    (let s := after (.lds F) (withArrays (placed (.lds F)))
     (s.team? 0).any (fun tm => (s.group? 0 0).any (fun g => g.locals.any (fun o =>
       (g.locals.find? (fun x => x.id == o.id)).isSome && (s.localReady 0 0 tm g o).isSome)))) = true ∧
    (let s := after (.crr F) (placed (.crr F))
     operation s (fun _ g o => (g.locals.find? (fun x => x.id == o.id)).isNone && g.ops.find? (fun x => x.id == o.id) == some o &&
       !o.sfu && o.ready != 0 && !s.landWaits 0 0 o)) = true ∧
    (let s := after (.frcp F) (placed (.frcp F))
     operation s (fun _ g o => g.ops.find? (fun x => x.id == o.id) == some o && o.sfu && !s.landWaits 0 0 o)) = true := by
  decide +kernel

/-- The elements of the placed group's accesses have a translation. -/
def translates (pa leaf : Nat) (s : State) : State :=
  let go := fun (o : MemOp) => { o with elems := o.elems.map (fun e => { e with xl := some ⟨pa, leaf⟩ }) }
  group (fun g => { g with loads := g.loads.map go, stores := g.stores.map go }) s

/-- The machine once an access of the placed group has been issued and translated. -/
def accessing (i : Instr) (leaf : Nat) (mode : RunMode) : State :=
  translates 0x40000000 leaf (team (fun tm => { tm with mode := mode }) (after i (placed i)))

/-- The next element of the placed group's store queue, with nothing in its way. -/
def storing (s : State) (p : State → Team → Group → MemOp → MemElem → Bool) : Bool :=
  (s.team? 0).any (fun tm => (s.group? 0 0).any (fun g => (s.nextStore 0 0 tm g).any (fun x =>
    (s.core tm.core).port == none && s.elemServed tm x.2.1 && p (s.modGroup 0 0 (·.pass x.2.2)) tm g x.1 x.2.1)))

/-- Stores of every kind of run, one that goes to its home and one that registers, and atomics; a granted port. -/
theorem witness_MemoryEvents :
    (let st := Instr.st { F with minor := 8 }
     let red := Instr.red { F with minor := 2 }
     let plain := fun (o : MemOp) => o.kind == .st || o.kind == .stq
     let in_ := fun (i : Instr) (mode : RunMode) (isPlain : Bool) => storing (accessing i 0x4F mode) (fun _ tm g o e =>
       plain o == isPlain && tm.actsAs g e.lane == mode)
     in_ st .trail true && in_ st .lead true && in_ st .third true && in_ red .trail false && in_ red .third false &&
     in_ red .unchecked false && in_ red .lead false &&
     storing (accessing (.stq { F with minor := 8 }) 0x6F .unchecked) (fun u tm g o e =>
       plain o && tm.actsAs g e.lane == .unchecked && !(e.registers o && !u.shooting tm.part o.asid e.va)) &&
     storing (accessing st 0x4F .unchecked) (fun u tm g o e =>
       plain o && tm.actsAs g e.lane == .unchecked && e.registers o && !u.shooting tm.part o.asid e.va)) = true := by
  decide +kernel

/-- A registration that the core's port has asked for, a missing load, and cached lines that are replaced. -/
theorem witness_MemoryEvents_reads :
    (let s := accessing (.st { F with minor := 8 }) 0x4F .unchecked
     (s.team? 0).any (fun tm => (s.group? 0 0).any (fun g => g.stores.any (fun o =>
       let u := s.modCore 0 (fun c => { c with port := some (0, 0, o.id, 0) })
       (u.core 0).port == some (0, 0, o.id, 0) && (g.stores.find? (fun x => x.id == o.id)) == some o &&
       (o.elems.find? (fun e => e.lane == 0 && !e.done)).any (fun e =>
         (u.passes 0 0 tm g (o.access 1 e)).isSome && u.elemServed tm e))))) = true ∧
    (let s := accessing (.ld F) 0x4F .unchecked
     (s.team? 0).any (fun tm => (s.group? 0 0).any (fun g => g.loads.any (fun o =>
       (g.loads.find? (fun x => x.id == o.id)) == some o && o.elems.any (fun e =>
         (s.loadReady 0 0 tm g o e).isSome && s.elemServed tm e && tm.actsAs g e.lane == .unchecked &&
         !(s.ownBytes tm g o e).all (·.isSome) && localValue (s.core tm.core) g o e true == none && e.xl.isSome))))) = true ∧
    ({ State.reset with l2 := [0, 5] }).l2.contains 5 = true ∧
    (let l : L1Line := ⟨0x80, 0, 0x40000080, true, false, 15#4, List.replicate 128 0⟩
     ((State.reset.modCore 0 (fun c => { c with l1 := [l] })).core 0).l1Line 0 (128 * 1) = some l) := by
  decide +kernel

/-! ## Translation, fences, the fault ring -/

/-- A request of the placed group for line 0, which something holds of. -/
def requesting (s : State) (p : Team → Group → MemOp → Nat → Bool) : Bool :=
  (s.team? 0).any (fun tm => (s.group? 0 0).any (fun g => g.loads.any (fun o =>
    g.memOp o.id == some o && !(s.lineElems tm 0 g o 0).isEmpty && !s.sentLater tm 0 g o &&
      p tm g o (s.translationSlice (dieOf tm.core) o.asid 0))))

/-- A load whose page has been translated; one whose page has not: halted, behind a full queue, after a fault of its page,
beside a walk of its page, and free to start one. -/
theorem witness_TranslationAndFaultEvents_requests :
    (let s := after (.ld F) (mapped (placed (.ld F)))
     let slice := s.translationSlice 0 0 0
     let hit := fun (s : State) (tm : Team) (o : MemOp) (k : Nat) => s.tlbHit k tm.part o.asid 0
     let joins := fun (s : State) (tm : Team) (o : MemOp) (k : Nat) =>
       s.walks.any (fun w => w.slice == k && w.part == tm.part && w.asid == o.asid && w.va >>> 16 == 0)
     let faulted := fun (tm : Team) (o : MemOp) => tm.fault.any (fun f => f.asid == o.asid && f.va >>> 16 == 0)
     let cached := { s with tlb := [⟨slice, 0, 0, 0, 0x40000000, 0x4000004F⟩] }
     let halted := s.modPart 0 (fun x => { x with halted := true })
     let full := { s with walks := List.replicate 66 ⟨9, slice, 0, 1, 0, []⟩ }
     let hurt := team (fun tm => { tm with fault := some ⟨1, 0, 0, 0xFFFF, none⟩ }) s
     let beside := { s with walks := [⟨9, slice, 0, 0, 0xFFFF, []⟩] }
     requesting cached (fun tm _ o k => (hit cached tm o k).isSome) &&
     requesting halted (fun tm _ o k => (hit halted tm o k).isNone && (halted.part tm.part).halted) &&
     requesting full (fun tm _ o k => (hit full tm o k).isNone && decide (66 ≤ (full.walksOf k).length)) &&
     requesting hurt (fun tm _ o k => (hit hurt tm o k).isNone && faulted tm o) &&
     requesting beside (fun tm _ o k => (hit beside tm o k).isNone && joins beside tm o k) &&
     requesting s (fun tm _ o k => (hit s tm o k).isNone && !(s.part tm.part).halted && decide ((s.walksOf k).length < 66) &&
       !faulted tm o && !joins s tm o k)) = true := by decide +kernel

/-- Walks that end at a leaf, at a page that is not present and at a malformed entry. -/
theorem witness_TranslationAndFaultEvents_walks :
    (let ends := fun (s : State) (va : Nat) (p : WalkEnd → Bool) =>
       let w : Walk := ⟨9, s.translationSlice 0 0 va, 0, 0, va, []⟩
       let u := { s with walks := [w] }
       u.walks.find? (fun x => x.id == w.id) == some w && ((u.walksOf w.slice).take 2).contains w && p (u.walkAt w.slice w.part w.asid w.va)
     ends (mapped State.reset) 0x3FFFFFFF (fun x => match x with | .leaf .. => true | _ => false) &&
     ends (mapped State.reset) 0x80000000 (fun x => match x with | .notPresent _ => true | _ => false) &&
     ends State.reset 0 (fun x => match x with | .violation => true | _ => false)) = true := by decide +kernel

/-- A pending operation of the placed group, and what holds of it. -/
def awaits (s : State) (p : Pending) (q : State → Team → Group → Bool) : Bool :=
  let u := group (fun g => { g with pending := g.pending ++ [p] }) s
  match u.pendingOf 0 0 p.id p.kind with
  | some (tm, g, x) => x == p && q u tm g
  | none => false

/-- Fences before which nothing stands, and one behind a load; AFENCE and PUBLISH over pages that are present, over one that
is not, and over one that fails. -/
theorem witness_TranslationAndFaultEvents_fences :
    (let bare := mapped (placed (.nop F))
     let p : Nat → Nat → Pending := fun kind va => ⟨100, 0, 1, kind, BitVec.allOnes 32, 1, 31, 31, [(0, va, 1)], 0⟩
     let fails := fun (s : State) (tm : Team) (x : Pending) => x.ranges.find? (fun r =>
       (s.rangePages (dieOf tm.core) tm.part x.asid r.2.1 r.2.2).isNone)
     let free := fun (s : State) (tm : Team) (g : Group) (x : Pending) (classes : Nat) =>
       !s.before 0 0 tm g x && !x.lanes.lanes.any (fun l => g.held x.id l classes)
     let served := fun (s : State) (tm : Team) (x : Pending) => !s.unitDown tm.part (s.coreUnit tm) &&
       !(s.ranged tm x).any (fun r => s.unitDown tm.part (s.homeUnit r.1))
     awaits bare (p 0 0) (fun s tm g => !s.before 0 0 tm g (p 0 0)) &&
     awaits (after (.ld F) (mapped (placed (.ld F)))) (p 0 0) (fun s tm g => s.before 0 0 tm g (p 0 0)) &&
     [0, 0x80000000].all (fun va => awaits bare (p 1 va) (fun s tm g => free s tm g (p 1 va) 3 && fails s tm (p 1 va) == none) &&
       awaits bare (p 2 va) (fun s tm g => free s tm g (p 2 va) 2 && fails s tm (p 2 va) == none && served s tm (p 2 va))) &&
     [(1, 3), (2, 2)].all (fun kc => awaits (placed (.nop F)) (p kc.1 0) (fun s tm g =>
       free s tm g (p kc.1 0) kc.2 && (fails s tm (p kc.1 0)).isSome))) = true := by decide +kernel

/-- A grid of the placed team's record. -/
def gridOf (lb : LaunchBlock) : Grid := ⟨0, 0, 0, 0, true, 0, lb, 0, 0, 0, 5⟩

/-- A team whose page is not present and that has settled; a moved READ; a resumed record; a shootdown that is started, one that
is busy with a request that is still out, and one that nothing holds up. -/
theorem witness_TranslationAndFaultEvents_ring :
    (let s := { team (fun tm => { tm with fault := some ⟨1, 0, 0, 0, none⟩ }) (placed (.nop F)) with grids := [gridOf LaunchBlock.bare] }
     (s.team? 0).any (fun tm => tm.fault.isSome && (s.grid? tm.part tm.asid tm.record).isSome && !(s.part tm.part).halted &&
       s.enginesRest 0 tm && !s.windowBusy 0 tm &&
       ((List.range tm.groups.length).zip tm.groups).all (fun ig => s.settledRequests 0 tm ig.1 ig.2))) = true ∧
    (State.reset.part 0).faultRead ≠ (1 : Word).toNat ∧
    (let s := State.reset.modPart 7 (fun x => { x with parked := [⟨0x1000, 3, [], 0, true⟩] })
     !(s.part 7).halted && ((s.part 7).parked.find? (fun k => k.slot == (0x1000 : Dword).toNat && k.written)).isSome) = true ∧
    (hasBit (0x1FFFF : Dword).toNat 31 = false ∧ (State.reset.part 0).shootBusy = false ∧ hasBit (0xFFFFFFFF80000000 : Dword).toNat 31 = true) ∧
    (let s := after (.ld F) (placed (.ld F))
     (s.group? 0 0).any (fun g => g.loads.any (fun o =>
       let busy := fun (line : Nat) => s.modPart 0 (fun x => { x with shootBusy := true, shootWaits := [⟨0, 0, o.id, line⟩] })
       ((busy 0).part 0).shootWaits.any (busy 0).shotOpen && ((busy 1).part 0).shootBusy &&
         !((busy 1).part 0).shootWaits.any (busy 1).shotOpen))) = true := by decide +kernel

/-! ## The scheduler, sharing groups, gates -/

/-- A machine whose partition 0 has cluster 0. -/
def owned (s : State) : State := s.modCluster 0 (fun c => { c with partition := some 0 })

/-- The three outcomes of trying an entry. -/
def tries (s : State) (e : Nat × Nat) (p : Try → Bool) : Bool :=
  !(s.part 0).halted && !(s.part 0).paused &&
  match (s.part 0).entries with | (_, x) :: _ => x == e && p (s.tryEntry 0 e) | [] => false

/-- Kicks of a machine without a configuration, of a misaligned record and of an aligned one; an entry of the highest level that
is placed, one that fits no core and one of no grid; a pre-emption of the last core. -/
theorem witness_SchedulerEvents :
    (let lb := { LaunchBlock.bare with savebase := 0x1000 }
     let queue := fun (s : State) => { s with grids := [gridOf lb] }.modPart 0 (fun x =>
       { x with queues := List.replicate 11 [] ++ [[(0, 0)]] })
     ({ State.reset with configuration := 0 }).configuration == 0 &&
     State.reset.configuration != 0 && !(State.reset.part 0).halted && bits (0x1001F : Dword).toNat 51 0 % 32 != 0 &&
     bits (0x10000 : Dword).toNat 51 0 % 32 == 0 &&
     tries (queue (owned (mapped State.reset))) (0, 0) (fun x => match x with | .placed _ => true | _ => false) &&
     tries (queue (mapped State.reset)) (0, 0) (fun x => match x with | .block _ => true | _ => false) &&
     tries { queue State.reset with grids := [] } (0, 0) (fun x => match x with | .skip => true | _ => false) &&
     State.reset.logicalCore (bits (127 : Dword).toNat 6 0) == some 127) = true := by decide +kernel

/-- The placed team, with its groups' threads ended. -/
def exited (s : State) : State :=
  group (fun g => { g with clause := none, threads := g.threads.map (fun th => { th with live := false }) }) s

/-- A requested team whose groups have stopped, one whose budget has run out, one that has drained, and teams that end. -/
theorem witness_SchedulerEvents_leaving :
    (let asked := team (fun tm => { tm with request := true }) (before (.nop F))
     let parked := group (fun g => { g with threads := g.threads.map (fun th => { th with parked := some 0 }) }) asked
     (parked.team? 0).any (fun tm => parked.maySave tm && tm.groups.all (parked.groupStopped tm)) &&
     (let late := team (fun tm => { tm with used := 50000 }) asked
      (late.team? 0).any (fun tm => late.maySave tm && tm.budgetLeft == 0)) &&
     (let s := { team (fun tm => { tm with save := 1 }) parked with grids := [gridOf LaunchBlock.bare] }
      (s.team? 0).any (fun tm => (s.grid? tm.part tm.asid tm.record).isSome && tm.save != 0 && tm.fault.isNone &&
        !(s.part tm.part).halted && s.drained 0 tm && s.enginesRest 0 tm)) &&
     [RunMode.unchecked, .trail, .third].all (fun m =>
       let s := team (fun tm => { tm with mode := m }) (exited (placed (.nop F)))
       (s.team? 0).any (fun tm => !(s.part tm.part).halted && s.mayEnd 0 tm && tm.mode == m))) = true := by decide +kernel

/-- A team that swaps alone, one that swaps with the other member of its group, and a leave that is first in its order. -/
theorem witness_SharingAndGateEvents :
    (let ready := fun (tm : Team) => { tm with sbarReady := true }
     let alone := team ready (placed (.nop F))
     let both := { team (fun tm => { ready tm with sharing := some 7 }) (placed (.nop F)) with
       teams := (team (fun tm => { ready tm with sharing := some 7 }) (placed (.nop F))).teams.flatMap (fun kt => [kt, (kt.1 + 1, kt.2)]) }
     let group7 := both.modCluster 0 (fun c => { c with sharing := modNth (fun _ => ⟨[0, 1]⟩) 7 c.sharing })
     let leaving := team (fun tm => { tm with leaving := 5 }) group7
     (alone.team? 0).any (fun tm => tm.sbarReady && tm.sharing == none && tm.stxDone) &&
     (group7.team? 0).any (fun tm => tm.sbarReady && tm.sharing == some 7 &&
       (((group7.cluster (clusterOf tm.core)).sharing[7]?).any (fun x => x.members.all (fun m =>
         ((group7.team? m).map (fun x => x.sbarReady && x.stxDone)).getD true)))) &&
     (leaving.team? 0).any (fun tm => tm.leaving != 0 && tm.sharing != none &&
       leaving.teams.all (fun kt => clusterOf kt.2.core != clusterOf tm.core || kt.2.leaving == 0 || decide (tm.leaving ≤ kt.2.leaving)) &&
       !leaving.windowBusy 0 tm)) = true := by decide +kernel

/-- The placed group in a call, between two clauses. -/
def calling (c : GateCall) (mode : RunMode) (s : State) : State :=
  team (fun tm => { tm with mode := mode }) (group (fun g => { g with clause := none, gate := some c }) s)

/-- Calls that nobody enters, that a replaying run takes from its log, and that are entered: with no page of frames, with no free
frame, with a frame page that fails, and with a frame. -/
theorem witness_SharingAndGateEvents_entry :
    (let wait := { entered with waiting := true }
     let at_ := fun (c : GateCall) (mode : RunMode) (s : State) (p : State → Team → Bool) =>
       let u := calling c mode s
       (u.team? 0).any (fun tm => (u.group? 0 0).any (fun g => g.gate == some c && g.settledFor tm c && !u.stopped tm && p u tm))
     let small := { wait with frameSize := 64 }
     let claims := fun (u : State) (tm : Team) (c : GateCall) => u.pinRead 0 tm.part c.asid c.frameBase ((c.nframes + 7) / 8)
     let written := fun (u : State) (tm : Team) (c : GateCall) =>
       (u.claim 0 tm.part c 0 true).bind (fun w => w.pinWrite 0 tm.part c.asid (c.frameBase + 4096)
         ((List.range c.frameSize).map (fun i => Config.privateByte u.nonce (c.frameBase + 4096 + i))))
     let bare := placed (.nop F)
     let edge := { small with frameBase := 0x3FFFF000 }
     at_ { wait with entered := 0 } .unchecked bare (fun _ _ => true) &&
     at_ { wait with logged := true } .trail bare (fun _ tm => tm.replays) &&
     at_ small .unchecked bare (fun u tm => (claims u tm small).isNone) &&
     at_ { small with nframes := 0 } .unchecked (mapped bare) (fun u tm =>
       (claims u tm { small with nframes := 0 }).any (fun map => (freeFrame map 0).isNone)) &&
     at_ edge .unchecked (mapped bare) (fun u tm =>
       (claims u tm edge).any (fun map => freeFrame map edge.nframes == some 0) && (written u tm edge).isNone) &&
     at_ small .lead (mapped bare) (fun u tm =>
       (claims u tm small).any (fun map => freeFrame map small.nframes == some 0) && (written u tm small).isSome)) = true := by
  decide +kernel

/-- Calls whose threads have all finished, with and without their frame page. -/
theorem witness_SharingAndGateEvents_completion :
    (let done := fun (s : State) =>
       calling entered .unchecked (group (fun g => { g with threads := g.threads.map (fun th => { th with status := some 0 }) }) s)
     let at_ := fun (s : State) (p : Option State → Bool) => (s.team? 0).any (fun tm => (s.group? 0 0).any (fun g =>
       g.settledFor tm entered && !s.stopped tm && !entered.entered.lanes.any (fun l => (g.thread l).status.isNone) &&
         p (s.claim 0 tm.part entered entered.frameIndex false)))
     at_ (done (placed (.nop F))) (·.isNone) && at_ (done (mapped (placed (.nop F)))) (·.isSome)) = true := by decide +kernel

/-! ## Engines -/

/-- The placed machine with commands of team 0. -/
def queueing (cs : List Command) (s : State) : State := { s with commands := cs }

/-- A holding of the arbiter of cluster 0 that serves a command. -/
def granting (requester command : Nat) (s : State) : State :=
  s.modCluster 0 (fun x => { x with holdings := [⟨requester, 2, 0, 0, false, 0, command⟩] })

/-- What COMMAND_START meets: a resident team that is not being saved, and an engine that runs. -/
def starts (s : State) (id : Nat) (p : Command → Team → Bool) : Bool :=
  (s.command? id).any (fun c => (s.team? c.team).any (fun tm => tm.fault == none && tm.save == 0 &&
    !s.unitDown c.part (s.engineUnit c) && p c tm))

/-- Commands that are accepted or are not; that may start, with and without a grant, held, and behind another; that run and are
suspended; a replaying run's collective; one that has finished. -/
theorem witness_CommandEvents :
    (let c := waitingCommand 0
     let s := fun (x : Command) => queueing [x] (placed (.nop F))
     let coll := { c with major := 0xD4, engine := 1, state := 1 }
     let trail := team (fun tm => { tm with mode := .trail })
     let two := queueing [{ c with slot := 3 }, { c with id := 2, slot := 1, group := 1 }] (placed (.nop F))
     ((s c).command? 1).any (fun c => (s c).acceptable c && (s c).acceptTurn c) &&
     ((s { c with state := 1 }).command? 1).any (fun x => !(s { c with state := 1 }).acceptable x) &&
     (two.command? 1).any (fun x => !two.acceptTurn x) &&
     starts (s { c with state := 1 }) 1 (fun x tm => !x.held && (s { c with state := 1 }).mayStart x && !tm.replays &&
       !(s { c with state := 1 }).granted x) &&
     (let u := granting 16 1 (s { c with state := 1 })
      starts u 1 (fun x _ => !x.held && u.mayStart x && u.granted x)) &&
     starts (trail (s coll)) 1 (fun x tm => !x.held && (trail (s coll)).mayStart x && tm.replays && x.major == 0xD4) &&
     starts (s { c with state := 1, held := true }) 1 (fun x _ => x.state == 1 && x.held) &&
     (let u := queueing [{ c with id := 5 }, { c with state := 1, ticket := 2, mod := 0x40 }] (placed (.nop F))
      starts u 1 (fun x _ => x.state == 1 && !u.mayStart x)) &&
     [2, 3].all (fun n => starts (s { c with state := n }) 1 (fun x tm => x.state == n && !tm.replays && !(s x).granted x) &&
       (let u := granting 16 1 (s { c with state := n })
        starts u 1 (fun x tm => x.state == n && !tm.replays && u.granted x))) &&
     (let u := s { c with state := 4 }
      (u.command? 1).any (fun x => x.state == 4 && (u.team? x.team).isSome && !u.commands.any (fun y => y.team == x.team &&
        y.group == x.group && y.engine == x.engine && decide (y.ticket < x.ticket)) &&
        (({ u with commands := u.commands.filter (fun y => y.id != 1) } : State).mirrDone x).team? x.team == u.team? x.team))) =
      true := by decide +kernel

/-- A machine whose partition 0 has one collective of one rank, of one 32-bit element, whose device number is `dev`. -/
def collective (dev : Nat) (s : State) : State :=
  { s with dram := Memory.putBytes (Memory.putBytes s.dram 0x5000 (leBytes 1 2 ++ leBytes 2 2 ++ leBytes 1 4 ++ leBytes 0 8 ++
      leBytes 0x100 8 ++ leBytes 4 8 ++ leBytes 0x6000 8)) 0x6000 (leBytes dev 8) }.modPart 0 (fun p => { p with collTable := 0x5000 })

/-- An instance whose one rank is here with its reservation, with its buffer and without it. -/
theorem witness_CommandEvents_collective :
    (let c := { waitingCommand 1 with major := 0xD4, state := 2, lit := some 0 }
     let s := fun (u : State) => granting 24 1 { queueing [c] (collective 0 u) with collWaits := [⟨0, 0, 0, 1, []⟩] }
     let meets := fun (u : State) (p : Option (List Nat) → Bool) => (u.collEntry 0 0).any (fun x => (u.collRanks 0 0 x.p).any (fun ws =>
       match ws.filterMap (fun w => u.command? w.command) with
       | d :: cs => !(d :: cs).any (fun c => !u.granted c || u.unitDown c.part (u.engineUnit c) || u.priorWrites c) &&
           p (u.collSend d x d.a)
       | [] => false))
     meets (s (mapped (placed (.nop F)))) (·.isSome) && meets (s (placed (.nop F))) (·.isNone)) = true := by decide +kernel

/-! ## The assay -/

/-- A checked team of the placed team's record. -/
def checkedTeam (stage : Nat) (runs : List (Option RunResult)) (verdict : Option Verdict) : Checked where
  part := 0
  record := 0
  asid := 0
  index := 0
  epoch := 0
  slotBase := 0
  stride := 0
  slots := 1
  slot := 0
  logBase := 0
  logSize := 0
  groups := 1
  level := 0
  stage := stage
  reason := 0
  used := 0
  entries := []
  ended := true
  lead := runs.getD 0 none
  trail := runs.getD 1 none
  third := runs.getD 2 none
  verdict := verdict

/-- A run with a store signature. -/
def ran (ss : Nat) : RunResult := ⟨0, ss, 0, [0], [], false⟩

/-- A lead that has ended; runs that agree and do not; a third run that agrees with each and with neither; a verdict with a line
to release and with none. -/
theorem witness_CheckedRunEvents :
    (let s := { team (fun tm => { tm with mode := .lead }) (exited (placed (.nop F))) with checked := [{ checkedTeam 0 [] none with ended := false }] }
     (s.team? 0).any (fun tm => (s.checkedOf tm).isSome && !(s.part tm.part).halted && tm.mode == .lead && s.mayEnd 0 tm)) = true ∧
    ([(1, [some (ran 1), some (ran 1)]), (1, [some (ran 1), some (ran 2)]), (2, [some (ran 1), some (ran 2), some (ran 1)]),
      (2, [some (ran 1), some (ran 2), some (ran 2)]), (2, [some (ran 1), some (ran 2), some (ran 3)])].all (fun x =>
      let s := { State.reset with checked := [checkedTeam x.1 x.2 none] }
      (s.checked[0]?).any (fun c => c.ended && !(s.part c.part).halted && c.verdict == none && c.stage == x.1 &&
        c.lead.isSome && c.trail.isSome && (x.1 == 1 || c.third.isSome)))) = true ∧
    ((ran 1).agrees (ran 1) = true ∧ (ran 1).agrees (ran 2) = false) := by decide +kernel

/-- A verdict with no line, and with one line, which is the one to be released whatever the free choice. -/
theorem witness_CheckedRunEvents_release :
    let c := checkedTeam 1 [some (ran 1), some (ran 1)] (some ⟨0, 2, []⟩)
    let s : State := { State.reset with checked := [c] }
    let h : HeldLine := ⟨0, 0, 0, 0, 0, 0, 0, [], none⟩
    s.releaseOne c 0 = none ∧ ({ s with heldLines := [h] }).releaseOne c 0 ≠ none := by
  refine ⟨rfl, ?_⟩
  simp [State.releaseOne, HeldLine.of, checkedTeam, Nat.mod_one]

/-- Cores with one demerit and with more whose deadline has passed; an injection that is not armed and one that is. -/
theorem witness_CheckedRunEvents_injection :
    ([1, 2].all (fun n => let s := State.reset.modCore 127 (fun c => { c with demerits := n })
      decide (127 < s.cores.length) && (s.core 127).demerits == n && decide ((s.core 127).deadline ≤ s.time))) = true ∧
    State.reset.inject.getLsbD 63 = false ∧ ({ State.reset with inject := 1 <<< 63 }).inject.getLsbD 63 = true ∧
    ((0x8000000000000000 : Dword).getLsbD 63 = true ∧ (0 : Dword).getLsbD 63 = false) := by decide +kernel

/-! ## Halts -/

/-- A publish register written without GO, with GO over a page that is present and over one that fails; EXT and its absence; a
unit of a halted partition; a watchdog that expires. -/
theorem witness_HaltEvents :
    (let go : Dword := 0x80000000
     let found := fun (s : State) => (s.modPart 0 (fun x => { x with pubCtrl := 0 })).rangePages 0 0 0 (s.part 0).pubVa.toNat 128
     !(State.reset.part 0).pubBusy && !hasBit (0 : Dword).toNat 31 && hasBit go.toNat 31 &&
     ((State.reset.coresOf 0).headD 0 == 0) && (found (mapped State.reset)).isSome && (found State.reset).isNone &&
     (0x100 : Dword).getLsbD 8 && !(0x200 : Dword).getLsbD 8 &&
     (let s := State.reset.modPart 7 (fun x => { x with halted := true })
      decide (7 < s.partitions.length) && (s.part 7).halted && decide ((s.part 7).haltIndex ≤ 1023) &&
      !(s.part 7).stopped.contains 544 && (s.unitsOf 7).contains 544) &&
     (let s := State.reset.modPart 7 (fun x => { x with halted := true, stopped := (State.reset.unitsOf 7).filter (· != 544) })
      (s.unitsOf 7).all (fun n => ((s.part 7).stopped ++ [544]).contains n)) &&
     (let s := team (fun tm => { tm with resident := 0x0400 * 2 ^ 24 }) (placed (.nop F))
      (s.team? 0).any (fun tm => decide (tm.part < s.partitions.length) && !(s.part tm.part).halted &&
        decide (0 < (s.part tm.part).watchdog) && decide ((s.part tm.part).watchdog * 2 ^ 24 ≤ tm.resident)))) = true := by decide +kernel

/-! ## Current, clocks and classes -/

/-- A change of cluster 31 after reset. -/
def lastCluster (f : Cluster → Cluster) : State := State.reset.modCluster 31 f

/-- A request that fits exactly, an urgent one, a holding that is over and a running command's; an awake pipe's slot and one with
its reservation. -/
theorem witness_ReservationAndClassEvents :
    (let r : Current := ⟨0, 96, 0, 0, true, 0, 0⟩
     let s := lastCluster (fun c => { c with requests := [{ r with urgent := false, prio := 11 }, r] })
     let h := granting 16 1 (queueing [{ waitingCommand 0 with state := 2 }] (placed (.nop F)))
     decide (31 < s.clusters.length) && (s.cluster 31).grantable == some r && (s.cluster 31).requests.any (·.urgent) &&
     ((h.cluster 0).holdings.find? (fun x => x.requester == 16 && x.command != 0 && !h.holdingOver 0 x)).isSome &&
     !(h.cluster 0).requests.any (fun x => x.requester == 16) &&
     decide (127 < s.cores.length) && decide (3 < (s.core 127).slots.length) &&
     ((lastCluster (fun c => { c with holdings := [{ r with requester := 15 }] })).cluster (clusterOf 127)).holdings.any
       (fun h => h.requester == 4 * (127 % 4) + 3)) = true := by decide +kernel

/-- A cluster that moves, empty and with a team; requests of a lease with each answer, its cancellation, notice and end; a stopped
clock before and after its ticks. -/
theorem witness_ReservationAndClassEvents_classes :
    (let moving := lastCluster (fun c => { c with moving := true, nextCls := 3 })
     let leased := fun (n : Nat) => State.reset.modPart 7 (fun x => { x with lease := n })
     let stopped := lastCluster (fun c => { c with stopped := true, stopAt := 0 })
     decide (31 < moving.clusters.length) && (moving.cluster 31).moving && !moving.teams.any (fun kt => clusterOf kt.2.core == 31) &&
     !(moving.cluster 31).boost && !(moving.cluster 31).stopped &&
     (placed (.nop F)).teams.any (fun kt => clusterOf kt.2.core == 0) &&
     !hasBit (0 : Dword).toNat 31 && State.reset.boostReason 0 1 false == 1 && (owned State.reset).boostReason 0 50001 true == 2 &&
     (leased 1).boostReason 7 1 true == 3 && State.reset.boostReason 0 50000 true == 4 && (owned State.reset).boostReason 0 50000 true == 0 &&
     hasBit (0x80000000 : Dword).toNat 31 && ((leased 2).part 7).lease != 0 && decide (7 < (leased 1).partitions.length) &&
     ((leased 1).part 7).lease == 1 && decide (((leased 1).part 7).boostEnd ≤ (leased 1).time) &&
     (stopped.cluster 31).stopped && decide ((stopped.cluster 31).stopAt + 2000 ≤ { stopped with time := 2000 }.time) &&
     !(State.reset.cluster 31).stopped && decide ({ stopped with time := 1999 }.time < (stopped.cluster 31).stopAt + 2000)) = true := by
  decide +kernel

/-- Dips just past twice the threshold and just at it, a threshold of 0, edges being withheld and not; both marks of a droop; the
margins of a cluster's last core at both ends of the guard-band. -/
theorem witness_DroopAndGuardBandEvents :
    (let c := State.reset.cluster 31
     decide (31 < State.reset.clusters.length) && c.thresh != 0 && decide (2 * c.thresh < 81) && decide (80 ≤ 2 * c.thresh) && c.edges == 0 &&
     ((lastCluster (fun c => { c with edges := 1 })).cluster 31).edges != 0 &&
     ((lastCluster (fun c => { c with thresh := 0 })).cluster 31).thresh == 0 &&
     ((lastCluster (fun c => { c with droop := 1 })).cluster 31).droop == 1 &&
     ((lastCluster (fun c => { c with droop := 2 })).cluster 31).droop == 2 && c.halfLeft == 0 &&
     [0, 30, 300].all (fun (m : Int) =>
       let at_ := fun (p : Nat) => leastMargin (([(127, m), (127, m + 1)].filter (fun (x : Nat × Int) => x.1 == p)).map (·.2))
       leastMargin (((clusterCores 31).filter (fun p => (State.reset.core p).inUse)).filterMap at_) == some m &&
       (clusterCores 31).all (fun p => !(State.reset.core p).exhausted && (at_ p).all (0 ≤ ·) && decide (p < State.reset.cores.length)))) =
      true := by decide +kernel

/-! ## The platform -/

/-- No partition is halted after reset. -/
theorem reset_not_halted (p : Nat) : (State.reset.part p).halted = false := by
  rcases Nat.lt_or_ge p 8 with h | h
  · revert p; decide +kernel
  · have : State.reset.partitions[p]? = none := List.getElem?_eq_none h
    rw [State.part, this]; rfl

/-- A reconfiguration with a team of the partition and without any. -/
theorem witness_PartitionAndMaintenanceEvents :
    (∀ p, (State.reset.part p).halted = false) ∧ State.reset.teams = [] ∧ State.reset.partitions.length = 8 ∧
    (∀ p, (State.reset.part p).halted = false) ∧ ((placed (.nop F)).teams.any (fun kt => [0, 7].contains kt.2.part) = true) ∧
    ((List.range 8).all (fun p => !State.reset.numbersMove p)) = true :=
  ⟨reset_not_halted, rfl, rfl, reset_not_halted, by decide +kernel, by decide +kernel⟩

/-- The team's machine has the partitions of the machine after reset. -/
theorem witness_PartitionAndMaintenanceEvents_halted : (placed (.nop F)).partitions = State.reset.partitions := rfl

/-- A configuration of the first four clusters of each die and every piece. -/
def wholeConfig : PartitionConfig := ⟨[0, 1, 2, 31], 128, 128, [(1, 255)], 7, [0, 1, 2, 63], []⟩

/-- Partitions that take a configuration and that do not. -/
theorem witness_PartitionAndMaintenanceEvents_configure :
    (State.reset.quiet 7 && State.reset.mayConfigure 7 wholeConfig && !State.reset.mayConfigure 7 { wholeConfig with clusters := [0, 1, 2] } &&
      !(placed (.nop F)).quiet 0) = true := by decide +kernel

/-- A machine whose management core runs Gritus. -/
def opened (s : State) : State := { s with mgmt := { s.mgmt with jumped := true } }

/-- A firmware update up to the end of its image; the last slice of the last die, free and with a held line on it. -/
theorem witness_PartitionAndMaintenanceEvents_maintenance :
    ((opened State.reset).mgmt.jumped && decide (0xFFFFF8 % 8 = 0) && decide (0xFFFFF8 + 8 ≤ 0x1000000) &&
      !State.reset.retired.contains (1, 47) && decide ((State.reset.retired.filter (fun k => k.1 == 1)).length < 8) &&
      !State.reset.scrubsSlice 1 47 && State.reset.heldLines.isEmpty && (State.reset.slices 1 != []) &&
      (let h : HeldLine := ⟨0, 0, 0, 0, 0, 0, 0, [], none⟩
       isDram h.pa && dieOfPa h.pa == 0 && ({ State.reset with heldLines := [h] }).homeSlice h.pa == 0)) = true := by decide +kernel

/-- Feeds that are the device's and another; blocks that carry the cut and that do not; ports in each mode with both ages; a
command whose device has no route; packets that arrive and that do not, the last of their command and not. -/
theorem witness_PartnerAndFabricEvents :
    ((0#2).toNat = State.reset.health.feed ∧ (1#2).toNat ≠ State.reset.health.feed) ∧
    (let s : State := { State.reset with mirrors := [(0, ⟨[(5, 9)], []⟩)] }
     let m := s.mirror (bits (s.part 0).mirrCtl.toNat 17 0) 0
     Map.get? m.tags (5 + 0) = some 9 ∧ Map.get? m.tags (5 + 1) ≠ some 9) ∧
    (State.reset.ports[11]? = some ⟨0, 0, 0⟩ ∧ ({ State.reset with ports := List.replicate 12 ⟨1, 0, 0⟩ }).ports[11]? = some ⟨1, 0, 0⟩ ∧
      0 + 10000000 ≤ ({ State.reset with time := 10000000 }).time) := by decide +kernel

/-- A packet for a device, on the escape channel. -/
def packetOn (command : Nat) : Packet := ⟨command, 0, command, 1, true, 0, 0, []⟩

/-- Where every port is up the first packet of the escape channel arrives; where every port has been removed none does, and no
device has a route. -/
theorem witness_PartnerAndFabricEvents_packets :
    let up : State := { State.reset with packets := [packetOn 1], commands := [{ waitingCommand 1 with state := 2, dest := some 1 }] }
    let down : State := { up with ports := List.replicate 12 ⟨3, 0, 0⟩ }
    up.mayArrive (packetOn 1) = true ∧ down.mayArrive (packetOn 1) = false ∧ down.routed 1 = false ∧
    (up.modPart 0 (fun p => { p with escapeWait := 0 })).mayEscape (packetOn 1) = true := by
  have every {s : State} {q : Port} (h : s.ports = List.replicate 12 q) (ps : List Nat) (ok : Nat → Bool) :
      s.anyPort ps ok = ps.any (fun _ => ok q.mode) := by
    simp only [State.anyPort, h, List.getElem?_replicate, Nat.mod_lt _ (show 12 > 0 by decide), if_true, Option.map_some,
      Option.getD_some]
  refine ⟨?_, ?_, ?_, rfl⟩
  · rw [State.mayArrive, every (q := ⟨0, 0, 0⟩) rfl]; rfl
  · rw [State.mayArrive, every (q := ⟨3, 0, 0⟩) rfl]; rfl
  · rw [State.routed, every (q := ⟨3, 0, 0⟩) rfl]; simp

/-- A rank whose device number is 0 or 1 lies on another device in one of the two cases, whatever this device's number. -/
theorem witness_PartnerAndFabricEvents_rank :
    ∃ dev, dev < 2 ∧ ∃ x, (collective dev State.reset).collEntry 0 0 = some x ∧ 0 < x.p ∧
      (collective dev State.reset).rankAway x 0 = true := by
  have entry : ∀ dev, dev < 2 → ∃ x, (collective dev State.reset).collEntry 0 0 = some x ∧ 0 < x.p ∧
      (collective dev State.reset).rankDevice x 0 = dev := by decide +kernel
  by_cases h : Config.deviceNumber % 2 ^ 18 = 0
  · obtain ⟨x, hx, hp, hd⟩ := entry 1 (by decide)
    exact ⟨1, by decide, x, hx, hp, by
      rw [State.rankAway, hd, h]; rfl⟩
  · obtain ⟨x, hx, hp, hd⟩ := entry 0 (by decide)
    exact ⟨0, by decide, x, hx, hp, by simp [State.rankAway, hd]; omega⟩

/-- A partition whose host memory is all of the first die. -/
def hosting (s : State) : State :=
  s.modPart 0 (fun p => { p with config := { p.config with hdm := [(0, 0x002800000000)] } })

/-- Accesses of the host at the last bytes of its range, to a register, past the range, and an atomic of each size. -/
theorem witness_HostAccesses :
    (let s := hosting State.reset
     s.hostReach 0 0x0027FFFFFFF8 8 && isDram 0x0027FFFFFFF8 && homeOf 0x0027FFFFFFF8 != .registers && !s.hostReach 0 0x0027FFFFFFF9 8 &&
     !State.reset.hostReach 0 0 8 && s.hostReach 0 0x0027FFFFFFF0 16 && s.hostReach 0 0x0027FFFFFFFC 4 &&
     homeOf 0xF000FFFFFFF8 == .registers && s.hostReach 0 0xF000FFFFFFF8 8) = true ∧
    ((0x10 : Nat) ≠ 0x11 ∧ 0x10 % 8 = 0 ∧ 0xFF8 < 0x1000 ∧ 0x1000 ≤ 0x1000) := by decide +kernel

/-- Before and after the jump; sessions that are begun and established. -/
theorem witness_SpdmEvents :
    State.reset.mgmt.jumped = false ∧ (opened State.reset).mgmt.jumped = true ∧
    (let s : State := { opened State.reset with session := some ⟨0, true, 0⟩ }
     s.mgmt.jumped = true ∧ s.session = some ⟨0, true, 0⟩) ∧
    (∀ x, (opened State.reset).session = some x → x.established = false) := by
  refine ⟨rfl, rfl, ⟨rfl, rfl⟩, ?_⟩
  intro x h
  cases h

/-- Requests that load and that zeroise, for a slot of the partition, one of another, and one of no die; a malformed one. -/
theorem witness_SpdmEvents_keys :
    (let s : State := (State.reset.modPart 0 (fun p => { p with config := wholeConfig }))
     let request := fun (op die slot zero : Byte) (n : Nat) => [op, die, slot, zero] ++ List.replicate n 0
     let load := request 1 1 255 0 64
     let erase := request 2 1 255 0 0
     field load 0 1 == 1 && load.length == 68 && field load 3 1 == 0 && s.slotStatus 0 (field load 1 1) (field load 2 1) == 0 &&
     (Map.get? s.keys (256 * 1 + 255)).isNone && (Map.get? ({ s with keys := [(511, 1)] }).keys (256 * 1 + 255)).isSome &&
     field erase 0 1 == 2 && erase.length == 4 && s.slotStatus 0 1 254 == 3 && s.slotStatus 0 2 255 == 2 &&
     field (request 1 0 0 1 64) 3 1 != 0) = true := by decide +kernel

/-- A partition whose scrub is in a phase, has zeroed some units, and holds two keys, a core, a piece and a range. -/
def scrubbed (phase units : Nat) : State :=
  State.reset.modPart 7 (fun x => { x with
    scrubOn := true, scrubDone := false, scrubPhase := phase, scrubUnits := units
    scrubHeld := ⟨[(0, 0), (1, 0)], [127], [(255, 1)], [(0, 2)]⟩ })

/-- A GO after a scrub, after a reset and during one; each phase with a unit left, its last one, and none. -/
theorem witness_ScrubEvents :
    (let go : Dword := 0x8000000000000000
     go.getLsbD 63 && decide (7 < State.reset.partitions.length) && (State.reset.part 7).scrubDone &&
     (let s := State.reset.modPart 7 (fun x => { x with scrubDone := false, scrubQuar := true })
      (s.part 7).scrubQuar) &&
     !((scrubbed 0 0).part 7).scrubDone && !((scrubbed 0 0).part 7).scrubQuar &&
     [(1, 24), (2, 4), (3, 2)].all (fun pn =>
       let at_ := fun (k : Nat) => (scrubbed pn.1 k).part 7
       (at_ 0).scrubOn && decide ((at_ (pn.2 - 1)).scrubUnits < (at_ 0).scrubHeld.work pn.1) &&
       !decide ((at_ pn.2).scrubUnits < (at_ pn.2).scrubHeld.work pn.1)) &&
     !decide (((scrubbed 0 0).part 7).scrubUnits < ((scrubbed 0 0).part 7).scrubHeld.work 0) &&
     (let x := (scrubbed 3 1).part 7
      unitOf x.scrubHeld.ranges 1 == some 0x10000 && isDram 0x10000) &&
     ((scrubbed 2 3).part 7).scrubHeld.pieces[3 / 4]? == some (255, 1) && ((scrubbed 1 23).part 7).scrubHeld.cores[23 / 24]? == some 127) =
      true := by decide +kernel

/-- The last phase with its units zeroed, and a quarantined scrub. -/
theorem witness_ScrubInterrupt :
    (let x := (scrubbed 3 2).part 7
     x.scrubOn && x.scrubPhase == 3 && decide (x.scrubHeld.rangeUnits ≤ x.scrubUnits) &&
     ((State.reset.modPart 7 (fun x => { x with scrubQuar := true })).part 7).scrubQuar) = true := by decide +kernel

/-- The last partition and the last core stand in the machine; a scrub that holds its resources. -/
theorem witness_Resets : 7 < State.reset.partitions.length ∧ 127 < State.reset.cores.length ∧
    ((scrubbed 3 1).part 7).scrubHolds = true := by decide +kernel

/-- The last doubleword of the flash after the jump; a seal that is busy; a measurement register's extension; a core in use, one
that is fenced and one that a scrub holds. -/
theorem witness_ManagementEvents :
    (let busy : State := { State.reset with mgmt := { State.reset.mgmt with sealState := 1 } }
     let w : Dword := 0x8000000000000007
     (opened State.reset).mgmt.jumped && decide (0x21FFFFF8 % 8 = 0) && decide (0x20000000 ≤ 0x21FFFFF8) && decide (0x21FFFFF8 < 0x22000000) &&
     !State.reset.mgmt.jumped && busy.mgmt.sealState == 1 && busy.mgmt.imageKey == none && w.getLsbD 63 &&
     (State.reset.mgmt.meas[bits w.toNat 2 0]?).isSome && (State.reset.mgmt.meas[7]?).isSome &&
     decide (bits (127 : Dword).toNat 6 0 < State.reset.cores.length) &&
     State.reset.partitions.all (fun p => !p.scrubHeld.cores.contains 127) &&
     !(State.reset.core 127).fenced && !(State.reset.core 127).deactivated &&
     ((State.reset.modCore 127 (fun c => { c with fenced := true })).core 127).fenced) = true := by decide +kernel

/-- The management core at an address of its ROM. -/
def atRom (pc : Nat) (x : Map Dword) : State :=
  { State.reset with mgmt := { State.reset.mgmt with pc := BitVec.ofNat 64 pc, x := x } }

/-- The first instruction of the ROM; a fetch past memory; an addition of an immediate; a store to the flash before the jump. -/
theorem witness_ManagementCoreExecutes :
    (let addi := atRom (4 * 3) []
     let store := atRom (4 * 31) [(10, 0x20000000)]
     (match (atRom 0 []).rvFetch with | .ok (w, n) => (match (atRom 0 []).rvExec w n with | .ok (_, pc) => decide (pc < 2 ^ 64) | _ => false) | _ => false) &&
     (match (atRom 0x40000000 []).rvFetch with | .error _ => true | _ => false) &&
     (match addi.rvFetch with
      | .ok (w, n) => n == 4 && bits w 6 0 == 0x13 && bits w 14 12 == 0 && bits w 11 7 != 0 && decide (addi.mgmt.pc.toNat + 4 < 2 ^ 64)
      | _ => false) &&
     (match store.rvFetch with
      | .ok (w, n) => bits w 6 0 == 0x23 && bits w 14 12 == 3 && !store.mgmt.jumped &&
          (let a := wrap 64 (store.mgmt.reg64 (bits w 19 15) + sext (bits w 31 25 * 32 + bits w 11 7) 12)
           decide (0x20000000 ≤ a) && decide (a < 0x22000000)) && (match store.rvExec w n with | .error _ => true | _ => false)
      | _ => false)) = true := by decide +kernel

/-! ## The other clauses of the statements -/

/-- MOVX that names an empty register, and one that names register 256; MOVXW of an index past the file. -/
theorem witness_MovesExecute_traps :
    sees (.movx F) (group (fun g => { g with empty := [(3, 1)] }) (withReg 0 3 (placed (.movx F)))) (fun v =>
      !badIndex v 1 (v.a 0) && blocked v.g 1#32 [(v.a 0, false)]) = true ∧
    [Instr.movx F, .movxw F].all (fun i => trapsAt i (withReg 0 256 (placed i))
      (fun v l => if badIndex v 1 (v.a l) then Except.error (1, 0) else .ok ()) (1, 0)) = true := by decide +kernel

/-- What makes a thread trap at a fixed-latency instruction: an enabled flag (the sum with a signalling NaN), and a uniform
destination whose threads have different values. -/
theorem witness_Executes_traps :
    trapsAt (.fadd F) (withReg 0 0x7FA00000 (placed (.fadd F))) (fun v => v.outcome (fun l =>
      fOut v (fAdd (formFmt F) 0 0 false (flushes v.fpMode (formFmt F)) (fSrc v (v.a l)) (fSrc v (fB v l))))) (5, 256 + 1) = true ∧
    (let i := Instr.mov { F with d := 1 }
     let s := group (fun g => { g with regs := [(0, (List.range 32).map (BitVec.ofNat 32))] })
       (block (fun lb => { lb with mapp := lb.mapp - 8, mapc := lb.mapc - 8 }) (placed i))
     sees i (handled s) (fun v => (v.handler 0).isSome &&
       match v.outcome (fun l => { regs := writesOf 1 (v.a l) 1 }) 0 with | .error c => c == (3, 1) | .ok _ => false)) = true := by
  decide +kernel

/-- A machine whose current instruction has a major without a row. -/
theorem witness_EveryInstructionAnswers :
    (let s := group (fun g => { g with clause := g.clause.map (fun r => { r with insns := [[0b00_11111111_0_111_000000_000000_000000]] }) })
       (placed (.nop F))
     s.agenda.isEmpty && !s.stalled && s.current.any (fun ws => match decode ws with | .error _ => true | .ok _ => false)) = true := by
  decide +kernel

/-- Fields that no form takes. -/
theorem witness_DecodedFields_forms :
    4 < ({ F with mod := 5 } : Fields).mod.toNat % 8 ∧ 22 < ({ F with minor := 23 } : Fields).minor.toNat % 32 ∧
    22 < ({ F with c := 23 } : Fields).c.toNat ∧ ({ F with lit := some 0 } : Fields).lit.isSome = true ∧
    (Instr.nop { F with lit := some 0 }).form = none ∧ (∀ f, instrOf 255 f = none) := by
  refine ⟨by decide, by decide, by decide, rfl, rfl, fun _ => rfl⟩

/-- A thread of a callee, out of trap mode and in it. -/
theorem witness_TrapEntry_callee :
    ((inCallee (placed (.trap F))).group? 0 0).any (fun g => decide (31 < g.threads.length) && g.inCall 31 && !(g.thread 31).trapMode) = true ∧
    ((group (fun g => g.modThread 31 (fun th => { th with trapMode := true })) (inCallee (placed (.trap F)))).group? 0 0).any (fun g =>
      g.inCall 31 && (g.thread 31).trapMode) = true := by decide +kernel

/-- The private bytes and the slice of a callee; a window of another core of the cluster, of the team's group and of none; the
same in a replaying run; a slice access past the slice, across its end and past the backing store. -/
theorem witness_AddressChecks_places :
    (let i := Instr.lds F
     let peer : Team → Team := fun tm => { tm with sharing := some 7, lb := { tm.lb with win := 64 } }
     let s := team peer (withArrays (placed i))
     let two := fun (g : Option Nat) => { s with teams := s.teams.flatMap (fun kt => [kt, (1, { kt.2 with core := 1, sharing := g })]) }
     let there := fun (s : State) (tm : Team) => (s.coreAt (clusterOf tm.core) 1).bind s.windowAt
     sees i (inCallee s) (fun v => v.g.inCall 0) && sees i s (fun v => v.team.lb.win != 0 && s.position v.team.core == 0) &&
     sees i (withArrays (placed i)) (fun v => !v.g.inCall 31 && v.team.ownsPad 63 1) &&
     sees i (placed i) (fun v => v.team.lb.win == 0) &&
     sees i (two (some 7)) (fun v => (there (two (some 7)) v.team).any (fun ko => ko.2.sharing == v.team.sharing) && !v.team.replays) &&
     sees i (two none) (fun v => (there (two none) v.team).any (fun ko => ko.2.sharing != v.team.sharing)) &&
     sees i (team (fun tm => { tm with mode := .trail }) s) (fun v => v.team.replays) &&
     (let k := block (fun lb => { lb with slice := 1, backw := 64 }) (placed i)
      sees i k (fun v => decide (64 * v.team.lb.slice + v.team.lb.backw < 97 + 32) && decide (32 + 32 ≤ 64 * v.team.lb.slice) &&
        decide (64 * v.team.lb.slice < 96 + 32) && decide (96 + 32 ≤ 64 * v.team.lb.slice + v.team.lb.backw)))) = true := by
  decide +kernel

/-- A prefetch whose page is in the translation cache, and lines that it does not bring in: with an error mark, and without R. -/
theorem witness_OrderingInstructionsIssue_dropped :
    (let s := mapped State.reset
     let hit := s.translated 0 0 0 0
     (hit.tlbHit (hit.translationSlice 0 0 0) 0 0 0).isSome && (s.tlbHit (s.translationSlice 0 0 0) 0 0 0).isNone &&
     !fetches 0 { s with errors := [0x40000000 >>> 7] } && fetches 0 s) = true := by decide +kernel

/-- Transfers to an odd address, whose threads trap. -/
theorem witness_TransfersExecute_misaligned :
    (let check := fun (target : View → Nat → Nat) (v : View) (l : Nat) =>
       if target v l % 4 = 0 ∧ target v l < 2 ^ 52 then Except.ok () else .error (6, target v l)
     [Instr.brx F, .ret F, .callx F].all (fun i => trapsAt i (withReg 0 2 (placed i)) (check (fun v l => v.a l)) (6, 2)) &&
     (let f := { F with lit := some 2 }
      [Instr.bra f, .call f, .brc { f with minor := 2 }].all (fun i =>
        sees i (handled (placed i)) (fun v => v.lanes.has 0 && (v.handler 0).isSome && v.offsetTarget % 4 != 0)))) = true := by decide +kernel

/-- A TST that stands between two rows, also after the last group has ended, and one at its last row. -/
theorem witness_MatrixInstructionsExecute_rows :
    (let i := Instr.tst F
     let at_ := fun (n : Nat) => seqs (fun q => { q with row := n }) (tiled (placed i))
     sequences i (at_ 5) (fun tm => tm.seq.row == 5 && tm.seq.res == 2) && sequences i (at_ 63) (fun tm => tm.seq.row == 63) &&
     sequences i (exited (at_ 5)) (fun tm => tm.liveGroups == 0) &&
     sequences i (seqs (fun q => { q with res := 1 }) (at_ 5)) (fun tm => tm.seq.row != 0 && tm.seq.res == 1)) = true := by decide +kernel

/-- The placed machine before a clause whose code is in core 0's instruction cache and whose page is in no translation cache, and
with the walk of it made; a free slot whose sleeping pipe a clause wants, one whose clause is not vector code. -/
theorem witness_IssueAndLandingEvents_issue :
    (let s := before (.nop F)
     let bare := idle (placed (.nop F))
     !bare.slotBusy 0 0 && (bare.slotChoice 0 0).any (fun c => pending c == 0 && c.entry.pc % 4 == 0 &&
       !bare.allKnown ⟨0, 0, 0⟩ 0 0 0 (bare.clauseMisses 0 0 c.entry.pc
         (bare.decodeClause c.tm.part 0 c.g.asid c.entry.pc false (fun r => c.tm.shape c.gi r == 0)))) &&
     (s.slotChoice 0 0).any (fun c => s.allKnown ⟨0, 0, 0⟩ 0 0 0 (s.clauseMisses 0 0 c.entry.pc
       (s.decodeClause c.tm.part 0 c.g.asid c.entry.pc false (fun r => c.tm.shape c.gi r == 0)))) &&
     (let sleepy := s.modCore 0 (fun c => { c with cycles := 512 })
      (sleepy.core 0).sleeps 0 && ((sleepy.candidates 0 0).filter (fun c => sleepy.vectorAt c.tm c.g c.entry)).length == 1) &&
     !(s.core 0).sleeps 0) = true := by decide +kernel

/-- Words at which check 8, 10, 11 and 12 of R26 stop, and one that passes; headers at which checks 2 to 6 do. -/
theorem witness_IssueAndLandingEvents_checks :
    (let fetched := fun (ws : List Word) (cls : Nat) (last : Bool) (absent : Bool) =>
       (coded ws (placed (.nop F))).fetchInsn 0 0 0 0x1000 1 cls last (fun _ => absent)
     let format := fun (x : Except ClauseFault (List Word)) (n : Nat) => match x with | .error (.format _ c _) => c == n | _ => false
     let illegal := fun (x : Except ClauseFault (List Word)) => match x with | .error (.illegal ..) => true | _ => false
     let add := encode (.iadd F)
     let bra := encode (.bra { F with lit := some 0 })
     format (fetched [0xC9181578] 0 true false) 8 && illegal (fetched [0b00_11111111_0_111_000000_000000_000000] 0 true false) &&
     format (fetched add 1 true false) 10 && format (fetched bra (classOf (Instr.bra F).major) false false) 11 &&
     illegal (fetched (encode (.iadd { F with minor := 4 })) 0 true false) && illegal (fetched add 0 true true) &&
     (match fetched add 0 true false with | .ok ws => ws == add | _ => false) &&
     (match fetched bra (classOf (Instr.bra F).major) true false with | .ok _ => true | _ => false)) = true ∧
    (let fails := fun (h : Word) (n : Nat) =>
       match (coded [h] (placed (.nop F))).decodeClause 0 0 0 0x1000 false (fun _ => false) with
       | .error (.format _ c _) => c == n
       | _ => false
     fails 0 2 && fails 0xC0000000 3 && fails (headerOf 7) 4 && fails (headerOf 0 ||| 0x20000) 5 && fails (headerOf 6) 6) = true := by
  decide +kernel

/-- An element of an access of a space: a load, a store, an atomic and a record's. -/
def localOp (space kind : Nat) (quiet : Bool) : LocalOp := ⟨1, 1, 0, 1, space, kind, 10, 0, quiet, 0, []⟩

/-- The places of an element's bytes: the team's own, a piece, a window of the team and one of no team; a replaying run. -/
theorem witness_IssueAndLandingEvents_elements :
    [(1, 0), (2, 1), (3, 2), (4, 1)].all (fun x => (localOp x.1 x.2 false).space != 5) = true ∧ (localOp 5 1 true).space = 5 ∧
    ((placed (.nop F)).team? 0).any (fun tm => !tm.replays) = true ∧
    ((team (fun tm => { tm with mode := .third }) (placed (.nop F))).team? 0).any (fun tm => tm.replays) = true ∧
    ((placed (.nop F)).team? 9).isNone = true := by decide +kernel

/-- A clause that goes on, one that ends after its last instruction and one in which no thread takes part any more; threads that
exit, that return from their handler, that park on a barrier with others and alone, and that go on; team writes and a yield. -/
theorem witness_ClauseCompletion :
    (let s := placed (.nop F)
     let run := fun (f : ClauseRun → ClauseRun) => group (fun g => { g with clause := g.clause.map f }) s
     let has := fun (s : State) (p : Group → ClauseRun → Bool) =>
       (s.team? 0).isSome && (s.group? 0 0).any (fun g => g.threads.length == 32 && g.clause.any (p g))
     has (run (fun r => { r with insns := r.insns ++ r.insns })) (fun _ r => decide (r.idx < r.insns.length) && r.active != 0) &&
     has s (fun _ r => decide (r.insns.length ≤ r.idx)) && has (run (fun r => { r with active := 0 })) (fun _ r => r.active == 0) &&
     has (run (fun r => { r with exited := 1, tret := 2, parkOn := [(2, 7)], targets := [(3, 0x2000)], active := 31, yielded := true, teamWrites := [(0, 3, 0)] }))
       (fun _ r => r.exited.getLsbD 0 && r.tret.getLsbD 1 && Map.get? r.parkOn 2 == some 7 && Map.get? r.targets 3 == some 0x2000 &&
         r.active.getLsbD 4 && !r.active.getLsbD 31 && r.yielded && !r.teamWrites.isEmpty) &&
     has (group (fun g => { g with kmask := modNth (fun _ => 1) 7 g.kmask, threads := g.threads.map (fun th => { th with parked := some 7 }) }) s)
       (fun g _ => g.kmask.getD 7 0 != 0 && (g.kmask.getD 7 0).lanes.all (fun m => (g.thread m).parked == some 7))) = true := by
  decide +kernel

/-- A store whose home a scrub has taken, before its translation and after it; a load of the same; each atomic operation. -/
theorem witness_MemoryEvents_away :
    (let scrubbing := fun (s : State) => s.modPart 7 (fun x => { x with scrubDone := false, scrubOn := true, scrubHeld := ⟨[], [], [], [(0x40000000, 1)]⟩ })
     let st := scrubbing (accessing (.st { F with minor := 8 }) 0x4F .unchecked)
     storing st (fun u _ _ _ e => e.xl.isSome && u.refused e.pa) &&
     (let s := scrubbing (accessing (.ld F) 0x4F .unchecked)
      (s.team? 0).any (fun tm => (s.group? 0 0).any (fun g => g.loads.any (fun o => o.elems.any (fun e =>
        (s.loadReady 0 0 tm g o e).isSome && e.xl.isSome && s.refused e.pa)))))) = true ∧
    [(14, 0), (10, 0), (10, 1), (12, 2), (10, 3), (10, 4), (10, 5), (10, 6), (10, 7)].all (fun (x : Nat × Nat) => decide (x.2 < 8)) = true := by
  decide +kernel

/-- A line that streams, one that does not beside one that does, and one that does not by itself. -/
theorem witness_MemoryEvents_replaced :
    (let l : Nat → Bool → L1Line := fun k streaming => ⟨128 * k, 0, 0x40000000 + 128 * k, true, streaming, 15#4, List.replicate 128 0⟩
     let at_ := fun (ls : List L1Line) => State.reset.modCore 0 (fun c => { c with l1 := ls })
     let ahead := fun (s : State) (x : L1Line) => !x.streaming && (s.core 0).l1.any (·.streaming)
     ((at_ [l 1 false, l 2 true]).core 0).l1Line 0 128 == some (l 1 false) && ahead (at_ [l 1 false, l 2 true]) (l 1 false) &&
     !ahead (at_ [l 1 false, l 2 true]) (l 2 true) && !ahead (at_ [l 1 false]) (l 1 false)) = true := by decide +kernel

/-- A request for a walk: refused by a halt, joined, behind a full queue, and started; the askers of a walk that has been made. -/
theorem witness_TranslationAndFaultEvents_askers :
    (let s := mapped (placed (.nop F))
     let slice := s.translationSlice 0 0 0
     let here := fun (w : Walk) => w.slice == slice && w.part == 0 && w.asid == 0 && w.va >>> 16 == 0
     let full := { s with walks := List.replicate 66 ⟨9, slice, 0, 1, 0, []⟩ }
     ((s.modPart 0 (fun x => { x with halted := true })).part 0).halted && !(s.part 0).halted &&
     ({ s with walks := [⟨9, slice, 0, 0, 0xFFFF, []⟩] } : State).walks.any here && !full.walks.any here &&
     decide (66 ≤ (full.walksOf slice).length) && decide ((s.walksOf slice).length < 66) && (s.team? 0).isSome &&
     decide ((⟨2, 0, 0⟩ : Asker).kind < 5) && (⟨5, 0, 0⟩ : Asker).kind == 5 && (⟨6, 0, 0⟩ : Asker).kind == 6) = true := by
  decide +kernel

/-- The tables of `mapped` with one page of 64 KiB in place of the first GiB. -/
def paged (s : State) : State :=
  { s with
    dram := Memory.putBytes (Memory.putBytes (Memory.putBytes s.dram 0x20000 (leBytes 0x30001 8)) 0x30000 (leBytes 0x31001 8))
      0x31000 (leBytes 0x4000004F 8) }

/-- AFENCE and PUBLISH before their pages are known and after it, behind a fence, with a home that has stopped, and behind the
release of their run. -/
theorem witness_TranslationAndFaultEvents_ranges :
    (let bare := mapped (placed (.nop F))
     let k : Asker := ⟨4, 0, 100⟩
     let p : Nat → Pending := fun kind => ⟨100, 0, 1, kind, BitVec.allOnes 32, 1, 31, 31, [(0, 0, 1)], 0⟩
     let known := fun (s : State) => { s with answers := [⟨k, 0, 0⟩] }
     let waits := fun (s : State) (tm : Team) (g : Group) (kind : Nat) => s.before 0 0 tm g (p kind) ||
       (p kind).lanes.lanes.any (fun l => g.held 100 l (if kind = 1 then 3 else 2)) || s.unitDown tm.part (s.coreUnit tm) ||
       (kind == 2 && s.releasing tm)
     let down := fun (s : State) => s.modPart 0 (fun x => { x with halted := true, stopped := (List.range 1022).map (· + 1) })
     [1, 2].all (fun kind =>
       awaits bare (p kind) (fun s tm g => !waits s tm g kind && !s.allKnown k 0 0 0 (p kind).pages) &&
       awaits (known bare) (p kind) (fun s tm g => !waits s tm g kind && s.allKnown k 0 0 0 (p kind).pages) &&
       awaits (fencing bare) (p kind) (fun s tm g => waits s tm g kind)) &&
     awaits (known (down bare)) (p 2) (fun s tm g => !waits s tm g 2 && s.rangeDown 0 (s.ranged tm (p 2))) &&
     awaits ({ known (down (paged bare)) with registrations := [⟨0x40000000, 32, 0⟩] }) (p 1) (fun s tm g => !waits s tm g 1 &&
       s.rangeDown 0 ((s.ranged tm (p 1)).filter (fun r => s.purges 0 r.1 r.2))) &&
     awaits { bare with heldLines := [⟨0, 0, 0, 0, 0, 0, 0, [], none⟩] } (p 2) (fun s tm g => waits s tm g 2)) = true := by
  decide +kernel

/-- A device whose image did not pass holds its dies in reset. -/
theorem witness_SchedulerEvents_held :
    ({ State.reset with mgmt := { State.reset.mgmt with bootStatus := 0x20 } } : State).diesHeld = true ∧
    State.reset.diesHeld = false := by decide +kernel

/-- A team whose groups have not ended but which has diverged. -/
theorem witness_SchedulerEvents_diverged :
    ((team (fun tm => { tm with mode := .trail, diverged := true }) (placed (.nop F))).team? 0).any (fun tm => tm.diverged) = true := by
  decide +kernel

/-- An entry and a completion whose frame lies at a home that has stopped; a completion with a page that fails. -/
theorem witness_SharingAndGateEvents_frames :
    (let down := fun (s : State) => s.modPart 0 (fun x => { x with halted := true, stopped := (List.range 1022).map (· + 1) })
     let wait := { entered with waiting := true, frameSize := 64 }
     let s := down (calling wait .unchecked (mapped (placed (.nop F))))
     let done := fun (c : GateCall) (s : State) =>
       calling c .unchecked (group (fun g => { g with threads := g.threads.map (fun th => { th with status := some 0 }) }) s)
     let lost := fun (s : State) (c : GateCall) => (pageChunks c.frame c.frameSize).find? (fun k => (s.pinned 0 0 c.asid k.1).isNone)
     (s.team? 0).any (fun tm => !s.stopped tm && s.frameDown 0 0 0 0 1 && (s.pinRead 0 0 0 0 1).any (fun m => freeFrame m 1 == some 0)) &&
     (lost (done entered (placed (.nop F))) entered).isSome && (lost (done entered (mapped (placed (.nop F)))) entered).isNone &&
     (let u := down (done entered (mapped (placed (.nop F))))
      (lost u entered).isNone && u.frameDown 0 0 0 0 0x9000)) = true := by decide +kernel

/-- A copy of a row that two pieces make, one whose page is unknown, one that is not present, one that may not be written and one
whose home has stopped; a resident run of its command. -/
theorem witness_CommandEvents_rows :
    (let c := { waitingCommand 0 with state := 2 }
     let row : Piece := ⟨0, 0x7F, 1, 0, 2⟩
     let k : Asker := ⟨3, 1, 0⟩
     let at_ := fun (va : Nat) (s : State) => { s with answers := [⟨k, 0, va >>> 16⟩] }
     let s := queueing [c] (withArrays (mapped (placed (.nop F))))
     let down := fun (s : State) => s.modPart 0 (fun x => { x with halted := true, stopped := (List.range 1022).map (· + 1) })
     let onto := fun (va : Nat) => { row with dst := va }
     (cutRow 3 row).length == 2 && (s.team? 0).any (fun tm => tm.mode == .unchecked && s.pieceVas tm c row == [0x7F] &&
       !s.allKnown k 0 0 0 (s.pieceVas tm c row) &&
       (at_ 0 s).allKnown k 0 0 0 (s.pieceVas tm c row) && ((at_ 0 s).pieceFault tm c row).isNone && !(at_ 0 s).pieceDown tm c row &&
       (match s.pieceFault tm c (onto 0x80000000) with | some (_, _, .notPresent _) => true | _ => false) &&
       (match s.pieceFault tm c (onto 0x40000000) with | some (_, _, .violation) => true | _ => false) &&
       (down s).pieceDown tm c row && ((down s).pieceFault tm c row).isNone)) = true := by decide +kernel

/-- What a command of each engine meets when it starts: a stopped clock, a run that releases, a collective of a replaying run. -/
theorem witness_CommandEvents_starts :
    (let c := { waitingCommand 0 with state := 1 }
     let s := fun (x : Command) => queueing [x] (placed (.nop F))
     let stopped := (s c).modCluster 0 (fun x => { x with stopped := true, stopAt := 0 })
     let trail := team (fun tm => { tm with mode := .trail })
     stopped.clockStopped 0 && !(s c).clockStopped 0 && (s c).commandMode c == some .unchecked && (trail (s c)).commandMode c == some .trail &&
     ((s c).team? 0).any (fun tm => ({ s c with heldLines := [⟨0, 0, 0, 0, 0, 0, 0, [], none⟩] } : State).releasing tm) &&
     ((s { c with state := 3 }).mirrWaits c).isNone &&
     ((team (fun tm => { tm with save := 1 }) (s c)).team? 0).any (fun tm => tm.save != 0)) = true := by decide +kernel

/-- Rows that a command asks for: none after a patch of 0, one, and those of a descriptor; operands of each that fail. -/
theorem witness_CommandEvents_plans :
    (let c := { waitingCommand 0 with minor := 5, c := 4 }
     let s := block (fun lb => { lb with priv := 4096 }) (placed (.nop F))
     let words := fun (ws : List Nat) (tm : Team) => { tm with pad := padPut [] 0 (ws.flatMap (fun w => leBytes w 4)) }
     let plan := fun (ws : List Nat) (x : Command) (p : Except Nat (List Piece) → Bool) =>
       ((team (words ws) s).team? 0).any (fun tm => p ((team (words ws) s).copyRows 0 tm x))
     let rows := fun (n : Nat) (x : Except Nat (List Piece)) => match x with | .ok rs => rs.length == n | _ => false
     let fails := fun (n : Nat) (x : Except Nat (List Piece)) => match x with | .error e => e == n | _ => false
     plan [] { c with patch := some 0 } (rows 0) && plan [] c (rows 1) && plan [] { c with patch := some (2 ^ 31) } (fails 2) &&
     plan [] { c with a := 2 ^ 32 } (fails 2) && plan [] { c with a := 4096 } (fails 1) && plan [] { c with major := 0xD8, b := 4 } (rows 1) &&
     (let t := { c with major := 0xD1, c := 0 }
      plan [4, 2, 2, 0, 4, 8, 4, 8] t (rows 4) && plan [2, 2, 2, 0, 4, 8, 4, 8] t (fails 2) && plan [4, 2, 2] { t with c := 8 } (fails 2) &&
      plan [4, 2, 2] { t with c := 4096 } (fails 1)) &&
     (let g := { c with major := 0xD2, c := 0 }
      plan [4, 1, 0, 0, 4, 0, 4, 0] g (rows 1) && plan [4, 1, 2, 0, 4, 0, 4, 0] g (fails 2) && plan [4, 1, 4096, 0, 4, 0, 4, 0] g (fails 1))) =
      true ∧
    (let s := block (fun lb => { lb with priv := 4096 }) (placed (.nop F))
     let words := fun (ws : List Nat) => ((team (fun tm => { tm with pad := padPut [] 0 (ws.flatMap (fun w => leBytes w 4)) }) s).team? 0)
     (words [1, 1, 0]).any (fun tm => match binTable tm 0 with | .ok x => x == (1, 1, 0) | _ => false) &&
     (words [0, 0, 0]).any (fun tm => match binTable tm 0 with | .error e => e == 6 | _ => false) &&
     (let c := { waitingCommand 0 with major := 0xD9, a := 256, b := 64 }
      (words [0, 0, 0, 0, 16, 0, 0, 0]).any (fun tm => match zmapPlan tm c with | .ok ws => ws.isEmpty | _ => false) &&
      (words ([0, 8, 1, 0, 16] ++ List.replicate 40 0)).any (fun tm => match zmapPlan tm c with | .ok ws => ws.length == 1 | _ => false) &&
      (words [0, 8, 1, 0, 4096, 0, 0, 0]).any (fun tm => match zmapPlan tm c with | .error e => e == 1 | _ => false) &&
      (words [0, 7, 0, 0, 0, 0, 0, 0]).any (fun tm => match zmapPlan tm c with | .error e => e == 2 | _ => false))) = true := by decide +kernel

/-- Collectives whose commands wait, and whose commands do not: with their buffer and without it. -/
theorem witness_CommandEvents_instance :
    (let c := { waitingCommand 1 with major := 0xD4, state := 2, lit := some 0 }
     let s := fun (u : State) => granting 24 1 { queueing [c] (collective 0 u) with collWaits := [⟨0, 0, 0, 1, []⟩], answers := [⟨⟨3, 1, 0⟩, 0, 0⟩] }
     let meets := fun (u : State) (waits : Bool) (p : Option (List Nat) → Bool) => (u.collEntry 0 0).any (fun x => (u.collRanks 0 0 x.p).any (fun ws =>
       match ws.filterMap (fun w => u.command? w.command) with
       | d :: cs => (d :: cs).any (u.collWaiting x) == waits && p (u.collSend d x d.a)
       | [] => false))
     meets (s (mapped (placed (.nop F)))) false (·.isSome) && meets (s (placed (.nop F))) false (·.isNone) &&
     meets { s (mapped (placed (.nop F))) with answers := [] } true (fun _ => true)) = true := by decide +kernel

/-- A lead that has become unchecked, with a line to release and with none. -/
theorem witness_CheckedRunEvents_unchecked :
    let c := { checkedTeam 4 [] (some ⟨0, 2, []⟩) with ended := true }
    let s : State := { State.reset with checked := [c] }
    c.stage = 4 ∧ s.releaseOne c 0 = none ∧ ({ s with heldLines := [⟨0, 0, 0, 0, 0, 0, 0, [], none⟩] }).releaseOne c 0 ≠ none := by
  refine ⟨rfl, rfl, ?_⟩
  simp [State.releaseOne, HeldLine.of, checkedTeam, Nat.mod_one]

/-- A request of cluster 31 that has waited 1,024 cycles. -/
theorem witness_ReservationAndClassEvents_aged :
    (let s := lastCluster (fun c => { c with cycles := 1024, requests := [⟨0, 96, 0, 0, false, 0, 0⟩] })
     (s.cluster 31).aged.grantable == some ⟨0, 96, 0, 0, true, 0, 0⟩ && (State.reset.cluster 31).aged.grantable == none) = true := by
  decide +kernel

/-- A configuration that is refused: the function of another partition, and three vectors. -/
theorem witness_PartitionAndMaintenanceEvents_refused :
    (let other := State.reset.modPart 0 (fun p => { p with configured := true, config := { wholeConfig with clusters := [4, 5, 6, 7], keySlots := [] } })
     !other.mayConfigure 7 wholeConfig && other.mayConfigure 7 { wholeConfig with function := 6, pieces0 := 0, pieces1 := 0 } &&
     !State.reset.mayConfigure 7 { wholeConfig with vectors := [0, 1, 2] } && State.reset.partitions.length == 8) = true := by decide +kernel

/-- A partition whose units have not all stopped; key requests of a wrong length and of another opcode. -/
theorem witness_PartnerAndFabricEvents_served :
    (State.reset.part 0).haltDone = false ∧ ((State.reset.modPart 0 (fun x => { x with haltDone := true })).part 0).haltDone = true ∧
    field [3, 0, 0, 0] 0 1 ≠ 1 ∧ [(2 : Byte), 0, 0, 0, 0].length ≠ 4 := by decide +kernel

/-- The management core at a doubleword load and at a doubleword store of an address that no range holds, off its alignment. -/
theorem witness_ManagementCoreExecutes_nowhere :
    (let at_ := fun (w : Nat) (a : Nat) =>
       { State.reset with mgmt := { State.reset.mgmt with pc := 0x10000000, x := [(10, BitVec.ofNat 64 a)], sram := padPut [] 0 (leBytes w 4) } }
     [(0x00053583, 0x03), (0x00053023, 0x23)].all (fun (x : Nat × Nat) => let s := at_ x.1 0x40000001
       (match s.rvFetch with | .ok (w, _) => bits w 6 0 == x.2 && bits w 14 12 == 3 | _ => false) &&
       (match mgmtRange 0x40000001 with | .nowhere => true | _ => false))) = true := by decide +kernel

end Sys2Proof.Tests
end

section
/-! PROOFS. Reconfiguration and the configuration of partitions, firmware updates, slice retirement and the health record
(R1, R401, R402, R410–R413). -/

namespace Sys2Proof.Machine

/-! ## Lists -/

/-- A list that `eraseDups` leaves as it is has no element twice. -/
theorem nodup_of_eq_eraseDups {α : Type} [BEq α] [LawfulBEq α] (xs : List α) (h : xs = xs.eraseDups) : xs.Nodup := by
  induction xs with
  | nil => exact List.nodup_nil
  | cons x xs ih =>
    rw [List.eraseDups_cons] at h
    have tail : xs = (xs.filter fun y => !y == x).eraseDups := (List.cons.inj h).2
    have away : ∀ y ∈ xs, (!y == x) = true := by
      intro y hy
      rw [tail, List.mem_eraseDups] at hy
      exact (List.mem_filter.1 hy).2
    rw [List.filter_eq_self.2 away] at tail
    exact List.nodup_cons.2 ⟨fun hx => by simpa using away x hx, ih tail⟩

/-- An element of a list whose elements are changed along with their places. -/
theorem getElem?_map_zip_range {α β : Type} (f : Nat × α → β) (xs : List α) (k : Nat) :
    (((List.range xs.length).zip xs).map f)[k]? = (xs[k]?).map (fun x => f (k, x)) := by
  rw [List.getElem?_map]
  rcases Nat.lt_or_ge k xs.length with h | h
  · simp [h]
  · simp [h]

/-- Changing an element leaves a projection of the list that the change does not touch. -/
theorem map_modNth {α β : Type} (g : α → β) (f : α → α) (hf : ∀ x, g (f x) = g x) (n : Nat) (xs : List α) :
    (modNth f n xs).map g = xs.map g := by
  induction xs generalizing n with
  | nil => simp [modNth]
  | cons x xs ih =>
    cases n with
    | zero => simp [modNth, hf]
    | succ n => simp [modNth, ih]

/-! ## Stopping and resuming placement -/

/-- Placement is stopped, or resumed, in a partition (R410). -/
def Partition.pause (b : Bool) (x : Partition) : Partition := { x with paused := b }

/-- The flag is as it was set. -/
@[simp] theorem Partition.pause_paused (b : Bool) (x : Partition) : (x.pause b).paused = b := rfl

/-- The last request to stop or to resume placement counts. -/
theorem Partition.pause_pause (b : Bool) (x : Partition) : (x.pause b).pause b = x.pause b := rfl

/-- Placement is stopped, or resumed, in each of some partitions (R410). -/
def State.pauseAll (b : Bool) (ps : List Nat) (s : State) : State :=
  ps.foldl (fun s p => s.modPart p (Partition.pause b)) s

/-- Nothing but the partitions changes. -/
theorem State.pauseAll_def (b : Bool) (ps : List Nat) (s : State) :
    s.pauseAll b ps = { s with partitions := (s.pauseAll b ps).partitions } := by
  refine foldl_keeps (fun t : State => t = { s with partitions := t.partitions }) _ (fun t p ht => ?_) ps s rfl
  exact congrArg (fun u : State => u.modPart p (Partition.pause b)) ht

/-- There are as many partitions as before. -/
theorem State.pauseAll_length (b : Bool) (ps : List Nat) (s : State) :
    (s.pauseAll b ps).partitions.length = s.partitions.length :=
  foldl_keeps (fun t : State => t.partitions.length = s.partitions.length) _
    (fun _ _ ht => (modNth_length _ _ _).trans ht) ps s rfl

/-- The partitions named have their new flag, the others are as they were. -/
theorem State.part_pauseAll (b : Bool) (ps : List Nat) (s : State) (q : Nat) :
    (s.pauseAll b ps).part q =
      if q ∈ ps ∧ q < s.partitions.length then (s.part q).pause b else s.part q := by
  induction ps generalizing s with
  | nil => simp [State.pauseAll]
  | cons p ps ih =>
    have step : s.pauseAll b (p :: ps) = (s.modPart p (Partition.pause b)).pauseAll b ps := rfl
    have len : (s.modPart p (Partition.pause b)).partitions.length = s.partitions.length :=
      modNth_length _ _ _
    rw [step, ih, len, State.part_modPart]
    by_cases hq : q < s.partitions.length
    · by_cases hp : q = p
      · subst hp
        by_cases hm : q ∈ ps <;> simp [hq, hm, Partition.pause_pause]
      · simp [hp]
    · simp [hq]

/-- Pausing does not change which partitions have halted. -/
theorem State.halted_pauseAll (b : Bool) (ps : List Nat) (s : State) (q : Nat) :
    ((s.pauseAll b ps).part q).halted = (s.part q).halted := by
  rw [State.part_pauseAll]
  split <;> rfl

/-! ## Reconfiguration -/

/-- The machine in which a reconfiguration has stopped placement and asked the resident teams to save themselves (R410). -/
def State.asked (parts : List Nat) (s : State) : State :=
  { s.pauseAll true parts with
    teams := s.teams.map (fun kt => if parts.contains kt.2.part then (kt.1, kt.2.raise) else kt) }

/-- The partitions that a reconfiguration waits for: those that are paused and those whose numbers change. -/
def State.due (s : State) : List Nat := (List.range 8).filter (fun p => (s.part p).paused || s.numbersMove p)

/-- Placement stops and saves are asked for; then, once every partition that is due is paused and quiet, halts are
cleared, numbers are assigned afresh and placement resumes. -/
theorem execPartitionReconfigure_eq (parts : List Nat) (s : State) :
    execPartitionReconfigure parts s =
      let w := s.asked parts
      if w.due.all (fun p => (w.part p).paused && w.quiet p) then
        .next (((w.due.foldl State.clearHalt w).renumber).pauseAll false w.due)
      else .next w := by
  have teams : (s.pauseAll true parts).teams = s.teams := by rw [State.pauseAll_def]
  unfold State.asked
  rw [← teams]
  rfl

/-- Asking changes partitions and teams only. -/
theorem State.asked_def (parts : List Nat) (s : State) :
    s.asked parts = { s with partitions := (s.asked parts).partitions, teams := (s.asked parts).teams } := by
  unfold State.asked
  rw [State.pauseAll_def]

/-- The partitions asked are paused, the others are as they were. -/
theorem State.part_asked (parts : List Nat) (s : State) (q : Nat) :
    (s.asked parts).part q =
      if q ∈ parts ∧ q < s.partitions.length then (s.part q).pause true else s.part q :=
  State.part_pauseAll true parts s q

/-- Asking adds and removes no partition. -/
theorem State.partitions_asked_length (parts : List Nat) (s : State) :
    (s.asked parts).partitions.length = s.partitions.length :=
  State.pauseAll_length true parts s

/-- Asking halts no partition. -/
theorem State.halted_asked (parts : List Nat) (s : State) (q : Nat) :
    ((s.asked parts).part q).halted = (s.part q).halted :=
  State.halted_pauseAll true parts s q

/-- Asking changes no number that a unit has or would have. -/
theorem State.numbersMove_asked (parts : List Nat) (s : State) (q : Nat) :
    (s.asked parts).numbersMove q = s.numbersMove q := by
  rw [State.asked_def]
  rfl

/-- A request to save itself leaves a team in its partition. -/
theorem Team.raise_part (tm : Team) : tm.raise.part = tm.part := by
  unfold Team.raise
  split <;> rfl

/-- A partition that runs and has a resident team is not quiet. -/
theorem State.quiet_eq_false_of_team (s : State) (kt : Nat × Team) (ht : kt ∈ s.teams)
    (hh : (s.part kt.2.part).halted = false) : s.quiet kt.2.part = false := by
  have there : s.teams.any (fun k => k.2.part == kt.2.part) = true := List.any_eq_true.2 ⟨kt, ht, by simp⟩
  simp [State.quiet, hh, there]

/-- A partition that runs and has no resident team is quiet. -/
theorem State.quiet_of_no_teams (s : State) (p : Nat) (ht : s.teams = []) (hh : (s.part p).halted = false) :
    s.quiet p = true := by
  simp [State.quiet, hh, ht]

/-- A resident team is resident in the same partition after it has been asked to save itself. -/
theorem State.mem_teams_asked (parts : List Nat) (s : State) (kt : Nat × Team) (h : kt ∈ s.teams) :
    ∃ k ∈ (s.asked parts).teams, k.2.part = kt.2.part := by
  refine ⟨_, List.mem_map_of_mem h, ?_⟩
  split
  · exact Team.raise_part kt.2
  · rfl

/-- While a team of a partition concerned is resident, the reconfiguration only asks. -/
theorem exec_partitionReconfigure_resident (parts : List Nat) (s : State) (hh : ∀ p, (s.part p).halted = false)
    (kt : Nat × Team) (ht : kt ∈ s.teams) (hp : kt.2.part ∈ parts) (h8 : kt.2.part < 8) (hl : s.partitions.length = 8) :
    exec (.partitionReconfigure parts) s = .next (s.asked parts) := by
  obtain ⟨k, hk, same⟩ := s.mem_teams_asked parts kt ht
  have busy : (s.asked parts).quiet kt.2.part = false := by
    rw [← same]
    exact State.quiet_eq_false_of_team _ k hk (by rw [State.halted_asked, hh])
  have paused : ((s.asked parts).part kt.2.part).paused = true := by
    rw [State.part_asked, if_pos ⟨hp, by omega⟩, Partition.pause_paused]
  have isDue : kt.2.part ∈ (s.asked parts).due := by
    simp [State.due, h8, paused]
  have waits : ¬ (s.asked parts).due.all (fun p => ((s.asked parts).part p).paused && (s.asked parts).quiet p) = true := by
    intro h
    have := List.all_eq_true.1 h _ isDue
    simp [busy] at this
  exact (execPartitionReconfigure_eq parts s).trans (if_neg waits)

/-- No halt is cleared where no partition has halted. -/
theorem State.foldl_clearHalt_of_running (ps : List Nat) (s : State) (h : ∀ p, (s.part p).halted = false) :
    ps.foldl State.clearHalt s = s :=
  foldl_keeps (fun t : State => t = s) _ (fun t p ht => by simp [ht, State.clearHalt, h]) ps s rfl

/-- With no team resident and no other partition's numbers in the way, the reconfiguration is carried out. -/
theorem exec_partitionReconfigure_empty (parts : List Nat) (s : State) (hh : ∀ p, (s.part p).halted = false)
    (ht : s.teams = []) (hl : s.partitions.length = 8)
    (hm : ∀ p, p < 8 → p ∉ parts → s.numbersMove p = true → (s.part p).paused = true) :
    exec (.partitionReconfigure parts) s =
      .next ((s.asked parts).renumber.pauseAll false (s.asked parts).due) := by
  have running : ∀ p, ((s.asked parts).part p).halted = false := fun p => by rw [State.halted_asked, hh]
  have empty : (s.asked parts).teams = [] := by simp [State.asked, ht]
  have paused : ∀ p ∈ (s.asked parts).due, ((s.asked parts).part p).paused = true := by
    intro p hp
    obtain ⟨h8, hdue⟩ := List.mem_filter.1 hp
    rw [List.mem_range] at h8
    rw [State.part_asked] at hdue ⊢
    by_cases hin : p ∈ parts
    · rw [if_pos ⟨hin, by omega⟩, Partition.pause_paused]
    · simp only [hin, false_and, if_false, Bool.or_eq_true, State.numbersMove_asked] at hdue ⊢
      exact hdue.elim id (hm p h8 hin)
  have ready : (s.asked parts).due.all (fun p => ((s.asked parts).part p).paused && (s.asked parts).quiet p) = true :=
    List.all_eq_true.2 fun p hp => by simp [paused p hp, State.quiet_of_no_teams _ p empty (running p)]
  have h := (execPartitionReconfigure_eq parts s).trans (if_pos ready)
  rwa [State.foldl_clearHalt_of_running _ _ running] at h

/-- A core after the numbers have been assigned afresh (R1). -/
theorem State.core_renumber (s : State) (c : Nat) (hc : c < s.cores.length) :
    s.renumber.core c = { s.core c with
      active := (s.core c).inUse, logical := if (s.core c).inUse then s.denseCore c else (s.core c).logical } := by
  unfold State.renumber State.core
  dsimp only
  rw [getElem?_map_zip_range]
  simp [hc]

/-- Placement has resumed everywhere once the partitions that were due are no longer paused. -/
theorem State.not_paused_of_due (s : State) (hl : s.partitions.length = 8) (p : Nat) (hp : p < 8) :
    ((s.renumber.pauseAll false s.due).part p).paused = false := by
  have same : s.renumber.part p = s.part p := rfl
  have len : s.renumber.partitions.length = 8 := hl
  rw [State.part_pauseAll, same, len]
  by_cases hd : p ∈ s.due
  · simp [hd, hp]
  · rw [if_neg (fun h => hd h.1)]
    simp only [State.due, List.mem_filter, List.mem_range, hp, true_and, Bool.or_eq_true, not_or] at hd
    simpa using hd.1

/-! ## Configuration of a partition -/

/-- What a configuration that may be set has (R401, R402, R411). -/
theorem State.mayConfigure_allows (p : Nat) (cfg : PartitionConfig) (s : State) (h : s.mayConfigure p cfg = true) :
    p < 8 ∧ 4 ≤ cfg.clusters.length ∧ cfg.clusters.Nodup ∧
      (∀ k ∈ cfg.clusters, k < 32 ∧ ((s.cluster k).partition = none ∨ (s.cluster k).partition = some p)) ∧
      cfg.function < 8 ∧ cfg.vectors.length = 4 ∧ (∀ v ∈ cfg.vectors, v < 64) ∧
      ∀ q, q < 8 → q ≠ p → (s.part q).configured = true →
        (s.part q).config.function ≠ cfg.function ∧ ∀ k ∈ cfg.keySlots, k ∉ (s.part q).config.keySlots := by
  simp only [State.mayConfigure, Bool.and_eq_true, decide_eq_true_eq, List.all_eq_true, beq_iff_eq] at h
  obtain ⟨⟨⟨⟨⟨⟨⟨⟨⟨⟨⟨hp, four⟩, dups⟩, clusters⟩, -⟩, -⟩, keys⟩, function⟩, others⟩, vectors⟩, below⟩, -⟩ := h
  refine ⟨hp, four, nodup_of_eq_eraseDups _ dups, fun k hk => ?_, function, vectors, below, fun q hq hne hc => ?_⟩
  · obtain ⟨⟨⟨lt, -⟩, free⟩, -⟩ := clusters k hk
    exact ⟨lt, by simpa using free⟩
  · have other : q ∈ ((List.range 8).filter (· != p)).filter (fun q => (s.part q).configured) := by
      simp [hq, hne, hc]
    exact ⟨by simpa using others q other, fun k hk => by simpa using (keys k hk).1.2 q other⟩

/-- From s to t every cluster keeps its partition, and there are as many clusters and partitions. -/
def State.KeepsOwners (s t : State) : Prop :=
  t.clusters.map (·.partition) = s.clusters.map (·.partition) ∧ t.partitions.length = s.partitions.length

/-- One change after another. -/
theorem State.KeepsOwners.trans {s t u : State} (h1 : s.KeepsOwners t) (h2 : t.KeepsOwners u) : s.KeepsOwners u :=
  ⟨h2.1.trans h1.1, h2.2.trans h1.2⟩

/-- A team that leaves takes no cluster and no partition with it. -/
theorem State.dropTeam_keepsOwners (s : State) (t : Nat) : s.KeepsOwners (s.dropTeam t) := by
  unfold State.dropTeam
  split
  · exact ⟨rfl, rfl⟩
  · refine ⟨map_modNth (fun c : Cluster => c.partition) _ ?_ _ s.clusters, modNth_length _ _ _⟩
    exact fun _ => rfl

/-- What a halted partition held is gone, and every cluster stays where it is. -/
theorem State.emptyPartition_keepsOwners (s : State) (p : Nat) : s.KeepsOwners (s.emptyPartition p) :=
  foldl_keeps (fun t : State => s.KeepsOwners t) (fun t (kt : Nat × Team) => t.dropTeam kt.1)
    (fun t kt ht => ht.trans (t.dropTeam_keepsOwners kt.1)) _ s ⟨rfl, rfl⟩

/-- Clearing a halt leaves every cluster where it is. -/
theorem State.clearHalt_keepsOwners (s : State) (p : Nat) : s.KeepsOwners (s.clearHalt p) := by
  unfold State.clearHalt
  split
  · exact (s.emptyPartition_keepsOwners p).trans ⟨rfl, modNth_length _ _ _⟩
  · exact ⟨rfl, rfl⟩

/-- A cluster that enters or leaves the boost pool stays in its partition. -/
@[simp] theorem Cluster.toBoost_partition (c : Cluster) (on : Bool) (time nonce : Nat) :
    (c.toBoost on time nonce).partition = c.partition := by
  unfold Cluster.toBoost
  split <;> rfl

/-- A cluster under a partition's configuration: those that it names join the partition, another one of the partition
leaves it (R411). -/
def Cluster.joined (part : Nat) (cfg : PartitionConfig) (leased : Bool) (time nonce k : Nat) (c : Cluster) : Cluster :=
  if cfg.clusters.contains k then
    ({ c with partition := some part } : Cluster).toBoost (leased && c.cls == 0) time nonce
  else if c.partition = some part then ({ c with partition := none } : Cluster).toBoost false time nonce
  else c

/-- A cluster is the partition's exactly where the configuration names it. -/
theorem Cluster.joined_partition (part : Nat) (cfg : PartitionConfig) (leased : Bool) (time nonce k : Nat) (c : Cluster) :
    (c.joined part cfg leased time nonce k).partition = some part ↔ k ∈ cfg.clusters := by
  unfold Cluster.joined
  split
  · simp_all
  · split <;> simp_all

/-- The machine with a partition's configuration set, its halt having been cleared. -/
def State.configured (part : Nat) (cfg : PartitionConfig) (s : State) : State :=
  { s with
    nonce := s.nonce + 1
    clusters := ((List.range s.clusters.length).zip s.clusters).map (fun (kc : Nat × Cluster) =>
      kc.2.joined part cfg ((s.part part).lease != 0) s.time s.nonce kc.1) }.modPart part (fun x => { x with
        configured := true, config := cfg, faultRead := 0, faultWrite := 0, faultSeq := 0 })

/-- A configuration is taken where the dies run, the partition is quiet and the configuration is allowed. -/
theorem exec_partitionConfigure (p : Nat) (cfg : PartitionConfig) (s : State) :
    exec (.partitionConfigure p cfg) s =
      if s.diesHeld || !s.quiet p || !s.mayConfigure p cfg then .next s else .next ((s.clearHalt p).configured p cfg) := rfl

/-- The clusters of the partition are those of its configuration. -/
theorem State.cluster_configured (p : Nat) (cfg : PartitionConfig) (s : State) (k : Nat) (hk : k < s.clusters.length) :
    ((s.configured p cfg).cluster k).partition = some p ↔ k ∈ cfg.clusters := by
  have at_k : (s.configured p cfg).cluster k =
      (s.cluster k).joined p cfg ((s.part p).lease != 0) s.time s.nonce k := by
    unfold State.configured State.cluster State.modPart
    dsimp only
    rw [getElem?_map_zip_range]
    simp [hk]
  rw [at_k, Cluster.joined_partition]

/-- The partition has its configuration. -/
theorem State.part_configured (p : Nat) (cfg : PartitionConfig) (s : State) (hp : p < s.partitions.length) :
    ((s.configured p cfg).part p).configured = true ∧ ((s.configured p cfg).part p).config = cfg := by
  unfold State.configured
  rw [State.part_modPart, if_pos ⟨rfl, hp⟩]
  exact ⟨rfl, rfl⟩

/-! ## Firmware updates -/

/-- A firmware update that the management core takes (R411). -/
theorem exec_firmwareUpdate (offset : Nat) (image : List Byte) (s : State) (hj : s.mgmt.jumped = true)
    (ho : offset % 8 = 0) (hi : image.length % 8 = 0) (hl : offset + image.length ≤ 0x1000000) :
    exec (.firmwareUpdate offset image) s =
      let flash := Memory.putBytes s.mgmt.flash (0x1000000 * s.mgmt.inactive + offset) image
      .next { s with mgmt := { s.mgmt with
        flash := flash, measured := imageDigest flash s.mgmt.inactive, bootSel := BitVec.ofNat 64 s.mgmt.inactive } } := by
  refine Eq.trans (b := execFirmwareUpdate offset image s) rfl (if_neg ?_)
  rintro (h | h | h | h)
  · simp [hj] at h
  · exact h ho
  · exact h hi
  · omega

/-! ## Slice retirement -/

/-- The active slices of a die. -/
theorem State.mem_slices (s : State) (die k : Nat) : k ∈ s.slices die ↔ k < 48 ∧ (die, k) ∉ s.retired := by
  simp [State.slices]

/-- A line has its home in an active slice of its die, where the die has one (R175, R412). -/
theorem State.homeSlice_mem (s : State) (pa : Nat) (h : s.slices (dieOfPa pa) ≠ []) :
    s.homeSlice pa ∈ s.slices (dieOfPa pa) := by
  have lt := Nat.mod_lt (spread ((pa - dieOfPa pa * 0x002800000000) >>> 9)) (List.length_pos_of_ne_nil h)
  unfold State.homeSlice
  dsimp only
  rw [List.getD_eq_getElem _ _ lt]
  exact List.getElem_mem lt

/-- A write-back leaves the L2 lines. -/
theorem State.writeBack_l2 (s : State) (r : Registration) : (s.writeBack r).l2 = s.l2 := by
  have stored : ∀ (abs : List (Nat × Byte)), (abs.foldl (fun (s : State) ab => s.storeByte ab.1 ab.2) s).l2 = s.l2 := by
    intro abs
    refine foldl_keeps (fun t : State => t.l2 = s.l2) _ (fun t ab ht => ?_) abs s rfl
    unfold State.storeByte
    split <;> exact ht
  unfold State.writeBack
  exact foldl_keeps (fun t : State => t.l2 = s.l2) State.stampLine (fun _ _ ht => ht) _ _ (stored _)

/-- A line that is replaced takes no other with it into the L2. -/
theorem State.dropL2_l2 (s : State) (line : Nat) : (s.dropL2 line).l2 ⊆ s.l2 := by
  have written : ∀ rs : List Registration, (rs.foldl State.writeBack s).l2 = s.l2 := fun rs =>
    foldl_keeps (fun t : State => t.l2 = s.l2) _ (fun t r ht => (t.writeBack_l2 r).trans ht) rs s rfl
  intro l hl
  have := List.mem_of_mem_filter hl
  rwa [written] at this

/-- A way that is freed brings no line into the L2. -/
theorem State.freeWay_l2 (s : State) (pa : Nat) : (s.freeWay pa).l2 ⊆ s.l2 := by
  unfold State.freeWay
  dsimp only
  split
  · exact List.Subset.refl _
  · split
    · exact s.dropL2_l2 _
    · exact List.Subset.refl _

/-- A line that enters the L2 is the only new one. -/
theorem State.intoL2_l2 (s : State) (pa : Nat) : (s.intoL2 pa).l2 ⊆ (pa >>> 7) :: s.l2 := by
  unfold State.intoL2
  dsimp only
  split
  · exact List.subset_cons_self _ _
  · exact List.cons_subset_cons _ (s.freeWay_l2 pa)

/-- Lines that enter the L2 and stood in some set of lines leave it within that set. -/
theorem State.intoL2s_l2 (ls pas : List Nat) (hp : ∀ pa ∈ pas, pa >>> 7 ∈ ls) (s : State) (hs : s.l2 ⊆ ls) :
    (pas.foldl State.intoL2 s).l2 ⊆ ls := by
  induction pas generalizing s with
  | nil => exact hs
  | cons pa pas ih =>
    obtain ⟨first, rest⟩ := List.forall_mem_cons.1 hp
    exact ih rest _ (List.Subset.trans (s.intoL2_l2 pa) (List.cons_subset.2 ⟨first, hs⟩))

/-- A slice holds a held line or a page of a scrub, and may not yet be retired (R412). -/
def State.sliceBusy (s : State) (die slice : Nat) : Bool :=
  s.heldLines.any (fun h => isDram h.pa && (dieOfPa h.pa == die && s.homeSlice h.pa == slice)) || s.scrubsSlice die slice

/-- The two ways in which a slice is busy. -/
theorem State.sliceBusy_iff (s : State) (die slice : Nat) :
    s.sliceBusy die slice = true ↔
      (∃ h ∈ s.heldLines, isDram h.pa = true ∧ dieOfPa h.pa = die ∧ s.homeSlice h.pa = slice) ∨
        s.scrubsSlice die slice = true := by
  simp [State.sliceBusy]

/-- The lines of the L2 whose home is a slice of a die. -/
def State.linesAt (s : State) (die slice : Nat) : List Nat :=
  s.l2.filter (fun l => dieOfPa (l <<< 7) == die && s.homeSlice (l <<< 7) == slice)

/-- The machine with a slice out of the address hash and its lines out of the L2. -/
def State.withoutSlice (s : State) (die slice : Nat) : State :=
  { s with
    retired := s.retired ++ [(die, slice)], retiring := s.retiring.filter (· != (die, slice))
    l2 := s.l2.filter (fun l => !(s.linesAt die slice).contains l) }

/-- The machine with a slice retired, its lines in the L2 of their new homes. -/
def State.retireSlice (s : State) (die slice : Nat) : State :=
  ((s.linesAt die slice).map (· <<< 7)).foldl State.intoL2 (s.withoutSlice die slice)

/-- A slice that may be retired is noted while it is busy, and is retired otherwise. -/
theorem exec_sliceRetirement (die slice : Nat) (s : State) (hd : die < 2) (hs : slice < 48)
    (hn : s.retired.contains (die, slice) = false) (h8 : (s.retired.filter (fun k => k.1 == die)).length < 8) :
    exec (.sliceRetirement die slice) s =
      if s.sliceBusy die slice then
        .next (if s.retiring.contains (die, slice) then s else { s with retiring := s.retiring ++ [(die, slice)] })
      else .next (s.retireSlice die slice).rewriteHealth := by
  have mayRetire : ¬ (2 ≤ die ∨ 48 ≤ slice ∨ s.retired.contains (die, slice) = true ∨
      8 ≤ (s.retired.filter (fun k => k.1 == die)).length) := by
    rw [hn]
    simp only [Bool.false_eq_true, false_or]
    omega
  have arm : exec (.sliceRetirement die slice) s = execSliceRetirement die slice s := rfl
  rw [arm]
  refine (if_neg mayRetire).trans ?_
  simp only [State.sliceBusy, Bool.or_eq_true]
  rfl

/-- Retirement changes nothing but memory once the slice is out of the address hash. -/
theorem State.retireSlice_only (s : State) (die slice : Nat) :
    State.OnlyMem (s.withoutSlice die slice) (s.retireSlice die slice) :=
  State.OnlyMem.foldl _ State.intoL2_only _ _

/-- The retired slice stands at the end of the list of those retired. -/
theorem State.retireSlice_retired (s : State) (die slice : Nat) :
    (s.retireSlice die slice).retired = s.retired ++ [(die, slice)] := by
  have only : s.retireSlice die slice = _ := s.retireSlice_only die slice
  rw [only]
  rfl

/-- The retired slice no longer waits to be retired. -/
theorem State.retireSlice_retiring (s : State) (die slice : Nat) :
    (s.retireSlice die slice).retiring = s.retiring.filter (· != (die, slice)) := by
  have only : s.retireSlice die slice = _ := s.retireSlice_only die slice
  rw [only]
  rfl

/-- The health record is as it was until Gritus rewrites it. -/
theorem State.retireSlice_health (s : State) (die slice : Nat) : (s.retireSlice die slice).health = s.health := by
  have only : s.retireSlice die slice = _ := s.retireSlice_only die slice
  rw [only]
  rfl

/-- No byte of DRAM outside the registrations changes. -/
theorem State.retireSlice_dram (s : State) (die slice x : Nat)
    (hx : ∀ g ∈ s.registrations, ¬ (g.pa ≤ x ∧ x < g.pa + g.size)) :
    Memory.get (s.retireSlice die slice).dram x = Memory.get s.dram x :=
  ((State.intoL2s_outside (rs := s.registrations) _ (s.withoutSlice die slice) (fun _ h => h)).2 x hx).1

/-- No line is in the L2 that was not there before. -/
theorem State.retireSlice_l2 (s : State) (die slice : Nat) : (s.retireSlice die slice).l2 ⊆ s.l2 := by
  refine State.intoL2s_l2 s.l2 _ (fun pa hpa => ?_) _ (fun _ hl => List.mem_of_mem_filter hl)
  obtain ⟨l, hl, rfl⟩ := List.mem_map.1 hpa
  rw [Nat.shiftLeft_shiftRight]
  exact List.mem_of_mem_filter hl

/-- A slice that has been retired is the home of no line of its die, while the die has an active slice. -/
theorem State.homeSlice_ne_of_retired (s : State) (pa slice : Nat) (hr : (dieOfPa pa, slice) ∈ s.retired)
    (hs : s.slices (dieOfPa pa) ≠ []) : s.homeSlice pa ≠ slice := by
  rintro rfl
  exact ((s.mem_slices _ _).1 (s.homeSlice_mem pa hs)).2 hr

/-! ## The statement's parts -/

/-- R410: while a team is resident, placement has stopped and the teams have been asked to save themselves. -/
theorem partitionReconfigure_asks (parts : List Nat) (s : State) (hh : ∀ p, (s.part p).halted = false)
    (hr : ∃ kt ∈ s.teams, kt.2.part ∈ parts ∧ kt.2.part < 8) (hl : s.partitions.length = 8) :
    Answers (.partitionReconfigure parts) s (fun u =>
      (∀ p ∈ parts, p < 8 → (u.part p).paused = true) ∧ u.cores = s.cores ∧
      u.teams = s.teams.map (fun kt => if parts.contains kt.2.part then (kt.1, kt.2.raise) else kt)) := by
  obtain ⟨kt, ht, hp, h8⟩ := hr
  refine ⟨_, exec_partitionReconfigure_resident parts s hh kt ht hp h8 hl, fun p hp h8 => ?_, ?_, rfl⟩
  · rw [State.part_asked, if_pos ⟨hp, by omega⟩, Partition.pause_paused]
  · rw [State.asked_def]

/-- R1, R410: with no team resident, placement resumes and the cores have their numbers. -/
theorem partitionReconfigure_renumbers (parts : List Nat) (s : State) (hh : ∀ p, (s.part p).halted = false)
    (ht : s.teams = []) (hl : s.partitions.length = 8)
    (hm : ∀ p, p < 8 → p ∉ parts → s.numbersMove p = true → (s.part p).paused = true) :
    Answers (.partitionReconfigure parts) s (fun u =>
      (∀ p, p < 8 → (u.part p).paused = false) ∧
      ∀ c, c < s.cores.length → (u.core c).active = (s.core c).inUse ∧
        ((s.core c).inUse = true → (u.core c).logical = s.denseCore c)) := by
  have len := (s.partitions_asked_length parts).trans hl
  refine ⟨_, exec_partitionReconfigure_empty parts s hh ht hl hm, State.not_paused_of_due _ len, fun c hc => ?_⟩
  have cores : ((s.asked parts).renumber.pauseAll false (s.asked parts).due).core c = s.renumber.core c := by
    rw [State.pauseAll_def, State.asked_def]
    rfl
  rw [cores, State.core_renumber s c hc]
  exact ⟨rfl, fun h => if_pos h⟩

/-- R411: a configuration that is taken. -/
theorem partitionConfigure_takes (p : Nat) (cfg : PartitionConfig) (s : State) (hd : s.diesHeld = false)
    (hp : p < s.partitions.length) (hq : s.quiet p = true) (hm : s.mayConfigure p cfg = true) :
    Answers (.partitionConfigure p cfg) s (fun u =>
      (u.part p).configured = true ∧ (u.part p).config = cfg ∧
      ∀ k, k < s.clusters.length → ((u.cluster k).partition = some p ↔ k ∈ cfg.clusters)) := by
  obtain ⟨owners, parts⟩ := s.clearHalt_keepsOwners p
  have clusters : (s.clearHalt p).clusters.length = s.clusters.length := by simpa using congrArg List.length owners
  obtain ⟨on, config⟩ := (s.clearHalt p).part_configured p cfg (by omega)
  refine ⟨_, (exec_partitionConfigure p cfg s).trans (if_neg (by simp [hd, hq, hm])), on, config, fun k hk => ?_⟩
  exact (s.clearHalt p).cluster_configured p cfg k (by omega)

/-- R411, R463: the image that does not run takes the bytes and is measured. -/
theorem firmwareUpdate_writes (offset : Nat) (image : List Byte) (s : State) (hj : s.mgmt.jumped = true)
    (ho : offset % 8 = 0) (hi : image.length % 8 = 0) (hl : offset + image.length ≤ 0x1000000) :
    Answers (.firmwareUpdate offset image) s (fun u =>
      u.mgmt.bootSel = BitVec.ofNat 64 s.mgmt.inactive ∧ u.mgmt.running = s.mgmt.running ∧
      u.mgmt.measured = imageDigest u.mgmt.flash s.mgmt.inactive ∧
      (∀ i, i < image.length → Memory.get u.mgmt.flash (0x1000000 * s.mgmt.inactive + offset + i) = image.getD i 0) ∧
      ∀ a, (a < 0x1000000 * s.mgmt.inactive + offset ∨ 0x1000000 * s.mgmt.inactive + offset + image.length ≤ a) →
        Memory.get u.mgmt.flash a = Memory.get s.mgmt.flash a) := by
  refine ⟨_, exec_firmwareUpdate offset image s hj ho hi hl, rfl, rfl, rfl, fun i hlt => ?_, fun a ha => ?_⟩
  · refine (Memory.get_putBytes _ _ _ _).trans ((if_pos ⟨by omega, by omega⟩).trans ?_)
    rw [Nat.add_sub_cancel_left]
    rfl
  · exact (Memory.get_putBytes _ _ _ _).trans (if_neg (by omega))

/-- R412: a slice that is not busy leaves the address hash of its die. -/
theorem sliceRetirement_retires (die slice : Nat) (s : State) (hd : die < 2) (hs : slice < 48)
    (hn : s.retired.contains (die, slice) = false) (h8 : (s.retired.filter (fun k => k.1 == die)).length < 8)
    (scrub : s.scrubsSlice die slice = false)
    (held : ∀ h ∈ s.heldLines, isDram h.pa = true → dieOfPa h.pa = die → s.homeSlice h.pa ≠ slice) :
    Answers (.sliceRetirement die slice) s (fun u =>
      u.retired = s.retired ++ [(die, slice)] ∧ (die, slice) ∉ u.retiring ∧
      (∀ x, (∀ g ∈ s.registrations, ¬ (g.pa ≤ x ∧ x < g.pa + g.size)) → Memory.get u.dram x = Memory.get s.dram x) ∧
      u.health.seq = s.health.seq + 1 ∧ (∀ l ∈ u.l2, l ∈ s.l2) ∧
      (∀ pa, dieOfPa pa = die → u.slices die ≠ [] → u.homeSlice pa ≠ slice)) := by
  have idle : ¬ s.sliceBusy die slice = true := by
    rw [State.sliceBusy_iff]
    rintro (⟨h, hh, dram, there, home⟩ | h)
    · exact held h hh dram there home
    · simp [scrub] at h
  have gone : (die, slice) ∈ (s.retireSlice die slice).retired := by simp [State.retireSlice_retired]
  refine ⟨_, (exec_sliceRetirement die slice s hd hs hn h8).trans (if_neg idle), s.retireSlice_retired die slice, ?_,
    s.retireSlice_dram die slice, ?_, fun l hl => s.retireSlice_l2 die slice hl, ?_⟩
  · show (die, slice) ∉ (s.retireSlice die slice).retiring
    simp [State.retireSlice_retiring]
  · show (s.retireSlice die slice).health.seq + 1 = _
    rw [State.retireSlice_health]
  · rintro pa rfl active
    exact State.homeSlice_ne_of_retired (s.retireSlice (dieOfPa pa) slice).rewriteHealth pa slice gone active

/-- R412: a slice that is busy is noted. -/
theorem sliceRetirement_notes (die slice : Nat) (s : State) (hd : die < 2) (hs : slice < 48)
    (hn : s.retired.contains (die, slice) = false) (h8 : (s.retired.filter (fun k => k.1 == die)).length < 8)
    (busy : s.scrubsSlice die slice = true ∨
      ∃ h ∈ s.heldLines, isDram h.pa = true ∧ dieOfPa h.pa = die ∧ s.homeSlice h.pa = slice) :
    Answers (.sliceRetirement die slice) s (fun u =>
      u = { s with retiring := u.retiring } ∧ (die, slice) ∈ u.retiring ∧ ∀ x ∈ s.retiring, x ∈ u.retiring) := by
  refine ⟨_, (exec_sliceRetirement die slice s hd hs hn h8).trans (if_pos ((s.sliceBusy_iff die slice).2 busy.symm)), ?_⟩
  split
  case isTrue noted => exact ⟨rfl, by simpa using noted, fun _ h => h⟩
  case isFalse => exact ⟨rfl, by simp, fun x h => List.mem_append_left _ h⟩

/-- R413: the record is rewritten with the next sequence number. -/
theorem healthRecordRewrite_rewrites (s : State) :
    Answers .healthRecordRewrite s (fun u => u.health.seq = s.health.seq + 1 ∧
      u.health.record.take (s.healthBytes (s.health.seq + 1)).length = s.healthBytes (s.health.seq + 1)) :=
  ⟨s.rewriteHealth, rfl, rfl, List.take_left⟩

/-- Settles O51: each event has the effect that its rule gives, and a configuration that is not allowed has none. -/
theorem partitionAndMaintenanceEvents : Obligations.PartitionAndMaintenanceEvents := by
  unfold Obligations.PartitionAndMaintenanceEvents
  refine ⟨⟨partitionReconfigure_asks, partitionReconfigure_renumbers, State.mayConfigure_allows,
    partitionConfigure_takes, fun p cfg s refused => ?_⟩,
    firmwareUpdate_writes, sliceRetirement_retires, sliceRetirement_notes, healthRecordRewrite_rewrites⟩
  refine (exec_partitionConfigure p cfg s).trans (if_pos ?_)
  rcases refused with h | h | h <;> simp [h]

end Sys2Proof.Machine
end


section
/-! PROOFS. The decoder and the forms of instructions: decoding gives back what was encoded, every field is read from its own
bits, and an instruction is well formed exactly when its form and its operands fit (R14–R24, R35). -/

namespace Sys2Proof

/-! ## The decoder in one equation -/

/-- LEN is one of four codes (R14). -/
theorem bits_len_cases (w : Word) : bits w.toNat 31 30 = 0 ∨ bits w.toNat 31 30 = 1 ∨ bits w.toNat 31 30 = 2 ∨
    bits w.toNat 31 30 = 3 := by
  unfold bits; omega

/-- What the decoder makes of a first word: LEN gives the number of further words, and the major the instruction (R14, R17). -/
theorem decode_cons (w0 : Word) (rest : List Word) :
    decode (w0 :: rest) =
      if bits w0.toNat 31 30 = 3 then .error .header
      else if rest.length < bits w0.toNat 31 30 then .error .truncated
      else (instrOf (bits w0.toNat 29 22) (fieldsOf w0 ((rest.take (bits w0.toNat 31 30)).headD 0)
          (rest.take (bits w0.toNat 31 30))[1]?)).elim
        (.error (.unassigned (bits w0.toNat 29 22))) (fun i => .ok (i, rest.drop (bits w0.toNat 31 30))) := by
  unfold decode wordCount
  rcases bits_len_cases w0 with h | h | h | h <;> simp only [h]
  · simp only [List.take_zero, List.headD_nil, List.drop_zero, List.getElem?_nil]
    cases instrOf (bits w0.toNat 29 22) (fieldsOf w0 0 none) <;> simp
  · cases rest with
    | nil => simp
    | cons w1 rest => cases h1 : instrOf (bits w0.toNat 29 22) (fieldsOf w0 w1 none) <;> simp [h1]
  · match rest with
    | [] => simp
    | [w1] => simp
    | w1 :: x :: rest => cases h1 : instrOf (bits w0.toNat 29 22) (fieldsOf w0 w1 (some x)) <;> simp [h1]
  · simp

/-- A word of LEN 3 is a clause header, no instruction (check 8 of R26). -/
theorem decode_header (w0 : Word) (rest : List Word) (h : bits w0.toNat 31 30 = 3) :
    decode (w0 :: rest) = .error .header := by
  rw [decode_cons, if_pos h]

/-- What was decoded: LEN words in all follow, the fields come from them, and the rest is left over (R14, R17). -/
theorem decode_ok {w0 : Word} {rest tail : List Word} {i : Instr} (h : decode (w0 :: rest) = .ok (i, tail)) :
    bits w0.toNat 31 30 ≠ 3 ∧ bits w0.toNat 31 30 ≤ rest.length ∧ tail = rest.drop (bits w0.toNat 31 30) ∧
      instrOf (bits w0.toNat 29 22) (fieldsOf w0 ((rest.take (bits w0.toNat 31 30)).headD 0)
        (rest.take (bits w0.toNat 31 30))[1]?) = some i := by
  rw [decode_cons] at h
  split at h
  · cases h
  · rename_i h3
    split at h
    · cases h
    · rename_i hl
      generalize hb : instrOf _ _ = built at h ⊢
      cases built with
      | none => cases h
      | some j =>
        simp only [Option.elim_some, Except.ok.injEq, Prod.mk.injEq] at h
        obtain ⟨rfl, rfl⟩ := h
        exact ⟨h3, not_lt.1 hl, rfl, rfl⟩

/-- An unassigned major is rejected by name, where no other word belongs to it. -/
theorem decode_unassigned (w0 : Word) (rest : List Word) (h0 : bits w0.toNat 31 30 = 0)
    (h : ∀ f, instrOf (bits w0.toNat 29 22) f = none) :
    decode (w0 :: rest) = .error (.unassigned (bits w0.toNat 29 22)) := by
  rw [decode_cons, if_neg (by omega), if_neg (by omega), h, Option.elim_none]

/-! ## Decoding what was encoded -/

/-- A well-formed instruction has fields and a form, and they fit. -/
theorem Instr.wellFormed_eq_check {i : Instr} {f : Fields} {k : Form} (hf : i.fields = some f) (hk : i.form = some k) :
    i.wellFormed = k.check f := by
  unfold Instr.wellFormed; rw [hf, hk]

/-- A well-formed instruction has fields. -/
theorem Instr.fields_of_wellFormed {i : Instr} (h : i.wellFormed = true) : ∃ f, i.fields = some f := by
  unfold Instr.wellFormed at h
  split at h
  · exact ⟨_, ‹_›⟩
  · cases h

/-- Without a form an instruction is not well formed. -/
theorem Instr.not_wellFormed_of_form {i : Instr} (h : i.form = none) : i.wellFormed = false := by
  unfold Instr.wellFormed; rw [h]; cases i.fields <;> rfl

/-- A first word of an instruction with its further words, as many as LEN says, decodes to the instruction. -/
theorem decode_word0 {i : Instr} {f : Fields} (h : i.wellFormed = true) (hf : i.fields = some f) (len : BitVec 2)
    (hlen : len ≠ 3) (ws rest : List Word) (hws : ws.length = len.toNat) (hw1 : ws.headD 0 = word1 f) (hlit : ws[1]? = f.lit) :
    decode (word0 len i.major f :: ws ++ rest) = .ok (i, rest) := by
  have h3 : len.toNat ≠ 3 := fun e => hlen (BitVec.eq_of_toNat_eq e)
  rw [List.cons_append, decode_cons, word0_len, word0_major len _ f (major_lt i), if_neg h3, if_neg (by simp [hws]),
    List.take_left' hws, List.drop_left' hws, hw1, hlit, fields_eta f len i.major f.lit rfl, instrOf_major i f h hf]
  rfl

/-- Settles O3: whatever LEN the shortest encoding has, its words give the instruction back. -/
theorem decodeOfEncode : Obligations.DecodeOfEncode := by
  intro i rest h
  obtain ⟨f, hf⟩ := Instr.fields_of_wellFormed h
  unfold encode
  simp only [hf]
  split
  · rename_i x hl
    exact decode_word0 h hf 2 (by decide) [word1 f, x] rest rfl rfl hl.symm
  · rename_i hl
    split
    · rename_i h1
      exact decode_word0 h hf 0 (by decide) [] rest rfl h1.symm hl.symm
    · exact decode_word0 h hf 1 (by decide) [word1 f] rest rfl rfl hl.symm

/-! ## Every field is read from its own bits -/

/-- An operand field joins the high bits of word 1 to the low bits of word 0 (R19). -/
theorem operand_toNat (w0 w1 : Word) (hi lo : Nat) : (w1.extractLsb' hi 2 ++ w0.extractLsb' lo 6 : BitVec 8).toNat =
    bits w0.toNat (lo + 5) lo + 64 * bits w1.toNat (hi + 1) hi := by
  have e : (w1.extractLsb' hi 2 ++ w0.extractLsb' lo 6 : BitVec 8).toNat =
      (w1.extractLsb' hi 2 ++ w0.extractLsb' lo 6 : BitVec (2 + 6)).toNat := rfl
  have lt : (w0.extractLsb' lo 6).toNat < 2 ^ 6 := (w0.extractLsb' lo 6).isLt
  rw [e, BitVec.toNat_append, Nat.shiftLeft_eq, Nat.mul_comm, ← Nat.two_pow_add_eq_or_of_lt lt, bits_extract, bits_extract,
    show lo + 5 + 1 - lo = 6 by omega, show hi + 1 + 1 - hi = 2 by omega]
  omega

/-- Where the fields stand (R15, R17, R19). -/
theorem fieldsOf_bits (w0 w1 : Word) (lit : Option Word) (f : Fields) (h : fieldsOf w0 w1 lit = f) :
    f.gn = w0.getLsbD 21 ∧ f.gp.toNat = bits w0.toNat 20 18 ∧
    f.d.toNat = bits w0.toNat 17 12 + 64 * bits w1.toNat 13 12 ∧
    f.a.toNat = bits w0.toNat 11 6 + 64 * bits w1.toNat 11 10 ∧
    f.b.toNat = bits w0.toNat 5 0 + 64 * bits w1.toNat 9 8 ∧
    f.c.toNat = bits w1.toNat 7 0 ∧ f.te.toNat = bits w1.toNat 16 14 ∧ f.minor.toNat = bits w1.toNat 23 17 ∧
    f.mod.toNat = bits w1.toNat 31 24 ∧ f.lit = lit := by
  subst h
  exact ⟨rfl, (bits_extract w0 20 18).symm, operand_toNat w0 w1 12 12, operand_toNat w0 w1 10 6, operand_toNat w0 w1 8 0,
    (bits_extract w1 7 0).symm, (bits_extract w1 16 14).symm, (bits_extract w1 23 17).symm, (bits_extract w1 31 24).symm, rfl⟩

/-! ## Which operands fit -/

/-- What the range of a kind admits (R19, R22); a register number has eight bits, so a pair or a quad needs only its
alignment. -/
theorem OperandKind.fits_iff (k : OperandKind) (x : BitVec 8) : k.fits x.toNat = true ↔
    match k with
    | .unused => x.toNat = 0
    | .reg => x.toNat < 256
    | .pair => x.toNat % 2 = 0 ∧ x.toNat < 256
    | .quad => x.toNat % 4 = 0 ∧ x.toNat < 256
    | .regs n => x.toNat + n ≤ 256
    | .pred => x.toNat < 8
    | .imm top => x.toNat ≤ top
    | .name => x.toNat < 256 := by
  have lt : x.toNat < 256 := x.isLt
  cases k <;> simp [OperandKind.fits, lt]

/-- The kinds that are read as vector registers (R20). -/
theorem OperandKind.readable_iff (k : OperandKind) :
    k.readable = true ↔ k = .reg ∨ k = .pair ∨ k = .quad ∨ ∃ n, k = .regs n := by
  cases k <;> simp [OperandKind.readable]

/-- The operands of a form fit, and a TE bit stands only at a source that is read (R19, R20, R22). -/
theorem Form.check_iff (k : Form) (f : Fields) : k.check f = true ↔
    k.d.fits f.d.toNat = true ∧ k.a.fits f.a.toNat = true ∧ k.b.fits f.b.toNat = true ∧ k.c.fits f.c.toNat = true ∧
    (f.te.getLsbD 0 = true → k.a.readable = true) ∧ (f.te.getLsbD 1 = true → k.b.readable = true) ∧
    (f.te.getLsbD 2 = true → k.c.readable = true) := by
  have imp (b c : Bool) : (!b || c) = true ↔ (b = true → c = true) := by cases b <;> simp
  unfold Form.check
  simp only [Bool.and_eq_true, imp, and_assoc]

/-! ## Forms that are not assigned -/

/-- A form whose condition fails is not assigned. -/
theorem Forms.ok_none {c : Bool} {d a b k : OperandKind} (h : c = false) : Forms.ok c d a b k = none := by
  simp [Forms.ok, h]

/-- A reserved rounding mode is none of R23. -/
theorem Forms.rnd_reserved {top o : Nat} (ht : top ≤ 4) (h : 4 < o % 8) : Forms.rnd top o = false := by
  simp [Forms.rnd]; omega

/-- A type code that R24 reserves is no type of an access, of an atomic, of a reduction or of a conversion. -/
theorem Forms.type_reserved {m : Nat} (h : 22 < m) : Forms.loadType m = false ∧ Forms.storeType m = false ∧
    (∀ o, Forms.atomOk m o = false) ∧ (∀ o, Forms.gredOk m o = false) ∧
    ∀ c o, Forms.cvtOk m c o = false ∧ Forms.cvtOk c m o = false := by
  have ne (k : Nat) (hk : k ≤ 22) : (m == k) = false := by simp; omega
  have le (k : Nat) (hk : k ≤ 22) : ¬ m ≤ k := by omega
  simp [Forms.loadType, Forms.storeType, Forms.atomOk, Forms.gredOk, Forms.cvtOk, ne, le]

/-- No form takes a reserved rounding mode (R23). -/
theorem Instr.form_of_reserved_rounding (f : Fields) (h : 4 < f.mod.toNat % 8) :
    ∀ i ∈ [Instr.fadd f, .fsub f, .fmul f, .ffma f, .frnd f, .hfma2 f, .hadd2 f, .hmul2 f, .cvt f,
      .cvtq f, .fscl f, .frcp f, .frsq f, .fsqrt f, .fexp2 f, .flog2 f, .fsin f, .fcos f, .ftanh f, .tst f], i.form = none := by
  have r4 : Forms.rnd 4 f.mod.toNat = false := Forms.rnd_reserved (by decide) h
  have r3 : Forms.rnd 3 f.mod.toNat = false := Forms.rnd_reserved (by decide) h
  have t3 : Forms.rnd 3 (f.mod.toNat % 64) = false := Forms.rnd_reserved (by decide) (by omega)
  have le3 : ¬ f.mod.toNat ≤ 3 := by omega
  have ne0 : ¬ f.mod.toNat = 0 := by omega
  simp only [List.forall_mem_cons]
  refine ⟨?_, ?_, ?_, ?_, ?_, ?_, ?_, ?_, ?_, ?_, ?_, ?_, ?_, ?_, ?_, ?_, ?_, ?_, ?_, ?_, List.forall_mem_nil _⟩ <;>
    exact Forms.ok_none (by simp [Forms.cvtOk, r4, r3, t3, le3, ne0])

/-- No form takes a reserved type code (R24). -/
theorem Instr.form_of_reserved_type (f : Fields) (h : 22 < f.minor.toNat % 32) :
    ∀ i ∈ [Instr.cvt f, .ld f, .st f, .ldq f, .stq f, .atom f, .red f, .cas f, .lds f, .sts f,
      .ldw f, .stw f, .stx f, .ldk f, .stk f, .atoms f, .atomk f, .ldl f, .stl f, .logv f, .gred f, .shfl f], i.form = none := by
  have big : 22 < f.minor.toNat := by omega
  obtain ⟨load, store, atom, gred, cvt⟩ := Forms.type_reserved big
  have ne (k : Nat) (hk : k ≤ 22) : ¬ f.minor.toNat = k ∧ ¬ f.minor.toNat % 32 = k := by omega
  simp only [List.forall_mem_cons]
  refine ⟨?_, ?_, ?_, ?_, ?_, ?_, ?_, ?_, ?_, ?_, ?_, ?_, ?_, ?_, ?_, ?_, ?_, ?_, ?_, ?_, ?_, ?_, List.forall_mem_nil _⟩ <;>
    exact Forms.ok_none (by simp [load, store, atom, gred, cvt, ne])

/-- No form takes a MINOR above 3 where R18 assigns none. -/
theorem Instr.form_of_unassigned_minor (f : Fields) (h : 3 < f.minor.toNat) :
    ∀ i ∈ [Instr.mov f, .movi f, .iadd f, .isub f, .imul f, .imad f, .icmp f, .and f, .or f, .xor f, .shl f,
      .vote f, .kset f, .bar f], i.form = none := by
  have le (k : Nat) (hk : k ≤ 3) : ¬ f.minor.toNat ≤ k := by omega
  simp only [List.forall_mem_cons]
  refine ⟨?_, ?_, ?_, ?_, ?_, ?_, ?_, ?_, ?_, ?_, ?_, ?_, ?_, ?_, List.forall_mem_nil _⟩ <;>
    exact Forms.ok_none (by simp [le])

/-- A literal stands only in a form that takes one (R21). -/
theorem Instr.form_of_literal (f : Fields) (h : f.lit.isSome = true) :
    ∀ i ∈ [Instr.nop f, .mov f, .movx f, .getid f, .vote f, .exit f, .yield f, .crr f, .crw f, .fence f],
      i.form = none := by
  simp only [List.forall_mem_cons]
  refine ⟨?_, ?_, ?_, ?_, ?_, ?_, ?_, ?_, ?_, ?_, List.forall_mem_nil _⟩ <;>
    exact Forms.ok_none (by simp [h])

/-- Settles O2: the decoder in one equation, the fields bit by bit, and the conditions of the forms. -/
theorem decodedFields : Obligations.DecodedFields := by
  unfold Obligations.DecodedFields
  refine ⟨decode_header, fun w0 rest i tail h => ?_, fun m _ hm w0 rest h0 h1 => ?_, fun i f k hf hk => ?_,
    fun i => Instr.not_wellFormed_of_form, fun f => ⟨Instr.form_of_reserved_rounding f, Instr.form_of_reserved_type f,
      fun h => Forms.ok_none (by simp [Forms.type_reserved h]), Instr.form_of_unassigned_minor f, Instr.form_of_literal f⟩⟩
  · obtain ⟨h3, hl, rfl, hi⟩ := decode_ok h
    obtain ⟨hf, hm⟩ := instrOf_fields _ _ _ hi
    exact ⟨h3, hm, (List.take_append_drop _ _).symm, List.length_take_of_le hl, _, hf, fieldsOf_bits _ _ _ _ rfl⟩
  · subst h0
    exact decode_unassigned w0 rest h1 hm
  · have fits := Form.check_iff k f
    simp only [← Instr.wellFormed_eq_check hf hk, OperandKind.readable_iff, OperandKind.fits_iff] at fits
    exact fits

/-! ## Words of the chapters -/

/-- Settles O1: the decoder computes each of the words. -/
theorem exampleWordsDecode : Obligations.ExampleWordsDecode := by
  unfold Obligations.ExampleWordsDecode
  exact ⟨rfl, rfl, rfl, rfl, rfl, rfl, rfl, rfl⟩

end Sys2Proof
end

section
/-! PROOFS. A step runs the instruction that the issuer's words decode to, or the planned event (log entries 1 and 10). -/

namespace Sys2Proof.Machine

/-- Words that decode run their instruction. -/
theorem runWords_decode {ws : List Word} {i : Instr} {rest : List Word} (h : decode ws = .ok (i, rest)) (s : State) :
    runWords ws s = exec i s := by
  unfold runWords; rw [h]

/-- The current issuer's words run where it does not wait (log entry 10). -/
theorem stepDefault_current {s : State} {ws : List Word} (hs : s.stalled = false) (hw : s.current = some ws) :
    stepDefault s = runWords ws s := by
  unfold stepDefault; rw [hs, hw]

/-- Nothing is planned. -/
theorem step_unplanned {s : State} (h : s.agenda = []) : step s = stepDefault s := by
  unfold step; rw [h]

/-- A turn of an issuer is planned: it comes after its ticks (log entry 1). -/
theorem step_issue {s : State} {m : Move} {more : List Move} {u : Issuer} (h : s.agenda = m :: more) (ha : m.act = .issue u) :
    step s = stepDefault { s.passTime m.dt with agenda := more, stalled := false, cur := u } := by
  unfold step; rw [h]; dsimp only; rw [ha]

/-- A device step is planned: it comes after its ticks. -/
theorem step_event {s : State} {m : Move} {more : List Move} {i : Instr} (h : s.agenda = m :: more) (ha : m.act = .event i)
    (hi : i.fields = none) : step s = exec i { s.passTime m.dt with agenda := more, stalled := false } := by
  unfold step; rw [h]; dsimp only; rw [ha]; dsimp only; rw [hi]; rfl

/-- The words that an issuer has next stand in its clause (log entry 1). -/
theorem State.current_of_clause {s : State} {r : ClauseRun} (h : s.clauseOf s.cur = some r) :
    s.current = r.insns[r.idx - 1]? := by
  unfold State.current; rw [h]; rfl

/-- Settles O4: a turn without a plan, a planned turn, a planned event, and the words of the clause. -/
theorem stepRunsTheInstruction : Obligations.StepRunsTheInstruction := by
  unfold Obligations.StepRunsTheInstruction
  refine ⟨fun s ws i rest h hs hw hd => ?_, fun s m more u ws i rest h ha hw hd => ?_,
    fun s m more i h ha hi => step_event h ha hi, fun s r => State.current_of_clause⟩
  · rw [step_unplanned h, stepDefault_current hs hw, runWords_decode hd]
  · rw [step_issue h ha, stepDefault_current rfl hw, runWords_decode hd]

end Sys2Proof.Machine
end

section
/-! PROOFS. What a vector instruction leaves unchanged (R53, R75, R77, R103), from what its outcomes keep (Laws/Frames.lean). -/

namespace Sys2Proof.Machine

/-- What an outcome leaves outside the group that issued: memory, partitions, clusters, cores but their slots, registrations,
commands, grids, the management core, other teams, and the rest of its own team. -/
def State.LeavesOutside (t gi : Nat) (tm : Team) (g : Group) (s u : State) : Prop :=
  u.sameMemory s ∧ u.partitions = s.partitions ∧ u.clusters = s.clusters ∧
  (∀ c, u.core c = { s.core c with slots := (u.core c).slots }) ∧ u.registrations = s.registrations ∧
  u.commands = s.commands ∧ u.grids = s.grids ∧ u.mgmt = s.mgmt ∧
  (∀ k, k ≠ t → u.team? k = s.team? k) ∧
  (∀ j, j ≠ gi → (u.group? t j).map (fun h => (h.regs, h.threads, h.empty, h.poison)) =
    (s.group? t j).map (fun h => (h.regs, h.threads, h.empty, h.poison))) ∧
  (u.team? t).map (fun x => (x.pad, x.visible, x.shadow, x.tiles, x.slices)) =
    some (tm.pad, tm.visible, tm.shadow, tm.tiles, tm.slices) ∧
  ((∀ c, g.clause = some c → c.teamWrites = []) → (u.team? t).map (·.trapVec) = some tm.trapVec)

/-- What an outcome leaves of the group that issued: the registers that are neither written nor the target of a write in
flight, and every thread's trap registers. -/
def State.LeavesOwn (t gi : Nat) (g : Group) (written : Nat → Bool) (u : State) : Prop :=
  (∀ r, written r = false → (∀ c, g.clause = some c → ∀ w ∈ c.fly, w.reg ≠ r) →
    (u.group? t gi).map (fun h => Map.get h.regs r []) = some (Map.get g.regs r [])) ∧
  (∀ l, (u.group? t gi).map (fun h => ((h.thread l).trapPc, (h.thread l).trapCause, (h.thread l).trapDetail)) =
    some ((g.thread l).trapPc, (g.thread l).trapCause, (g.thread l).trapDetail))

/-- A group of a resident team. -/
theorem State.group?_of_team {s : State} {t gi : Nat} {tm : Team} (h : s.team? t = some tm) : s.group? t gi = tm.groups[gi]? := by
  unfold State.group?; rw [h]; rfl

/-- What `State.Keeps` says of everything outside the group. -/
theorem State.Keeps.leavesOutside {W : Nat → Prop} {t gi : Nat} {s u : State} {tm : Team} {g : Group}
    (k : State.Keeps W t gi s u) (ht : s.team? t = some tm) (hg : s.group? t gi = some g) : State.LeavesOutside t gi tm g s u := by
  obtain ⟨x, hx, kept⟩ := k.own tm ht
  refine ⟨k.memory, k.partitions, k.clusters, k.cores, k.registrations, k.commands, k.grids, k.mgmt, k.other,
    fun j hj => ?_, ?_, fun unwritten => ?_⟩
  · rw [State.group?_of_team hx, State.group?_of_team ht]
    exact kept.other j hj
  · rw [hx]
    exact congrArg some kept.kept
  · rw [hx, Option.map_some, kept.vec (fun g' c hg' hc => ?_)]
    rw [State.group?_of_team ht, hg'] at hg
    cases hg
    exact unwritten c hc

/-- The registers that a group's clause writes, or has in flight. -/
def Group.Writes (g : Group) (written : Nat → Bool) (r : Nat) : Prop :=
  written r = true ∨ ∃ c, g.clause = some c ∧ ∃ w ∈ c.fly, w.reg = r

/-- What `State.Keeps` says of the group, where only the registers of its writes may change. -/
theorem State.Keeps.leavesOwn {written : Nat → Bool} {t gi : Nat} {s u : State} {tm : Team} {g : Group}
    (k : State.Keeps (g.Writes written) t gi s u) (ht : s.team? t = some tm) (hg : s.group? t gi = some g) :
    State.LeavesOwn t gi g written u := by
  obtain ⟨x, hx, kept⟩ := k.own tm ht
  rw [State.group?_of_team ht] at hg
  have inRange : gi < x.groups.length := by
    rw [kept.length]
    exact (List.getElem?_eq_some_iff.1 hg).1
  have hh := List.getElem?_eq_getElem inRange
  have own := kept.own g _ hg hh
  refine ⟨fun r hr free => ?_, fun l => ?_⟩
  · rw [State.group?_of_team hx, hh, Option.map_some, own.regs (fun c hc w hw => .inr ⟨c, hc, w, hw, rfl⟩)]
    rintro (h | ⟨c, hc, w, hw, he⟩)
    · rw [hr] at h; cases h
    · exact free c hc w hw he
  · rw [State.group?_of_team hx, hh]
    exact congrArg some (own.traps l)

/-- Settles O11: each of the three outcomes keeps what `State.Keeps` names. -/
theorem outcomeFrames : Obligations.OutcomeFrames := by
  intro s v tm g ht hg
  have leaves {written : Nat → Bool} {u : State} (k : State.Keeps (g.Writes written) v.t v.gi s u) :
      State.LeavesOutside v.t v.gi tm g s u ∧ State.LeavesOwn v.t v.gi g written u :=
    ⟨k.leavesOutside ht hg, k.leavesOwn ht hg⟩
  refine ⟨fun cycles lat k => leaves (v.done_keeps cycles lat k s fun lo hlo rw hrw => .inl ?_),
    fun cycles n wait results sfu flags => leaves (v.sent_keeps _ cycles n wait results sfu flags s),
    fun cycles => leaves (v.passed_keeps _ cycles s)⟩
  exact List.any_eq_true.2 ⟨lo, hlo, List.any_eq_true.2 ⟨rw, hrw, beq_self_eq_true _⟩⟩

end Sys2Proof.Machine
end

section
/-! PROOFS. Fixed-latency instructions: which of their threads trap, and with what (R55, R98, R376–R378). -/

namespace Sys2Proof.Machine

/-! ## The parts of a fixed-latency instruction -/

/-- The threads that the instruction itself traps. -/
def View.ownTraps (v : View) (k : Nat → LaneOut) : List (Nat × (Nat × Nat)) :=
  (v.outs k).filterMap (fun lo => lo.2.trap.map (fun c => (lo.1, c)))

/-- The other threads that raise an enabled flag (R55). -/
def View.arith (v : View) (k : Nat → LaneOut) : List (Nat × LaneOut) :=
  (v.outs k).filter (fun lo => lo.2.trap.isNone && (lo.2.flags &&& BitVec.ofNat 5 v.fpMode) != 0)

/-- The ARITHMETIC trap of such a thread, with its flags in the detail (R55). -/
def View.arithTrap (v : View) (lo : Nat × LaneOut) : Nat × (Nat × Nat) :=
  (lo.1, (5, (v.run.addr % 2 ^ 52) <<< 12 ||| v.run.idx <<< 8 ||| lo.2.flags.toNat))

/-- The threads that are left to write. -/
def View.passing (v : View) (k : Nat → LaneOut) : List (Nat × LaneOut) :=
  (v.outs k).filter (fun lo => lo.2.trap.isNone && (lo.2.flags &&& BitVec.ofNat 5 v.fpMode) == 0)

/-- Flags that threads raise are set (R53). -/
def View.setFlags (v : View) (los : List (Nat × LaneOut)) (s : State) : State :=
  los.foldl (fun s lo => s.modThread v.t v.gi lo.1 (fun th => { th with fpFlags := th.fpFlags ||| lo.2.flags })) s

/-- The machine after the threads that trap before any write have trapped. -/
def View.preTrapped (v : View) (k : Nat → LaneOut) (s : State) : State :=
  trapLanes v ((v.arith k).map v.arithTrap) (trapLanes v (v.ownTraps k) (v.setFlags (v.arith k) s))

/-- The end of a fixed-latency instruction for the threads that are left: they all trap where their writes fit no shape, else
they execute (R97, R98). -/
def View.write (v : View) (cycles lat : Nat) (los : List (Nat × LaneOut)) (s : State) : State :=
  match shapeFault v los with
  | some reg => retire v.t v.gi cycles (trapLanes v (los.map (fun lo => (lo.1, (3, reg)))) s)
  | none =>
    let s := countExec v.t v.gi (LaneSet.ofList (los.map Prod.fst)) (los.foldl (fun s lo =>
      if lo.2.flags = 0 then s
      else s.modThread v.t v.gi lo.1 (fun th => { th with fpFlags := th.fpFlags ||| lo.2.flags })) s)
    retire v.t v.gi cycles (s.fresh.2.modGroup v.t v.gi (launchWrites v lat s.fresh.1 los))

/-- A fixed-latency instruction in its parts. -/
theorem finish_eq (cycles lat : Nat) (k : Nat → LaneOut) (v : View) (s : State) : finish cycles lat k v s =
    .next (v.write cycles lat (injectShaped v (v.passing k) (v.preTrapped k s)).1
      (injectShaped v (v.passing k) (v.preTrapped k s)).2) := by
  change (match shapeFault v (injectShaped v (v.passing k) (v.preTrapped k s)).1 with
    | some reg => Host.Outcome.next _
    | none => Host.Outcome.next _) = _
  unfold View.write
  cases shapeFault v (injectShaped v (v.passing k) (v.preTrapped k s)).1 <;> rfl

/-- An output belongs to an executing thread, and is what the instruction computes for it. -/
theorem View.mem_outs {v : View} {k : Nat → LaneOut} {lo : Nat × LaneOut} :
    lo ∈ v.outs k ↔ lo.1 ∈ v.lanes.lanes ∧ lo.2 = k lo.1 := by
  unfold View.outs
  rw [List.mem_map]
  constructor
  · rintro ⟨l, hl, rfl⟩; exact ⟨hl, rfl⟩
  · rintro ⟨hl, he⟩; exact ⟨lo.1, hl, by rw [← he]⟩

/-- The outputs name each thread once. -/
theorem View.outs_nodup (v : View) (k : Nat → LaneOut) : ((v.outs k).map Prod.fst).Nodup := by
  have e : (v.outs k).map Prod.fst = v.lanes.lanes := by simp [View.outs, Function.comp_def]
  rw [e]
  exact LaneSet.lanes_nodup _

/-- Outputs that were filtered name each thread once. -/
theorem View.outs_filter_nodup (v : View) (k : Nat → LaneOut) (p : Nat × LaneOut → Bool) :
    (((v.outs k).filter p).map Prod.fst).Nodup :=
  (v.outs_nodup k).sublist (List.filter_sublist.map _)

/-- The instruction's own traps name each thread once. -/
theorem View.ownTraps_nodup (v : View) (k : Nat → LaneOut) : ((v.ownTraps k).map Prod.fst).Nodup := by
  have e : (v.ownTraps k).map Prod.fst = ((v.outs k).filter (fun lo => lo.2.trap.isSome)).map Prod.fst := by
    unfold View.ownTraps
    induction v.outs k with
    | nil => rfl
    | cons lo los ih => cases h : lo.2.trap <;> simp [h, ih]
  rw [e]
  exact v.outs_filter_nodup k _

/-- A thread that the instruction traps. -/
theorem View.mem_ownTraps {v : View} {k : Nat → LaneOut} {l : Nat} {c : Nat × Nat} :
    (l, c) ∈ v.ownTraps k ↔ l ∈ v.lanes.lanes ∧ (k l).trap = some c := by
  simp only [View.ownTraps, List.mem_filterMap, Option.map_eq_some_iff, Prod.mk.injEq]
  constructor
  · rintro ⟨lo, hlo, d, hd, rfl, rfl⟩
    obtain ⟨hl, he⟩ := View.mem_outs.1 hlo
    exact ⟨hl, he ▸ hd⟩
  · rintro ⟨hl, hc⟩
    exact ⟨(l, k l), View.mem_outs.2 ⟨hl, rfl⟩, c, hc, rfl, rfl⟩

/-- A thread that raises an enabled flag and no trap of the instruction's own. -/
theorem View.mem_arith {v : View} {k : Nat → LaneOut} {lo : Nat × LaneOut} : lo ∈ v.arith k ↔
    lo ∈ v.outs k ∧ (k lo.1).trap = none ∧ (k lo.1).flags &&& BitVec.ofNat 5 v.fpMode ≠ 0 := by
  unfold View.arith
  rw [List.mem_filter]
  refine and_congr_right fun h => ?_
  rw [(View.mem_outs.1 h).2, Bool.and_eq_true, Option.isNone_iff_eq_none, bne_iff_ne]

/-- A thread that is left to write. -/
theorem View.mem_passing {v : View} {k : Nat → LaneOut} {lo : Nat × LaneOut} : lo ∈ v.passing k ↔
    lo ∈ v.outs k ∧ (k lo.1).trap = none ∧ (k lo.1).flags &&& BitVec.ofNat 5 v.fpMode = 0 := by
  unfold View.passing
  rw [List.mem_filter]
  refine and_congr_right fun h => ?_
  rw [(View.mem_outs.1 h).2, Bool.and_eq_true, Option.isNone_iff_eq_none, beq_iff_eq]

/-- The traps that a thread takes before any write. -/
def View.TrapsEarly (v : View) (k : Nat → LaneOut) (l : Nat) (c : Nat × Nat) : Prop :=
  (k l).trap = some c ∨
    (k l).trap = none ∧ (k l).flags &&& BitVec.ofNat 5 v.fpMode ≠ 0 ∧ (v.arithTrap (l, k l)).2 = c

/-- A thread that traps early is not left to write. -/
theorem View.TrapsEarly.not_passing {v : View} {k : Nat → LaneOut} {l : Nat} {c : Nat × Nat} (h : v.TrapsEarly k l c) :
    l ∉ (v.passing k).map Prod.fst := by
  rw [List.mem_map]
  rintro ⟨lo, hlo, rfl⟩
  obtain ⟨-, untrapped, quiet⟩ := View.mem_passing.1 hlo
  rcases h with own | ⟨-, raised, -⟩
  · rw [untrapped] at own; cases own
  · exact raised quiet

/-- What decides a thread's trap: it is early, or no shape fits the writes of the threads that are left, itself among them. -/
theorem View.outcome_error {v : View} {k : Nat → LaneOut} {l : Nat} {c : Nat × Nat} (h : v.outcome k l = .error c) :
    v.TrapsEarly k l c ∨ (k l).trap = none ∧ (k l).flags &&& BitVec.ofNat 5 v.fpMode = 0 ∧
      ∃ reg, shapeFault v (v.passing k) = some reg ∧ c = (3, reg) := by
  unfold View.outcome at h
  dsimp only at h
  split at h
  · rename_i d own
    cases h
    exact .inl (.inl own)
  · rename_i untrapped
    split at h
    · rename_i raised
      cases h
      exact .inl (.inr ⟨untrapped, raised, by simp [View.arithTrap, Nat.shiftLeft_eq]⟩)
    · rename_i quiet
      split at h
      · rename_i reg fault
        cases h
        exact .inr ⟨untrapped, not_not.1 quiet, reg, fault, rfl⟩
      · cases h

/-! ## What the parts leave of a thread -/

/-- The injected flip changes nothing but which runs it has met (R444), and no thread's lane. -/
theorem injectShaped_keeps (v : View) (los : List (Nat × LaneOut)) (s : State) :
    (injectShaped v los s).2.teams = s.teams ∧ (injectShaped v los s).1.map Prod.fst = los.map Prod.fst := by
  unfold injectShaped injectOuts
  split
  · exact ⟨rfl, rfl⟩
  · split
    · exact ⟨rfl, by simp [Function.comp_def]⟩
    · exact ⟨rfl, rfl⟩

/-- Writes that by themselves fit no shape meet no flip (R98, R444). -/
theorem injectShaped_of_fault {v : View} {los : List (Nat × LaneOut)} {reg : Nat} (h : shapeFault v los = some reg) (s : State) :
    injectShaped v los s = (los, s) := by
  unfold injectShaped; rw [h]; rfl

/-- Raised flags leave a thread that may still trap. -/
theorem View.Fresh.setFlags {v : View} {l : Nat} (los : List (Nat × LaneOut)) {s : State} (a : v.Fresh l s) :
    v.Fresh l (v.setFlags los s) := by
  unfold View.setFlags
  induction los generalizing s with
  | nil => exact a
  | cons lo los ih => exact ih (a.modThread _ (.inr fun _ => ⟨rfl, rfl⟩))

/-- A change of the clause leaves a thread that may still trap. -/
theorem View.Fresh.modRun {v : View} {l : Nat} {s : State} (f : ClauseRun → ClauseRun) (a : v.Fresh l s) :
    v.Fresh l (v.modRun f s) := a.modGroup _ (fun _ => ⟨rfl, rfl, rfl, rfl⟩)

/-- The threads that are left leave one that has trapped where it stands. -/
theorem State.Away.write {v : View} {l : Nat} {x : TrapMark} {s : State} (cycles lat : Nat) (los : List (Nat × LaneOut))
    (h : l ∉ los.map Prod.fst) (a : s.Away v.t v.gi l x) : (v.write cycles lat los s).Away v.t v.gi l x := by
  unfold View.write
  split
  · refine (a.trapLanes v _ ?_).retire _
    rintro lc hlc rfl
    simp only [List.mem_map] at hlc h
    obtain ⟨lo, hlo, rfl⟩ := hlc
    exact h ⟨lo, hlo, rfl⟩
  · have flagged := State.Away.fold (xs := los) (f := fun s lo => if lo.2.flags = 0 then s
      else s.modThread v.t v.gi lo.1 (fun th => { th with fpFlags := th.fpFlags ||| lo.2.flags })) (fun lo _ s b => by
        split
        · exact b
        · exact b.modThread _ _ _ _ (.inr fun _ => rfl)) a
    exact ((flagged.countExec _ _ _).fresh.launchWrites v _ _ _).retire _

/-! ## The traps -/

/-- A thread that traps before any write stands where its trap left it. -/
theorem View.Fresh.preTrapped {v : View} {k : Nat → LaneOut} {l pc : Nat} {c : Nat × Nat} {s : State} (a : v.Fresh l s)
    (hl : l ∈ v.lanes.lanes) (hh : v.handler l = some pc) (h : v.TrapsEarly k l c) : (v.preTrapped k s).Away v.t v.gi l
      (true, pc, 0, BitVec.ofNat 64 v.run.addr, causeWord c.1 v.run.idx, BitVec.ofNat 64 c.2) := by
  have l32 := ((LaneSet.mem_lanes _ _).1 hl).1
  have flagged := a.setFlags (v.arith k)
  unfold View.preTrapped
  rcases h with own | ⟨untrapped, raised, rfl⟩
  · refine (flagged.trapLanes l32 hh c _ (v.ownTraps_nodup k) (View.mem_ownTraps.2 ⟨hl, own⟩)).trapLanes v _ ?_
    rintro lc hlc rfl
    obtain ⟨lo, hlo, rfl⟩ := List.mem_map.1 hlc
    obtain ⟨-, untrapped, -⟩ := View.mem_arith.1 hlo
    exact nomatch untrapped.symm.trans own
  · refine (flagged.others _ ?_).trapLanes l32 hh _ _ ?_
      (List.mem_map.2 ⟨(l, k l), View.mem_arith.2 ⟨View.mem_outs.2 ⟨hl, rfl⟩, untrapped, raised⟩, rfl⟩)
    · rintro ⟨m, d⟩ hm rfl
      exact nomatch untrapped.symm.trans (View.mem_ownTraps.1 hm).2
    · rw [List.map_map]
      exact v.outs_filter_nodup k _

/-- A thread that is left to write has not trapped before. -/
theorem View.Fresh.preTrapped_passing {v : View} {k : Nat → LaneOut} {l : Nat} {s : State} (a : v.Fresh l s)
    (untrapped : (k l).trap = none) (quiet : (k l).flags &&& BitVec.ofNat 5 v.fpMode = 0) : v.Fresh l (v.preTrapped k s) := by
  refine ((a.setFlags _).others _ ?_).others _ ?_
  · rintro ⟨m, d⟩ hm rfl
    exact nomatch untrapped.symm.trans (View.mem_ownTraps.1 hm).2
  · rintro lc hlc rfl
    obtain ⟨lo, hlo, rfl⟩ := List.mem_map.1 hlc
    obtain ⟨-, -, raised⟩ := View.mem_arith.1 hlo
    exact raised quiet

/-- Each thread whose outcome is a trap takes it (R376): with the instruction's cause, with ARITHMETIC, or for its shape. -/
theorem View.Fresh.finish_traps {v : View} {k : Nat → LaneOut} {l pc cause detail : Nat} {s : State} (cycles lat : Nat)
    (a : v.Fresh l s) (hl : l ∈ v.lanes.lanes) (ho : v.outcome k l = .error (cause, detail)) (hh : v.handler l = some pc) :
    ∃ t, finish cycles lat k v s = .next t ∧ v.trapped l pc cause detail t := by
  refine ⟨_, finish_eq cycles lat k v s, View.trapped_of_away ?_⟩
  rcases View.outcome_error ho with early | ⟨untrapped, quiet, reg, fault, hc⟩
  · obtain ⟨teams, lanes⟩ := injectShaped_keeps v (v.passing k) (v.preTrapped k s)
    exact ((a.preTrapped hl hh early).outside teams).write cycles lat _ (lanes ▸ early.not_passing)
  · cases hc
    rw [injectShaped_of_fault fault]
    unfold View.write
    rw [fault]
    refine ((a.preTrapped_passing untrapped quiet).trapLanes ((LaneSet.mem_lanes _ _).1 hl).1 hh (3, detail) _ ?_
      (List.mem_map.2 ⟨(l, k l), View.mem_passing.2 ⟨View.mem_outs.2 ⟨hl, rfl⟩, untrapped, quiet⟩, rfl⟩)).retire _
    rw [List.map_map]
    exact v.outs_filter_nodup k _

/-- An instruction that is given by what each thread computes executes as that says. -/
theorem executes_of_vec {i : Instr} {cycles lat : Nat} {k : View → Nat → LaneOut}
    (h : ∀ s, exec i s = vec i cycles lat k s) : Executes i cycles lat k := by
  intro s v hi
  refine ⟨fun hc => (h s).trans (vec_done hi hc), fun l pc cause detail _ hl ho hh => ?_⟩
  unfold Answers
  rw [h, vec, frame, frameWith_issue _ hi]
  exact (v.fresh_start hi l).finish_traps cycles lat hl ho hh

end Sys2Proof.Machine
end

section
/-! PROOFS. Branches, calls and returns execute, and trap on a misaligned target (R29, R81–R83). -/

namespace Sys2Proof.Machine

/-- Two computations that agree on the executing threads have the same outputs. -/
theorem View.outs_congr {v : View} {k k' : Nat → LaneOut} (h : ∀ l ∈ v.lanes.lanes, k l = k' l) : v.outs k = v.outs k' :=
  List.map_congr_left fun l hl => by rw [h l hl]

/-- A fixed-latency instruction depends on what its executing threads compute alone. -/
theorem finish_congr {v : View} {k k' : Nat → LaneOut} (h : ∀ l ∈ v.lanes.lanes, k l = k' l) (cycles lat : Nat)
    (s : State) : finish cycles lat k v s = finish cycles lat k' v s := by
  have e : v.lanes.lanes.map (fun l => (l, k l)) = v.lanes.lanes.map (fun l => (l, k' l)) := View.outs_congr h
  unfold finish
  rw [e]

/-- The targets that the executing threads note, those of a thread of no target as before (R81). -/
def View.noteTargets (v : View) (target : Nat → Option Nat) (m : Map Nat) : Map Nat :=
  v.lanes.lanes.foldl (fun m l => match target l with | some x => Map.put m l x | none => m) m

/-- The machine in which the targets are noted. -/
def View.noted (v : View) (target : Nat → Option Nat) (s : State) : State :=
  v.modRun (fun r => { r with targets := v.noteTargets target r.targets }) (v.start s)

/-- What an aligned transfer writes: the address of the next clause, if it links (R82). -/
def View.linkOut (v : View) (link : Bool) (target : Nat → Option Nat) (l : Nat) : LaneOut :=
  match target l with
  | some _ => if link then { regs := writesOf v.f.d.toNat v.run.next 2 } else {}
  | none => {}

/-- A target is the address of a word below 2^52, or raises MISALIGNED (R29). -/
def targetCheck (target : Nat → Option Nat) (l : Nat) : Except (Nat × Nat) Unit :=
  match target l with
  | some x => if x % 4 = 0 ∧ x < 2 ^ 52 then .ok () else .error (6, x)
  | none => .ok ()

/-- What a thread makes of a transfer. -/
def View.transferOut (v : View) (link : Bool) (target : Nat → Option Nat) (l : Nat) : LaneOut :=
  match targetCheck target l with
  | .ok _ => v.linkOut link target l
  | .error c => { trap := some c }

/-- A transfer that issues normally notes the targets and ends like a fixed-latency instruction (R81). -/
theorem transfer_issue {i : Instr} {s : State} {v : View} (link : Bool) (target : View → Nat → Option Nat)
    (h : s.issue? sources i = some v) :
    transfer i link target s = finish 1 1 (v.transferOut link (target v)) v (v.noted (target v) s) := by
  unfold transfer frame
  rw [frameWith_issue _ h]
  refine finish_congr (fun l _ => ?_) 1 1 _
  unfold View.transferOut View.linkOut targetCheck
  cases target v l with
  | none => rfl
  | some x =>
    have bad : (x % 4 ≠ 0 ∨ x >>> 52 ≠ 0) ↔ ¬ (x % 4 = 0 ∧ x < 2 ^ 52) := by
      rw [Nat.shiftRight_eq_div_pow]; omega
    by_cases ok : x % 4 = 0 ∧ x < 2 ^ 52
    · simp only [if_neg (mt bad.1 (not_not.2 ok)), if_pos ok]
    · simp only [if_pos (bad.2 ok), if_neg ok]

/-- A transfer executes where every target is aligned, and traps each thread whose target is not (R29, R81, R82). -/
theorem transfer_executes {i : Instr} {s : State} {v : View} (link : Bool) (target : View → Nat → Option Nat)
    (hx : exec i s = transfer i link target s) :
    (s.issue? sources i = some v → (∀ l ∈ v.lanes.lanes, targetCheck (target v) l = .ok ()) →
      v.clean (v.noted (target v) s) (v.linkOut link (target v)) = true →
      exec i s = .next (v.done 1 1 (v.linkOut link (target v)) (v.noted (target v) s))) ∧
    v.traps s i (targetCheck (target v)) := by
  refine ⟨fun hi aligned clean => ?_, fun l pc cause detail hi hl hc hh => ?_⟩
  · have same : ∀ l ∈ v.lanes.lanes, v.transferOut link (target v) l = v.linkOut link (target v) l := fun l hl => by
      unfold View.transferOut; rw [aligned l hl]
    rw [hx, transfer_issue link target hi, finish_congr same, finish_clean clean]
  · unfold Answers
    rw [hx, transfer_issue link target hi]
    refine ((v.fresh_start hi l).modRun _).finish_traps 1 1 hl ?_ hh
    unfold View.outcome View.transferOut
    rw [hc]

/-- Settles O30: each of the six transfers is `transfer` with its own target. -/
theorem transfersExecute : Obligations.TransfersExecute := by
  intro f s v
  exact ⟨transfer_executes false (fun v _ => some v.offsetTarget) rfl,
    transfer_executes false (fun v l => if branchTaken f.minor.toNat f.mod.toNat (v.a l) then some v.offsetTarget else none) rfl,
    transfer_executes false (fun v l => some (v.a l)) rfl, transfer_executes false (fun v l => some (v.a l)) rfl,
    transfer_executes true (fun v _ => some v.offsetTarget) rfl, transfer_executes true (fun v l => some (v.a l)) rfl⟩

end Sys2Proof.Machine
end

section
/-! PROOFS. Moves, selections, full/empty settings and indexed moves execute, and trap on bad indexes (R107–R114). -/

namespace Sys2Proof.Machine

/-! ## Checks -/

/-- The threads that a test refuses, each with the same trap. -/
theorem View.failing_test (v : View) (p : Nat → Bool) (c : Nat × Nat) :
    v.failing (fun l => if p l then Except.error c else .ok ()) = (v.lanes.lanes.filter p).map (fun l => (l, c)) := by
  unfold View.failing
  induction v.lanes.lanes with
  | nil => rfl
  | cons l ls ih => cases h : p l <;> simp [h, ih]

/-- The threads that a test lets pass. -/
theorem View.good_test (v : View) (p : Nat → Bool) (c : Nat × Nat) :
    v.good (fun l => if p l then Except.error c else .ok ()) = (v.lanes.lanes.filter (fun l => !p l)).map (fun l => (l, ())) := by
  unfold View.good
  induction v.lanes.lanes with
  | nil => rfl
  | cons l ls ih => cases h : p l <;> simp [h, ih]

/-- After two checks in turn, of which the second refuses none that the first does, a thread that fails one has trapped. -/
theorem View.checkedTwice_away {ρ σ : Type} {i : Instr} {s : State} {v : View} {read : Fields → Form → List (Nat × Bool)}
    (h : s.issue? read i = some v) (first : Nat → Except (Nat × Nat) ρ) (second : Nat → Except (Nat × Nat) σ) {l pc : Nat}
    {c : Nat × Nat} (hl : l ∈ v.lanes.lanes) (hh : v.handler l = some pc)
    (hc : first l = .error c ∧ (∃ x, second l = .ok x) ∨ (∃ x, first l = .ok x) ∧ second l = .error c) :
    (trapLanes v (v.failing second) (v.checked first s)).Away v.t v.gi l
      (true, pc, 0, BitVec.ofNat 64 v.run.addr, causeWord c.1 v.run.idx, BitVec.ofNat 64 c.2) := by
  rcases hc with ⟨fails, x, passes⟩ | ⟨⟨x, passes⟩, fails⟩
  · refine (View.checked_away h first hl fails hh).trapLanes v _ ?_
    rintro ⟨m, d⟩ hm rfl
    exact nomatch passes.symm.trans (View.mem_failing.1 hm).2
  · refine ((v.fresh_start h l).others _ ?_).trapLanes ((LaneSet.mem_lanes _ _).1 hl).1 hh c _ (v.failing_nodup second)
      (View.mem_failing.2 ⟨hl, fails⟩)
    rintro ⟨m, d⟩ hm rfl
    exact nomatch passes.symm.trans (View.mem_failing.1 hm).2

/-! ## SETFE -/

/-- SETFE.test reads the full bit (R112). -/
theorem execSetfe_test {f : Fields} {s : State} {v : View} (h : s.issue? sources (.setfe f) = some v) (hm : f.minor.toNat = 2) :
    exec (.setfe f) s = finish 1 1 (fun l => { preds := [(f.d.toNat, !(Map.get v.g.empty f.a.toNat 0).getLsbD l &&
        !(Map.get v.g.poison f.a.toNat 0).getLsbD l)] }) v (v.start s) := by
  show execSetfe f s = _
  unfold execSetfe frame
  rw [frameWith_issue _ h, if_pos hm]

/-- SETFE.full and SETFE.empty put a write of latency 1 in flight (R112). -/
theorem execSetfe_set {f : Fields} {s : State} {v : View} (h : s.issue? sources (.setfe f) = some v) (hm : f.minor.toNat ≠ 2)
    (hl : v.lanes ≠ 0) :
    let s1 := countExec v.t v.gi v.lanes (v.start s)
    let w : Fly := { seq := s1.fresh.1, vis := v.run.nominal + 1, kind := 1 + f.minor.toNat, reg := f.a.toNat
                     vals := v.lanes.lanes.map (fun l => (l, 0)), cnts := [] }
    exec (.setfe f) s = .next (retire v.t v.gi 1 (s1.fresh.2.modGroup v.t v.gi (fun g =>
      { g with clause := g.clause.map (fun r => { r with fly := insertFly w r.fly }) }))) := by
  show execSetfe f s = _
  unfold execSetfe frame
  rw [frameWith_issue _ h, if_neg hm, if_neg hl]

/-! ## MOVX and MOVXW -/

/-- An index is bad where it is out of range, odd for a pair, or names an absent register (R113). -/
theorem badIndex_iff (v : View) (n x : Nat) : badIndex v n x = true ↔
    255 < x ∨ (n = 2 ∧ x % 2 = 1) ∨ ∃ k, k < n ∧ v.team.shape v.gi (x + k) = 0 := by
  simp [badIndex, or_assoc]

/-- The check of an index. -/
def View.indexCheck (v : View) (n l : Nat) : Except (Nat × Nat) Unit :=
  if badIndex v n (v.a l) then .error (1, 0) else .ok ()

/-- The registers that a thread's index names, with the TE bit of the instruction (R113). -/
def View.indexed (v : View) (n : Nat) (te : Bool) (l : Nat) : List (Nat × Bool) :=
  (List.range n).map (fun k => (v.a l + k, te))

/-- The check of the registers that a good index names. -/
def View.readCheck (v : View) (n : Nat) (te : Bool) (l : Nat) : Except (Nat × Nat) Unit :=
  if badIndex v n (v.a l) then .ok ()
  else match readTrap v.g l (v.indexed n te l) with | some c => .error c | none => .ok ()

/-- Both checks. -/
def View.movxCheck (v : View) (n : Nat) (te : Bool) (l : Nat) : Except (Nat × Nat) Unit :=
  if badIndex v n (v.a l) then .error (1, 0)
  else match readTrap v.g l (v.indexed n te l) with | some c => .error c | none => .ok ()

/-- A thread waits for a register that its index names. -/
def View.movxWaits (v : View) (n : Nat) (te : Bool) : Bool :=
  v.lanes.lanes.any (fun l => !badIndex v n (v.a l) && blocked v.g (1#32 <<< l) (v.indexed n te l))

/-- The threads that trap on the registers that they name. -/
theorem View.failing_readCheck (v : View) (n : Nat) (te : Bool) : v.failing (v.readCheck n te) =
    v.lanes.lanes.filterMap (fun l =>
      if badIndex v n (v.a l) then none else (readTrap v.g l (v.indexed n te l)).map (fun c => (l, c))) := by
  unfold View.failing View.readCheck
  refine List.filterMap_congr fun l _ => ?_
  cases badIndex v n (v.a l) with
  | true => rfl
  | false => cases readTrap v.g l (v.indexed n te l) <;> rfl

/-- The threads that read. -/
theorem View.good_movxCheck (v : View) (n : Nat) (te : Bool) : v.good (v.movxCheck n te) =
    ((v.lanes.lanes.filter (fun l => !badIndex v n (v.a l))).filter
      (fun l => (readTrap v.g l (v.indexed n te l)).isNone)).map (fun l => (l, ())) := by
  unfold View.good View.movxCheck
  induction v.lanes.lanes with
  | nil => rfl
  | cons l ls ih =>
    cases hb : badIndex v n (v.a l) with
    | true => simp [hb, ih]
    | false => cases hr : readTrap v.g l (v.indexed n te l) <;> simp [hb, hr, ih]

/-- The set of threads that carry nothing. -/
theorem lanesIn_unit (ls : List Nat) : lanesIn (ls.map (fun l => (l, ()))) = LaneSet.ofList ls := by
  simp [lanesIn, Function.comp_def]

/-- MOVX waits for the registers that good indexes name; else the threads with a bad index trap, then those whose registers
trap, and the others send (R113). -/
theorem execMovx_issue {f : Fields} {s : State} {v : View} {n : Nat} (h : s.issue? sources (.movx f) = some v)
    (hn : n = if f.minor.toNat = 1 then 2 else 1) :
    (v.movxWaits n (f.mod.getLsbD 0) = true → exec (.movx f) s = stall (v.start s)) ∧
    (v.movxWaits n (f.mod.getLsbD 0) = false →
      let good := v.good (v.movxCheck n (f.mod.getLsbD 0))
      let s1 := countExec v.t v.gi (lanesIn good)
        (trapLanes v (v.failing (v.readCheck n (f.mod.getLsbD 0))) (v.checked (v.indexCheck n) s))
      exec (.movx f) s = .next (retire v.t v.gi 1 (sendLong v s1.fresh.1 n .none (lanesIn good)
        (good.map (fun lx => (lx.1, (List.range n).map (fun k => readReg v.team v.gi v.g (v.a lx.1 + k) lx.1)))) false []
        s1.fresh.2))) := by
  have waits : (v.lanes.lanes.filter (fun l => !badIndex v n (v.a l))).any
      (fun l => blocked v.g (1#32 <<< l) (v.indexed n (f.mod.getLsbD 0) l)) = v.movxWaits n (f.mod.getLsbD 0) := List.any_filter
  have late : (v.lanes.lanes.filter (fun l => !badIndex v n (v.a l))).filterMap (fun l =>
      (readTrap v.g l (v.indexed n (f.mod.getLsbD 0) l)).map (fun c => (l, c))) =
      v.failing (v.readCheck n (f.mod.getLsbD 0)) := by
    rw [View.failing_readCheck, List.filterMap_filter]
    refine List.filterMap_congr fun l _ => ?_
    cases badIndex v n (v.a l) <;> rfl
  have early : v.checked (v.indexCheck n) s =
      trapLanes v ((v.lanes.lanes.filter (fun l => badIndex v n (v.a l))).map (fun l => (l, (1, 0)))) (v.start s) :=
    congrArg (trapLanes v · (v.start s)) (v.failing_test _ _)
  show (_ → execMovx f s = _) ∧ (_ → execMovx f s = _)
  unfold execMovx frame
  rw [frameWith_issue _ h, ← hn]
  refine ⟨fun hw => if_pos (waits.trans hw), fun hw => (if_neg (Bool.eq_false_iff.1 (waits.trans hw))).trans ?_⟩
  rw [View.good_movxCheck, lanesIn_unit, List.map_map, early, ← late]
  rfl

/-- The rest of a long-latency instruction leaves a thread that has trapped where it stands. -/
theorem State.Away.sentRest {t gi l : Nat} {x : TrapMark} {s : State} (v : View) (lanes lanes' : LaneSet) (n : Nat)
    (wait : WaitKind) (results : Map (List Word)) (sfu : Bool) (flags : Map (BitVec 5)) (a : s.Away t gi l x) :
    (Machine.sendLong v (Machine.countExec v.t v.gi lanes s).fresh.1 n wait lanes' results sfu flags
      (Machine.countExec v.t v.gi lanes s).fresh.2).Away t gi l x :=
  (a.countExec _ _ _).fresh.sendLong v _ _ _ _ _ _ _

/-- MOVX traps the threads with a bad index, and those that trap on the registers that they name (R113). -/
theorem execMovx_traps {f : Fields} {s : State} {v : View} {n : Nat} (hn : n = if f.minor.toNat = 1 then 2 else 1)
    (hw : v.movxWaits n (f.mod.getLsbD 0) = false) : v.traps s (.movx f) (v.movxCheck n (f.mod.getLsbD 0)) := by
  intro l pc cause detail hi hl hc hh
  refine ⟨_, (execMovx_issue hi hn).2 hw, View.trapped_of_away
    (((View.checkedTwice_away hi (v.indexCheck n) (v.readCheck n (f.mod.getLsbD 0)) (c := (cause, detail))
      hl hh ?_).sentRest v _ _ _ _ _ _ _).retire 1)⟩
  unfold View.movxCheck at hc
  unfold View.indexCheck View.readCheck
  split at hc
  · rename_i bad
    exact .inl ⟨(if_pos bad).trans hc, (), if_pos bad⟩
  · rename_i good
    exact .inr ⟨⟨(), if_neg good⟩, (if_neg good).trans hc⟩

/-- What MOVXW writes to a register that good indexes name (R114). -/
def View.movxwOuts (v : View) (n x : Nat) : List (Nat × LaneOut) :=
  ((v.good (v.indexCheck n)).filter (fun lx => v.a lx.1 == x)).map (fun lx => (lx.1, { regs := writesOf x (v.b lx.1) n }))

/-- The registers that good indexes name, each once. -/
def View.movxwTargets (v : View) (n : Nat) : List Nat := ((v.good (v.indexCheck n)).map (fun lx => v.a lx.1)).eraseDups

/-- The writes to one register: the threads that named it trap where no shape fits, else they execute. -/
def View.writeIndexed (v : View) (los : List (Nat × LaneOut)) (s : State) : State :=
  match shapeFault v los with
  | some reg => trapLanes v (los.map (fun lo => (lo.1, (3, reg)))) s
  | none =>
    let s := countExec v.t v.gi (LaneSet.ofList (los.map Prod.fst)) s
    s.fresh.2.modGroup v.t v.gi (launchWrites v 11 s.fresh.1 los)

/-- MOVXW: the threads with a bad index trap, then each named register is written once (R114). -/
theorem execMovxw_issue {f : Fields} {s : State} {v : View} {n : Nat} (h : s.issue? sources (.movxw f) = some v)
    (hn : n = if f.minor.toNat = 1 then 2 else 1) :
    exec (.movxw f) s = .next (retire v.t v.gi 1 ((v.movxwTargets n).foldl (fun acc x =>
      v.writeIndexed (injectShaped v (v.movxwOuts n x) acc).1 (injectShaped v (v.movxwOuts n x) acc).2)
      (v.checked (v.indexCheck n) s))) := by
  have good : v.good (v.indexCheck n) = _ := v.good_test _ _
  have early : v.checked (v.indexCheck n) s =
      trapLanes v ((v.lanes.lanes.filter (fun l => badIndex v n (v.a l))).map (fun l => (l, (1, 0)))) (v.start s) :=
    congrArg (trapLanes v · (v.start s)) (v.failing_test _ _)
  show execMovxw f s = _
  unfold execMovxw frame View.movxwTargets View.movxwOuts
  rw [frameWith_issue _ h, ← hn, early, good, List.map_map]
  simp only [List.filter_map, List.map_map]
  rfl

/-- A thread that writes by MOVXW has a good index. -/
theorem View.movxwOuts_good {v : View} {n x l : Nat} (h : l ∈ (v.movxwOuts n x).map Prod.fst) : v.indexCheck n l = .ok () := by
  simp only [View.movxwOuts, List.map_map, List.mem_map, List.mem_filter] at h
  obtain ⟨lx, ⟨hlx, -⟩, rfl⟩ := h
  exact (View.mem_good.1 hlx).2

/-- The writes of other threads to a register leave one that has trapped where it stands. -/
theorem State.Away.writeIndexed {v : View} {l : Nat} {x : TrapMark} {s : State} {los : List (Nat × LaneOut)}
    (h : l ∉ los.map Prod.fst) (a : s.Away v.t v.gi l x) : (v.writeIndexed los s).Away v.t v.gi l x := by
  unfold View.writeIndexed
  split
  · refine a.trapLanes v _ ?_
    rintro lc hlc rfl
    obtain ⟨lo, hlo, rfl⟩ := List.mem_map.1 hlc
    exact h (List.mem_map.2 ⟨lo, hlo, rfl⟩)
  · exact (a.countExec _ _ _).fresh.launchWrites v _ _ _

/-- MOVXW traps the threads with a bad index (R114). -/
theorem execMovxw_traps {f : Fields} {s : State} {v : View} {n : Nat} (hn : n = if f.minor.toNat = 1 then 2 else 1) :
    v.traps s (.movxw f) (v.indexCheck n) := by
  intro l pc cause detail hi hl hc hh
  refine ⟨_, execMovxw_issue hi hn, View.trapped_of_away ((State.Away.fold (fun x _ u away => ?_)
    (View.checked_away hi _ hl hc hh)).retire 1)⟩
  obtain ⟨teams, lanes⟩ := injectShaped_keeps v (v.movxwOuts n x) u
  refine (away.outside teams).writeIndexed fun hm => ?_
  rw [lanes] at hm
  exact nomatch (View.movxwOuts_good hm).symm.trans hc

/-! ## Where no flip is armed -/

/-- A trap leaves the target of an injection as it is. -/
theorem takeTrap_target (t gi l : Nat) (vec : Dword) (pc cause index detail : Nat) (s : State) :
    (takeTrap t gi l vec pc cause index detail s).target = s.target := by
  unfold takeTrap
  split
  · dsimp only
    split
    · split <;> simp
    · split
      · split
        · simp
        · simp
        · change (s.modGroup t gi _).target = _; simp
      · simp
  · rfl

/-- Traps leave the target of an injection as it is. -/
theorem trapLanes_target (v : View) (ls : List (Nat × (Nat × Nat))) (s : State) : (trapLanes v ls s).target = s.target := by
  unfold trapLanes
  induction ls generalizing s with
  | nil => rfl
  | cons lc ls ih => rw [List.foldl_cons, ih]; exact takeTrap_target _ _ _ _ _ _ _ _ s

/-- Counting leaves the target of an injection as it is. -/
theorem countExec_target (t gi : Nat) (lanes : LaneSet) (s : State) : (countExec t gi lanes s).target = s.target := by
  unfold countExec
  split
  · dsimp only
    split
    · split
      · split <;> simp
      · simp
    · simp
  · rfl

/-- The writes to a register leave the target of an injection as it is. -/
theorem View.writeIndexed_target (v : View) (los : List (Nat × LaneOut)) (s : State) :
    (v.writeIndexed los s).target = s.target := by
  unfold View.writeIndexed
  split
  · exact trapLanes_target _ _ _
  · simp [countExec_target]

/-- Where no flip is armed, none is met (R444). -/
theorem injectShaped_of_target {v : View} {los : List (Nat × LaneOut)} {s : State} (h : s.target = none) :
    injectShaped v los s = (los, s) := by
  have none_met : ∀ lo : Nat × LaneOut,
      (lo.2.trap.isNone && lo.2.regs.any (fun rw => s.injects v.team v.gi lo.1 rw.1)) = false := by
    intro lo
    simp [State.injects, h]
  unfold injectShaped injectOuts
  simp [none_met]

/-- Two folds agree where their steps agree as long as something holds that the steps keep. -/
theorem foldl_congr_of_kept {α β : Type} {P : β → Prop} {f g : β → α → β} (same : ∀ b a, P b → f b a = g b a)
    (kept : ∀ b a, P b → P (g b a)) (xs : List α) {b : β} (hb : P b) : xs.foldl f b = xs.foldl g b := by
  induction xs generalizing b with
  | nil => rfl
  | cons a as ih => rw [List.foldl_cons, List.foldl_cons, same b a hb, ih (kept b a hb)]

/-- Where no flip is armed, MOVXW writes the named registers in turn (R114). -/
theorem execMovxw_unarmed {f : Fields} {s : State} {v : View} {n : Nat} (h : s.issue? sources (.movxw f) = some v)
    (hn : n = if f.minor.toNat = 1 then 2 else 1) (ht : (v.start s).target = none) :
    exec (.movxw f) s = .next (retire v.t v.gi 1 ((v.movxwTargets n).foldl (fun acc x => v.writeIndexed (v.movxwOuts n x) acc)
      (v.checked (v.indexCheck n) s))) := by
  have unarmed : (v.checked (v.indexCheck n) s).target = none := by
    unfold View.checked
    rw [trapLanes_target, ht]
  rw [execMovxw_issue h hn, foldl_congr_of_kept (P := fun u : State => u.target = none) (fun u x hu => ?_)
    (fun u x hu => (v.writeIndexed_target (v.movxwOuts n x) u).trans hu) _ unarmed]
  rw [injectShaped_of_target hu]

/-! ## The statement -/

/-- MOV takes a cycle more for a quad (R108). -/
theorem execMov_eq (f : Fields) (s : State) : exec (.mov f) s = vec (.mov f) (if f.minor.toNat = 2 then 2 else 1)
    (if f.minor.toNat = 2 then 3 else 2) (fun v l => { regs := writesOf f.d.toNat (v.a l) (2 ^ f.minor.toNat) }) s := by
  show execMov f s = _
  unfold execMov
  simp only [beq_iff_eq]
  rfl

/-- Settles O14: the moves by what each thread computes, SETFE by its two effects, MOVX and MOVXW by their checks and what the
threads that pass them do. -/
theorem movesExecute : Obligations.MovesExecute := by
  unfold Obligations.MovesExecute
  refine ⟨fun f => ⟨executes_of_vec fun _ => rfl, executes_of_vec (execMov_eq f), executes_of_vec fun _ => rfl,
      executes_of_vec fun _ => rfl, executes_of_vec fun _ => rfl⟩,
    fun f s v => ⟨fun hi hm clean => (execSetfe_test hi hm).trans (finish_clean clean), execSetfe_set, badIndex_iff v, ?_⟩⟩
  generalize hn : (if f.minor.toNat = 1 then 2 else 1) = n
  refine ⟨fun hi => ?_, execMovx_traps hn.symm, fun hi ht => execMovxw_unarmed hi hn.symm ht, execMovxw_traps hn.symm⟩
  have movx := execMovx_issue hi hn.symm
  rw [View.failing_readCheck] at movx
  exact movx

end Sys2Proof.Machine
end

section
/-! PROOFS. Issue and landing: a slot wakes its pipe and issues an entry, the checks of a clause and of an instruction, queued
accesses that perform, and results that land (R26, R65, R71, R78, R105, R106, R145, R160–R166, R222, R390). -/

namespace Sys2Proof.Machine

/-! ## A slot issues -/

/-- The machine after the slot has asked to wake its sleeping pipe for the first group that would issue a clause of it (R390). -/
def State.woken (s : State) (core slot : Nat) : State :=
  match (if (s.core core).sleeps slot = true
    then (s.candidates core slot).filter (fun c => s.vectorAt c.tm c.g c.entry) else []) with
  | [] => s
  | c :: _ => if (s.cluster (clusterOf core)).holdings.any (fun h => h.requester == 4 * (core % 4) + slot) then s
      else s.ask (clusterOf core) (4 * (core % 4) + slot) 4 (s.levelOf c.tm) c.t 0

/-- A free slot issues the entry of the group that it chooses, or nothing (R65, R71). -/
theorem exec_clauseDecode_slot {core slot : Nat} {s : State} (h4 : slot < 4) (free : s.slotBusy core slot = false) :
    exec (.clauseDecode core slot) s = .next (((s.woken core slot).slotChoice core slot).elim (s.woken core slot)
      (fun c => issueEntry c core slot (s.woken core slot))) := by
  show execClauseDecode core slot s = _
  unfold execClauseDecode
  rw [if_neg (by omega), if_neg (by simp [free])]
  change (match (s.woken core slot).slotChoice core slot with
    | some c => Host.Outcome.next (issueEntry c core slot (s.woken core slot))
    | none => .next (s.woken core slot)) = _
  cases (s.woken core slot).slotChoice core slot <;> rfl

/-- A place past the slots is a sequencer of the core (R260). -/
theorem exec_clauseDecode_stream {core slot t : Nat} {s : State} {tm : Team} (h4 : 4 ≤ slot)
    (ht : (s.teams.filter (fun kt => kt.2.core == core))[slot - 4]? = some (t, tm)) :
    exec (.clauseDecode core slot) s = .next (if s.streamReady tm then decodeStream t tm s else s) := by
  show execClauseDecode core slot s = _
  unfold execClauseDecode
  rw [if_pos h4, ht]

/-! ## An entry issues -/

/-- The threads of an entry with a pending ARITHMETIC trap (R145). -/
def Candidate.pending (c : Candidate) : LaneSet := LaneSet.filter c.entry.lanes (fun l => (c.g.thread l).pend.isSome)

/-- The clause of an entry, or why it is not decoded (R26). -/
def Candidate.found (c : Candidate) (core : Nat) (s : State) : Except ClauseFault Decoded :=
  s.decodeClause c.tm.part core c.g.asid c.entry.pc false (fun r => c.tm.shape c.gi r == 0)

/-- The lines that its fetch misses. -/
def Candidate.misses (c : Candidate) (core : Nat) (s : State) : List Nat :=
  s.clauseMisses core c.g.asid c.entry.pc (c.found core s)

/-- Their translations are known (R222). -/
def Candidate.known (c : Candidate) (core : Nat) (s : State) : Bool :=
  s.allKnown ⟨0, c.t, c.gi⟩ (dieOf core) c.tm.part c.g.asid (c.misses core s)

/-- The machine after the code up to an address has been fetched. -/
def Candidate.filled (c : Candidate) (core : Nat) (s : State) (upTo : Nat) : State :=
  (s.cacheCode (UnitFault.of c.tm c.g 0 0 (32 * c.gi + c.entry.lanes.lanes.headD 0)) c.tm.part core c.g.asid c.entry.pc
    upTo).spend ⟨0, c.t, c.gi⟩

/-- The address of the entry is that of a word below 2^52. -/
def Candidate.aligned (c : Candidate) : Prop := c.entry.pc % 4 = 0 ∧ c.entry.pc < 2 ^ 52

/-- Where the model finds the address misaligned (log entry 23). -/
theorem Candidate.misaligned_iff (c : Candidate) : (c.entry.pc % 4 ≠ 0 ∨ c.entry.pc >>> 52 ≠ 0) ↔ ¬ c.aligned := by
  unfold Candidate.aligned
  rw [Nat.shiftRight_eq_div_pow]; omega

/-- Pending ARITHMETIC traps come first (R145). -/
theorem issueEntry_pending {c : Candidate} (core slot : Nat) (s : State) (h : c.pending ≠ 0) : issueEntry c core slot s =
    ((c.pending.lanes.foldl (fun s l => takeTrap c.t c.gi l c.tm.trapVec c.entry.pc 5 0
      ((((c.g.thread l).pend).map (·.toNat)).getD 0) (s.modThread c.t c.gi l (fun th => { th with pend := none }))) s)
    |>.countIssue c.t c.gi (tailKey (s.frontier c.tm c.g)) false false true) := by
  unfold issueEntry
  exact if_pos h

/-- A misaligned PC traps (log entry 23). -/
theorem issueEntry_misaligned {c : Candidate} (core slot : Nat) (s : State) (h : c.pending = 0) (ha : ¬ c.aligned) :
    issueEntry c core slot s = trapEntry c c.entry.pc 0 6 c.entry.pc s := by
  unfold issueEntry
  exact (if_neg (not_not.2 h)).trans (if_pos (c.misaligned_iff.2 ha))

/-- Past both checks the entry waits for its walk, or its clause is decoded. -/
theorem issueEntry_aligned {c : Candidate} (core slot : Nat) (s : State) (h : c.pending = 0) (ha : c.aligned) :
    issueEntry c core slot s = if (!c.known core s) = true then
        s.askWalks ⟨0, c.t, c.gi⟩ (dieOf core) c.tm.part c.g.asid (c.misses core s)
      else match c.found core s with
        | .error f => clauseFault c f (c.filled core s f.upTo)
        | .ok d =>
          if headerCount d.header.toNat < c.entry.idx then trapEntry c c.entry.pc 0 2 3 (c.filled core s d.next)
          else match clausePipe d.header d.insns with
            | some pipe => if (c.filled core s d.next).pipeGranted core slot pipe c
                then startClause c d core slot (c.filled core s d.next) else (c.filled core s d.next).askPipe core slot pipe c
            | none => startClause c d core slot (c.filled core s d.next) := by
  unfold issueEntry
  exact (if_neg (not_not.2 h)).trans ((if_neg (mt c.misaligned_iff.1 (not_not.2 ha))).trans rfl)

/-- Code that misses its translation cache waits for the walk (R222). -/
theorem issueEntry_unknown {c : Candidate} (core slot : Nat) (s : State) (h : c.pending = 0) (ha : c.aligned)
    (hk : c.known core s = false) :
    issueEntry c core slot s = s.askWalks ⟨0, c.t, c.gi⟩ (dieOf core) c.tm.part c.g.asid (c.misses core s) := by
  rw [issueEntry_aligned core slot s h ha, hk]
  rfl

/-- A clause that fails a check meets its fate (R26). -/
theorem issueEntry_fault {c : Candidate} (core slot : Nat) (s : State) (h : c.pending = 0) (ha : c.aligned)
    (hk : c.known core s = true) {f : ClauseFault} (hf : c.found core s = .error f) :
    issueEntry c core slot s = clauseFault c f (c.filled core s f.upTo) := by
  rw [issueEntry_aligned core slot s h ha, hk, hf]
  rfl

/-- A return to an index past the clause traps (R379). -/
theorem issueEntry_past {c : Candidate} (core slot : Nat) (s : State) (h : c.pending = 0) (ha : c.aligned)
    (hk : c.known core s = true) {d : Decoded} (hd : c.found core s = .ok d) (hi : headerCount d.header.toNat < c.entry.idx) :
    issueEntry c core slot s = trapEntry c c.entry.pc 0 2 3 (c.filled core s d.next) := by
  rw [issueEntry_aligned core slot s h ha, hk, hd]
  exact if_pos hi

/-- A clause that takes no shared pipe starts; one that does starts when the pipe is granted, else it requests it (R78). -/
theorem issueEntry_starts {c : Candidate} (core slot : Nat) (s : State) (h : c.pending = 0) (ha : c.aligned)
    (hk : c.known core s = true) {d : Decoded} (hd : c.found core s = .ok d) (hi : c.entry.idx ≤ headerCount d.header.toNat) :
    (clausePipe d.header d.insns = none → issueEntry c core slot s = startClause c d core slot (c.filled core s d.next)) ∧
    (∀ pipe, clausePipe d.header d.insns = some pipe → issueEntry c core slot s =
      if (c.filled core s d.next).pipeGranted core slot pipe c
      then startClause c d core slot (c.filled core s d.next) else (c.filled core s d.next).askPipe core slot pipe c) := by
  rw [issueEntry_aligned core slot s h ha, hk, hd]
  refine ⟨fun hp => (if_neg (not_lt.2 hi)).trans ?_, fun pipe hp => (if_neg (not_lt.2 hi)).trans ?_⟩ <;> rw [hp]

/-! ## The checks of a clause and of an instruction -/

/-- LEN of a first word, as the number of words (R14). -/
theorem wordCount_eq_none (w : Word) (h : bits w.toNat 31 30 = 3) : wordCount w = none := by
  simp [wordCount, h]

/-- A word of LEN 3 fails check 8 of R26. -/
theorem fetchInsn_header {s : State} {p core asid addr index : Nat} {w : Word} (cls : Nat) (last : Bool) (absent : Nat → Bool)
    (h : s.fetchWords p core asid addr index 1 = .ok [w]) (hw : bits w.toNat 31 30 = 3) :
    s.fetchInsn p core asid addr index cls last absent = .error (.format (addr + 4) 8 index) := by
  unfold State.fetchInsn
  rw [h]
  simp [wordCount_eq_none w hw]

/-- Once its words are fetched, checks 9 to 12 of R26 decide. -/
theorem fetchInsn_words {s : State} {p core asid addr index n : Nat} {w : Word} {ws : List Word} (cls : Nat) (last : Bool)
    (absent : Nat → Bool) (h1 : s.fetchWords p core asid addr index 1 = .ok [w]) (hn : wordCount w = some n)
    (h : s.fetchWords p core asid addr index n = .ok ws) (hw : ws.head? = some w) :
    s.fetchInsn p core asid addr index cls last absent = match instrOf (bits w.toNat 29 22) (fieldsOf 0 0 none) with
      | none => .error (.illegal (addr + 4 * n) index)
      | some i =>
        if classOf (bits w.toNat 29 22) ≠ cls then .error (.format (addr + 4 * n) 10 index)
        else if i.ender && !last then .error (.format (addr + 4 * n) 11 index)
        else match decode ws with
          | .error _ => .error (.illegal (addr + 4 * n) index)
          | .ok (i, _) =>
            if !i.wellFormed || i.registers.any absent then .error (.illegal (addr + 4 * n) index) else .ok ws := by
  unfold State.fetchInsn
  rw [h1]
  simp only [List.head?_cons, Option.bind_some, hn, h, hw, Option.map_some, Option.getD_some] <;> rfl

/-- A major that is unassigned is illegal (check 9 of R26). -/
theorem fetchInsn_unassigned {s : State} {p core asid addr index n : Nat} {w : Word} {ws : List Word} (cls : Nat) (last : Bool)
    (absent : Nat → Bool) (h1 : s.fetchWords p core asid addr index 1 = .ok [w]) (hn : wordCount w = some n)
    (h : s.fetchWords p core asid addr index n = .ok ws) (hw : ws.head? = some w)
    (hm : instrOf (bits w.toNat 29 22) (fieldsOf 0 0 none) = none) :
    s.fetchInsn p core asid addr index cls last absent = .error (.illegal (addr + 4 * n) index) := by
  rw [fetchInsn_words cls last absent h1 hn h hw, hm]

/-- Checks 10 to 12 of R26: the class, the place of a clause ender, and the well-formedness of the instruction. -/
theorem fetchInsn_assigned {s : State} {p core asid addr index n : Nat} {w : Word} {ws : List Word} (cls : Nat) (last : Bool)
    (absent : Nat → Bool) (h1 : s.fetchWords p core asid addr index 1 = .ok [w]) (hn : wordCount w = some n)
    (h : s.fetchWords p core asid addr index n = .ok ws) (hw : ws.head? = some w) {j : Instr}
    (hj : instrOf (bits w.toNat 29 22) (fieldsOf 0 0 none) = some j) :
    (classOf (bits w.toNat 29 22) ≠ cls →
      s.fetchInsn p core asid addr index cls last absent = .error (.format (addr + 4 * n) 10 index)) ∧
    (classOf (bits w.toNat 29 22) = cls → j.ender = true → last = false →
      s.fetchInsn p core asid addr index cls last absent = .error (.format (addr + 4 * n) 11 index)) ∧
    (classOf (bits w.toNat 29 22) = cls → j.ender = false ∨ last = true →
      (∀ e, decode ws = .error e →
        s.fetchInsn p core asid addr index cls last absent = .error (.illegal (addr + 4 * n) index)) ∧
      (∀ i rest, decode ws = .ok (i, rest) →
        (i.wellFormed = false ∨ (∃ r ∈ i.registers, absent r = true) →
          s.fetchInsn p core asid addr index cls last absent = .error (.illegal (addr + 4 * n) index)) ∧
        (i.wellFormed = true → (∀ r ∈ i.registers, absent r = false) →
          s.fetchInsn p core asid addr index cls last absent = .ok ws))) := by
  rw [fetchInsn_words cls last absent h1 hn h hw, hj]
  refine ⟨fun hc => if_pos hc, fun hc he hl => (if_neg (not_not.2 hc)).trans (if_pos (by simp [he, hl])), fun hc he => ?_⟩
  have place : ¬ (j.ender && !last) = true := by rcases he with he | he <;> simp [he]
  refine ⟨fun e hd => ((if_neg (not_not.2 hc)).trans (if_neg place)).trans ?_,
    fun i rest hd => ⟨fun bad => ?_, fun ok full => ?_⟩⟩
  · rw [hd]
  · refine ((if_neg (not_not.2 hc)).trans (if_neg place)).trans ?_
    rw [hd]
    refine if_pos ?_
    rcases bad with bad | bad
    · simp [bad]
    · simp [List.any_eq_true.2 bad]
  · refine ((if_neg (not_not.2 hc)).trans (if_neg place)).trans ?_
    rw [hd]
    refine if_neg ?_
    have none_absent : i.registers.any absent = false := List.any_eq_false.2 fun r hr => by simp [full r hr]
    simp [ok, none_absent]

/-- Checks 2 to 6 of R26, each where those before it pass. -/
theorem decodeClause_header {s : State} {p core asid addr : Nat} {w : Word} (stream : Bool) (absent : Nat → Bool)
    (h : s.fetchWord p core asid addr = .ok w) :
    let fails := fun check => s.decodeClause p core asid addr stream absent = .error (.format (addr + 4) check 0)
    (bits w.toNat 31 30 ≠ 3 → fails 2) ∧
    (¬ bits w.toNat 31 30 ≠ 3 → bits w.toNat 29 26 = 0 → fails 3) ∧
    (¬ bits w.toNat 31 30 ≠ 3 → ¬ bits w.toNat 29 26 = 0 → bits w.toNat 25 23 = 7 → fails 4) ∧
    (¬ bits w.toNat 31 30 ≠ 3 → ¬ bits w.toNat 29 26 = 0 → ¬ bits w.toNat 25 23 = 7 → bits w.toNat 18 17 ≠ 0 →
      fails 5) ∧
    (¬ bits w.toNat 31 30 ≠ 3 → ¬ bits w.toNat 29 26 = 0 → ¬ bits w.toNat 25 23 = 7 → ¬ bits w.toNat 18 17 ≠ 0 →
      ¬ (bits w.toNat 25 23 = 6 ↔ stream = true) → fails 6) := by
  have kind : ¬ (bits w.toNat 25 23 = 6 ↔ stream = true) → ((headerClass w.toNat == 6) != stream) = true := by
    unfold headerClass
    cases stream <;> simp
  dsimp only
  unfold State.decodeClause
  rw [h]
  exact ⟨fun h2 => if_pos h2, fun h2 h3 => (if_neg h2).trans (if_pos h3),
    fun h2 h3 h4 => (if_neg h2).trans ((if_neg h3).trans (if_pos h4)),
    fun h2 h3 h4 h5 => (if_neg h2).trans ((if_neg h3).trans ((if_neg h4).trans (if_pos h5))),
    fun h2 h3 h4 h5 h6 => (if_neg h2).trans ((if_neg h3).trans ((if_neg h4).trans ((if_neg h5).trans (if_pos (kind h6)))))⟩

/-! ## Results land -/

/-- What was found by its key has that key. -/
theorem key_of_find? {α : Type} {key : α → Nat} {xs : List α} {k : Nat} {x : α} (h : xs.find? (fun y => key y == k) = some x) :
    key x = k := by
  simpa using List.find?_some h

/-- A queued access that is not ready stays; one that is performs, its elements in lane order, and leaves its queue (R162, R166). -/
theorem exec_resultLands_local {t gi op : Nat} {s : State} {tm : Team} {g : Group} {o : LocalOp} (ht : s.team? t = some tm)
    (hg : s.group? t gi = some g) (ho : g.locals.find? (fun o => o.id == op) = some o) :
    exec (.resultLands t gi op) s = .next ((s.localReady t gi tm g o).elim s
      (fun passed => performLocal t gi o (s.modGroup t gi (·.pass passed)))) := by
  show execResultLands t gi op s = _
  unfold execResultLands
  rw [ht, hg]
  simp only [ho]
  cases s.localReady t gi tm g o <;> rfl

/-- A result that is fixed and waits for none before it lands (R105, R106). -/
theorem exec_resultLands_long {t gi op : Nat} {s : State} {tm : Team} {g : Group} {o : LongOp} (ht : s.team? t = some tm)
    (hg : s.group? t gi = some g) (hl : g.locals.find? (fun o => o.id == op) = none)
    (ho : g.ops.find? (fun o => o.id == op) = some o) (hs : o.sfu = false) (hr : o.ready ≠ 0) (hw : s.landWaits t gi o = false) :
    exec (.resultLands t gi op) s = .next (landOp t gi op s) := by
  show execResultLands t gi op s = _
  unfold execResultLands landResult
  rw [ht, hg]
  simp only [hl, Option.bind_some, ho, hs, hr, hw, Bool.false_eq_true, or_self, if_false]

/-- A special function's result sets the flags of its live threads, and gives those with an enabled flag a pending trap, before it
lands (R145). -/
theorem exec_sfuResultLands {t gi op : Nat} {s : State} {g : Group} {o : LongOp} (hg : s.group? t gi = some g)
    (ho : g.ops.find? (fun o => o.id == op) = some o) (hs : o.sfu = true) (hw : s.landWaits t gi o = false) :
    exec (.sfuResultLands t gi op) s = .next (landOp t gi op
      ((LaneSet.filter o.kept (fun l => (g.thread l).live)).lanes.foldl (fun (s : State) l => s.modThread t gi l (fun th =>
        let th := { th with fpFlags := th.fpFlags ||| Map.get o.flags l 0 }
        if Map.get o.flags l 0 &&& BitVec.ofNat 5 o.fpMode = 0 then th
        else { th with pend := some (BitVec.ofNat 64
          ((o.addr % 2 ^ 52) <<< 12 ||| o.idx <<< 8 ||| (Map.get o.flags l 0).toNat)) })) s)) := by
  show execSfuResultLands t gi op s = _
  unfold execSfuResultLands
  rw [hg, Option.bind_some, ho, Option.map_some]
  exact if_neg (by simp [hs, hw])

/-! ## An element performs -/

/-- The array that an element of a queued access reaches (R158, R173). -/
def LocalOp.place (o : LocalOp) (e : MemElem) : Reach :=
  if o.space = 1 then .pad e.va else if o.space = 3 then .chip e.va else .window o.target e.va

/-- The bytes that an element finds in its array; free ones in a window whose team has gone (log entry 98). -/
def State.arrayBytes (s : State) (tm : Team) (o : LocalOp) (e : MemElem) : List Byte :=
  if o.space = 1 then padBytes tm.padNonce tm.pad e.va e.size
  else if o.space = 3 then Memory.getBytes s.kpad e.va e.size
  else match s.team? o.target with
    | some x => Memory.getBytes (if o.space = 4 then x.shadow else x.visible) e.va e.size
    | none => (List.range e.size).map (fun i => Config.freeByte s.nonce (e.va + i))

/-- The machine after an element's number has been written to its array; a replaying run writes none but its own (R326). -/
def State.arrayWrite (s : State) (t : Nat) (tm : Team) (o : LocalOp) (e : MemElem) (x : Nat) : State :=
  if tm.replays = true ∧ o.space ≠ 1 then s else writeReach t (o.space == 4) (leBytes x e.size) s (o.place e)

/-- The bytes of a queued element are those of its array. -/
theorem localBytes_eq {t : Nat} {s : State} {tm : Team} (ht : s.team? t = some tm) (o : LocalOp) (e : MemElem) :
    s.localBytes t o e = s.arrayBytes tm o e := by
  unfold State.localBytes State.arrayBytes
  rw [ht]
  split
  · rename_i h; rw [if_pos h]; rfl
  · rename_i h; rw [if_neg (by omega), if_pos h]
  · rename_i h1 h3; rw [if_neg h1, if_neg h3] <;> rfl

/-- Where a queued element is written. -/
theorem localWrite_eq (s : State) (t : Nat) (o : LocalOp) (e : MemElem) (bs : List Byte) :
    s.localWrite t o e bs = writeReach t (o.space == 4) bs s (o.place e) := by
  unfold State.localWrite LocalOp.place
  congr 1
  split
  · rename_i h; rw [if_pos h]
  · rename_i h; rw [if_neg (by omega), if_pos h]
  · rename_i h1 h3; rw [if_neg h1, if_neg h3]

/-- An element of an array, by its kind: a load, a store, else a read-modify-write (R160, R162, R163). -/
theorem localElem_array {t gi : Nat} {s : State} {tm : Team} {g : Group} (ht : s.team? t = some tm) (hg : s.group? t gi = some g)
    {o : LocalOp} (e : MemElem) (h5 : o.space ≠ 5) :
    (o.kind = 0 → localElem t gi o e s = localResult t gi o e (ofLeBytes (s.arrayBytes tm o e)) s) ∧
    (o.kind = 1 → localElem t gi o e s = s.arrayWrite t tm o e e.data) ∧
    (2 ≤ o.kind → localElem t gi o e s =
      if o.quiet = true then s.arrayWrite t tm o e (atomicNew o.typ o.aop (ofLeBytes (s.arrayBytes tm o e)) e.data e.cmp)
      else localResult t gi o e (ofLeBytes (s.arrayBytes tm o e))
        (s.arrayWrite t tm o e (atomicNew o.typ o.aop (ofLeBytes (s.arrayBytes tm o e)) e.data e.cmp))) := by
  have put (x : Nat) : (if o.suppressed tm then s else s.localWrite t o e (leBytes x e.size)) = s.arrayWrite t tm o e x := by
    unfold State.arrayWrite LocalOp.suppressed
    rw [localWrite_eq]
    simp only [Bool.and_eq_true, bne_iff_ne]
  unfold localElem
  rw [ht, hg]
  simp only [if_neg h5, localBytes_eq ht, put]
  refine ⟨fun h => by simp only [h], fun h => by simp only [h], fun h => ?_⟩
  split
  · omega
  · omega
  · rfl

/-- An element of a record, by what the access does to it (R244–R246, R326). -/
theorem localElem_record {t gi : Nat} {s : State} {tm : Team} {g : Group} (ht : s.team? t = some tm) (hg : s.group? t gi = some g)
    {o : LocalOp} (e : MemElem) (h5 : o.space = 5) : localElem t gi o e s =
      if o.quiet = true then (recordElem t gi tm g o e s).2
      else localResult t gi o e (recordElem t gi tm g o e s).1 (recordElem t gi tm g o e s).2 := by
  unfold localElem
  rw [ht, hg]
  exact if_pos h5

/-- What an access does to a record: nothing in a replaying run, else by its operation (R244–R246, R326). -/
theorem recordElem_cases (t gi : Nat) (tm : Team) (g : Group) (o : LocalOp) (e : MemElem) (s : State) :
    (tm.replays = true → recordElem t gi tm g o e s = (0, s)) ∧
    (tm.replays = false → o.aop = 0 → recordElem t gi tm g o e s = (0, if (s.pinRead 0 tm.part o.target e.va 32).isNone
      then s.accessFault t gi o.addr o.idx e.lane e.va else s.runRec (.join tm.part o.target e.va e.data))) ∧
    (tm.replays = false → o.aop = 1 → recordElem t gi tm g o e s = s.arm tm.part o.target e.va (s.coreUnit tm)
      { UnitFault.of tm g o.addr 0 (32 * gi + e.lane) with index := o.idx }) ∧
    (tm.replays = false → o.aop = 2 → recordElem t gi tm g o e s = s.spawn tm.part o.target e.va e.data e.cmp (s.coreUnit tm)
      { UnitFault.of tm g o.addr 0 (32 * gi + e.lane) with index := o.idx }) := by
  unfold recordElem
  refine ⟨fun h => if_pos h, fun h h0 => ?_, fun h h1 => ?_, fun h h2 => ?_⟩
  · simp only [h, h0, Bool.false_eq_true, if_false, if_true]
  · simp only [h, h1, Bool.false_eq_true, if_false, if_true, one_ne_zero]
  · simp only [h, h2, Bool.false_eq_true, if_false, OfNat.ofNat_ne_zero, OfNat.ofNat_ne_one]

/-! ## The statement -/

/-- Settles O41: issue in its cases, the checks of R26 in their order, and what performs and lands. -/
theorem issueAndLandingEvents : Obligations.IssueAndLandingEvents := by
  unfold Obligations.IssueAndLandingEvents
  refine ⟨fun core slot s h4 free => ⟨fun hn => ?_, fun c hc => ?_⟩, fun c s upTo index => ⟨rfl, fun _ => rfl, fun _ => rfl, fun _ _ => rfl⟩,
    fun s p core asid addr index cls last absent w h1 => ⟨fetchInsn_header cls last absent h1, fun n ws hn h hw =>
      ⟨fetchInsn_unassigned cls last absent h1 hn h hw, fun j => fetchInsn_assigned cls last absent h1 hn h hw⟩⟩,
    fun s p core asid addr stream absent w => decodeClause_header stream absent,
    fun core slot t s tm => exec_clauseDecode_stream,
    fun t gi op s tm g ht hg => ⟨fun o ho => ?_, fun o hl ho hs hr hw => exec_resultLands_long ht hg hl ho hs hr hw⟩,
    fun t gi o e s tm g ht hg => ⟨localElem_array ht hg e, fun h5 => ?_, fun x => rfl⟩,
    fun t gi op s g o hg ho hs hw => exec_sfuResultLands hg ho hs hw⟩
  · have chosen : (s.woken core slot).slotChoice core slot = none := hn
    exact (exec_clauseDecode_slot h4 free).trans (by rw [chosen]; rfl)
  · have chosen : (s.woken core slot).slotChoice core slot = some c := hc
    have answers {u : State} (h : issueEntry c core slot (s.woken core slot) = u) : exec (.clauseDecode core slot) s = .next u := by
      rw [exec_clauseDecode_slot h4 free, chosen, ← h]; rfl
    exact ⟨fun h => answers (issueEntry_pending core slot _ h), fun h ha => answers (issueEntry_misaligned core slot _ h ha),
      fun h ha hk => answers (issueEntry_unknown core slot _ h ha hk),
      fun h ha hk f hf => answers (issueEntry_fault core slot _ h ha hk hf),
      fun h ha hk d hd => ⟨fun hi => answers (issueEntry_past core slot _ h ha hk hd hi), fun hi =>
        ⟨fun hp => answers ((issueEntry_starts core slot _ h ha hk hd hi).1 hp),
          fun pipe hp => answers ((issueEntry_starts core slot _ h ha hk hd hi).2 pipe hp)⟩⟩⟩
  · obtain rfl := key_of_find? ho
    exact ⟨fun hr => (exec_resultLands_local ht hg ho).trans (by rw [hr]; rfl),
      fun passed hr => (exec_resultLands_local ht hg ho).trans (by rw [hr]; rfl)⟩
  · obtain ⟨replays, joins, arms, spawns⟩ := recordElem_cases t gi tm g o e s
    have acts {r : Nat × State} (h : recordElem t gi tm g o e s = r) :
        localElem t gi o e s = if o.quiet = true then r.2 else localResult t gi o e r.1 r.2 :=
      h ▸ localElem_record ht hg e h5
    exact ⟨fun h => acts (replays h), fun h h0 => acts (joins h h0), fun h h1 => acts (arms h h1), fun h h2 => acts (spawns h h2)⟩

end Sys2Proof.Machine
end

section
/-! PROOFS. Votes, shuffles, reductions and matches; exit, yield and the barriers (R69, R70, R84–R86, R88–R91, R242, R243). -/

namespace Sys2Proof.Machine

/-- Settles O18: each of the four is given by what one thread computes from the executing threads of the issue. -/
theorem groupOperationsExecute : Obligations.GroupOperationsExecute := fun _ =>
  ⟨executes_of_vec fun _ => rfl, executes_of_vec fun _ => rfl, executes_of_vec fun _ => rfl, executes_of_vec fun _ => rfl⟩

/-- An instruction without a result that issues normally has its effect on the machine, is counted and retires. -/
theorem frame_plain {i : Instr} {s : State} {v : View} (effect : View → State → State) (h : s.issue? sources i = some v) :
    frame i (fun v s => plain v (effect v s)) s = .next (v.plainly (effect v (v.start s))) :=
  (frameWith_issue _ h).trans (plain_done v _)

/-- What KSET makes of a reconvergence mask, by its MINOR (R69). -/
def View.ksetMask (v : View) (minor : Nat) (m : LaneSet) : LaneSet :=
  if minor = 0 then v.lanes else if minor = 1 then m ||| v.lanes else m &&& ~~~ v.lanes

/-- KSET changes its mask at once, which may release threads; where no thread executes it, nothing (R69). -/
theorem execKset_issue {f : Fields} {s : State} {v : View} (h : s.issue? sources (.kset f) = some v) :
    exec (.kset f) s = .next (v.plainly (if v.lanes = 0 then v.start s
      else (v.start s).modGroup v.t v.gi (fun g =>
        ({ g with kmask := modNth (v.ksetMask f.minor.toNat) f.a.toNat g.kmask } : Group).releaseK))) := by
  show execKset f s = _
  unfold execKset frame View.ksetMask
  rw [frameWith_issue _ h]
  dsimp only
  rw [plain_done]
  rcases f.minor.toNat with _ | _ | n <;> rfl

/-- BAR arrives for the group at once; where no thread executes it, nothing (R242, R243). -/
theorem execBar_issue {f : Fields} {s : State} {v : View} (h : s.issue? sources (.bar f) = some v) :
    exec (.bar f) s = .next (v.plainly (if v.lanes = 0 then v.start s
      else (v.start s).modTeam v.t (fun tm =>
        tm.barArrive v.gi f.a.toNat f.b.toNat ((v.start s).core tm.core).cycles (f.minor.toNat == 1)))) :=
  frame_plain (fun v s => if v.lanes = 0 then s else s.modTeam v.t (fun tm =>
    tm.barArrive v.gi f.a.toNat f.b.toNat (s.core tm.core).cycles (f.minor.toNat == 1))) h

/-- Settles O31: each of the five is an effect at issue, of an instruction that is then counted and retires. -/
theorem barriersAndExitExecute : Obligations.BarriersAndExitExecute := by
  intro f s v
  refine ⟨frame_plain fun v => v.modRun fun r => { r with exited := r.exited ||| v.lanes },
    frame_plain fun v => v.modRun fun r => { r with yielded := r.yielded || v.lanes != 0 },
    frame_plain fun v => v.modRun fun r =>
      { r with parkOn := (v.lanes &&& v.g.kmask.getD f.a.toNat 0).lanes.foldl (fun m l => Map.put m l f.a.toNat) r.parkOn },
    fun hi hl => ?_, fun hi hl => ?_⟩
  · exact (execKset_issue hi).trans (by rw [if_neg hl]; rfl)
  · exact (execBar_issue hi).trans (by rw [if_neg hl])

end Sys2Proof.Machine
end

section
/-! PROOFS. The writes of a clause: which of them a read sees, and the order in which they stand (R75, R97). -/

namespace Sys2Proof.Machine

/-! ## One write takes effect -/

/-- Signing writes leaves the registers. -/
@[simp] theorem signLanes_regs (tm : Team) (gi reg : Nat) (lanes : LaneSet) (cnts : Map Nat) (g : Group) :
    (signLanes tm gi reg lanes cnts g).regs = g.regs := by
  unfold signLanes
  split
  · rfl
  · refine foldl_keeps (fun h : Group => h.regs = g.regs) _ (fun h l hh => ?_) _ _ rfl
    split <;> exact hh

/-- A predicate write leaves the registers. -/
@[simp] theorem applyPredFly_regs (tm : Team) (w : PredFly) (g : Group) : (applyPredFly tm w g).regs = g.regs := by
  unfold applyPredFly
  split
  · rfl
  · refine foldl_keeps (fun h : Group => h.regs = g.regs) _ (fun h l hh => ?_) _ _ rfl
    exact hh

/-- A G register takes any values: each written lane its own, the others what they held (R97). -/
theorem shapeWrite_lanes (old : List Word) (vals : Map Word) :
    ∃ ws, shapeWrite 3 old vals = some ws ∧ ∀ l, l < 32 → ws.getD l 0 = Map.get vals l (old.getD l 0) := by
  cases vals with
  | nil => exact ⟨old, rfl, fun _ _ => rfl⟩
  | cons x xs => exact ⟨_, rfl, fun l hl => by simp [hl, Map.get]⟩

/-- A write of values replaces the words of its register, where its shape allows it, and no other register. -/
theorem writeReg_regs (tm : Team) (gi seq reg : Nat) (vals : Map Word) (cnts : Map Nat) (g : Group) :
    (writeReg tm gi seq reg vals cnts g).regs =
      (shapeWrite (tm.shape gi reg) (Map.get g.regs reg []) vals).elim g.regs (Map.put g.regs reg) := by
  unfold writeReg
  dsimp only
  split <;> rename_i written <;> rw [written]
  · rfl
  · exact signLanes_regs ..

/-- Making a register full or empty leaves the words of all (R112). -/
theorem setFullEmpty_regs (tm : Team) (gi seq reg : Nat) (full : Bool) (lanes : LaneSet) (g : Group) :
    (setFullEmpty tm gi seq reg full lanes g).regs = g.regs := by
  unfold setFullEmpty
  dsimp only
  split <;> rfl

/-- A write in flight gives a lane of a register a value. -/
def Fly.gives (reg l : Nat) (w : Fly) : Bool := w.kind == 0 && w.reg == reg && (Map.get? w.vals l).isSome

/-- After a write has taken effect a lane of a G register holds what the write gives it, else what it held. -/
theorem readReg_applyFly {tm : Team} {gi reg l : Nat} (shape : tm.shape gi reg = 3) (hl : l < 32) (w : Fly) (g : Group) :
    readReg tm gi (applyFly tm gi w g) reg l = if w.gives reg l then Map.get w.vals l 0 else readReg tm gi g reg l := by
  have held (h : Group) : readReg tm gi h reg l = (Map.get h.regs reg []).getD l 0 := by
    unfold readReg; rw [shape]; rfl
  rw [held, held]
  unfold applyFly
  by_cases kind : w.kind = 0
  · rw [if_pos kind, writeReg_regs]
    by_cases here : w.reg = reg
    · obtain ⟨ws, written, lanes⟩ := shapeWrite_lanes (Map.get g.regs reg []) w.vals
      rw [here, shape, written]
      simp only [Option.elim_some, Map.get_put, if_true, lanes l hl, Fly.gives, kind, here, beq_self_eq_true, Bool.true_and]
      unfold Map.get
      cases Map.get? w.vals l <;> rfl
    · rw [if_neg (by simp [Fly.gives, here])]
      cases shapeWrite (tm.shape gi w.reg) (Map.get g.regs w.reg []) w.vals with
      | none => rfl
      | some ws => exact congrArg (fun xs : List Word => xs.getD l 0) ((Map.get_put ..).trans (if_neg (Ne.symm here)))
  · rw [if_neg kind, setFullEmpty_regs, if_neg (by simp [Fly.gives, kind])]

/-- After several writes, in their order, a lane holds what the last gives that gives it a value. -/
theorem readReg_foldl_applyFly {tm : Team} {gi reg l : Nat} (shape : tm.shape gi reg = 3) (hl : l < 32) (ws : List Fly)
    (g : Group) : readReg tm gi (ws.foldl (fun g w => applyFly tm gi w g) g) reg l =
      (ws.filter (Fly.gives reg l)).getLast?.elim (readReg tm gi g reg l) (fun w => Map.get w.vals l 0) := by
  induction ws using List.reverseRecOn with
  | nil => rfl
  | append_singleton ws w ih =>
    rw [List.foldl_append, List.filter_append]
    refine (readReg_applyFly shape hl w _).trans ?_
    cases gives : w.gives reg l with
    | true => simp [gives]
    | false => simpa [gives] using ih

/-! ## The visible writes take effect -/

/-- The writes that are visible at a nominal cycle take effect, in their order; the others stay in flight (R75). -/
theorem settle_clause {tm : Team} {gi n : Nat} {g : Group} {r : ClauseRun} (hr : g.clause = some r) : settle tm gi n g =
    { (r.predFly.filter (fun w => decide (w.vis ≤ n))).foldl (fun g w => applyPredFly tm w g)
        ((r.fly.filter (fun w => decide (w.vis ≤ n))).foldl (fun g w => applyFly tm gi w g) g) with
      clause := some { r with fly := r.fly.filter (fun w => decide (n < w.vis))
                              predFly := r.predFly.filter (fun w => decide (n < w.vis)) } } := by
  unfold settle
  rw [hr]
  simp only [List.partition_eq_filter_filter, Function.comp_def, ← decide_not, Nat.not_le]

/-- A read after the visible writes have taken effect. -/
theorem readReg_settle {tm : Team} {gi n reg l : Nat} {g : Group} {r : ClauseRun} (hr : g.clause = some r)
    (shape : tm.shape gi reg = 3) (hl : l < 32) : readReg tm gi (settle tm gi n g) reg l =
      (r.fly.filter (fun w => decide (w.vis ≤ n) && w.gives reg l)).getLast?.elim (readReg tm gi g reg l)
        (fun w => Map.get w.vals l 0) := by
  have regs : (settle tm gi n g).regs =
      ((r.fly.filter (fun w => decide (w.vis ≤ n))).foldl (fun g w => applyFly tm gi w g) g).regs := by
    rw [settle_clause hr]
    exact foldl_keeps (fun h : Group => h.regs = _) _ (fun h w hh => (applyPredFly_regs tm w h).trans hh) _ _ rfl
  have seen := readReg_foldl_applyFly (gi := gi) shape hl (r.fly.filter (fun w => decide (w.vis ≤ n))) g
  rw [List.filter_filter] at seen
  unfold readReg at seen ⊢
  rw [regs, seen]
  simp only [Bool.and_comm]

/-! ## Where a write is inserted -/

/-- A write goes behind those that are visible no later, and before the first that is visible later (R75). -/
theorem insertFly_split (w : Fly) (ws : List Fly) : ∃ before after, ws = before ++ after ∧
    insertFly w ws = before ++ w :: after ∧ (∀ x ∈ before, x.vis ≤ w.vis) ∧ ∀ x, after.head? = some x → w.vis < x.vis := by
  induction ws with
  | nil => exact ⟨[], [], rfl, rfl, by simp, by simp⟩
  | cons y ys ih =>
    unfold insertFly
    split
    · exact ⟨[], y :: ys, rfl, rfl, by simp, by simpa⟩
    · obtain ⟨before, after, parts, inserted, earlier, later⟩ := ih
      exact ⟨y :: before, after, congrArg (y :: ·) parts, congrArg (y :: ·) inserted,
        List.forall_mem_cons.2 ⟨by omega, earlier⟩, later⟩

/-- Settles O10: a read by the last of the visible writes, the clause by the writes that it keeps, and the place of a write. -/
theorem visibleWrites : Obligations.VisibleWrites := by
  refine ⟨fun tm gi n g r reg l hr shape hl => ?_, fun tm gi n g r hr => ?_, insertFly_split⟩
  · rw [readReg_settle hr shape hl]
    simp only [Fly.gives, Bool.and_assoc]
    cases (r.fly.filter _).getLast? <;> rfl
  · rw [settle_clause hr]
    exact ⟨_, rfl, rfl, rfl, rfl, rfl, rfl⟩

end Sys2Proof.Machine
end

section
/-! PROOFS. How a clause ends: what becomes of the threads that took part and of those that did not, which of them the
reconvergence barriers release, and the team registers (R65, R68, R70, R74, R76, R84, R85, R379, R384). -/

namespace Sys2Proof.Machine

/-! ## Landing the writes in flight -/

/-- What the writes of a clause leave of a thread: whether it is live, where it is parked, and where it stands. -/
def Thread.place (th : Thread) : Bool × Option Nat × TrapMark := (th.live, th.parked, th.stand)

/-- What the writes of a clause leave of a group. -/
def Group.outline (g : Group) : List (Bool × Option Nat × TrapMark) × List LaneSet × Option GateCall × Bool :=
  (g.threads.map Thread.place, g.kmask, g.gate, g.saveNext)

/-- A change of a thread that leaves its place. -/
theorem Group.outline_modThread (g : Group) (l : Nat) {f : Thread → Thread} (hf : ∀ th, (f th).place = th.place) :
    (g.modThread l f).outline = g.outline :=
  congrArg (fun ths => (ths, g.kmask, g.gate, g.saveNext)) (map_modNth Thread.place f hf l g.threads)

/-- Signing a write leaves the place of its thread. -/
theorem Thread.signReg_place (th : Thread) (x c n : Nat) : (th.signReg x c n).place = th.place := by
  have only (z : Nat) : Thread.place { th with rs := z } = th.place := rfl
  exact only _

/-- A write in flight leaves the outline. -/
theorem Group.outline_applyFly (tm : Team) (gi : Nat) (w : Fly) (g : Group) : (applyFly tm gi w g).outline = g.outline := by
  unfold applyFly writeReg setFullEmpty signLanes
  dsimp only
  split
  · split
    · rfl
    · split
      · rfl
      · refine foldl_keeps (fun h : Group => h.outline = g.outline) _ (fun h l hh => ?_) _ _ rfl
        split
        · exact hh
        · exact (h.outline_modThread l fun th => th.signReg_place _ _ _).trans hh
  · split <;> rfl

/-- A predicate write in flight leaves the outline. -/
theorem Group.outline_applyPredFly (tm : Team) (w : PredFly) (g : Group) : (applyPredFly tm w g).outline = g.outline := by
  unfold applyPredFly
  split
  · rfl
  · refine foldl_keeps (fun h : Group => h.outline = g.outline) _ (fun h l hh => ?_) _ _ rfl
    refine (h.outline_modThread l fun th => ?_).trans hh
    dsimp only
    split <;> rfl

/-- Landing every write of the clause leaves the outline. -/
theorem Group.outline_settleAll (tm : Team) (gi : Nat) (g : Group) : (settleAll tm gi g).outline = g.outline := by
  unfold settleAll
  split
  · rfl
  · exact foldl_keeps (fun h : Group => h.outline = g.outline) _ (fun h w hh => (h.outline_applyPredFly tm w).trans hh) _ _
      (foldl_keeps (fun h : Group => h.outline = g.outline) _ (fun h w hh => (h.outline_applyFly tm gi w).trans hh) _ _ rfl)

/-- The outline tells the place of each thread. -/
theorem Group.place_of_outline {g h : Group} (e : h.outline = g.outline) (l : Nat) : (h.thread l).place = (g.thread l).place := by
  have threads : h.threads.map Thread.place = g.threads.map Thread.place := congrArg Prod.fst e
  have at_l := congrArg (fun ps : List (Bool × Option Nat × TrapMark) => ps[l]?) threads
  simp only [List.getElem?_map] at at_l
  have place (k : Group) : (k.thread l).place =
      ((k.threads[l]?).map Thread.place).getD ({ Thread.launch 0 with live := false } : Thread).place := by
    unfold Group.thread
    cases k.threads[l]? <;> rfl
  rw [place, place, at_l]

/-- The outline tells how many threads there are. -/
theorem Group.length_of_outline {g h : Group} (e : h.outline = g.outline) : h.threads.length = g.threads.length := by
  have threads : h.threads.map Thread.place = g.threads.map Thread.place := congrArg Prod.fst e
  simpa using congrArg List.length threads

/-! ## Leaving the clause -/

/-- What the end of a clause makes of a thread that took part (R65, R70, R84, R379). -/
def ClauseRun.leave (r : ClauseRun) (l : Nat) (th : Thread) : Thread :=
  if r.exited.getLsbD l then { th with live := false, parked := none, idx := 0 }
  else if r.tret.getLsbD l then { th.trapReturn with parked := Map.get? r.parkOn l }
  else { th with pc := Map.get r.targets l r.next, idx := 0, parked := Map.get? r.parkOn l }

/-- The group without its clause, whose threads have left it. -/
def ClauseRun.left (r : ClauseRun) (g : Group) : Group :=
  { r.active.lanes.foldl (fun (g : Group) l => g.modThread l (r.leave l)) g with clause := none }

/-- A thread after each of several threads has been changed once. -/
theorem Group.thread_foldl_modThread (f : Nat → Thread → Thread) {ls : List Nat} (once : ls.Nodup) (g : Group) {m : Nat}
    (hm : m < g.threads.length) : (ls.foldl (fun (g : Group) l => g.modThread l (f l)) g).thread m =
      if m ∈ ls then f m (g.thread m) else g.thread m := by
  induction ls generalizing g with
  | nil => rfl
  | cons l ls ih =>
    obtain ⟨away, once⟩ := List.nodup_cons.1 once
    have length : m < (g.modThread l (f l)).threads.length := by rwa [Group.modThread, modNth_length]
    rw [List.foldl_cons, ih once _ length, Group.thread_modThread]
    by_cases here : m = l
    · subst here
      simp [away, hm]
    · simp [here]

/-- Each thread that took part has left, the others are as they were. -/
theorem ClauseRun.thread_left (r : ClauseRun) {g : Group} {l : Nat} (length : g.threads.length = 32) (hl : l < 32) :
    (r.left g).thread l = if r.active.getLsbD l = true then r.leave l (g.thread l) else g.thread l := by
  refine (Group.thread_foldl_modThread r.leave (LaneSet.lanes_nodup r.active) g (by omega)).trans ?_
  simp only [LaneSet.mem_lanes, hl, true_and]

/-- Only the clause and the threads change. -/
theorem ClauseRun.left_def (r : ClauseRun) (g : Group) :
    r.left g = { g with clause := none, threads := (r.left g).threads } := by
  unfold ClauseRun.left
  exact foldl_keeps (fun h : Group => ({ h with clause := none } : Group) = { g with clause := none, threads := h.threads }) _
    (fun h l hh => congrArg (fun k : Group => { k with threads := modNth (r.leave l) l h.threads }) hh) _ _ rfl

/-! ## Reconvergence barriers release -/

/-- From g to h threads have been released from the barriers on which they were parked, and nothing else has changed. -/
structure Group.Unparks (g h : Group) : Prop where
  group : h = { g with threads := h.threads }
  thread : ∀ l, h.thread l = { g.thread l with parked := (h.thread l).parked }
  parked : ∀ l k, (h.thread l).parked = some k → (g.thread l).parked = some k

/-- No thread has been released. -/
theorem Group.Unparks.refl (g : Group) : g.Unparks g := ⟨rfl, fun _ => rfl, fun _ _ => id⟩

/-- Some threads after others. -/
theorem Group.Unparks.trans {g h k : Group} (a : g.Unparks h) (b : h.Unparks k) : g.Unparks k :=
  ⟨by rw [b.group, a.group], fun l => by rw [b.thread l, a.thread l], fun l j hj => a.parked l j (b.parked l j hj)⟩

/-- A list of releases. -/
theorem Group.Unparks.fold {α : Type} {f : Group → α → Group} (hf : ∀ (g : Group) a, g.Unparks (f g a)) (xs : List α)
    (g : Group) : g.Unparks (xs.foldl f g) :=
  foldl_keeps (fun h : Group => g.Unparks h) f (fun h a hh => hh.trans (hf h a)) xs g (.refl g)

/-- A thread stays live, or not. -/
theorem Group.Unparks.live {g h : Group} (u : g.Unparks h) (l : Nat) : (h.thread l).live = (g.thread l).live :=
  (congrArg Thread.live (u.thread l)).trans rfl

/-- A thread that is not parked stays so. -/
theorem Group.Unparks.parked_none {g h : Group} (u : g.Unparks h) {l : Nat} (free : (g.thread l).parked = none) :
    (h.thread l).parked = none := by
  cases hp : (h.thread l).parked with
  | none => rfl
  | some k => exact nomatch free.symm.trans (u.parked l k hp)

/-- The members of a barrier. -/
def Group.members (g : Group) (k : Nat) : List Nat := (g.kmask.getD k 0).lanes

/-- The members stay the same. -/
theorem Group.Unparks.members {g h : Group} (u : g.Unparks h) (k : Nat) : h.members k = g.members k := by
  rw [u.group]; rfl

/-- All members of a barrier are parked on it or have exited (R68). -/
def Group.Gathered (g : Group) (k : Nat) : Prop :=
  ∀ m ∈ g.members k, (g.thread m).live = false ∨ (g.thread m).parked = some k

/-- Members that have gathered had gathered before others were released. -/
theorem Group.Unparks.gathered {g h : Group} (u : g.Unparks h) {k : Nat} (all : h.Gathered k) : g.Gathered k := by
  intro m hm
  exact (all m (u.members k ▸ hm)).imp (fun dead => (u.live m).symm.trans dead) (u.parked m k)

/-- A thread that is parked on a barrier is released from it. -/
def Thread.unpark (k : Nat) (th : Thread) : Thread := if th.parked = some k then { th with parked := none } else th

/-- One barrier is looked at. -/
def Group.releaseAt (g : Group) (k : Nat) : Group :=
  if g.kmask.getD k 0 != 0 && (g.members k).all (fun l => !(g.thread l).live || (g.thread l).parked == some k) then
    (g.members k).foldl (fun (g : Group) l => g.modThread l (Thread.unpark k)) g
  else g

/-- The barriers are looked at in their order. -/
theorem Group.releaseK_eq (g : Group) : g.releaseK = (List.range 8).foldl Group.releaseAt g := rfl

/-- A change of a thread that can only release it. -/
theorem Group.Unparks.unpark (g : Group) (l k : Nat) : g.Unparks (g.modThread l (Thread.unpark k)) := by
  have only (th : Thread) : th.unpark k = { th with parked := (th.unpark k).parked } ∧
      ∀ j, (th.unpark k).parked = some j → th.parked = some j := by
    unfold Thread.unpark
    split
    · exact ⟨rfl, fun j hj => nomatch hj⟩
    · exact ⟨rfl, fun j => id⟩
  refine ⟨rfl, fun m => ?_, fun m j => ?_⟩ <;> rw [Group.thread_modThread] <;> split
  · exact (only _).1
  · rfl
  · exact (only _).2 j
  · exact id

/-- Looking at one barrier can only release threads. -/
theorem Group.Unparks.releaseAt (g : Group) (k : Nat) : g.Unparks (g.releaseAt k) := by
  unfold Group.releaseAt
  split
  · exact .fold (fun h l => .unpark h l k) _ _
  · exact .refl g

/-- Looking at the barriers can only release threads. -/
theorem Group.Unparks.releaseK (g : Group) : g.Unparks g.releaseK := .fold .releaseAt _ _

/-- Of threads that are released from a barrier none is still parked on it. -/
theorem Group.parked_foldl_unpark {k : Nat} (ls : List Nat) (g : Group) {m : Nat}
    (h : m ∈ ls ∨ (g.thread m).parked ≠ some k) :
    ((ls.foldl (fun (g : Group) l => g.modThread l (Thread.unpark k)) g).thread m).parked ≠ some k := by
  induction ls generalizing g with
  | nil => exact h.resolve_left List.not_mem_nil
  | cons l ls ih =>
    refine ih _ ?_
    by_cases later : m ∈ ls
    · exact .inl later
    · refine .inr fun still => ?_
      rcases h with h | h
      · obtain rfl := (List.mem_cons.1 h).resolve_right later
        rw [Group.thread_modThread] at still
        split at still
        · unfold Thread.unpark at still
          split at still
          · cases still
          · contradiction
        · rename_i out
          have absent : g.threads[m]? = none := List.getElem?_eq_none (by omega)
          unfold Group.thread at still
          rw [absent] at still
          cases still
      · exact h ((Group.Unparks.unpark g l k).parked m k still)

/-- A barrier whose members have gathered releases them (R68). -/
theorem Group.releaseAt_of_gathered {g : Group} {k m : Nat} (all : g.Gathered k) (hm : m ∈ g.members k) :
    ((g.releaseAt k).thread m).parked ≠ some k := by
  have some_member : g.kmask.getD k 0 ≠ 0 := fun none => by
    unfold Group.members at hm
    rw [none, LaneSet.lanes_zero] at hm
    cases hm
  have ready : (g.kmask.getD k 0 != 0 && (g.members k).all (fun l => !(g.thread l).live || (g.thread l).parked == some k)) =
      true := by
    simp only [Bool.and_eq_true, bne_iff_ne, ne_eq, List.all_eq_true, Bool.or_eq_true, Bool.not_eq_true', beq_iff_eq]
    exact ⟨some_member, all⟩
  unfold Group.releaseAt
  rw [if_pos ready]
  exact Group.parked_foldl_unpark _ g (.inl hm)

/-- A barrier releases a thread only where the thread is parked on it and its members have gathered (R68). -/
theorem Group.gathered_of_releaseAt {g : Group} {k j l : Nat} (parked : (g.thread l).parked = some j)
    (free : ((g.releaseAt k).thread l).parked = none) : j = k ∧ g.Gathered k := by
  unfold Group.releaseAt at free
  split at free
  · rename_i ready
    simp only [Bool.and_eq_true, bne_iff_ne, ne_eq, List.all_eq_true, Bool.or_eq_true, Bool.not_eq_true', beq_iff_eq] at ready
    refine ⟨?_, ready.2⟩
    by_contra other
    have keeps : (((g.members k).foldl (fun (g : Group) l => g.modThread l (Thread.unpark k)) g).thread l).parked =
        some j := by
      refine foldl_keeps (fun h : Group => (h.thread l).parked = some j) _ (fun h m hh => ?_) _ _ parked
      rw [Group.thread_modThread]
      split
      · unfold Thread.unpark
        rw [if_neg (by rw [hh]; simpa using other)]
        exact hh
      · exact hh
    exact nomatch keeps.symm.trans free
  · exact nomatch parked.symm.trans free

/-- After the barriers have been looked at, none of those still holds members that have gathered. -/
theorem Group.parked_of_gathered {ks : List Nat} {k : Nat} (hk : k ∈ ks) (g : Group)
    (all : (ks.foldl Group.releaseAt g).Gathered k)
    {m : Nat} (hm : m ∈ g.members k) : ((ks.foldl Group.releaseAt g).thread m).parked ≠ some k := by
  induction ks generalizing g with
  | nil => cases hk
  | cons j ks ih =>
    have step := Group.Unparks.releaseAt g j
    have rest := Group.Unparks.fold Group.Unparks.releaseAt ks (g.releaseAt j)
    rcases List.mem_cons.1 hk with rfl | hk
    · exact fun still => Group.releaseAt_of_gathered ((step.trans rest).gathered all) hm (rest.parked m k still)
    · exact ih hk _ all (step.members k ▸ hm)

/-- A thread that has been released from a barrier was released with all members of the barrier. -/
theorem Group.released_together {ks : List Nat} {k l : Nat} (g : Group) (parked : (g.thread l).parked = some k)
    (free : ((ks.foldl Group.releaseAt g).thread l).parked = none) : k ∈ ks ∧ ∀ m ∈ g.members k,
      ((ks.foldl Group.releaseAt g).thread m).live = false ∨ ((ks.foldl Group.releaseAt g).thread m).parked = none := by
  induction ks generalizing g with
  | nil => exact nomatch parked.symm.trans free
  | cons j ks ih =>
    have step := Group.Unparks.releaseAt g j
    have rest := Group.Unparks.fold Group.Unparks.releaseAt ks (g.releaseAt j)
    cases now : ((g.releaseAt j).thread l).parked with
    | none =>
      obtain ⟨rfl, all⟩ := Group.gathered_of_releaseAt parked now
      refine ⟨List.mem_cons_self .., fun m hm =>
        (all m hm).imp (fun dead => ((step.trans rest).live m).trans dead) fun on => ?_⟩
      refine rest.parked_none ?_
      cases hp : ((g.releaseAt k).thread m).parked with
      | none => rfl
      | some i =>
        have same := on.symm.trans (step.parked m i hp)
        exact absurd (hp.trans same.symm) (Group.releaseAt_of_gathered all hm)
    | some i =>
      have same : i = k := Option.some.inj ((step.parked l i now).symm.trans parked)
      obtain ⟨hk, together⟩ := ih (g.releaseAt j) (now.trans (congrArg some same)) free
      exact ⟨List.mem_cons_of_mem _ hk, fun m hm => together m (step.members k ▸ hm)⟩

/-! ## The group after its clause -/

/-- A group whose clause has ended: its writes have landed, its threads have left, the barriers have been looked at, and a YIELD
stops it for a save that is requested (R65, R68, R76, R85). -/
def Group.ended (tm : Team) (gi : Nat) (r : ClauseRun) (g : Group) : Group :=
  if r.yielded = true then { (r.left (settleAll tm gi g)).releaseK with saveNext := tm.request }
  else (r.left (settleAll tm gi g)).releaseK

/-- What becomes of the group does not depend on the other groups. -/
theorem Group.ended_modGroup (tm : Team) (j : Nat) (f : Group → Group) (gi : Nat) (r : ClauseRun) (g : Group) :
    Group.ended (tm.modGroup j f) gi r g = Group.ended tm gi r g := rfl

/-- The threads of the group whose clause has ended. -/
theorem Group.ended_threads (tm : Team) (gi : Nat) (r : ClauseRun) (g : Group) :
    (g.ended tm gi r).threads = (r.left (settleAll tm gi g)).releaseK.threads := by
  unfold Group.ended
  generalize (r.left (settleAll tm gi g)).releaseK = h
  split <;> rfl

/-- The group whose clause has ended has none, and keeps its call, its registers and their marks. -/
theorem Group.ended_rest (tm : Team) (gi : Nat) (r : ClauseRun) (g : Group) :
    (g.ended tm gi r).clause = none ∧ (g.ended tm gi r).gate = g.gate ∧
    (g.ended tm gi r).regs = (settleAll tm gi g).regs ∧ (g.ended tm gi r).empty = (settleAll tm gi g).empty ∧
    (g.ended tm gi r).saveNext = if r.yielded = true then tm.request else g.saveNext := by
  have outline := g.outline_settleAll tm gi
  have gate : (settleAll tm gi g).gate = g.gate := congrArg (fun o => o.2.2.1) outline
  have saves : (settleAll tm gi g).saveNext = g.saveNext := congrArg (fun o => o.2.2.2) outline
  unfold Group.ended
  rw [(Group.Unparks.releaseK (r.left (settleAll tm gi g))).group, r.left_def (settleAll tm gi g), ← gate, ← saves]
  split <;> exact ⟨rfl, rfl, rfl, rfl, rfl⟩

/-! ## The rest of the end of a clause -/

/-- Threads, registers and their empty marks, the call, a stop for a save, and whether no clause is in progress. -/
abbrev NamedParts := List Thread × Map (List Word) × Map LaneSet × Option GateCall × Bool × Bool

/-- What the statement names of a group. -/
def Group.named (g : Group) : NamedParts :=
  (g.threads, g.regs, g.empty, g.gate, g.saveNext, g.clause.isNone)

/-- What the statement names of a team and of one of its groups. -/
def Team.named (gi : Nat) (x : Team) : Nat × Dword × Option NamedParts :=
  (x.fpMode, x.trapVec, (x.groups[gi]?).map Group.named)

/-- A change of a group that leaves what is named. -/
theorem Team.named_modGroup (gi : Nat) (x : Team) (j : Nat) {f : Group → Group} (hf : ∀ g, (f g).named = g.named) :
    (x.modGroup j f).named gi = x.named gi := by
  have groups : ((modNth f j x.groups)[gi]?).map Group.named = (x.groups[gi]?).map Group.named := by
    rw [← List.getElem?_map, map_modNth Group.named f hf, List.getElem?_map]
  exact congrArg (fun o => (x.fpMode, x.trapVec, o)) groups

/-- A phase of a barrier completes (R243). -/
theorem Team.named_completePhase (gi : Nat) (x : Team) (n now : Nat) : (x.completePhase n now).named gi = x.named gi := by
  have held (y : Team) : (y.arriveHeld n now).named gi = y.named gi := by
    unfold Team.arriveHeld
    split
    · dsimp only
      split <;> rfl
    · rfl
  unfold Team.completePhase
  dsimp only
  refine foldl_keeps (fun y : Team => y.named gi = x.named gi) _ (fun y j hy => ?_) _ _ ?_
  · split
    · refine (Team.named_modGroup gi _ j ?_).trans hy
      exact fun _ => rfl
    · exact hy
  · rw [held]
    unfold Team.named
    rw [getElem?_range_zip_map, Option.map_map]
    rfl

/-- The barriers are looked at (R243). -/
theorem Team.named_checkBarriers (gi : Nat) (x : Team) (now : Nat) : (x.checkBarriers now).named gi = x.named gi := by
  have one (n k : Nat) (y : Team) : (y.checkBarrier n now k).named gi = y.named gi := by
    induction k generalizing y with
    | zero => rfl
    | succ k ih =>
      unfold Team.checkBarrier
      split
      · exact (ih _).trans (y.named_completePhase gi n now)
      · rfl
  exact foldl_keeps (fun y : Team => y.named gi = x.named gi) _ (fun y n hy => (one n 40 y).trans hy) _ _ rfl

/-- SBAR is looked at (R168). -/
theorem Team.named_checkSbar (gi : Nat) (x : Team) : x.checkSbar.named gi = x.named gi := by
  unfold Team.checkSbar
  split
  · split
    · unfold Team.named Team.releaseSbar
      rw [List.getElem?_map, Option.map_map]
      rfl
    · rfl
  · rfl

/-- Clauses that have issued nothing take the team registers in force (R54, R384). -/
theorem Team.named_recapture (gi : Nat) (x : Team) : x.recapture.named gi = x.named gi := by
  unfold Team.named Team.recapture
  rw [List.getElem?_map, Option.map_map]
  refine congrArg (fun o => (x.fpMode, x.trapVec, o)) (congrArg (fun f => Option.map f x.groups[gi]?) (funext fun g => ?_))
  unfold Group.named
  simp only [Function.comp_apply, Option.isNone_map]

/-- Writes of team registers do not look at the groups. -/
theorem Team.foldl_writeReg_modGroup (ws : List (Nat × Nat × Nat)) (x : Team) (j : Nat) (f : Group → Group) :
    ws.foldl Team.writeReg (x.modGroup j f) = (ws.foldl Team.writeReg x).modGroup j f := by
  induction ws generalizing x with
  | nil => rfl
  | cons w ws ih =>
    have one : (x.modGroup j f).writeReg w = (x.writeReg w).modGroup j f := by
      unfold Team.writeReg Team.modGroup
      dsimp only
      split
      · split <;> rfl
      · split
        · split <;> rfl
        · rfl
    rw [List.foldl_cons, List.foldl_cons, one, ih]

/-- What the statement names of a resident team. -/
def State.named (t gi : Nat) (s : State) : Option (Nat × Dword × Option NamedParts) :=
  (s.team? t).map (Team.named gi)

/-- A change of the team that leaves what is named. -/
theorem State.named_modTeam (t gi : Nat) (s : State) {f : Team → Team} (hf : ∀ x, (f x).named gi = x.named gi) :
    (s.modTeam t f).named t gi = s.named t gi := by
  unfold State.named
  rw [State.team?_modTeam, if_pos rfl, Option.map_map, show Team.named gi ∘ f = Team.named gi from funext hf]

/-- The rotation counter moves (R67). -/
theorem State.named_countIssue (t gi : Nat) (s : State) (before : List (Nat × LaneSet × Bool)) (fromTail turn counted : Bool) :
    (s.countIssue t gi before fromTail turn counted).named t gi = s.named t gi := by
  unfold State.countIssue
  split
  · exact State.named_modTeam t gi s fun x => Team.named_modGroup gi x gi fun _ => rfl
  · rfl

/-- The end of a clause in its parts. -/
theorem endClause_eq {t gi : Nat} {s : State} {tm : Team} {g : Group} {r : ClauseRun} (ht : s.team? t = some tm)
    (hg : s.group? t gi = some g) (hr : g.clause = some r) : endClause t gi s =
      let landed := s.modGroup t gi (fun _ => g.ended tm gi r)
      let written := if r.teamWrites.isEmpty then landed
        else landed.modTeam t (fun tm => (r.teamWrites.foldl Team.writeReg tm).recapture)
      let counted := written.countIssue t gi r.tailBefore r.fromTail r.yielded r.counted
      if (g.ended tm gi r).live = 0 then
        counted.modTeam t (fun tm => (tm.checkBarriers (counted.core tm.core).cycles).checkSbar)
      else counted := by
  unfold endClause
  rw [ht, hg]
  dsimp only
  rw [hr]
  rfl

/-- The end of a clause: its writes of team registers have taken effect (R384), and its group has left the clause. -/
theorem endClause_named {t gi : Nat} {s : State} {tm : Team} {g : Group} {r : ClauseRun} (ht : s.team? t = some tm)
    (hg : s.group? t gi = some g) (hr : g.clause = some r) : (endClause t gi s).named t gi =
      some ((r.teamWrites.foldl Team.writeReg tm).fpMode, (r.teamWrites.foldl Team.writeReg tm).trapVec,
        some (g.ended tm gi r).named) := by
  have team : (s.modGroup t gi (fun _ => g.ended tm gi r)).team? t = some (tm.modGroup gi (fun _ => g.ended tm gi r)) := by
    unfold State.modGroup
    rw [State.team?_modTeam, if_pos rfl, ht]
    rfl
  have group : tm.groups[gi]? = some g := (State.group?_of_team ht).symm.trans hg
  have here (x : Team) (same : x.groups = tm.groups) : (x.modGroup gi (fun _ => g.ended tm gi r)).named gi =
      (x.fpMode, x.trapVec, some (g.ended tm gi r).named) := by
    unfold Team.named Team.modGroup
    dsimp only
    rw [same, modNth_getElem?, if_pos rfl, group]
    rfl
  rw [endClause_eq ht hg hr]
  dsimp only
  have written : (if r.teamWrites.isEmpty then s.modGroup t gi (fun _ => g.ended tm gi r)
      else (s.modGroup t gi (fun _ => g.ended tm gi r)).modTeam t
        (fun tm => (r.teamWrites.foldl Team.writeReg tm).recapture)).named t gi =
      some ((r.teamWrites.foldl Team.writeReg tm).fpMode, (r.teamWrites.foldl Team.writeReg tm).trapVec,
        some (g.ended tm gi r).named) := by
    unfold State.named
    split
    · rename_i none_written
      rw [team, List.isEmpty_iff.1 none_written]
      exact congrArg some (here tm rfl)
    · rw [State.team?_modTeam, if_pos rfl, team, Option.map_some, Option.map_some, Team.named_recapture,
        Team.foldl_writeReg_modGroup]
      exact congrArg some (here _ (Team.writeReg_groups _ _))
  split
  · rw [State.named_modTeam t gi _ fun x => (Team.named_checkSbar gi _).trans (x.named_checkBarriers gi _),
      State.named_countIssue, written]
  · rw [State.named_countIssue, written]

/-! ## An instruction retires -/

/-- The clause stands at its next instruction, the issue cycles later (R74). -/
def ClauseRun.advance (cycles : Nat) (r : ClauseRun) : ClauseRun :=
  { r with idx := r.idx + 1, nominal := r.nominal + cycles }

/-- A clause goes on with its next instruction, or ends after its last one or where none takes part any more (R65, R74). -/
theorem retire_cases {t gi : Nat} (cycles : Nat) {s : State} {tm : Team} {g : Group} {r : ClauseRun} (ht : s.team? t = some tm)
    (hg : s.group? t gi = some g) (hr : g.clause = some r) :
    ∃ u : State, u.team? t = some (tm.modGroup gi (fun g => { g with clause := g.clause.map (ClauseRun.advance cycles) })) ∧
      u.group? t gi = some { g with clause := some (r.advance cycles) } ∧
      retire t gi cycles s = if r.insns.length ≤ r.idx ∨ r.active = 0 then endClause t gi u else u := by
  have noted : (s.noteVector t gi r.header).teams = s.teams := by
    unfold State.noteVector
    split
    · split <;> rfl
    · rfl
  have team : (s.noteVector t gi r.header).team? t = some tm := (congrArg (Map.get? · t) noted).trans ht
  have group : (s.noteVector t gi r.header).group? t gi = some g := by
    rw [State.group?_of_team team, ← State.group?_of_team ht, hg]
  have next : ((s.noteVector t gi r.header).modGroup t gi
      (fun g => { g with clause := g.clause.map (ClauseRun.advance cycles) })).group? t gi =
      some { g with clause := some (r.advance cycles) } := by
    rw [State.group?_modGroup, if_pos ⟨rfl, rfl⟩, group, Option.map_some, hr]
    rfl
  refine ⟨_, ?_, next, ?_⟩
  · unfold State.modGroup
    rw [State.team?_modTeam, if_pos rfl, team]
    rfl
  · have ends : ((r.insns.length < r.idx + 1 || r.active == 0) = true) ↔ (r.insns.length ≤ r.idx ∨ r.active = 0) := by
      simp
    unfold ClauseRun.advance at next
    unfold retire
    simp only [hg, hr, Option.bind_some, next, ends]
    rfl

/-- Where the clause ends, the group is as `Group.ended` says, and the team registers as the clause's writes leave them. -/
theorem retire_ends {t gi : Nat} (cycles : Nat) {s : State} {tm : Team} {g : Group} {r : ClauseRun} (ht : s.team? t = some tm)
    (hg : s.group? t gi = some g) (hr : g.clause = some r) (ends : r.insns.length ≤ r.idx ∨ r.active = 0) :
    ∃ h x, (retire t gi cycles s).group? t gi = some h ∧ (retire t gi cycles s).team? t = some x ∧
      h.named = (Group.ended tm gi (r.advance cycles) { g with clause := some (r.advance cycles) }).named ∧
      x.fpMode = (r.teamWrites.foldl Team.writeReg tm).fpMode ∧ x.trapVec = (r.teamWrites.foldl Team.writeReg tm).trapVec := by
  obtain ⟨u, team, group, hu⟩ := retire_cases cycles ht hg hr
  rw [hu, if_pos ends]
  have named := endClause_named team group rfl
  rw [Team.foldl_writeReg_modGroup, Group.ended_modGroup] at named
  obtain ⟨x, hx, shown⟩ := Option.map_eq_some_iff.1 named
  unfold Team.named at shown
  simp only [Prod.mk.injEq, Option.map_eq_some_iff] at shown
  obtain ⟨mode, vec, h, hh, same⟩ := shown
  exact ⟨h, x, (State.group?_of_team hx).trans hh, hx, same, mode, vec⟩

/-! ## Each thread at the end of its clause -/

section
variable {tm : Team} {gi : Nat} {r : ClauseRun} {g h : Group} {l : Nat}

/-- The threads are those that the barriers have left. -/
theorem Group.thread_ended (ended : h.threads = (g.ended tm gi r).threads) (l : Nat) : h.thread l =
    ((List.range 8).foldl Group.releaseAt (r.left (settleAll tm gi g))).thread l := by
  unfold Group.thread
  rw [ended, Group.ended_threads, Group.releaseK_eq]

/-- The members of the barriers are those of the clause. -/
theorem ClauseRun.members_left (tm : Team) (gi : Nat) (r : ClauseRun) (g : Group) (k : Nat) :
    (r.left (settleAll tm gi g)).members k = g.members k := by
  have masks : (settleAll tm gi g).kmask = g.kmask := congrArg (fun o => o.2.1) (g.outline_settleAll tm gi)
  rw [r.left_def]
  unfold Group.members
  rw [← masks]

/-- A thread that takes no part, once the writes have landed. -/
theorem ClauseRun.left_stays (length : g.threads.length = 32) (hl : l < 32) (out : r.active.getLsbD l = false) :
    (r.left (settleAll tm gi g)).thread l = (settleAll tm gi g).thread l :=
  (r.thread_left ((Group.length_of_outline (g.outline_settleAll tm gi)).trans length) hl).trans (if_neg (by simp [out]))

/-- A thread that took part, once the writes have landed. -/
theorem ClauseRun.left_leaves (length : g.threads.length = 32) (hl : l < 32) (part : r.active.getLsbD l = true) :
    (r.left (settleAll tm gi g)).thread l = r.leave l ((settleAll tm gi g).thread l) :=
  (r.thread_left ((Group.length_of_outline (g.outline_settleAll tm gi)).trans length) hl).trans (if_pos part)

/-- A thread that stays in the group is parked where it executed KWAIT (R70). -/
theorem ClauseRun.parked_leave (stays : r.exited.getLsbD l = false) (th : Thread) :
    (r.leave l th).parked = Map.get? r.parkOn l := by
  unfold ClauseRun.leave
  rw [if_neg (by simp [stays])]
  split <;> rfl

/-- Leaving a clause leaves the predicates. -/
theorem ClauseRun.preds_left (length : g.threads.length = 32) (hl : l < 32) :
    ((r.left (settleAll tm gi g)).thread l).preds = ((settleAll tm gi g).thread l).preds := by
  cases part : r.active.getLsbD l with
  | false => rw [ClauseRun.left_stays length hl part]
  | true =>
    rw [ClauseRun.left_leaves length hl part]
    unfold ClauseRun.leave
    split
    · rfl
    · split <;> rfl

/-- The barriers release threads of the group that has left its clause, and change nothing else of them. -/
theorem Group.ended_unparks (ended : h.threads = (g.ended tm gi r).threads) (l : Nat) :
    let x := (r.left (settleAll tm gi g)).thread l
    let after := h.thread l
    after = { x with parked := after.parked } ∧ (after.parked = none ∨ after.parked = x.parked) := by
  have released := Group.Unparks.releaseK (r.left (settleAll tm gi g))
  dsimp only
  rw [Group.thread_ended ended, ← Group.releaseK_eq]
  refine ⟨released.thread l, ?_⟩
  cases hp : ((r.left (settleAll tm gi g)).releaseK.thread l).parked with
  | none => exact .inl rfl
  | some k => exact .inr (released.parked l k hp).symm

/-- The predicates are those that the clause's writes leave (R76). -/
theorem Group.ended_preds (ended : h.threads = (g.ended tm gi r).threads) (length : g.threads.length = 32) (hl : l < 32) :
    (h.thread l).preds = ((settleAll tm gi g).thread l).preds :=
  (congrArg Thread.preds (Group.ended_unparks ended l).1).trans (ClauseRun.preds_left length hl)

/-- A thread that takes no part keeps its place, but that its barrier may release it. -/
theorem Group.ended_stays (ended : h.threads = (g.ended tm gi r).threads) (length : g.threads.length = 32) (hl : l < 32)
    (out : r.active.getLsbD l = false) :
    let before := g.thread l
    let after := h.thread l
    after.pc = before.pc ∧ after.idx = before.idx ∧ after.live = before.live ∧ after.trapMode = before.trapMode ∧
      after.trapPc = before.trapPc ∧ (after.parked = none ∨ after.parked = before.parked) := by
  have place := Group.place_of_outline (g.outline_settleAll tm gi) l
  obtain ⟨same, parked⟩ := Group.ended_unparks ended l
  rw [ClauseRun.left_stays length hl out] at same parked
  simp only [Thread.place, Thread.stand, Prod.mk.injEq] at place
  obtain ⟨live, park, mode, pc, idx, trapPc, -, -⟩ := place
  exact ⟨(congrArg Thread.pc same).trans pc, (congrArg Thread.idx same).trans idx, (congrArg Thread.live same).trans live,
    (congrArg Thread.trapMode same).trans mode, (congrArg Thread.trapPc same).trans trapPc, park ▸ parked⟩

/-- A thread that executed EXIT is no longer live (R84). -/
theorem Group.ended_exited (ended : h.threads = (g.ended tm gi r).threads) (length : g.threads.length = 32) (hl : l < 32)
    (part : r.active.getLsbD l = true) (exited : r.exited.getLsbD l = true) :
    (h.thread l).live = false ∧ (h.thread l).parked = none := by
  obtain ⟨same, parked⟩ := Group.ended_unparks ended l
  rw [ClauseRun.left_leaves length hl part, ClauseRun.leave, if_pos exited] at same parked
  exact ⟨congrArg Thread.live same, parked.elim id id⟩

/-- A thread that stays in the group goes to its next clause, or leaves its handler (R65, R70, R379). -/
theorem Group.ended_leaves (ended : h.threads = (g.ended tm gi r).threads) (length : g.threads.length = 32) (hl : l < 32)
    (part : r.active.getLsbD l = true) (stays : r.exited.getLsbD l = false) :
    let before := g.thread l
    let after := h.thread l
    after.live = before.live ∧ (after.parked = none ∨ after.parked = Map.get? r.parkOn l) ∧
      after.trapPc = before.trapPc ∧ after.trapCause = before.trapCause ∧ after.trapDetail = before.trapDetail ∧
      (r.tret.getLsbD l = true → after.trapMode = false ∧ after.pc = bits before.trapPc.toNat 51 0 ∧
        after.idx = bits before.trapCause.toNat 11 8) ∧
      (r.tret.getLsbD l = false → after.trapMode = before.trapMode ∧ after.pc = Map.get r.targets l r.next ∧ after.idx = 0) := by
  have place := Group.place_of_outline (g.outline_settleAll tm gi) l
  obtain ⟨same, parked⟩ := Group.ended_unparks ended l
  rw [ClauseRun.left_leaves length hl part] at same parked
  rw [ClauseRun.parked_leave stays] at parked
  rw [ClauseRun.leave, if_neg (by simp [stays])] at same
  simp only [Thread.place, Thread.stand, Prod.mk.injEq] at place
  obtain ⟨live, -, mode, -, -, trapPc, trapCause, trapDetail⟩ := place
  cases tret : r.tret.getLsbD l with
  | true =>
    rw [if_pos tret] at same
    refine ⟨(congrArg Thread.live same).trans live, parked, (congrArg Thread.trapPc same).trans trapPc,
      (congrArg Thread.trapCause same).trans trapCause, (congrArg Thread.trapDetail same).trans trapDetail,
      fun _ => ⟨congrArg Thread.trapMode same, ?_, ?_⟩, nofun⟩
    · rw [← trapPc]; exact congrArg Thread.pc same
    · rw [← trapCause]; exact congrArg Thread.idx same
  | false =>
    rw [if_neg (by simp [tret])] at same
    exact ⟨(congrArg Thread.live same).trans live, parked, (congrArg Thread.trapPc same).trans trapPc,
      (congrArg Thread.trapCause same).trans trapCause, (congrArg Thread.trapDetail same).trans trapDetail,
      nofun, fun _ => ⟨(congrArg Thread.trapMode same).trans mode, congrArg Thread.pc same, congrArg Thread.idx same⟩⟩

/-- No barrier holds members that have gathered (R68). -/
theorem Group.ended_gathered (ended : h.threads = (g.ended tm gi r).threads) {k : Nat} (hk : k < 8) (all : ∀ m ∈ g.members k,
    (h.thread m).live = false ∨ (h.thread m).parked = some k) {m : Nat} (hm : m ∈ g.members k) :
    (h.thread m).parked ≠ some k := by
  rw [Group.thread_ended ended]
  refine Group.parked_of_gathered (List.mem_range.2 hk) _ (fun j hj => ?_) (by rwa [ClauseRun.members_left])
  rw [(Group.Unparks.fold Group.Unparks.releaseAt _ _).members, ClauseRun.members_left] at hj
  rw [← Group.thread_ended ended]
  exact all j hj

/-- A thread that executed KWAIT and is not parked was released with all members of its barrier (R70). -/
theorem Group.ended_together (ended : h.threads = (g.ended tm gi r).threads) (length : g.threads.length = 32) (hl : l < 32)
    (part : r.active.getLsbD l = true) (stays : r.exited.getLsbD l = false) {k : Nat} (waits : Map.get? r.parkOn l = some k)
    (free : (h.thread l).parked = none) : k < 8 ∧ ∀ m ∈ g.members k,
      (h.thread m).live = false ∨ (h.thread m).parked = none := by
  have parked : ((r.left (settleAll tm gi g)).thread l).parked = some k := by
    rw [ClauseRun.left_leaves length hl part, ClauseRun.parked_leave stays, waits]
  simp only [Group.thread_ended ended] at free ⊢
  obtain ⟨hk, together⟩ := Group.released_together _ parked free
  exact ⟨List.mem_range.1 hk, fun m hm => together m (by rwa [ClauseRun.members_left])⟩

end

/-! ## The statement -/

/-- Settles O60: the clause goes on, or ends as `Group.ended` says for the group, its barriers and each of its threads. -/
theorem clauseCompletion : Obligations.ClauseCompletion := by
  intro t gi cycles s tm g r ht hg hr length
  refine ⟨fun goes => ?_, fun ends => ?_⟩
  · obtain ⟨u, -, next, hu⟩ := retire_cases cycles ht hg hr
    rw [hu, if_neg goes]
    exact next
  · obtain ⟨h, x, hh, hx, named, mode, vec⟩ := retire_ends cycles ht hg hr ends
    obtain ⟨clause, gate, regs, empty, saves⟩ :=
      Group.ended_rest tm gi (r.advance cycles) { g with clause := some (r.advance cycles) }
    unfold Group.named at named
    simp only [Prod.mk.injEq] at named
    obtain ⟨threads, sameRegs, sameEmpty, sameGate, sameSaves, sameClause⟩ := named
    rw [clause] at sameClause
    have preds {l : Nat} (hl : l < 32) := Group.ended_preds threads length hl
    have away {l : Nat} (hl : l < 32) := Group.ended_stays threads length hl
    have exits {l : Nat} (hl : l < 32) := Group.ended_exited threads length hl
    refine ⟨h, x, hh, hx, Option.isNone_iff_eq_none.1 sameClause, sameGate.trans gate, sameRegs.trans regs,
      sameEmpty.trans empty, sameSaves.trans saves, fun nothing => ?_, fun _ => ⟨mode, vec⟩,
      fun k hk _ all m hm => Group.ended_gathered threads hk all hm,
      fun l hl => ⟨preds hl, away hl, exits hl, fun part stays => ?_⟩⟩
    · rw [nothing] at mode vec
      exact ⟨mode, vec⟩
    · obtain ⟨live, parked, trapPc, trapCause, trapDetail, returns, goes⟩ := Group.ended_leaves threads length hl part stays
      exact ⟨live, parked, trapPc, trapCause, trapDetail, returns, goes,
        fun k waits free => Group.ended_together threads length hl part stays waits free⟩

end Sys2Proof.Machine
end

section
/-! PROOFS. Address checks: what each of them tests, and that a thread that fails the check of its instruction traps, whatever
the other threads do (R117, R120, R155, R156, R158, R164, R171, R188, R210, R244, R354, R359, R376). -/

namespace Sys2Proof.Machine

/-! ## What the threads that pass their check do to one that has trapped -/

section
variable {t gi l : Nat} {x : TrapMark}

/-- The other accesses of a group learn that a load passes them. -/
theorem Group.Away.noteLoad {g : Group} (o : MemOp) (e : MemElem) (as : List Access) (a : g.Away l x) :
    (g.noteLoad o e as).Away l x := by
  unfold Group.noteLoad Group.pass
  dsimp only
  split <;> exact a.same rfl rfl

/-- One of two machines. -/
theorem State.Away.ite {s u : State} {p : Prop} [Decidable p] (a : s.Away t gi l x) (b : u.Away t gi l x) :
    (if p then s else u).Away t gi l x := by
  split
  · exact a
  · exact b

/-- Elements of a load are tried inside the core. -/
theorem State.Away.tryLoads {s : State} (k j : Nat) (o : MemOp) (a : s.Away t gi l x) : (tryLoads k j o s).Away t gi l x := by
  unfold Machine.tryLoads
  refine a.fold fun e _ s b => ?_
  split
  · split
    · exact b
    · split
      · exact (b.modGroup _ _ _ fun _ c => c.noteLoad _ _ _).modGroup _ _ _ fun _ c => c.same rfl rfl
      · exact b
  · exact b

/-- Elements of an access to an array enter their group's queue. -/
theorem State.Away.sendLocal {s : State} (v : View) (insn kind aop : Nat) (quiet shadow : Bool) (rs : List (Nat × Reach))
    (data cmp : Nat → Nat) (a : s.Away t gi l x) : (sendLocal v insn kind aop quiet shadow rs data cmp s).Away t gi l x :=
  a.queueLocal _ _ _ _ _ _ _

/-- Accesses to records enter their group's queue. -/
theorem State.Away.sendRecords {s : State} (v : View) (insn aop : Nat) (quiet : Bool) (rs : List (Nat × Nat))
    (data cmp : Nat → Nat) (a : s.Away t gi l x) : (sendRecords v insn aop quiet rs data cmp s).Away t gi l x :=
  a.queueLocal _ _ _ _ _ _ _

/-- Accesses to records enter the store signature. -/
theorem State.Away.signRecords {s : State} (v : View) (rs : List (Nat × Nat)) (a : s.Away t gi l x) :
    (signRecords v rs s).Away t gi l x := by
  unfold Machine.signRecords
  split
  · exact a
  · refine a.fold fun _ _ _ b => b.modThread _ _ _ _ (.inr fun _ => ?_)
    rfl

end

/-- A global load is sent: its elements take a load slot and are tried inside the core (R189, R190). -/
def View.sendLoad (v : View) (good : List (Nat × Nat)) (regs : Nat) (op : MemOp) (s : State) : State :=
  let u := countExec v.t v.gi (lanesIn good) s
  let sent := Machine.sendLong v u.fresh.1 regs .ld (lanesIn good) [] false [] u.fresh.2
  if good.isEmpty then sent
  else tryLoads v.t v.gi op (sent.modGroup v.t v.gi (fun g => { g with loads := g.loads ++ [op] }))

/-- A global store or atomic is sent: its elements are signed and take a store-queue entry (R189, R192). -/
def View.sendStore (v : View) (good : List (Nat × Nat)) (regs : Nat) (reads : Bool) (signed : List (Nat × Nat × Nat × Nat))
    (op : MemOp) (s : State) : State :=
  let u := countExec v.t v.gi (lanesIn good) (signStores v.t v.gi 0 signed s)
  let sent := if reads then Machine.sendLong v u.fresh.1 regs .ld (lanesIn good) [] false [] u.fresh.2 else u.fresh.2
  if good.isEmpty then sent else sent.modGroup v.t v.gi (fun g => { g with stores := g.stores ++ [op] })

/-- A range of a PUBLISH enters the store signature of a checked thread (R354). -/
def View.signRange (v : View) (scope : Nat) (s : State) (r : Nat × Nat × Nat) : State :=
  if v.team.mode != .unchecked && !v.g.inLogged r.1 then s.modThread v.t v.gi r.1 (fun th =>
    { th with ss := rotl64 th.ss 23 ^^^ chunkHash 0 0 r.2.1 (r.2.2 + scope <<< 32) })
  else s

section
variable {v : View} {l : Nat} {x : TrapMark} {s : State}

/-- A global load is sent. -/
theorem State.Away.sendLoad (good : List (Nat × Nat)) (regs : Nat) (op : MemOp) (a : s.Away v.t v.gi l x) :
    (v.sendLoad good regs op s).Away v.t v.gi l x := by
  have sent := a.sentRest v (lanesIn good) (lanesIn good) regs .ld [] false []
  refine .ite sent ((sent.modGroup _ _ _ fun _ b => ?_).tryLoads _ _ _)
  exact b.same rfl rfl

/-- A global store or atomic is sent. -/
theorem State.Away.sendStore (good : List (Nat × Nat)) (regs : Nat) (reads : Bool) (signed : List (Nat × Nat × Nat × Nat))
    (op : MemOp) (a : s.Away v.t v.gi l x) : (v.sendStore good regs reads signed op s).Away v.t v.gi l x := by
  have counted := ((a.signStores v.t v.gi 0 signed).countExec v.t v.gi (lanesIn good)).fresh
  have sent id := State.Away.ite (p := reads = true) (counted.sendLong v id regs .ld (lanesIn good) [] false []) counted
  refine .ite (sent _) ((sent _).modGroup _ _ _ fun _ b => ?_)
  exact b.same rfl rfl

end

/-! ## The traps -/

/-- An instruction whose failing threads trap first, and that then retires from a machine in which they stand where their traps
left them, traps them. -/
theorem View.traps_of_rest {ρ : Type} {v : View} {s : State} {i : Instr} {check : Nat → Except (Nat × Nat) ρ}
    (h : s.issue? sources i = some v → ∃ (s0 u : State) (cycles : Nat), s0.teams = (v.start s).teams ∧
      exec i s = .next (retire v.t v.gi cycles u) ∧
      ∀ l x, (trapLanes v (v.failing check) s0).Away v.t v.gi l x → u.Away v.t v.gi l x) : v.traps s i check := by
  intro l pc cause detail hi hl he hh
  obtain ⟨s0, u, cycles, teams, hx, rest⟩ := h hi
  have trapped := ((v.fresh_start hi l).outside teams).trapLanes ((LaneSet.mem_lanes _ _).1 hl).1 hh (cause, detail)
    _ (v.failing_nodup check) (View.mem_failing.2 ⟨hl, he⟩)
  exact ⟨_, hx, View.trapped_of_away ((rest l _ trapped).retire cycles)⟩

/-- The same of an instruction given by its effect in the common frame. -/
theorem View.traps_of_frame {ρ : Type} {v : View} {s u : State} {i : Instr} {check : Nat → Except (Nat × Nat) ρ}
    {effect : View → State → Out} {cycles : Nat} (hx : exec i s = frame i effect s)
    (hu : effect v (v.start s) = .next (retire v.t v.gi cycles u))
    (rest : ∀ l x, (v.checked check s).Away v.t v.gi l x → u.Away v.t v.gi l x) : v.traps s i check :=
  View.traps_of_rest fun hi => ⟨_, u, cycles, rfl, (hx.trans (frameWith_issue effect hi)).trans hu, rest⟩

section
variable {v : View} {i : Instr} {f : Fields} {s : State}

/-- LD and LDQ (R188, R189). -/
theorem globalLoad_traps {kind : MemKind} (hx : exec i s = globalLoad i f kind s) :
    v.traps s i (globalReach (elemBytes f.minor.toNat) v) :=
  View.traps_of_frame (u := v.sendLoad (v.good (globalReach (elemBytes f.minor.toNat) v)) _ _ (v.checked _ s)) hx rfl
    fun _ _ a => a.sendLoad _ _ _

/-- ST, STQ, RED, ATOM and CAS (R188, R189). -/
theorem globalStore_traps {kind : MemKind} (hx : exec i s = globalStore i f kind s) :
    v.traps s i (globalReach (elemBytes f.minor.toNat) v) :=
  View.traps_of_frame (u := v.sendStore (v.good (globalReach (elemBytes f.minor.toNat) v)) _ _ _ _ (v.checked _ s)) hx rfl
    fun _ _ a => a.sendStore _ _ _ _ _

/-- The loads from an array (R160). -/
theorem localLoad_traps {long : Nat} {reach : View → State → Nat → Nat → Nat → Except (Nat × Nat) Reach}
    (hx : exec i s = localLoad i f long reach s) :
    v.traps s i (fun l => reach v (v.start s) l (localAddr v l) (elemBytes f.minor.toNat)) :=
  View.traps_of_frame hx rfl fun _ _ a =>
    (a.sentRest v _ _ _ _ _ _ _).sendLocal _ _ _ _ _ _ _ _ _

/-- The stores to an array (R160). -/
theorem localStore_traps {space : Nat} {shadow : Bool} {reach : View → State → Nat → Nat → Nat → Except (Nat × Nat) Reach}
    (hx : exec i s = localStore i f space shadow reach s) :
    v.traps s i (fun l => reach v (v.start s) l (localAddr v l) (elemBytes f.minor.toNat)) :=
  View.traps_of_frame hx rfl fun _ _ a =>
    ((a.signStores _ _ _ _).countExec _ _ _).fresh.sendLocal _ _ _ _ _ _ _ _ _

/-- The atomics on an array (R163). -/
theorem localAtomic_traps {space : Nat} {reach : View → State → Nat → Nat → Nat → Except (Nat × Nat) Reach}
    (hx : exec i s = localAtomic i f space reach s) :
    v.traps s i (fun l => reach v (v.start s) l (v.a l % 2 ^ 32) (elemBytes f.minor.toNat)) :=
  View.traps_of_frame hx rfl fun _ _ a =>
    (State.Away.ite ((a.signStores _ _ _ _).countExec _ _ _).fresh ((a.signStores _ _ _ _).sentRest v _ _ _ _ _ _ _)).sendLocal
      _ _ _ _ _ _ _ _ _

/-- LAUNCH and SPAWN (R245, R246). -/
theorem armLanes_traps {aop : Nat} {data cmp : View → Nat → Nat} (hx : exec i s = armLanes i aop data cmp s) :
    v.traps s i (recordReach v) :=
  View.traps_of_frame hx rfl fun _ _ a =>
    ((a.signRecords _ _).sentRest v _ _ _ _ _ _ _).sendRecords _ _ _ _ _ _ _

/-- JADD (R244). -/
theorem jadd_traps : v.traps s (.jadd f) (recordReach v) :=
  View.traps_of_frame (show exec (.jadd f) s = execJadd f s from rfl) rfl fun _ _ a =>
    .ite ((a.signRecords _ _).countExec _ _ _).fresh (((a.signRecords _ _).countExec _ _ _).fresh.sendRecords _ _ _ _ _ _ _)

/-- AFENCE (R210). -/
theorem afence_traps : v.traps s (.afence f) (rangeReach v) := by
  refine View.traps_of_frame (show exec (.afence f) s = execAfence f s from rfl) rfl fun _ _ a =>
    .ite (a.countExec _ _ _).fresh ((a.countExec _ _ _).fresh.modGroup _ _ _ fun _ b => ?_)
  exact b.same rfl rfl

/-- PUBLISH (R354). -/
theorem publish_traps : v.traps s (.publish f) (publishReach v) := by
  refine View.traps_of_frame (show exec (.publish f) s = execPublish f s from rfl) rfl fun l x a => ?_
  have signed := a.fold (f := v.signRange f.d.toNat)
    (xs := (v.good (publishReach v)).filterMap (fun lr => lr.2.map (fun xn => (lr.1, xn.1, xn.2))))
    fun _ _ _ b => .ite (b.modThread _ _ _ _ (.inr fun _ => rfl)) b
  refine .ite (signed.countExec _ _ _).fresh ((signed.countExec _ _ _).fresh.modGroup _ _ _ fun _ b => ?_)
  exact b.same rfl rfl

/-! ## Slices -/

/-- The bytes of an access are those in the slice and those in the backing store (R116). -/
theorem sliceReach_bytes {o n : Nat} {r : SliceReach} {l : Nat} (h : sliceReach v l o n = .ok r) : r.inSlice + r.inBack = n := by
  unfold sliceReach at h
  dsimp only at h
  split at h
  · split at h <;> cases h
    rfl
  · split at h <;> cases h
    exact Nat.add_sub_cancel' (Nat.min_le_left _ _)

/-- The same of LDL and STL (R120). -/
theorem laneReach_bytes {n : Nat} {r : SliceReach} {l : Nat} (h : laneReach n v l = .ok r) : r.inSlice + r.inBack = n := by
  unfold laneReach at h
  split at h
  · cases h
  · exact sliceReach_bytes h

/-- No accessed byte lies in a page of the backing store. -/
def Resident (rs : List (Nat × SliceReach)) : Prop := ∀ lr ∈ rs, pageChunks lr.2.back lr.2.inBack = []

/-- Accesses that need no backing page have no byte in one. -/
theorem resident_of_backPages {rs : List (Nat × SliceReach)} (h : backPages rs = []) : Resident rs :=
  fun lr hlr => List.map_eq_nil_iff.1 (List.flatMap_eq_nil_iff.1 h lr hlr)

/-- Such accesses meet no fault and no stopped home. -/
theorem Resident.passes {rs : List (Nat × SliceReach)} (h : Resident rs) (s : State) (tm : Team) (write : Bool) :
    s.backFault tm write rs = none ∧ s.backDown tm write rs = false := by
  refine ⟨List.findSome?_eq_none_iff.2 fun lr hlr => ?_, List.any_eq_false.2 fun lr hlr => ?_⟩ <;> rw [h lr hlr] <;> simp

/-- A slice instruction whose accesses need no backing page waits for nothing (R116, R222). -/
theorem sliceAccess_resident {write : Bool} {check : View → Nat → Except (Nat × Nat) SliceReach}
    {effect : View → List (Nat × SliceReach) → State → Out} (h : backPages (v.good (check v)) = [])
    (hi : s.issue? sources i = some v) : sliceAccess i write check effect s =
      effect v (v.good (check v)) (trapLanes v (v.failing (check v)) ((v.start s).spend ⟨2, v.t, v.gi⟩)) := by
  obtain ⟨noFault, noneDown⟩ := (resident_of_backPages h).passes (v.start s) v.team write
  unfold sliceAccess frame
  rw [frameWith_issue _ hi, splitReach_eq]
  simp [State.allKnown, h, noFault, noneDown]

/-- A spent request leaves the teams. -/
theorem State.spend_teams (s : State) (k : Asker) : (s.spend k).teams = s.teams := by
  unfold State.spend
  split <;> rfl

/-- The number of bytes of a value. -/
theorem length_leBytes (x n : Nat) : (leBytes x n).length = n := by simp [leBytes]

/-- SPILL and STL (R119, R120). -/
theorem sliceStore_traps {check : View → Nat → Except (Nat × Nat) SliceReach} {cycles n : Nat} {value : View → Nat → Nat}
    (hx : exec i s = sliceAccess i true check (sliceStore cycles n value) s)
    (bytes : ∀ l r, check v l = .ok r → r.inSlice + r.inBack = n) (h : backPages (v.good (check v)) = []) :
    v.traps s i (check v) := by
  refine View.traps_of_rest fun hi => ⟨(v.start s).spend ⟨2, v.t, v.gi⟩, _, _, (v.start s).spend_teams _,
    hx.trans (sliceAccess_resident h hi), fun l x a => (a.fold fun lr hlr s b => ?_).countExec _ _ _⟩
  have rest : ((leBytes (value v lr.1) n).drop lr.2.inSlice).length = lr.2.inBack := by
    have := bytes lr.1 lr.2 (View.mem_good.1 hlr).2
    rw [List.length_drop, length_leBytes]
    omega
  dsimp only
  unfold State.backWrite
  rw [rest, resident_of_backPages h lr hlr]
  exact b.modTeamSame _ _ fun _ => rfl

/-- FILL and LDL (R119, R120). -/
theorem sliceLoad_traps {check : View → Nat → Except (Nat × Nat) SliceReach} {cycles regs : Nat} {extend : Nat → Nat}
    (hx : exec i s = sliceAccess i false check (sliceLoad cycles regs extend) s) (h : backPages (v.good (check v)) = []) :
    v.traps s i (check v) := by
  refine View.traps_of_rest fun hi => ⟨(v.start s).spend ⟨2, v.t, v.gi⟩, _, _, (v.start s).spend_teams _,
    hx.trans (sliceAccess_resident h hi), fun l x a => State.Away.sentRest v _ _ _ _ _ _ _ ?_⟩
  refine List.foldlRecOn (motive := fun acc : Map (List Word) × State => acc.2.Away v.t v.gi l x) _ _ a fun acc b lr hlr => ?_
  dsimp only
  unfold State.backRead
  rw [resident_of_backPages h lr hlr]
  exact b

end

/-! ## What each check tests -/

section
variable (v : View) (s : State) (l x n : Nat)

/-- An address is a multiple of a size and below 2^52, or the check fails. -/
theorem aligned_iff (x n : Nat) : (x % n ≠ 0 ∨ x >>> 52 ≠ 0) ↔ ¬ (x % n = 0 ∧ x < 2 ^ 52) := by
  rw [Nat.shiftRight_eq_div_pow]
  omega

/-- The address of a global element (R188). -/
theorem globalReach_eq : globalReach n v l = if globalAddr v l % n = 0 ∧ globalAddr v l < 2 ^ 52 then .ok (globalAddr v l)
    else .error (6, globalAddr v l) := by
  unfold globalReach
  simp only [aligned_iff, ite_not]

/-- The address of a record (R244). -/
theorem recordReach_eq : recordReach v l = if v.a l % 32 = 0 ∧ v.a l < 2 ^ 52 then .ok (v.a l) else .error (6, v.a l) := by
  unfold recordReach
  simp only [aligned_iff, ite_not]

/-- The range of an AFENCE (R210). -/
theorem rangeReach_eq : rangeReach v l = if v.b l = 0 then .ok none
    else if v.a l + v.b l ≤ 2 ^ 52 then .ok (some (v.a l, v.b l)) else .error (6, v.a l) := by
  have out : (v.a l >>> 52 ≠ 0 ∨ 2 ^ 52 < v.a l + v.b l) ↔ v.b l = 0 ∧ 2 ^ 52 ≤ v.a l ∨ ¬ v.a l + v.b l ≤ 2 ^ 52 := by
    rw [Nat.shiftRight_eq_div_pow]
    omega
  unfold rangeReach
  dsimp only
  by_cases empty : v.b l = 0
  · rw [if_pos empty, if_pos empty]
  · simp only [empty, out, if_false, false_and, false_or, ite_not]

/-- The range of a PUBLISH, and who may publish (R354). -/
theorem publishReach_eq : publishReach v l =
    if v.b l ≠ 0 ∧ v.a l + v.b l ≤ 2 ^ 52 ∧ v.team.mode ≠ .unchecked ∧ v.g.inLogged l = false ∧
      hasBit v.team.lb.flags 0 = false then .error (13, v.a l) else rangeReach v l := by
  unfold publishReach
  rw [rangeReach_eq]
  by_cases empty : v.b l = 0
  · simp only [empty, if_true, ne_eq, not_true_eq_false, false_and, if_false]
  · by_cases inside : v.a l + v.b l ≤ 2 ^ 52
    · simp only [empty, inside, if_true, if_false, ne_eq, not_false_eq_true, true_and, Bool.and_eq_true, bne_iff_ne,
        Bool.not_eq_true', and_assoc]
    · simp only [empty, inside, if_false, false_and, and_false]

/-- What a failing access to an array leaves in the detail (R375). -/
theorem localTrap_zero : localTrap x 0 = (12, x * 2 ^ 32) := by
  unfold localTrap
  rw [Nat.add_zero]

/-- The scratchpad bytes of a thread, or of a callee (R155, R158, R367). -/
theorem padReach_eq : padReach v s l x n = if x % n ≠ 0 then .error (6, x)
    else if v.g.inCall l = true then
      (if x + n ≤ (scratchOf v.team v.gi).2 then .ok (.pad ((scratchOf v.team v.gi).1 + x)) else .error (12, x * 2 ^ 32))
    else if v.team.ownsPad x n = true then .ok (.pad x) else .error (12, x * 2 ^ 32) := by
  unfold padReach
  rw [localTrap_zero]

/-- The chip scratchpad of a partition (R156, R158). -/
theorem chipReach_eq : chipReach v s l x n = if x % n ≠ 0 then .error (6, x)
    else if x + n ≤ ((s.part v.team.part).config.pieces0 + (s.part v.team.part).config.pieces1) * 0x40000
      then .ok (.chip (v.team.part * 2 ^ 26 + x)) else .error (12, x * 2 ^ 32) := by
  unfold chipReach
  rw [localTrap_zero]

section
variable {x n}

/-- An element of a window is aligned (R158). -/
theorem winReach_misaligned (h : x % n ≠ 0) : winReach v s l x n = .error (6, x) := by
  unfold winReach
  exact if_pos h

variable (aligned : x % n = 0)
include aligned

/-- A team without a window reaches none (R164). -/
theorem winReach_none (none : v.team.lb.win = 0) : winReach v s l x n = .error (12, x * 2 ^ 32 + 1) := by
  unfold winReach
  simp only [aligned, none, localTrap]
  rfl

/-- A team's own window (R158). -/
theorem winReach_own (win : v.team.lb.win ≠ 0) (own : bits x 19 18 = s.position v.team.core) : winReach v s l x n =
    if bits x 17 0 + n ≤ v.team.lb.win then .ok (.window v.t (bits x 17 0)) else .error (12, x * 2 ^ 32) := by
  unfold winReach
  simp only [aligned, win, own, localTrap_zero, ne_eq, not_true_eq_false, if_true, if_false]

variable (win : v.team.lb.win ≠ 0) (other : bits x 19 18 ≠ s.position v.team.core)
include win other

/-- A replaying run reaches no other window (R326). -/
theorem winReach_replays (replays : v.team.replays = true) : winReach v s l x n = .ok .away := by
  unfold winReach
  simp only [aligned, win, other, replays, ne_eq, not_true_eq_false, if_true, if_false]

variable (runs : v.team.replays = false)
include runs

/-- The window of another team of the sharing group (R164, R171). -/
theorem winReach_shared {k : Nat} {o : Team}
    (stands : (s.coreAt (clusterOf v.team.core) (bits x 19 18)).bind s.windowAt = some (k, o))
    (shares : v.team.sharing.isSome = true) (same : o.sharing = v.team.sharing) : winReach v s l x n =
    if bits x 17 0 + n ≤ o.lb.win then .ok (.window k (bits x 17 0)) else .error (12, x * 2 ^ 32) := by
  obtain ⟨c, core, window⟩ := Option.bind_eq_some_iff.1 stands
  unfold winReach
  simp only [aligned, win, other, runs, core, window, shares, same, localTrap_zero, ne_eq, not_true_eq_false, if_true, if_false,
    Bool.false_eq_true, beq_self_eq_true, Bool.and_self]

/-- Any other window (R164). -/
theorem winReach_foreign (foreign : ∀ k o, (s.coreAt (clusterOf v.team.core) (bits x 19 18)).bind s.windowAt = some (k, o) →
    v.team.sharing = none ∨ o.sharing ≠ v.team.sharing) : winReach v s l x n = .error (12, x * 2 ^ 32 + 1) := by
  unfold winReach
  simp only [aligned, win, other, runs, ne_eq, not_true_eq_false, if_false, Bool.false_eq_true]
  split
  · rfl
  · rename_i c core
    split
    · rfl
    · rename_i k o window
      have shut : ¬ (v.team.sharing.isSome && o.sharing == v.team.sharing) = true := by
        rcases foreign k o (by rw [core, Option.bind_some, window]) with none | other
        · simp [none]
        · simp [other]
      rw [if_neg shut]
      rfl

end

/-- The parts of an access that fits the slice and its backing store (R116). -/
theorem sliceReach_own (own : v.g.inCall l = false) : sliceReach v l x n =
    if 64 * v.team.lb.slice + v.team.lb.backw < x + n then .error (8, x)
    else .ok ⟨x, min n (64 * v.team.lb.slice - x),
      v.team.lb.backbase + (v.team.copy * (32 * v.team.lb.groups) + 32 * v.gi + l) * v.team.lb.backw +
        (max x (64 * v.team.lb.slice) - 64 * v.team.lb.slice), n - min n (64 * v.team.lb.slice - x)⟩ := by
  unfold sliceReach
  simp only [own, Bool.false_eq_true, if_false]

/-- A callee's access to its part of the slice (R367). -/
theorem sliceReach_callee (callee : v.g.inCall l = true) : sliceReach v l x n =
    if x + n ≤ 64 * (v.g.gate.map (·.slice)).getD 0 then
      .ok ⟨64 * v.team.lb.slice - 64 * (v.g.gate.map (·.slice)).getD 0 + x, n, 0, 0⟩
    else .error (8, x) := by
  unfold sliceReach
  simp only [callee, if_true, Nat.mul_comm]

/-- An access past the slice and its backing store (R117). -/
theorem sliceReach_past (own : v.g.inCall l = false) (past : 64 * v.team.lb.slice + v.team.lb.backw < x + n) :
    sliceReach v l x n = .error (8, x) := by
  rw [sliceReach_own v l x n own, if_pos past]

/-- An access inside the slice (R116). -/
theorem sliceReach_inside (own : v.g.inCall l = false) (inside : x + n ≤ 64 * v.team.lb.slice) :
    ∃ r, sliceReach v l x n = .ok r ∧ r.slice = x ∧ r.inSlice = n ∧ r.inBack = 0 := by
  refine ⟨_, (sliceReach_own v l x n own).trans (if_neg (by omega)), rfl, ?_, ?_⟩ <;> dsimp only <;> omega

/-- An access that reaches into the backing store (R116). -/
theorem sliceReach_beyond (own : v.g.inCall l = false) (beyond : 64 * v.team.lb.slice < x + n)
    (fits : x + n ≤ 64 * v.team.lb.slice + v.team.lb.backw) : ∃ r, sliceReach v l x n = .ok r ∧ r.slice = x ∧
      r.inSlice = 64 * v.team.lb.slice - x ∧ r.inSlice + r.inBack = n ∧
      r.back = v.team.lb.backbase + (v.team.copy * (32 * v.team.lb.groups) + 32 * v.gi + l) * v.team.lb.backw +
        (max x (64 * v.team.lb.slice) - 64 * v.team.lb.slice) := by
  have part : min n (64 * v.team.lb.slice - x) = 64 * v.team.lb.slice - x := by omega
  exact ⟨_, (sliceReach_own v l x n own).trans (if_neg (by omega)), rfl, part, Nat.add_sub_cancel' (Nat.min_le_left _ _), rfl⟩

end

/-! ## The statement -/

/-- Settles O24: each check in its cases, and each instruction in the form that it has in common with others. -/
theorem addressChecks : Obligations.AddressChecks := by
  refine ⟨fun v s l x n => ⟨globalReach_eq v l n, recordReach_eq v l, rangeReach_eq v l, publishReach_eq v l, padReach_eq v s l x n,
    chipReach_eq v s l x n, winReach_misaligned v s l, winReach_none v s l, winReach_own v s l, winReach_replays v s l,
    fun aligned win other runs => ⟨fun _ _ => winReach_shared v s l aligned win other runs,
      winReach_foreign v s l aligned win other runs⟩,
    sliceReach_past v l x n, sliceReach_inside v l x n, sliceReach_beyond v l x n, sliceReach_callee v l x n, rfl⟩, fun f s v => ?_⟩
  exact ⟨globalLoad_traps rfl, globalLoad_traps rfl, globalStore_traps rfl,
    globalStore_traps rfl, globalStore_traps rfl, globalStore_traps rfl,
    globalStore_traps rfl, afence_traps, publish_traps, jadd_traps,
    armLanes_traps (show exec (.launch f) s = execLaunch f s from rfl),
    armLanes_traps (show exec (.spawn f) s = execSpawn f s from rfl),
    localLoad_traps rfl, localStore_traps rfl, localAtomic_traps rfl,
    localLoad_traps rfl, localStore_traps rfl, localStore_traps rfl,
    localLoad_traps rfl, localStore_traps rfl, localAtomic_traps rfl,
    fun h => ⟨sliceStore_traps (show exec (.spill f) s = execSpill f s from rfl)
        (fun _ _ => sliceReach_bytes) h,
      sliceLoad_traps (show exec (.fill f) s = execFill f s from rfl) h⟩,
    fun h => ⟨sliceLoad_traps (show exec (.ldl f) s = execLdl f s from rfl) h,
      sliceStore_traps (show exec (.stl f) s = execStl f s from rfl) (fun _ _ => laneReach_bytes) h⟩⟩

end Sys2Proof.Machine
end

section
/-! PROOFS. What a write by a set of lanes makes of a register of each shape (R97). -/

namespace Sys2Proof.Machine

/-! ## Distances between lanes -/

/-- A distance between lanes is a power of 2 below 32 times an odd number, which `invOdd` inverts modulo 2^32. -/
theorem twos_spec {d : Nat} (pos : 0 < d) (below : d < 32) : twos d < 5 ∧ d = 2 ^ twos d * (d / 2 ^ twos d) ∧
    d / 2 ^ twos d * invOdd (d / 2 ^ twos d) % 2 ^ 32 = 1 := by
  have table : ∀ d < 32, 0 < d → twos d < 5 ∧ d = 2 ^ twos d * (d / 2 ^ twos d) ∧
    d / 2 ^ twos d * invOdd (d / 2 ^ twos d) % 2 ^ 32 = 1 := by decide
  exact table d below pos

/-- A multiple of 2^t taken modulo 2^32. -/
theorem mul_two_pow_mod {t : Nat} (ht : t ≤ 32) (a : Nat) : 2 ^ t * a % 2 ^ 32 = 2 ^ t * (a % 2 ^ (32 - t)) := by
  rw [← Nat.mul_mod_mul_left, ← Nat.pow_add, Nat.add_sub_cancel' ht]

/-- The difference of two values of a stride, as a number. -/
theorem toNat_step (d : Nat) (k : Word) : (BitVec.ofNat 32 d * k).toNat = d * k.toNat % 2 ^ 32 := by
  rw [BitVec.toNat_mul, BitVec.toNat_ofNat, Nat.mod_mul_mod]

/-- The stride that a difference over a distance determines, but for the high bits that the distance shifts out (R97). -/
theorem stride_of_step {d : Nat} (pos : 0 < d) (below : d < 32) (k : Word) :
    (BitVec.ofNat 32 d * k).toNat / 2 ^ twos d * invOdd (d / 2 ^ twos d) % 2 ^ (32 - twos d) =
      k.toNat % 2 ^ (32 - twos d) := by
  obtain ⟨small, factors, inverse⟩ := twos_spec pos below
  generalize twos d = t at *
  generalize d / 2 ^ t = o at *
  have inverse' : o * invOdd o ≡ 1 [MOD 2 ^ (32 - t)] :=
    Nat.ModEq.of_dvd (Nat.pow_dvd_pow 2 (Nat.sub_le 32 t)) (show o * invOdd o % 2 ^ 32 = 1 % 2 ^ 32 from inverse)
  rw [toNat_step, factors, Nat.mul_assoc, mul_two_pow_mod (by omega), Nat.mul_div_cancel_left _ (Nat.two_pow_pos t)]
  calc o * k.toNat % 2 ^ (32 - t) * invOdd o % 2 ^ (32 - t)
    _ = o * k.toNat * invOdd o % 2 ^ (32 - t) := Nat.mod_mul_mod _ _ _
    _ = o * invOdd o * k.toNat % 2 ^ (32 - t) := by rw [Nat.mul_right_comm]
    _ = 1 * k.toNat % 2 ^ (32 - t) := inverse'.mul_right _
    _ = k.toNat % 2 ^ (32 - t) := by rw [Nat.one_mul]

/-- The high bits of a stride do not matter to a distance that shifts them out. -/
theorem step_mod {d t : Nat} (pos : 0 < d) (below : d < 32) (le : t ≤ twos d) (k : Word) :
    BitVec.ofNat 32 d * BitVec.ofNat 32 (k.toNat % 2 ^ (32 - t)) = BitVec.ofNat 32 d * k := by
  obtain ⟨small, factors, -⟩ := twos_spec pos below
  obtain ⟨m, hm⟩ : 2 ^ t ∣ d := (Nat.pow_dvd_pow 2 le).trans ⟨_, factors⟩
  have high : k.toNat % 2 ^ (32 - t) < 2 ^ 32 := (Nat.mod_le _ _).trans_lt k.isLt
  apply BitVec.eq_of_toNat_eq
  rw [toNat_step, toNat_step, BitVec.toNat_ofNat, Nat.mod_eq_of_lt high, hm, Nat.mul_assoc, Nat.mul_assoc,
    mul_two_pow_mod (by omega), mul_two_pow_mod (by omega), Nat.mul_mod_mod]

/-! ## The stride of a set of writes -/

/-- The least value of a list, from a bound on. -/
theorem foldl_min_spec {α : Type} (f : α → Nat) (xs : List α) (b : Nat) :
    let m := xs.foldl (fun t a => min t (f a)) b
    m ≤ b ∧ (∀ a ∈ xs, m ≤ f a) ∧ (m = b ∨ ∃ a ∈ xs, f a = m) := by
  induction xs generalizing b with
  | nil => simp
  | cons a as ih =>
    obtain ⟨bound, least, met⟩ := ih (min b (f a))
    dsimp only [List.foldl_cons] at *
    refine ⟨bound.trans (Nat.min_le_left _ _), fun c hc => ?_, ?_⟩
    · rcases List.mem_cons.1 hc with rfl | hc
      · exact bound.trans (Nat.min_le_right _ _)
      · exact least c hc
    · rcases met with met | ⟨c, hc, met⟩
      · rcases Nat.le_total b (f a) with le | le
        · exact .inl (met.trans (Nat.min_eq_left le))
        · exact .inr ⟨a, List.mem_cons_self .., (met.trans (Nat.min_eq_right le)).symm⟩
      · exact .inr ⟨c, List.mem_cons_of_mem _ hc, met⟩

/-- The least exponent of 2 in the distances of some writes from a lane. -/
def leastTwos (l0 : Nat) (rest : Map Word) : Nat := rest.foldl (fun t lx => min t (twos (lx.1 - l0))) 31

/-- No distance of the writes has a smaller exponent. -/
theorem leastTwos_le {l0 : Nat} {rest : Map Word} {lx : Nat × Word} (h : lx ∈ rest) : leastTwos l0 rest ≤ twos (lx.1 - l0) :=
  (foldl_min_spec (fun lx : Nat × Word => twos (lx.1 - l0)) rest 31).2.1 lx h

/-- The stride that a write at such a distance determines. -/
def leastStride (l0 : Nat) (x0 : Word) (rest : Map Word) : Nat :=
  match rest.find? (fun lx => twos (lx.1 - l0) == leastTwos l0 rest) with
  | some (l, x) =>
    (x - x0).toNat / 2 ^ leastTwos l0 rest * invOdd ((l - l0) / 2 ^ leastTwos l0 rest) % 2 ^ (32 - leastTwos l0 rest)
  | none => 0

/-- The writes lie on the line through a value at a lane with a stride. -/
def OnLine (l0 : Nat) (x0 : Word) (rest : Map Word) (k : Word) : Prop :=
  ∀ lx ∈ rest, lx.2 = x0 + BitVec.ofNat 32 (lx.1 - l0) * k

/-- Two writes or more to a register of shape A take effect where all lie on the line of that stride. -/
theorem shapeWrite_affine (old : List Word) (l0 : Nat) (x0 : Word) {rest : Map Word} (more : rest ≠ []) :
    shapeWrite 2 old ((l0, x0) :: rest) =
      if rest.all (fun lx => lx.2 == x0 + BitVec.ofNat 32 (lx.1 - l0) * BitVec.ofNat 32 (leastStride l0 x0 rest)) then
        some [x0 - BitVec.ofNat 32 l0 * BitVec.ofNat 32 (leastStride l0 x0 rest), BitVec.ofNat 32 (leastStride l0 x0 rest)]
      else none := by
  cases rest with
  | nil => exact absurd rfl more
  | cons lx rest => rfl

section
variable {l0 : Nat} {x0 : Word} {rest : Map Word} (later : ∀ lx ∈ rest, l0 < lx.1 ∧ lx.1 < 32)
include later

/-- Where the writes lie on a line, the stride is that of the line without the bits that every distance shifts out. -/
theorem leastStride_of_line (more : rest ≠ []) {k : Word} (line : OnLine l0 x0 rest k) :
    leastStride l0 x0 rest = k.toNat % 2 ^ (32 - leastTwos l0 rest) := by
  obtain ⟨-, -, met⟩ := foldl_min_spec (fun lx : Nat × Word => twos (lx.1 - l0)) rest 31
  have distance (lx) (h : lx ∈ rest) : 0 < lx.1 - l0 ∧ lx.1 - l0 < 32 := by
    have := later lx h
    omega
  have attained : ∃ lx ∈ rest, twos (lx.1 - l0) = leastTwos l0 rest := by
    rcases met with none | attained
    · obtain ⟨lx, hlx⟩ := List.exists_mem_of_ne_nil rest more
      have small := (twos_spec (distance lx hlx).1 (distance lx hlx).2).1
      have bound := leastTwos_le (l0 := l0) hlx
      unfold leastTwos at bound
      omega
    · exact attained
  unfold leastStride
  cases found : rest.find? (fun lx => twos (lx.1 - l0) == leastTwos l0 rest) with
  | none =>
    obtain ⟨lx, hlx, same⟩ := attained
    exact absurd (beq_iff_eq.2 same) (List.find?_eq_none.1 found lx hlx)
  | some lx =>
    have hlx := List.mem_of_find?_eq_some found
    have same : twos (lx.1 - l0) = leastTwos l0 rest := by simpa using List.find?_some found
    have step : lx.2 - x0 = BitVec.ofNat 32 (lx.1 - l0) * k := by
      rw [line lx hlx, BitVec.add_comm, BitVec.add_sub_cancel]
    dsimp only
    rw [step, ← same]
    exact stride_of_step (distance lx hlx).1 (distance lx hlx).2 k

/-- Writes that lie on a line lie on that of their least stride, and no line of theirs has a smaller one. -/
theorem leastStride_least (more : rest ≠ []) {k : Word} (line : OnLine l0 x0 rest k) :
    OnLine l0 x0 rest (BitVec.ofNat 32 (leastStride l0 x0 rest)) ∧
      (BitVec.ofNat 32 (leastStride l0 x0 rest)).toNat ≤ k.toNat := by
  rw [leastStride_of_line later more line]
  refine ⟨fun lx hlx => ?_, ?_⟩
  · have := later lx hlx
    rw [step_mod (by omega) (by omega) (leastTwos_le hlx)]
    exact line lx hlx
  · rw [BitVec.toNat_ofNat]
    exact (Nat.mod_le _ _).trans (Nat.mod_le _ _)

/-- A base and a stride fit all writes when the first write gives the base and the others lie on its line. -/
theorem fits_iff (base k : Word) : (∀ lx ∈ (l0, x0) :: rest, lx.2 = base + BitVec.ofNat 32 lx.1 * k) ↔
    base = x0 - BitVec.ofNat 32 l0 * k ∧ OnLine l0 x0 rest k := by
  have split (lx) (h : lx ∈ rest) : BitVec.ofNat 32 lx.1 = BitVec.ofNat 32 l0 + BitVec.ofNat 32 (lx.1 - l0) := by
    rw [← BitVec.ofNat_add, Nat.add_sub_cancel' (later lx h).1.le]
  rw [List.forall_mem_cons, eq_comm, ← BitVec.eq_sub_iff_add_eq]
  refine and_congr_right fun first => forall₂_congr fun lx hlx => ?_
  rw [split lx hlx, first]
  constructor <;> intro h <;> rw [h] <;> ring

end

/-! ## The shapes -/

/-- A U register takes the value that all the lanes agree on (R97). -/
theorem shapeWrite_uniform (old : List Word) {xs : Map Word} {v : Word} (written : xs ≠ []) (same : ∀ lx ∈ xs, lx.2 = v) :
    ∃ ws, shapeWrite 1 old xs = some ws ∧ ∀ l, readWords 1 ws l = v := by
  cases xs with
  | nil => exact absurd rfl written
  | cons x rest =>
    obtain ⟨first, others⟩ := List.forall_mem_cons.1 same
    have agree : rest.all (fun lx => lx.2 == x.2) = true :=
      List.all_eq_true.2 fun lx h => beq_iff_eq.2 ((others lx h).trans first.symm)
    exact ⟨[x.2], if_pos agree, fun _ => first⟩

/-- A U register takes no values that differ (R97). -/
theorem shapeWrite_differing (old : List Word) {xs : Map Word} (differ : ∃ a ∈ xs, ∃ b ∈ xs, a.2 ≠ b.2) :
    shapeWrite 1 old xs = none := by
  obtain ⟨a, ha, b, hb, ne⟩ := differ
  cases xs with
  | nil => cases ha
  | cons x rest =>
    refine if_neg fun agree => ne ?_
    have same (lx) (h : lx ∈ x :: rest) : lx.2 = x.2 := by
      rcases List.mem_cons.1 h with rfl | h
      · rfl
      · exact beq_iff_eq.1 (List.all_eq_true.1 agree lx h)
    exact (same a ha).trans (same b hb).symm

/-- Lanes above the first one of a sorted map. -/
theorem later_of_sorted {l0 : Nat} {x0 : Word} {rest : Map Word} (sorted : Map.sorted ((l0, x0) :: rest) = true)
    (below : ∀ lx ∈ (l0, x0) :: rest, lx.1 < 32) : ∀ lx ∈ rest, l0 < lx.1 ∧ lx.1 < 32 :=
  fun lx h => ⟨((Map.sorted_cons l0 x0 rest).1 sorted).1 lx h, below lx (List.mem_cons_of_mem _ h)⟩

/-- The test of `shapeWrite_affine`. -/
theorem all_onLine (l0 : Nat) (x0 : Word) (rest : Map Word) (k : Word) :
    rest.all (fun lx => lx.2 == x0 + BitVec.ofNat 32 (lx.1 - l0) * k) = true ↔ OnLine l0 x0 rest k := by
  simp only [List.all_eq_true, beq_iff_eq, OnLine]

/-- An A register takes two writes or more with the least stride that fits them, and none where no stride does (R97). -/
theorem shapeWrite_fitting (old : List Word) {xs : Map Word} (sorted : Map.sorted xs = true) (more : 2 ≤ xs.length)
    (below : ∀ lx ∈ xs, lx.1 < 32) :
    let fits := fun (base stride : Word) => ∀ lx ∈ xs, lx.2 = base + BitVec.ofNat 32 lx.1 * stride
    (∀ ws, shapeWrite 2 old xs = some ws → ∃ base stride, ws = [base, stride] ∧ fits base stride ∧
      ∀ b k, fits b k → stride.toNat ≤ k.toNat) ∧
    (shapeWrite 2 old xs = none → ∀ b k, ¬ fits b k) := by
  obtain ⟨⟨l0, x0⟩, rest, rfl⟩ := List.exists_cons_of_length_pos (by omega : 0 < xs.length)
  have some_rest : rest ≠ [] := by
    rintro rfl
    exact absurd more (by simp)
  have later := later_of_sorted sorted below
  dsimp only
  rw [shapeWrite_affine old l0 x0 some_rest]
  simp only [fits_iff later]
  split
  · rename_i line
    refine ⟨fun ws written => ⟨_, _, (Option.some.inj written).symm, ⟨rfl, (all_onLine _ _ _ _).1 line⟩,
      fun b k fit => ?_⟩, nofun⟩
    exact (leastStride_least later some_rest fit.2).2
  · rename_i off
    exact ⟨nofun, fun _ b k fit => off ((all_onLine _ _ _ _).2 (leastStride_least later some_rest fit.2).1)⟩

/-! ## The statement -/

/-- Settles O8: shapes G and U by their definition, shape A by the line through the first write. -/
theorem shapedWrites : Obligations.ShapedWrites := by
  refine ⟨fun _ _ => rfl, fun old xs _ => ?_, fun old xs v => shapeWrite_uniform old, fun old xs => shapeWrite_differing old,
    fun _ _ _ => rfl, fun old xs => shapeWrite_fitting old, fun _ _ _ => rfl⟩
  exact shapeWrite_lanes old xs

end Sys2Proof.Machine
end

section
/-! PROOFS. Integer, multiplying, bitwise and bit-field operations: each family of forms by what one thread computes, and by the
issue cycles and latency of its wide form (R122, R124–R135). -/

namespace Sys2Proof.Machine

/-- A condition on the form that decides its issue cycles and latency may be put in another way (R122). -/
theorem executes_of_vec_iff {i : Instr} {p q : Prop} [Decidable p] [Decidable q] {wideCycles cycles wideLat lat : Nat}
    {k : View → Nat → LaneOut} (same : p ↔ q)
    (h : ∀ s, exec i s = vec i (if p then wideCycles else cycles) (if p then wideLat else lat) k s) :
    Executes i (if q then wideCycles else cycles) (if q then wideLat else lat) k := by
  simp only [same] at h
  exact executes_of_vec h

section
variable {i : Instr} {f : Fields}

/-- An integer operation that does not multiply executes over its exact result, a cycle more for a 64-bit type (R122, R124). -/
theorem intSimple_executes (op : Int → Int → Int) (h : ∀ s, exec i s = intSimple i f op s) :
    Executes i (if decide (2 ≤ f.minor.toNat) then 2 else 1) (if decide (2 ≤ f.minor.toNat) then 3 else 2)
      (fun v l => intResult v (op (intA v l) (intB v l))) :=
  executes_of_vec h

/-- A multiplying integer operation executes over its exact result, three cycles more for a 64-bit type (R122, R125). -/
theorem intMul_executes (op : Nat → Int → Int → Int → Int) (h : ∀ s, exec i s = intMul i f op s) :
    Executes i (if decide (2 ≤ f.minor.toNat) then 4 else 1) (if decide (2 ≤ f.minor.toNat) then 7 else 4)
      (fun v l => intResult v (op (t4Width f.minor.toNat) (intA v l) (intB v l) (intC v l))) :=
  executes_of_vec_iff decide_eq_true_iff.symm h

/-- A simple form of .b32 or .b64 takes a cycle more for .b64 (R122). -/
theorem simple_executes {k : View → Nat → LaneOut} (h : ∀ s, exec i s = simple i (bWidth f == 64) k s) :
    Executes i (if bWidth f = 64 then 2 else 1) (if bWidth f = 64 then 3 else 2) k :=
  executes_of_vec_iff beq_iff_eq h

/-- A bitwise operation writes the low bits of what it makes of its sources (R128). -/
theorem bitOp_executes (op : Nat → Nat → Nat → Nat) (h : ∀ s, exec i s = bitOp i f op s) :
    Executes i (if bWidth f = 64 then 2 else 1) (if bWidth f = 64 then 3 else 2)
      (fun v l => outN v (op (v.a l) (v.bInt l (bWidth f) false) (v.c l) % 2 ^ bWidth f) (bWidth f)) :=
  simple_executes h

/-- A shift or rotation executes by the count that B holds (R129). -/
theorem shiftOp_executes (op : Nat → Nat → Nat → Nat) (h : ∀ s, exec i s = shiftOp i f op s) :
    Executes i (if bWidth f = 64 then 2 else 1) (if bWidth f = 64 then 3 else 2)
      (fun v l => outN v (op (bWidth f) (v.a l) (v.b l)) (bWidth f)) :=
  simple_executes h

end

/-- Settles O15: the operations by their exact results, ICMP by the predicate that it writes. -/
theorem integerOperationsExecute : Obligations.IntegerOperationsExecute := fun _ =>
  ⟨intSimple_executes (· + ·) fun _ => rfl, intSimple_executes (· - ·) fun _ => rfl,
    intSimple_executes (fun a b => min a b) fun _ => rfl, intSimple_executes (fun a b => max a b) fun _ => rfl,
    intSimple_executes (fun a _ => a.natAbs) fun _ => rfl, intSimple_executes (fun a _ => -a) fun _ => rfl,
    executes_of_vec fun _ => rfl⟩

/-- Settles O16: the multiplications by their exact results; LEA, IDOT4 and RNG4 have one form each. -/
theorem multiplyOperationsExecute : Obligations.MultiplyOperationsExecute := fun _ =>
  ⟨intMul_executes (fun _ a b _ => a * b) fun _ => rfl, intMul_executes (fun n a b _ => a * b / (2 ^ n : Int)) fun _ => rfl,
    intMul_executes (fun _ a b c => a * b + c) fun _ => rfl,
    executes_of_vec fun _ => rfl, executes_of_vec fun _ => rfl, executes_of_vec fun _ => rfl⟩

/-- ROT rotates to the left by the count, or by its complement to the width where MINOR rotates to the right (R129). -/
theorem execRot_eq (f : Fields) (s : State) : exec (.rot f) s = shiftOp (.rot f) f (fun n a k =>
    rotl n a (if 2 ≤ f.minor.toNat then (n - k % n) % n else k % n)) s := by
  show execRot f s = _
  unfold execRot
  by_cases right : 2 ≤ f.minor.toNat
  · simp only [if_pos right]
  · simp only [if_neg right]

/-- Settles O17: bitwise operations and shifts by what they make of their sources, the bit-field operations by their width;
BFX is wide by its type, BPERM never. -/
theorem logicAndBitFieldsExecute : Obligations.LogicAndBitFieldsExecute := by
  refine ⟨fun f => ?_, fun f => ?_⟩
  · exact ⟨bitOp_executes (fun a b _ => a &&& b) fun _ => rfl, bitOp_executes (fun a b _ => a ||| b) fun _ => rfl,
      bitOp_executes (fun a b _ => a ^^^ b) fun _ => rfl, bitOp_executes (fun a _ _ => 2 ^ 64 - 1 - a % 2 ^ 64) fun _ => rfl,
      bitOp_executes (lop3 f.mod.toNat) fun _ => rfl,
      shiftOp_executes (fun n a k => if n ≤ k then 0 else (a <<< k) % 2 ^ n) fun _ => rfl,
      shiftOp_executes (fun n a k => if n ≤ k then 0 else a >>> k) fun _ => rfl,
      shiftOp_executes (fun n a k => wrap n (sext a n / (2 ^ min k (n - 1) : Nat))) fun _ => rfl,
      shiftOp_executes _ (execRot_eq f)⟩
  · exact ⟨simple_executes fun _ => rfl, simple_executes fun _ => rfl, simple_executes fun _ => rfl,
      simple_executes fun _ => rfl, executes_of_vec_iff decide_eq_true_iff fun _ => rfl, executes_of_vec fun _ => rfl⟩

end Sys2Proof.Machine
end

section
/-! PROOFS. Packing, unpacking and GETID (R87, R151, R152, R326, R330). -/

namespace Sys2Proof.Machine

/-- A selector of GETID whose value goes through the log of a checked run (R87, R326). -/
def View.logsId (v : View) (sel : Nat) : Prop := 12 ≤ sel ∧ sel ≤ 16 ∧ v.team.mode ≠ .unchecked

/-- GETID of a selector that does not go through the log writes its value (R87). -/
theorem execGetid_own {f : Fields} {s : State} {v : View} (h : s.issue? sources (.getid f) = some v)
    (own : ¬ v.logsId f.minor.toNat) : exec (.getid f) s =
      finish 1 2 (fun l => out32 v (getidValue v (v.start s) f.minor.toNat l)) v (v.start s) := by
  show execGetid f s = _
  unfold execGetid frame
  rw [frameWith_issue _ h]
  exact if_neg own

/-- GETID of a selector that goes through the log writes the logged value, once the log is free to take it (R326, R330). -/
theorem execGetid_logged {f : Fields} {s : State} {v : View} (h : s.issue? sources (.getid f) = some v)
    (logs : v.logsId f.minor.toNat) (free : logWaits v.team v.g = false) :
    let logged := lanesThroughLog v 4 1 v.lanes (getidValue v (v.start s) f.minor.toNat) (v.start s)
    exec (.getid f) s = finish 1 2 (fun l => out32 v (Map.get logged.1 l 0)) v logged.2 := by
  show execGetid f s = _
  unfold execGetid frame
  rw [frameWith_issue _ h]
  exact (if_pos logs).trans (if_neg (Bool.eq_false_iff.1 free))

/-- Settles O19: packing by the lanes that it reads, GETID by whether its selector goes through the log. -/
theorem packingAndIdentityExecute : Obligations.PackingAndIdentityExecute := by
  refine ⟨fun f => ?_, fun f s v hi => ⟨fun own clean => ?_, fun logs free clean => ?_⟩⟩
  · exact ⟨executes_of_vec fun _ => rfl, executes_of_vec fun _ => rfl, executes_of_vec fun _ => rfl,
      executes_of_vec fun _ => rfl, executes_of_vec fun _ => rfl, executes_of_vec fun _ => rfl⟩
  · have unlogged : ¬ v.logsId f.minor.toNat := by
      rintro ⟨low, high, checked⟩
      rcases own with below | above | unchecked
      · omega
      · omega
      · exact checked unchecked
    exact (execGetid_own hi unlogged).trans (finish_clean clean)
  · exact (execGetid_logged hi logs free).trans (finish_clean clean)

end Sys2Proof.Machine
end

section
/-! PROOFS. Floating-point operations, conversions and special functions (R122, R136–R150). -/

namespace Sys2Proof.Machine

section
variable {i : Instr} {f : Fields}

/-- A rounding form of .f32 or .f64 takes a cycle more for .f64, and two cycles more to its result (R122). -/
theorem rounding_executes {k : View → Nat → LaneOut}
    (h : ∀ s, exec i s = vec i (if formWidth f == 64 then 2 else 1) (if formWidth f == 64 then 6 else 4) k s) :
    Executes i (if decide (formWidth f = 64) then 2 else 1) (if decide (formWidth f = 64) then 6 else 4) k :=
  executes_of_vec h

/-- A selection, comparison or class of .f32 or .f64 takes a cycle more for .f64 (R122). -/
theorem quick_executes {k : View → Nat → LaneOut}
    (h : ∀ s, exec i s = vec i (if formWidth f == 64 then 2 else 1) (if formWidth f == 64 then 3 else 2) k s) :
    Executes i (if decide (formWidth f = 64) then 2 else 1) (if decide (formWidth f = 64) then 3 else 2) k :=
  executes_of_vec h

end

/-- FSCL takes a cycle more for .f64 (R122, R150). -/
theorem execFscl_eq (f : Fields) (s : State) : exec (.fscl f) s = vec (.fscl f) (if f.minor.toNat % 4 = 1 then 2 else 1)
    (if f.minor.toNat % 4 = 1 then 6 else 4) (fun v l =>
      let fmt := fsclFmt f
      let r := scaleValue fmt (f.minor.getLsbD 2) (rndOf f) (if rndOf f = 4 then v.c l else 0) (satOf f)
        (flushes v.fpMode fmt) (flushSource v.fpMode fmt (v.a l % 2 ^ fmt.width)) (v.b l)
      { outN v r.1 (if f.minor.toNat % 4 = 1 then 64 else 32) with flags := r.2 }) s := by
  show execFscl f s = _
  unfold execFscl
  simp only [beq_iff_eq]

/-- Settles O20: the scalar forms by their width, the packed forms, the conversions and the scalings by what they make of their
sources. -/
theorem floatOperationsExecute : Obligations.FloatOperationsExecute := by
  refine ⟨fun f => ?_, fun f => ?_⟩
  · exact ⟨rounding_executes fun _ => rfl, rounding_executes fun _ => rfl, rounding_executes fun _ => rfl,
      rounding_executes fun _ => rfl, quick_executes fun _ => rfl, quick_executes fun _ => rfl,
      quick_executes fun _ => rfl, quick_executes fun _ => rfl, rounding_executes fun _ => rfl⟩
  · exact ⟨executes_of_vec fun _ => rfl, executes_of_vec fun _ => rfl, executes_of_vec fun _ => rfl,
      executes_of_vec fun _ => rfl, executes_of_vec fun _ => rfl, executes_of_vec fun _ => rfl,
      executes_of_vec (execFscl_eq f)⟩

/-- A special function that issues normally sends what it makes of each executing thread's source, with the flags (R144, R145). -/
theorem sfu_issue {i : Instr} {f : Fields} {code : Nat} {s : State} {v : View} (hx : exec i s = sfu i f code s)
    (h : s.issue? sources i = some v) :
    let value := fun l => special code (formFmt f) (rndOf f) (satOf f) (flushes v.fpMode (formFmt f)) (fSrc v (v.a l))
    exec i s = .next (v.sent 1 (formWidth f / 32) .sfu
      (v.lanes.lanes.map (fun l => (l, wordsOf (value l).1 (formWidth f / 32)))) true
      (v.lanes.lanes.map (fun l => (l, (value l).2))) (v.start s)) := by
  rw [hx, sfu, frame, frameWith_issue _ h]
  simp only [List.map_map]
  rfl

/-- Settles O21: each special function is `sfu` of its code. -/
theorem specialFunctionsExecute : Obligations.SpecialFunctionsExecute := fun _ _ _ =>
  ⟨sfu_issue rfl, sfu_issue rfl, sfu_issue rfl, sfu_issue rfl, sfu_issue rfl, sfu_issue rfl, sfu_issue rfl, sfu_issue rfl⟩

end Sys2Proof.Machine
end

section
/-! PROOFS. Accesses to the core and chip scratchpads and the windows from issue to their group's queue (R155–R166, R173,
R335). -/

namespace Sys2Proof.Machine

section
variable {i : Instr} {f : Fields} {reach : View → State → Nat → Nat → Nat → Except (Nat × Nat) Reach} {s : State} {v : View}

/-- The check of a local access: what a thread's address reaches, in the machine in which the instruction begins. -/
def View.localCheck (v : View) (s : State) (reach : View → State → Nat → Nat → Nat → Except (Nat × Nat) Reach)
    (addr : Nat → Nat) (n l : Nat) : Except (Nat × Nat) Reach := reach v (v.start s) l (addr l) n

/-- A local load that issues normally sends the elements of the threads that pass their check (R160). -/
theorem localLoad_issue {long : Nat} (hx : exec i s = localLoad i f long reach s) (h : s.issue? sources i = some v) :
    let n := elemBytes f.minor.toNat
    let good := v.good (v.localCheck s reach (localAddr v) n)
    let u := countExec v.t v.gi (lanesIn good) (v.checked (v.localCheck s reach (localAddr v) n) s)
    exec i s = .next (retire v.t v.gi (if long ≤ n then 2 else 1)
      (sendLocal v u.fresh.1 0 0 false false good (fun _ => 0) (fun _ => 0)
        (sendLong v u.fresh.1 (Forms.typeRegs f.minor.toNat) .none (lanesIn good) [] false [] u.fresh.2))) := by
  rw [hx, localLoad, frame, frameWith_issue _ h]
  rfl

/-- A local store that issues normally signs and sends the elements of the threads that pass their check (R160, R335). -/
theorem localStore_issue {space : Nat} {shadow : Bool} (hx : exec i s = localStore i f space shadow reach s)
    (h : s.issue? sources i = some v) :
    let n := elemBytes f.minor.toNat
    let check := v.localCheck s reach (localAddr v) n
    let good := v.good check
    let u := countExec v.t v.gi (lanesIn good) (signStores v.t v.gi space
      (good.map (fun lr => (lr.1, localAddr v lr.1, n, v.c lr.1 % 2 ^ (8 * n)))) (v.checked check s))
    exec i s = .next (retire v.t v.gi (if n = 16 then 2 else 1)
      (sendLocal v u.fresh.1 1 0 true shadow good (fun l => v.c l) (fun _ => 0) u.fresh.2)) := by
  rw [hx, localStore, frame, frameWith_issue _ h]
  rfl

/-- What an atomic signs for a thread: the compare value first where it compares (R335; log entry 41). -/
def View.atomicSigned (v : View) (f : Fields) (lr : Nat × Reach) : List (Nat × Nat × Nat × Nat) :=
  (if f.mod.toNat % 16 = 7 then [(lr.1, v.a lr.1, elemBytes f.minor.toNat, v.operand v.form.b v.f.b.toNat lr.1)] else []) ++
    [(lr.1, v.a lr.1, elemBytes f.minor.toNat, v.c lr.1)]

/-- A local atomic that issues normally signs and sends the elements of the threads that pass their check (R163, R335). -/
theorem localAtomic_issue {space : Nat} (hx : exec i s = localAtomic i f space reach s) (h : s.issue? sources i = some v) :
    let n := elemBytes f.minor.toNat
    let quiet := f.mod.getLsbD 4
    let check := v.localCheck s reach (fun l => v.a l % 2 ^ 32) n
    let good := v.good check
    let u := countExec v.t v.gi (lanesIn good)
      (signStores v.t v.gi space (good.flatMap (v.atomicSigned f)) (v.checked check s))
    exec i s = .next (retire v.t v.gi (if n = 8 then 2 else 1)
      (sendLocal v u.fresh.1 2 (f.mod.toNat % 16) quiet false good (fun l => v.c l) (v.operand v.form.b v.f.b.toNat)
        (if quiet then u.fresh.2
          else sendLong v u.fresh.1 (Forms.typeRegs f.minor.toNat) .none (lanesIn good) [] false [] u.fresh.2))) := by
  rw [hx, localAtomic, frame, frameWith_issue _ h]
  simp only [← List.flatMap_def]
  rfl

end

/-- Settles O26: each of the three is `localLoad` of its own array. -/
theorem localLoadsExecute : Obligations.LocalLoadsExecute := fun f _ _ =>
  ⟨localLoad_issue (i := .lds f) (reach := padReach) (long := 16) rfl,
    localLoad_issue (i := .ldw f) (reach := winReach) (long := 16) rfl,
    localLoad_issue (i := .ldk f) (reach := chipReach) (long := 8) rfl⟩

/-- Settles O27: each of the four is `localStore` of its own array. -/
theorem localStoresExecute : Obligations.LocalStoresExecute := fun f _ _ =>
  ⟨localStore_issue (i := .sts f) (reach := padReach) (space := 1) (shadow := false) rfl,
    localStore_issue (i := .stw f) (reach := winReach) (space := 2) (shadow := false) rfl,
    localStore_issue (i := .stx f) (reach := winReach) (space := 2) (shadow := true) rfl,
    localStore_issue (i := .stk f) (reach := chipReach) (space := 3) (shadow := false) rfl⟩

/-! ## The queue of a group -/

/-- An element of an array of which each element has an entry of its own, or the first of its array and window, makes an entry
(R161, R173). -/
theorem addLocal_new (space target : Nat) (e : MemElem) (ps : List (Nat × Nat × List MemElem))
    (h : space = 3 ∨ space = 5 ∨ ∀ p ∈ ps, ¬ (p.1 = space ∧ p.2.1 = target)) :
    addLocal space target e ps = ps ++ [(space, target, [e])] := by
  induction ps with
  | nil => rfl
  | cons p ps ih =>
    have apart : ¬ (p.1 = space ∧ p.2.1 = target ∧ space ≠ 3 ∧ space ≠ 5) := by
      rintro ⟨same, window, not_chip, not_record⟩
      rcases h with chip | record | none
      · exact not_chip chip
      · exact not_record record
      · exact none p (List.mem_cons_self ..) ⟨same, window⟩
    rw [addLocal, if_neg apart, ih (h.imp_right (Or.imp_right fun none q hq => none q (List.mem_cons_of_mem _ hq)))]
    rfl

/-- An element joins the first entry of its array and window (R161, R166). -/
theorem addLocal_join {space target : Nat} (e : MemElem) {before after : List (Nat × Nat × List MemElem)} {es : List MemElem}
    (not_chip : space ≠ 3) (not_record : space ≠ 5) (first : ∀ p ∈ before, ¬ (p.1 = space ∧ p.2.1 = target)) :
    addLocal space target e (before ++ (space, target, es) :: after) = before ++ (space, target, es ++ [e]) :: after := by
  induction before with
  | nil => exact if_pos ⟨rfl, rfl, not_chip, not_record⟩
  | cons p before ih =>
    have apart : ¬ (p.1 = space ∧ p.2.1 = target ∧ space ≠ 3 ∧ space ≠ 5) :=
      fun ⟨same, window, _⟩ => first p (List.mem_cons_self ..) ⟨same, window⟩
    rw [List.cons_append, addLocal, if_neg apart, ih fun q hq => first q (List.mem_cons_of_mem _ hq)]
    rfl

/-- The entries that the parts of an instruction make. -/
def View.localOps (v : View) (insn kind typ aop : Nat) (quiet : Bool) (parts : List (Nat × Nat × List MemElem)) (id : Nat) :
    List LocalOp :=
  ((List.range parts.length).zip parts).map (fun kp =>
    { id := id + kp.1, insn := insn, addr := v.run.addr, idx := v.run.idx, space := kp.2.1, kind := kind, typ := typ
      aop := aop, quiet := quiet, target := kp.2.2.1, elems := kp.2.2.2 })

/-- The entries stand at the end of the queue. -/
theorem queueLocal_group {v : View} {s : State} {g : Group} (hg : s.group? v.t v.gi = some g) (insn kind typ aop : Nat)
    (quiet : Bool) (parts : List (Nat × Nat × List MemElem)) :
    (queueLocal v insn kind typ aop quiet parts s).group? v.t v.gi =
      some { g with locals := g.locals ++ v.localOps insn kind typ aop quiet parts s.nextId } := by
  have queued : (s.modGroup v.t v.gi (fun g => { g with
      locals := g.locals ++ v.localOps insn kind typ aop quiet parts s.nextId })).group? v.t v.gi = _ :=
    s.group?_modGroup v.t v.gi _ _ _
  rw [if_pos ⟨rfl, rfl⟩, hg] at queued
  exact queued

/-- Each entry is that of its part. -/
theorem View.localOps_parts (v : View) (insn kind typ aop : Nat) (quiet : Bool) (parts : List (Nat × Nat × List MemElem))
    (id : Nat) : (v.localOps insn kind typ aop quiet parts id).map (fun o =>
        (o.insn, o.addr, o.idx, o.kind, o.typ, o.aop, o.quiet, o.space, o.target, o.elems)) =
      parts.map (fun p => (insn, v.run.addr, v.run.idx, kind, typ, aop, quiet, p.1, p.2.1, p.2.2)) := by
  have snd : ((List.range parts.length).zip parts).map Prod.snd = parts := List.map_snd_zip (by simp)
  conv_rhs => rw [← snd]
  simp only [View.localOps, List.map_map]
  rfl

/-- The entries are numbered in the order of their parts. -/
theorem View.localOps_ids (v : View) (insn kind typ aop : Nat) (quiet : Bool) (parts : List (Nat × Nat × List MemElem))
    (id : Nat) : (v.localOps insn kind typ aop quiet parts id).map (·.id) = (List.range parts.length).map (id + ·) := by
  have fst : ((List.range parts.length).zip parts).map Prod.fst = List.range parts.length := List.map_fst_zip (by simp)
  conv_rhs => rw [← fst]
  simp only [View.localOps, List.map_map]
  rfl

/-- Settles O28: both are `localAtomic` of their own array, and an element joins the entry of its array and window. -/
theorem localAtomicsExecute : Obligations.LocalAtomicsExecute := by
  refine ⟨fun f _ _ => ⟨localAtomic_issue (i := .atoms f) (reach := padReach) (space := 1) rfl,
    localAtomic_issue (i := .atomk f) (reach := chipReach) (space := 3) rfl⟩, fun space target e ps => ⟨?_, ?_⟩, ?_⟩
  · exact addLocal_new space target e ps
  · rintro before es after not_chip not_record rfl first
    exact addLocal_join e not_chip not_record first
  · intro v insn kind aop quiet shadow rs data cmp s g hg
    unfold sendLocal
    exact ⟨_, _, queueLocal_group hg .., rfl, v.localOps_parts .., v.localOps_ids ..⟩

end Sys2Proof.Machine
end

section
/-! PROOFS. Sharing groups and lane slices: SBAR, JOIN and LEAVE (R167, R168, R170, R171); SPILL, FILL, LDL and STL by what they
wait for, what stops them, and what they do with the bytes in the slice and behind it (R115–R120, R222, R341). -/

namespace Sys2Proof.Machine

/-! ## Sharing groups -/

section
variable {f : Fields} {s : State} {v : View}

/-- SBAR notes the arrival of its group and holds it (R168). -/
theorem execSbar_issue (h : s.issue? sources (.sbar f) = some v) (some_lane : v.lanes ≠ 0) :
    exec (.sbar f) s = .next (retire v.t v.gi 1 ((countExec v.t v.gi v.lanes (v.start s)).modTeam v.t (fun tm =>
      (tm.modGroup v.gi (fun g => { g with sbarArrived := true, holds := g.holds ++ [.sbar] })).checkSbar))) := by
  show execSbar f s = _
  rw [execSbar, frame, frameWith_issue _ h]
  simp only [if_neg some_lane]

/-- LEAVE begins the leave of a member whose leave has not begun (R171). -/
theorem execLeave_issue (h : s.issue? sources (.leave f) = some v) (some_lane : v.lanes ≠ 0) :
    exec (.leave f) s = .next (retire v.t v.gi 1 ((countExec v.t v.gi v.lanes (v.start s).fresh.2).modTeam v.t (fun tm =>
      if tm.sharing.isSome && !tm.replays && tm.leaving == 0 then { tm with leaving := (v.start s).fresh.1 } else tm))) := by
  show execLeave f s = _
  rw [execLeave, frame, frameWith_issue _ h]
  simp only [if_neg some_lane]

/-- The status of a JOIN of a sharing group: 3 without a window, 0 where the team enters, 1 where it is in this group, 2 where it
is in another (R170). -/
def View.joinCode (v : View) (k : Nat) : Nat :=
  if v.team.lb.win = 0 then 3 else if v.team.sharing = none then 0 else if v.team.sharing = some k then 1 else 2

/-- The team stands among the members of a sharing group, with its shadow bank empty (R167, R170). -/
def View.joined (v : View) (k : Nat) (s : State) : State :=
  (s.modCluster (clusterOf v.team.core) (fun x =>
    { x with sharing := modNth (fun g => { g with members := g.members ++ [v.t] }) k x.sharing })).modTeam v.t
      (fun tm => { tm with sharing := some k, shadow := [] })

/-- What a JOIN with a status does: it enters the team where the status is 0, and sends the members with the status. -/
def View.joinAnswer (v : View) (k code : Nat) (s : State) : State :=
  let u := if code = 0 ∧ v.team.replays = false then v.joined k s else s
  v.sentLogged 1 1 .none 4 1 (fun _ => u.memberMask (clusterOf v.team.core) k + code * 256) id u

/-- The status in the terms of the model. -/
theorem View.joinCode_eq (v : View) (k : Nat) : (if v.team.lb.win = 0 then 3 else
    match v.team.sharing with | none => 0 | some j => if j = k then 1 else 2) = v.joinCode k := by
  unfold View.joinCode
  cases v.team.sharing <;> simp

/-- JOIN waits for the log and for the LEAVEs of its cluster (R167, R330; log entry 95). -/
theorem execJoin_waits (h : s.issue? sources (.join f) = some v)
    (waits : logWaits v.team v.g = true ∨ (v.start s).leaveAhead (clusterOf v.team.core) = true) :
    exec (.join f) s = stall (v.start s) := by
  show execJoin f s = _
  rw [execJoin, frame, frameWith_issue _ h]
  exact if_pos (by simpa using waits)

/-- JOIN otherwise enters the team where its status is 0, and returns the members with the status (R170). -/
theorem execJoin_issue (h : s.issue? sources (.join f) = some v) (some_lane : v.lanes ≠ 0)
    (free : logWaits v.team v.g = false) (first : (v.start s).leaveAhead (clusterOf v.team.core) = false) :
    exec (.join f) s = .next (v.joinAnswer f.b.toNat (v.joinCode f.b.toNat) (v.start s)) := by
  show execJoin f s = _
  rw [execJoin, frame, frameWith_issue _ h]
  simp only [free, first, Bool.or_self, Bool.false_eq_true, if_false, if_neg some_lane, Bool.not_eq_true']
  exact congrArg (fun code => Host.Outcome.next (v.joinAnswer f.b.toNat code (v.start s))) (v.joinCode_eq f.b.toNat)

end

/-! ## Lane slices -/

section
variable {i : Instr} {s : State} {v : View} {write : Bool} {check : View → Nat → Except (Nat × Nat) SliceReach}
  {effect : View → List (Nat × SliceReach) → State → Out}

/-- A slice instruction waits for the walks of its backing pages (R222). -/
theorem sliceAccess_asks (hx : exec i s = sliceAccess i write check effect s) (h : s.issue? sources i = some v)
    (unknown : (v.start s).allKnown ⟨2, v.t, v.gi⟩ (dieOf v.team.core) v.team.part v.team.asid
      (backPages (v.good (check v))) = false) :
    exec i s = stall ((v.start s).askWalks ⟨2, v.t, v.gi⟩ (dieOf v.team.core) v.team.part v.team.asid
      (backPages (v.good (check v)))) := by
  rw [hx, sliceAccess, frame, frameWith_issue _ h]
  simp only [splitReach_eq, unknown, Bool.not_false, if_true]

variable (known : (v.start s).allKnown ⟨2, v.t, v.gi⟩ (dieOf v.team.core) v.team.part v.team.asid
  (backPages (v.good (check v))) = true)
include known

/-- It waits while its run releases what it held, where it reaches its backing store (R341). -/
theorem sliceAccess_waits (hx : exec i s = sliceAccess i write check effect s) (h : s.issue? sources i = some v)
    (releasing : (v.start s).releasing v.team = true) (reached : backPages (v.good (check v)) ≠ []) :
    exec i s = stall (v.start s) := by
  have some_page : (backPages (v.good (check v))).isEmpty = false := by simpa using reached
  rw [hx, sliceAccess, frame, frameWith_issue _ h]
  simp only [splitReach_eq, known, releasing, some_page, Bool.not_true, Bool.false_eq_true, if_false, Bool.not_false,
    Bool.and_self, if_true]

/-- Otherwise its translations and homes decide (R116, R386). -/
theorem sliceAccess_goes (hx : exec i s = sliceAccess i write check effect s) (h : s.issue? sources i = some v)
    (goes : (v.start s).releasing v.team = false ∨ backPages (v.good (check v)) = []) :
    exec i s = match (v.start s).backFault v.team write (v.good (check v)) with
      | some (va, .notPresent level) =>
        stall (((v.start s).pageFault v.t ⟨level, 5, v.team.asid, va / 128 * 128, none⟩).spend ⟨2, v.t, v.gi⟩)
      | some (va, _) => stall (((v.start s).violate v va).spend ⟨2, v.t, v.gi⟩)
      | none => if (v.start s).backDown v.team write (v.good (check v)) then stall (v.start s)
        else effect v (v.good (check v)) (trapLanes v (v.failing (check v)) ((v.start s).spend ⟨2, v.t, v.gi⟩)) := by
  have go : ((v.start s).releasing v.team && !(backPages (v.good (check v))).isEmpty) = false := by
    rcases goes with none | inside
    · rw [none, Bool.false_and]
    · rw [inside, List.isEmpty_nil, Bool.not_true, Bool.and_false]
  rw [hx, sliceAccess, frame, frameWith_issue _ h]
  simp only [splitReach_eq, known, go, Bool.not_true, Bool.false_eq_true, if_false]
  rfl

end

/-- What a slice instruction answers where it issues normally: it waits, is stopped by a backing page, or has its effect. -/
def View.slices (v : View) (s : State) (i : Instr) (write : Bool) (check : Nat → Except (Nat × Nat) SliceReach)
    (effect : List (Nat × SliceReach) → State → State) : Prop := s.issue? sources i = some v →
  let asker : Asker := ⟨2, v.t, v.gi⟩
  let die := dieOf v.team.core
  let s0 := v.start s
  let good := v.good check
  let known := s0.allKnown asker die v.team.part v.team.asid (backPages good)
  (known = false → exec i s = stall (s0.askWalks asker die v.team.part v.team.asid (backPages good))) ∧
  (known = true → s0.releasing v.team = true → backPages good ≠ [] → exec i s = stall s0) ∧
  (known = true → s0.releasing v.team = false ∨ backPages good = [] →
    (∀ va level, s0.backFault v.team write good = some (va, .notPresent level) → exec i s =
      stall ((s0.pageFault v.t ⟨level, 5, v.team.asid, va / 128 * 128, none⟩).spend asker)) ∧
    (∀ va, s0.backFault v.team write good = some (va, .violation) → exec i s =
      stall ((s0.violate v va).spend asker)) ∧
    (s0.backFault v.team write good = none → s0.backDown v.team write good = true → exec i s = stall s0) ∧
    (s0.backFault v.team write good = none → s0.backDown v.team write good = false →
      exec i s = .next (effect good (trapLanes v (v.failing check) (s0.spend asker)))))

/-- Every slice instruction answers so. -/
theorem sliceAccess_slices {i : Instr} {s : State} {v : View} {write : Bool}
    {check : View → Nat → Except (Nat × Nat) SliceReach} {model : View → List (Nat × SliceReach) → State → Out}
    {effect : List (Nat × SliceReach) → State → State} (hx : exec i s = sliceAccess i write check model s)
    (acts : ∀ rs u, model v rs u = .next (effect rs u)) : v.slices s i write (check v) effect := by
  intro h
  refine ⟨sliceAccess_asks hx h, fun known => sliceAccess_waits known hx h, fun known goes => ?_⟩
  rw [sliceAccess_goes known hx h goes]
  refine ⟨fun va level fault => ?_, fun va fault => ?_, fun none down => ?_, fun none up => ?_⟩
  · rw [fault]
  · rw [fault]
  · rw [none]
    exact if_pos down
  · rw [none]
    exact (if_neg (Bool.eq_false_iff.1 up)).trans (acts _ _)

/-- Settles O29: the three instructions of sharing groups, and the four of slices as `sliceAccess` with their own checks and
effects. -/
theorem sharingAndSlicesExecute : Obligations.SharingAndSlicesExecute := by
  refine ⟨fun f s v => ⟨execSbar_issue, execLeave_issue, execJoin_issue, execJoin_waits⟩, fun f s v => ?_⟩
  exact ⟨sliceAccess_slices (i := .spill f) (check := fun v l => sliceReach v l (spillOffset f) (4 * spillCount f)) rfl
      fun _ _ => rfl,
    sliceAccess_slices (i := .fill f) (check := fun v l => sliceReach v l (spillOffset f) (4 * spillCount f)) rfl
      fun _ _ => rfl,
    sliceAccess_slices (i := .stl f) (check := laneReach (elemBytes f.minor.toNat)) rfl fun _ _ => rfl,
    sliceAccess_slices (i := .ldl f) (check := laneReach (elemBytes f.minor.toNat)) rfl fun _ _ => rfl⟩

end Sys2Proof.Machine
end

section
/-! PROOFS. Sharing groups and gates by the steps of the device: the swap of banks and the end of a leave (R167, R168, R171,
R172), and the entry and the completion of a gate call (R365–R370, R372, R386). -/

namespace Sys2Proof.Machine

/-! ## Bank swaps -/

section
variable {t : Nat} {s : State} {tm : Team}

/-- A team that has arrived outside a sharing group swaps its banks once its STX have been accepted (R168). -/
theorem execSbarSwap_alone (ht : s.team? t = some tm) (ready : tm.sbarReady = true) (alone : tm.sharing = none)
    (accepted : tm.stxDone = true) : exec (.sbarSwap t) s = .next (s.modTeam t Team.swap) := by
  show execSbarSwap t s = _
  simp only [execSbarSwap, ht, ready, alone, accepted, Bool.not_true, Bool.false_eq_true, if_false, if_true]

/-- All members of a sharing group swap their banks once all have arrived and their STX have been accepted (R168). -/
theorem execSbarSwap_group {k : Nat} (ht : s.team? t = some tm) (ready : tm.sbarReady = true) (member : tm.sharing = some k) :
    let members := (((s.cluster (clusterOf tm.core)).sharing[k]?).map (·.members)).getD []
    members.all (fun m => ((s.team? m).map (fun x => x.sbarReady && x.stxDone)).getD true) = true →
    exec (.sbarSwap t) s = .next (members.foldl (fun s m => s.modTeam m Team.swap) s) := by
  intro members all
  show execSbarSwap t s = _
  simp only [execSbarSwap, ht, ready, member, Bool.not_true, Bool.false_eq_true, if_false]
  exact if_pos all

/-! ## Leaves -/

/-- The sharing groups of a cluster without a team. -/
def Cluster.without (t : Nat) (c : Cluster) : Cluster :=
  { c with sharing := c.sharing.map (fun g => { g with members := g.members.filter (· != t) }) }

/-- The team stands among no members. -/
theorem Cluster.without_members (t : Nat) (c : Cluster) : ∀ k ∈ (c.without t).sharing, t ∉ k.members := by
  intro k hk hm
  obtain ⟨g, -, rfl⟩ := List.mem_map.1 hk
  simpa using (List.mem_filter.1 hm).2

/-- A cluster that is not there has no members. -/
theorem Cluster.reset_members (c t : Nat) : ∀ k ∈ (Cluster.reset c).sharing, t ∉ k.members := by
  intro k hk hm
  rw [List.eq_of_mem_replicate hk] at hm
  exact List.not_mem_nil hm

/-- A member that leaves is taken out of its group and swaps its banks (R172). -/
theorem State.leaveSharing_member (ht : s.team? t = some tm) (member : tm.sharing ≠ none) :
    s.leaveSharing t = (s.modCluster (clusterOf tm.core) (Cluster.without t)).modTeam t
      (fun tm => { tm.swap with sharing := none, leaving := 0 }) := by
  have some_group : tm.sharing.isNone = false := by simpa [Option.isSome_iff_ne_none] using member
  simp only [State.leaveSharing, ht, some_group, Bool.false_eq_true, if_false]
  rfl

/-- No sharing group of the cluster has the team any more. -/
theorem State.leaveSharing_members (ht : s.team? t = some tm) (member : tm.sharing ≠ none) :
    ∀ k ∈ ((s.leaveSharing t).cluster (clusterOf tm.core)).sharing, t ∉ k.members := by
  have cluster : (s.leaveSharing t).cluster (clusterOf tm.core) =
      (s.modCluster (clusterOf tm.core) (Cluster.without t)).cluster (clusterOf tm.core) := by
    rw [State.leaveSharing_member ht member, State.cluster, State.modTeam_clusters]
    rfl
  rw [cluster, State.cluster_modCluster]
  by_cases here : clusterOf tm.core < s.clusters.length
  · rw [if_pos ⟨rfl, here⟩]
    exact Cluster.without_members t _
  · have gone : s.cluster (clusterOf tm.core) = Cluster.reset (clusterOf tm.core) := by
      simp [State.cluster, here]
    rw [if_neg fun both => here both.2, gone]
    exact Cluster.reset_members _ t

/-- A leave whose turn it is and whose accesses have performed ends (R167, R171, R172). -/
theorem execLeaveComplete_ends (ht : s.team? t = some tm) (begun : tm.leaving ≠ 0) (member : tm.sharing ≠ none)
    (first : s.teams.all (fun kt => clusterOf kt.2.core != clusterOf tm.core || kt.2.leaving == 0 ||
      tm.leaving ≤ kt.2.leaving) = true) (idle : s.windowBusy t tm = false) :
    Answers (.leaveComplete t) s (fun u => ∃ x, u.team? t = some x ∧ x.sharing = none ∧ x.leaving = 0 ∧
      x.visible = tm.shadow ∧ x.shadow = [] ∧ ∀ k ∈ (u.cluster (clusterOf tm.core)).sharing, t ∉ k.members) := by
  have ends : exec (.leaveComplete t) s = .next (s.leaveSharing t) := by
    show execLeaveComplete t s = _
    simp only [execLeaveComplete, ht]
    exact congrArg _ (if_pos ⟨begun, first, by rw [idle]; rfl⟩)
  have left : (s.leaveSharing t).team? t = some { tm.swap with sharing := none, leaving := 0 } := by
    have same : (s.modCluster (clusterOf tm.core) (Cluster.without t)).team? t = some tm := ht
    rw [State.leaveSharing_member ht member, State.team?_modTeam, if_pos rfl, same]
    rfl
  exact ⟨_, ends, _, left, rfl, rfl, rfl, rfl, State.leaveSharing_members ht member⟩

end

/-! ## The pages and homes of a gate call -/

/-- What the homes record of a gate call's own accesses (R388). -/
def GateCall.report (c : GateCall) (tm : Team) (gi : Nat) (g : Group) : UnitFault :=
  { UnitFault.of tm g c.addr 0 (32 * gi + c.named.lanes.headD 0) with index := c.idx }

/-- A home of the claim map or of a frame has stopped serving the partition (R386). -/
def GateCall.entryDown (c : GateCall) (s : State) (tm : Team) (k : Nat) : Bool :=
  s.frameDown (dieOf tm.core) tm.part c.asid c.frameBase ((c.nframes + 7) / 8) ||
    s.frameDown (dieOf tm.core) tm.part c.asid (c.frameBase + 4096 + k * c.frameSize) c.frameSize

/-- The machine after the claim map has been read. -/
def GateCall.entryMet (c : GateCall) (s : State) (tm : Team) (gi : Nat) (g : Group) : State :=
  s.pinMeet (dieOf tm.core) tm.part (c.report tm gi g) c.asid c.frameBase ((c.nframes + 7) / 8)

/-- The machine after a callee's entry has claimed a frame and written it (R366): none where one of its pages fails. -/
def GateCall.claimed (c : GateCall) (s : State) (tm : Team) (k : Nat) : Option State :=
  (s.claim (dieOf tm.core) tm.part c k true).bind (fun u =>
    u.pinWrite (dieOf tm.core) tm.part c.asid (c.frameBase + 4096 + k * c.frameSize)
      ((List.range c.frameSize).map (fun i => Config.privateByte s.nonce (c.frameBase + 4096 + k * c.frameSize + i))))

/-- The page of the frame that has failed first. -/
def GateCall.lost (c : GateCall) (s : State) (tm : Team) : Option (Nat × Nat) :=
  (pageChunks c.frame c.frameSize).find? (fun k => (s.pinned (dieOf tm.core) tm.part c.asid k.1).isNone)

/-- A home of the frame or of its claim has stopped serving the partition (R386). -/
def GateCall.frameDown (c : GateCall) (s : State) (tm : Team) : Bool :=
  s.frameDown (dieOf tm.core) tm.part c.asid c.frame c.frameSize ||
    s.frameDown (dieOf tm.core) tm.part c.asid (c.frameBase + c.frameIndex / 8) 1

/-- The machine after the frame has been read and released (R370): none where the page of its claim fails. -/
def GateCall.released (c : GateCall) (s : State) (tm : Team) (gi : Nat) (g : Group) : Option State :=
  (s.pinMeet (dieOf tm.core) tm.part (c.report tm gi g) c.asid c.frame c.frameSize).claim (dieOf tm.core) tm.part c
    c.frameIndex false

/-- What a lead logs of a logged call: for each entered thread the return values and the status (R372). -/
def GateCall.logCall (c : GateCall) (t gi : Nat) (tm : Team) (g : Group) (s : State) : State :=
  let entry := fun (l x : Nat) => addLog t ⟨x, 32 * gi + l, 2, 0, Map.get c.cnts l 0 % 2 ^ 32, []⟩
  c.entered.lanes.foldl (fun s l => entry l (c.statusOf g l) ((List.range c.nret).foldl
    (fun s n => entry l (if c.statusOf g l = 0 then (readReg tm gi g n l).toNat else 0) s) s)) s

/-! ## Gate entries -/

section
variable {t gi : Nat} {s : State} {tm : Team} {g : Group} {c : GateCall} (ht : s.team? t = some tm)
  (hg : s.group? t gi = some g) (hc : g.gate = some c) (settled : g.settledFor tm c = true) (runs : s.stopped tm = false)
include ht hg hc settled runs

section
variable (waiting : c.waiting = true)
include waiting

/-- A call that nobody enters ends at once with its statuses (R365). -/
theorem execGateEntry_nobody (nobody : c.entered = 0) :
    exec (.gateEntry t gi) s = .next (endCall t gi c (c.statusOf g) s) := by
  show execGateEntry t gi s = _
  simp only [execGateEntry, ht, hg, hc, settled, runs, waiting, nobody, Bool.not_true, Bool.or_self, Bool.false_eq_true,
    if_false, if_true]

/-- A logged call of a replaying run is taken from the log (R372). -/
theorem execGateEntry_replays (some_thread : c.entered ≠ 0) (logged : c.logged = true) (replays : tm.replays = true) :
    exec (.gateEntry t gi) s = .next (replayCall t gi c s) := by
  show execGateEntry t gi s = _
  simp only [execGateEntry, ht, hg, hc, settled, runs, waiting, some_thread, logged, replays, Bool.not_true, Bool.or_self,
    Bool.and_self, Bool.false_eq_true, if_false, if_true]

/-- The callee's entry claims the lowest free frame and writes it, where its pages are there and its homes serve (R366,
R386). -/
theorem execGateEntry_enters (some_thread : c.entered ≠ 0) (own : (c.logged && tm.replays) = false) :
    exec (.gateEntry t gi) s =
      match s.pinRead (dieOf tm.core) tm.part c.asid c.frameBase ((c.nframes + 7) / 8) with
      | none => .next (s.callFault t gi c c.frameBase)
      | some map =>
        match freeFrame map c.nframes with
        | none => .next s
        | some k =>
          if c.entryDown s tm k then .next s
          else match c.claimed (c.entryMet s tm gi g) tm k with
            | none => .next ((c.entryMet s tm gi g).callFault t gi c (c.frameBase + 4096 + k * c.frameSize))
            | some w => .next ({ w with nonce := w.nonce + 1 }.modTeam t (enterCall gi k c)) := by
  show execGateEntry t gi s = _
  simp only [execGateEntry, ht, hg, hc, settled, runs, waiting, some_thread, own, Bool.not_true, Bool.or_self,
    Bool.false_eq_true, if_false]
  rfl

end

/-! ## Gate completions -/

section
variable (entered : c.waiting = false) (finished : c.entered.lanes.any (fun l => (g.thread l).status.isNone) = false)
include entered finished

/-- The completion releases the frame and gives the caller's state back, where its pages are there and its homes serve (R370,
R386). -/
theorem execGateCompletion_releases : exec (.gateCompletion t gi) s =
    match c.lost s tm with
    | some k => .next (s.callFault t gi c k.1)
    | none =>
      if c.frameDown s tm then .next s
      else match c.released s tm gi g with
        | none => .next (s.callFault t gi c c.frameBase)
        | some u => .next (endCall t gi c (c.statusOf g)
            (if c.logged && tm.mode == .lead then c.logCall t gi tm g u else u)) := by
  show execGateCompletion t gi s = _
  simp only [execGateCompletion, ht, hg, hc, settled, runs, entered, finished, Bool.not_true, Bool.or_self,
    Bool.false_eq_true, if_false]
  rfl

end

end

/-! ## The statement -/

/-- Settles O45: swaps and leaves; a call's entry and its completion by the pages that they find. -/
theorem sharingAndGateEvents : Obligations.SharingAndGateEvents := by
  refine ⟨⟨fun _ _ _ => execSbarSwap_alone, fun _ _ _ _ => execSbarSwap_group, fun _ => ⟨rfl, rfl, rfl⟩,
    fun _ _ _ => execLeaveComplete_ends⟩, ?_, ?_⟩
  · intro t gi s tm g c ht hg hc waiting settled runs
    refine ⟨execGateEntry_nobody ht hg hc settled runs waiting, execGateEntry_replays ht hg hc settled runs waiting, ?_⟩
    intro some_thread own
    have enters := execGateEntry_enters ht hg hc settled runs waiting some_thread own
    refine ⟨fun lost => ?_, fun map claims full => ?_, fun map k claims free (down : c.entryDown s tm k = true) => ?_,
      fun map k claims free (up : c.entryDown s tm k = false) =>
        ⟨fun (failed : c.claimed (c.entryMet s tm gi g) tm k = none) => ?_,
          fun w (written : c.claimed (c.entryMet s tm gi g) tm k = some w) => ?_⟩⟩
    · simp only [lost] at enters
      exact enters
    · simp only [claims, full] at enters
      exact enters
    · simp only [claims, free, down, if_true] at enters
      exact enters
    · simp only [claims, free, up, failed, Bool.false_eq_true, if_false] at enters
      exact enters
    · simp only [claims, free, up, written, Bool.false_eq_true, if_false] at enters
      exact enters
  · intro t gi s tm g c ht hg hc entered settled runs finished
    have releases := execGateCompletion_releases ht hg hc settled runs entered finished
    refine ⟨fun k (lost : c.lost s tm = some k) => ?_,
      fun (whole : c.lost s tm = none) (down : c.frameDown s tm = true) => ?_,
      fun (whole : c.lost s tm = none) (up : c.frameDown s tm = false) =>
        ⟨fun (failed : c.released s tm gi g = none) => ?_, fun u (released : c.released s tm gi g = some u) => ?_⟩⟩
    · simp only [lost] at releases
      exact releases
    · simp only [whole, down, if_true] at releases
      exact releases
    · simp only [whole, up, failed, Bool.false_eq_true, if_false] at releases
      exact releases
    · simp only [whole, up, released, Bool.false_eq_true, if_false] at releases
      exact releases

end Sys2Proof.Machine
end

section
/-! PROOFS. Global memory by the steps that perform its accesses: stores and atomics leave a store queue, registrations are
granted, loads are answered at their homes, lines are replaced (R163, R176–R184, R192–R194, R225, R326, R329, R468). -/

namespace Sys2Proof.Machine

/-! ## The elements of a store queue -/

section
variable {t gi : Nat} {tm : Team} {g : Group} {o : MemOp} {e : MemElem} {s : State}

/-- An element is turned away where a scrub has taken its home (R468). -/
theorem State.turnedAway_iff : s.turnedAway e = true ↔ e.xl.isSome = true ∧ s.refused e.pa = true := by
  rw [State.turnedAway, Bool.and_eq_true]

/-- A store, and no atomic. -/
def MemOp.plain (o : MemOp) : Bool := o.kind == .st || o.kind == .stq

/-- In the terms of the kinds. -/
theorem MemOp.plain_iff : o.plain = true ↔ o.kind = .st ∨ o.kind = .stq := by simp [MemOp.plain]

/-- The next element of a queue is tried when the core's port is free and its home serves it (R178, R386). -/
theorem execStorePerforms_next {passed : List Access} (ht : s.team? t = some tm) (hg : s.group? t gi = some g)
    (next : s.nextStore t gi tm g = some (o, e, passed)) (free : (s.core tm.core).port = none)
    (served : s.elemServed tm e = true) :
    exec (.storePerforms t gi) s = .next (storeElem t gi tm g o e (s.modGroup t gi (·.pass passed))) := by
  show execStorePerforms t gi s = _
  simp only [execStorePerforms, ht, hg, next, free, served, Option.isSome_none, Bool.not_true, Bool.or_self,
    Bool.false_eq_true, if_false]

/-- An element that its home turns away is a protection violation (R468). -/
theorem storeElem_away (away : s.turnedAway e = true) :
    storeElem t gi tm g o e s = storeDone t gi o.id e.lane (s.accessFault t gi o.addr o.idx e.lane e.va) := by
  rw [storeElem]
  exact if_pos away

variable (home : s.turnedAway e = false)
include home

section
variable (plain : o.plain = true)
include plain

/-- A trail's store performs nothing (R326). -/
theorem storeElem_trail (mode : tm.actsAs g e.lane = .trail) :
    storeElem t gi tm g o e s = storeDone t gi o.id e.lane s := by
  rw [MemOp.plain] at plain
  simp [storeElem, home, mode, plain]

/-- A lead's store, and a third run's, is held where it can be (R183, R326). -/
theorem storeElem_held {w : State} (mode : tm.actsAs g e.lane = .lead ∨ tm.actsAs g e.lane = .third)
    (run : (s.serveElem tm gi g e).runStore tm e.leaf e.pa e.bytes = .ok w) : storeElem t gi tm g o e s =
      storeDone t gi o.id e.lane (w.modCore tm.core (·.dropSectors e.pa e.size)) := by
  rw [MemOp.plain] at plain
  rcases mode with mode | mode <;> simp [storeElem, home, mode, plain, run]

/-- Where it cannot, its team becomes unchecked (R340). -/
theorem storeElem_unheld {reason : Nat} (mode : tm.actsAs g e.lane = .lead ∨ tm.actsAs g e.lane = .third)
    (run : (s.serveElem tm gi g e).runStore tm e.leaf e.pa e.bytes = .error reason) :
    storeElem t gi tm g o e s = s.uncheck tm reason := by
  rw [MemOp.plain] at plain
  rcases mode with mode | mode <;> simp [storeElem, home, mode, plain, run]

variable (mode : tm.actsAs g e.lane = .unchecked)
include mode

/-- A store that may not be registered goes through to its home (R177, R190, R225). -/
theorem storeElem_through (through : (e.registers o && !s.shooting tm.part o.asid e.va) = false) :
    storeElem t gi tm g o e s = storeDone t gi o.id e.lane (s.throughWrite tm gi g e) := by
  rw [MemOp.plain] at plain
  simp only [storeElem, through]
  simp [home, mode, plain]

/-- Another performs in its core where the core holds its grain, or takes the core's port (R178, R181). -/
theorem storeElem_registers (registers : e.registers o = true) (calm : s.shooting tm.part o.asid e.va = false) :
    let w := s.roomL1 tm.core e.va o.asid
    storeElem t gi tm g o e s = if w.holds e.leaf e.pa tm.core then storeDone t gi o.id e.lane (w.coreWrite tm o e)
      else w.modCore tm.core (fun c => { c with port := some (t, gi, o.id, e.lane) }) := by
  rw [MemOp.plain] at plain
  simp [storeElem, home, mode, plain, registers, calm]

end

variable (atomic : o.plain = false)
include atomic

/-- An atomic of a replaying run takes its result from the log (R326). -/
theorem storeElem_replays (mode : tm.actsAs g e.lane = .trail ∨ tm.actsAs g e.lane = .third) :
    storeElem t gi tm g o e s = storeDone t gi o.id e.lane (replayAtomic t gi o e s) := by
  rw [MemOp.plain] at atomic
  rcases mode with mode | mode <;> simp [storeElem, home, mode, atomic]

/-- Another atomic performs at its home (R192). -/
theorem storeElem_atomic (mode : tm.actsAs g e.lane = .unchecked ∨ tm.actsAs g e.lane = .lead) :
    storeElem t gi tm g o e s = storeDone t gi o.id e.lane (performAtomic t gi tm g o e s) := by
  rw [MemOp.plain] at atomic
  rcases mode with mode | mode <;> simp [storeElem, home, mode, atomic]

end

/-! ## Registrations -/

/-- The element that a core's port waits for is written once its registration is granted, and the core's older copies of the grain
are dropped (R178, R181); while its range is being shot down it goes through to its home (R225). -/
theorem execRegistrationRequest_grants {core t gi id lane : Nat} {s : State} {tm : Team} {g : Group} {o : MemOp} {e : MemElem}
    {passed : List Access} (port : (s.core core).port = some (t, gi, id, lane)) (ht : s.team? t = some tm)
    (hg : s.group? t gi = some g) (entry : g.stores.find? (fun o => o.id == id) = some o)
    (element : o.elems.find? (fun e => e.lane == lane && !e.done) = some e)
    (passes : s.passes t gi tm g (o.access 1 e) = some passed) (served : s.elemServed tm e = true) :
    let u := (s.modCore core (fun c => { c with port := none })).modGroup t gi (·.pass passed)
    let w := (u.roomL1 core e.va o.asid).serveElem tm gi g e
    let granted := (w.grant e.leaf e.pa core).modCore core (·.dropSectors (grainOf e.leaf e.pa).1 (grainOf e.leaf e.pa).2)
    exec (.registrationRequest core) s = .next (storeDone t gi id lane
      (if e.xl.isSome = true ∧ u.refused e.pa = true then u.accessFault t gi o.addr o.idx lane e.va
        else if u.shooting tm.part o.asid e.va then u.throughWrite tm gi g e else granted.coreWrite tm o e)) := by
  intro u w granted
  show execRegistrationRequest core s = _
  simp only [execRegistrationRequest, port, ht, hg, entry, element, passes, served, Option.bind_some, Option.map_some,
    Bool.not_true, Bool.false_eq_true, if_false, State.turnedAway_iff]
  split
  · rfl
  · split <;> rfl

/-! ## Atomics -/

section
variable (t gi : Nat) (tm : Team) (g : Group) (o : MemOp) (e : MemElem) (s : State)

/-- A read-modify-write returns the old value and leaves the new one (R192). An atomic without a result is that alone. -/
theorem performAtomic_red (quiet : o.kind = .red) : performAtomic t gi tm g o e s = (s.rmw tm gi g o e).2 := by
  rw [performAtomic]
  exact if_pos quiet

/-- Another sets its result to the old value, which a lead logs (R326, R329). -/
theorem performAtomic_reads (reads : o.kind ≠ .red) : performAtomic t gi tm g o e s =
    (if tm.actsAs g e.lane = .lead then logValue t gi e.lane 1 0 e.cnt e.size (s.rmw tm gi g o e).1 (s.rmw tm gi g o e).2
      else (s.rmw tm gi g o e).2).modGroup t gi (·.setResult o.id e.lane (o.words (s.rmw tm gi g o e).1)) := by
  rw [performAtomic]
  exact if_neg reads

/-- In a replaying run an atomic without a result does nothing (R326). -/
theorem replayAtomic_red (quiet : o.kind = .red) : replayAtomic t gi o e s = s := by
  rw [replayAtomic]
  exact if_pos quiet

/-- Another takes its result from one entry of the log, where it has at most 8 bytes (R326, R329). -/
theorem replayAtomic_reads (reads : o.kind ≠ .red) (single : (e.size + 7) / 8 = 1) :
    replayAtomic t gi o e s = (takeLog t gi e.lane 1 s).2.modGroup t gi
      (·.setResult o.id e.lane (o.words ((takeLog t gi e.lane 1 s).1 % 2 ^ (8 * e.size)))) := by
  have entry : joinWords [(takeLog t gi e.lane 1 s).1] % 2 ^ (8 * e.size) =
      (takeLog t gi e.lane 1 s).1 % 2 ^ (8 * e.size) := by
    rw [joinWords, joinWords, Nat.mul_zero, Nat.add_zero]
    exact Nat.mod_mod_of_dvd _ (Nat.pow_dvd_pow 2 (by omega))
  rw [replayAtomic, if_neg reads, entryCount, single, ← entry]
  rfl

end

/-! ## Loads -/

section
variable {t gi : Nat} {s : State} {tm : Team} {g : Group} {o : MemOp} {e : MemElem} {passed : List Access} {x : Xlat}

/-- The elements of a load on one line are tried in lane order (R180). -/
theorem execLoadMissAtHome_line {op line : Nat} (hg : s.group? t gi = some g)
    (entry : g.loads.find? (fun o => o.id == op) = some o) :
    exec (.loadMissAtHome t gi op line) s = .next ((o.elems.filter (fun e => e.va / 128 == line && !e.done)).foldl
      (fun s e => loadElem t gi o e s) s) := by
  show execLoadMissAtHome t gi op line s = _
  simp only [execLoadMissAtHome, hg, Option.bind_some, entry]

/-- An unchecked run's element of which neither the store queue nor the L1 has all the bytes is answered at its home, which may
turn it away (R180, R468). -/
theorem loadElem_home (ht : s.team? t = some tm) (hg : s.group? t gi = some g)
    (ready : s.loadReady t gi tm g o e = some passed) (served : s.elemServed tm e = true)
    (mode : tm.actsAs g e.lane = .unchecked) (partly : (s.ownBytes tm g o e).all (·.isSome) = false)
    (miss : localValue (s.core tm.core) g o e true = none) (translated : e.xl = some x) :
    let noted := s.modGroup t gi (·.noteLoad o e passed)
    let read := noted.readElem tm gi g e
    loadElem t gi o e s =
      if s.refused e.pa then loadDone t gi o e.lane 0 (noted.accessFault t gi o.addr o.idx e.lane e.va)
      else loadDone t gi o e.lane (ofLeBytes (overlay (s.ownBytes tm g o e) read.1)) (read.2.fillFor tm g o e) := by
  intro noted read
  have away : s.turnedAway e = s.refused e.pa := by rw [State.turnedAway, translated]; rfl
  have calm (u : State) : u.testRecent tm .unchecked e = u := by simp [State.testRecent]
  simp only [loadElem, ht, hg, ready, served, mode, partly, miss, translated, away, calm, Option.isNone_some,
    Bool.not_true, Bool.false_eq_true, if_false, if_true]
  rfl

end

/-! ## Replacement -/

/-- A write-back takes its registration away. -/
theorem State.writeBack_registrations (s : State) (r : Registration) :
    (s.writeBack r).registrations = s.registrations.filter (· != r) := by
  have stored (abs : List (Nat × Byte)) :
      (abs.foldl (fun (s : State) ab => s.storeByte ab.1 ab.2) s).registrations = s.registrations :=
    foldl_keeps (fun t : State => t.registrations = s.registrations) _ (fun t ab ht => by
      unfold State.storeByte
      split <;> exact ht) abs s rfl
  unfold State.writeBack
  refine foldl_keeps (fun t : State => t.registrations = s.registrations.filter (· != r)) State.stampLine (fun _ _ ht => ht)
    _ _ ?_
  exact congrArg (List.filter (· != r)) (stored _)

/-- A core that gives up a registration gets none in its place. -/
theorem State.giveUp_registrations (s : State) (r : Registration) {q : Registration} (hq : q ∈ (s.giveUp r).registrations) :
    q ∈ s.registrations ∧ q ≠ r := by
  refine ⟨?_, ?_⟩
  · have bounded := (s.giveUp_outside (rs := r :: s.registrations) r (List.mem_cons_self ..)
      fun _ h => List.mem_cons_of_mem _ h).1
    exact bounded q hq
  · rintro rfl
    exact s.giveUp_gone q hq

/-- Registrations that go one after another are all gone, and none comes in their place. -/
theorem registrations_foldl {f : State → Registration → State}
    (hf : ∀ s r, ∀ q ∈ (f s r).registrations, q ∈ s.registrations ∧ q ≠ r) (xs : List Registration) (s : State) :
    ∀ q ∈ (xs.foldl f s).registrations, q ∈ s.registrations ∧ q ∉ xs := by
  induction xs generalizing s with
  | nil => exact fun q hq => ⟨hq, List.not_mem_nil⟩
  | cons x xs ih =>
    intro q hq
    obtain ⟨before, later⟩ := ih (f s x) q hq
    obtain ⟨stood, other⟩ := hf s x q before
    exact ⟨stood, by simp [other, later]⟩

/-- An L2 line that is replaced is gone, with the registrations of its bytes (R182, R184). -/
theorem State.dropL2_gone (s : State) (line : Nat) : (s.dropL2 line).l2.contains line = false ∧
    ∀ r ∈ (s.dropL2 line).registrations, ¬ (r.pa < 128 * line + 128 ∧ 128 * line < r.pa + r.size) := by
  refine ⟨by simp [State.dropL2], fun r hr overlaps => ?_⟩
  have written (s : State) (r q) (hq : q ∈ (s.writeBack r).registrations) : q ∈ s.registrations ∧ q ≠ r := by
    rw [State.writeBack_registrations, List.mem_filter] at hq
    exact ⟨hq.1, by simpa using hq.2⟩
  obtain ⟨stood, kept⟩ := registrations_foldl written _ s r hr
  exact kept (List.mem_filter.2 ⟨stood, by simpa using overlaps⟩)

/-- The line of an address has its virtual line and its identifier. -/
theorem Core.l1Line_some {c : Core} {asid va : Nat} {l : L1Line} (h : c.l1Line asid va = some l) :
    l.va = va / 128 * 128 ∧ l.asid = asid := by
  simpa using List.find?_some h

/-- An L1 line that is replaced is gone, with its core's registrations of its bytes (R182). -/
theorem State.dropL1_gone {s : State} {core asid va : Nat} {l : L1Line} (h : (s.core core).l1Line asid va = some l) :
    ((s.dropL1 core l).core core).l1Line asid va = none ∧
      ∀ r ∈ (s.dropL1 core l).registrations, r.core = core → ¬ (r.pa < l.pa + 128 ∧ l.pa < r.pa + r.size) := by
  obtain ⟨line, identifier⟩ := Core.l1Line_some h
  refine ⟨?_, fun r hr mine overlaps => ?_⟩
  · unfold State.dropL1
    rw [State.core_modCore, Core.l1Line, List.find?_eq_none]
    split
    · intro x hx
      simpa [line, identifier, imp_iff_not_or] using (List.mem_filter.1 hx).2
    · rename_i none
      simp [State.core, show ¬ core < _ from fun here => none ⟨rfl, here⟩, Core.reset]
  · obtain ⟨stood, kept⟩ := registrations_foldl (fun s r q => s.giveUp_registrations r) _ s r hr
    exact kept (List.mem_filter.2 ⟨stood, by simpa [mine] using overlaps⟩)

/-- An L2 line is replaced where it stands (R184). -/
theorem execCacheReplacement_l2 {core asid line : Nat} {s : State} (stands : s.l2.contains line = true) :
    exec (.cacheReplacement true core asid line) s = .next (s.dropL2 line) := by
  show execCacheReplacement true core asid line s = _
  simp only [execCacheReplacement, stands, if_true]

/-- An L1 line is replaced where it streams or no line does (R177, R182). -/
theorem execCacheReplacement_l1 {core asid line : Nat} {s : State} {l : L1Line}
    (stands : (s.core core).l1Line asid (128 * line) = some l) :
    exec (.cacheReplacement false core asid line) s =
      if l.streaming = false ∧ ∃ x ∈ (s.core core).l1, x.streaming = true then .next s else .next (s.dropL1 core l) := by
  show execCacheReplacement false core asid line s = _
  simp only [execCacheReplacement, stands, Bool.false_eq_true, if_false]
  cases l.streaming <;> by_cases other : ∃ x ∈ (s.core core).l1, x.streaming = true <;> simp [other]

/-! ## The statement -/

/-- Settles O42: each event by what it does in each of its cases. -/
theorem memoryEvents : Obligations.MemoryEvents := by
  refine ⟨?_, fun _ _ _ _ _ _ _ _ _ _ _ => execRegistrationRequest_grants, ?_, ?_,
    fun _ _ _ _ _ _ _ => execLoadMissAtHome_line, ?_, fun _ _ line s stands => ⟨_, execCacheReplacement_l2 stands, s.dropL2_gone line⟩, ?_⟩
  · intro t gi s tm g o e passed ht hg next free served u answers plain done mode away
    have tried (w : State) (h : storeElem t gi tm g o e u = w) : answers w :=
      (execStorePerforms_next ht hg next free served).trans (congrArg Host.Outcome.next h)
    have home (h : ¬ away) : u.turnedAway e = false := Bool.eq_false_iff.2 (mt State.turnedAway_iff.1 h)
    have store (h : plain) : o.plain = true := MemOp.plain_iff.2 h
    have atomic (h : ¬ plain) : o.plain = false := Bool.eq_false_iff.2 (mt MemOp.plain_iff.1 h)
    refine ⟨fun turned => tried _ (storeElem_away (State.turnedAway_iff.2 turned)),
      fun here is_store trail => tried _ (storeElem_trail (home here) (store is_store) trail),
      fun here no_store replays => tried _ (storeElem_replays (home here) (atomic no_store) replays),
      fun here no_store performs => tried _ (storeElem_atomic (home here) (atomic no_store) performs),
      fun here is_store held => ⟨fun w kept => tried _ (storeElem_held (home here) (store is_store) held kept),
        fun reason full => tried _ (storeElem_unheld (home here) (store is_store) held full)⟩,
      fun here is_store unchecked through => tried _ (storeElem_through (home here) (store is_store) unchecked through),
      fun here is_store unchecked registers calm => tried _
        (storeElem_registers (home here) (store is_store) unchecked registers calm)⟩
  · intro t gi tm g o e s
    exact ⟨performAtomic_red t gi tm g o e s, performAtomic_reads t gi tm g o e s, replayAtomic_red t gi o e s,
      replayAtomic_reads t gi o e s⟩
  · exact fun code m v e => ⟨fun float => if_pos float, fun integer => if_neg integer, rfl, rfl, rfl, rfl, rfl, rfl, rfl⟩
  · intro t gi s tm g o e passed x ht hg ready served mode own noted partly miss translated
    have answered := loadElem_home ht hg ready served mode partly miss translated
    exact ⟨fun away => answered.trans (if_pos away), fun home => answered.trans (if_neg (Bool.eq_false_iff.1 home))⟩
  · intro core asid line s l stands
    have replaced := execCacheReplacement_l1 stands
    exact ⟨fun ahead => replaced.trans (if_pos ahead),
      fun first => ⟨_, replaced.trans (if_neg first), State.dropL1_gone stands⟩⟩

end Sys2Proof.Machine
end

section
/-! PROOFS. What a store writes and leaves: to an array of a core, under a registration, at a home (R158–R160, R178, R181,
R192, R298). -/

namespace Sys2Proof.Machine

/-! ## Runs of bytes in a map -/

/-- The entries of a run. -/
theorem Map.get?_run_eq (a : Nat) (bs : List Byte) (x : Nat) :
    Map.get? (Map.run a bs) x = if a ≤ x then bs[x - a]? else none := by
  induction bs generalizing a with
  | nil => simp [Map.run, Map.get?]
  | cons b bs ih =>
    rw [Map.run, Map.get?, ih]
    rcases Nat.lt_trichotomy x a with below | rfl | above
    · rw [if_neg (by omega), if_neg (by omega), if_neg (by omega)]
    · simp
    · obtain ⟨d, rfl⟩ := Nat.exists_eq_add_of_lt above
      rw [if_neg (by omega), if_pos (by omega), if_pos (by omega), show a + d + 1 - a = d + 1 by omega,
        show a + d + 1 - (a + 1) = d by omega, List.getElem?_cons_succ]

/-- Every entry after a write of bytes: those written, and all the others as they were. -/
theorem get?_padPut (m : Map Byte) (a : Nat) (bs : List Byte) (x : Nat) :
    Map.get? (padPut m a bs) x = if a ≤ x ∧ x < a + bs.length then some (bs.getD (x - a) 0) else Map.get? m x := by
  have below := Map.get?_filter (fun k => decide (k < a)) m x
  have above := Map.get?_filter (fun k => decide (a + bs.length ≤ k)) m x
  simp only [decide_eq_true_eq] at below above
  rw [padPut, Map.splice, Map.get?_append, Map.get?_append, below, above, Map.get?_run_eq]
  by_cases low : x < a
  · rw [if_pos low, if_neg (by omega), if_neg (by omega), if_neg (by omega), Option.or_none, Option.or_none]
  · by_cases high : a + bs.length ≤ x
    · rw [if_neg low, if_pos (by omega), if_pos high, if_neg (by omega), List.getElem?_eq_none (by omega), Option.none_or,
        Option.none_or]
    · have inside : x - a < bs.length := by omega
      rw [if_neg low, if_pos (by omega), if_neg high, if_pos (by omega), Option.none_or, Option.or_none,
        List.getD_eq_getElem?_getD, List.getElem?_eq_getElem inside]
      rfl

/-- A byte of an array that a nonce names after a write. -/
theorem padGet_padPut (nonce : Nat) (m : Map Byte) (a : Nat) (bs : List Byte) (x : Nat) :
    padGet nonce (padPut m a bs) x = if a ≤ x ∧ x < a + bs.length then bs.getD (x - a) 0 else padGet nonce m x := by
  rw [padGet, get?_padPut]
  split <;> rfl

/-! ## The arrays of a core -/

/-- A team after a write of bytes to what a reach names (R158). -/
def Team.reachWritten (t : Nat) (shadow : Bool) (bs : List Byte) (x : Reach) (k : Nat) (tm : Team) : Team :=
  match x with
  | .pad o => if k = t then { tm with pad := padPut tm.pad o bs } else tm
  | .window j o =>
    if k = j then
      if shadow then { tm with shadow := Memory.putBytes tm.shadow o bs }
      else { tm with visible := Memory.putBytes tm.visible o bs }
    else tm
  | .chip _ => tm
  | .away => tm

/-- A value is a new one where a condition holds, and an old one elsewhere. -/
def Becomes {α : Type} (p : Prop) (value new old : α) : Prop := (p → value = new) ∧ (¬ p → value = old)

/-- So it is where it is chosen by an equivalent condition. -/
theorem becomes_ite {α : Type} {p q : Prop} [Decidable q] (same : p ↔ q) (new old : α) :
    Becomes p (if q then new else old) new old :=
  ⟨fun h => if_pos (same.1 h), fun h => if_neg (mt same.2 h)⟩

/-- A value that stays where the condition cannot hold. -/
theorem becomes_old {α : Type} {p : Prop} (never : ¬ p) (new old : α) : Becomes p old new old :=
  ⟨fun h => absurd h never, fun _ => rfl⟩

section
variable (t : Nat) (shadow : Bool) (bs : List Byte) (s : State) (x : Reach)

/-- Memory, partitions and cores stay as they are. -/
theorem writeReach_rest : let u := writeReach t shadow bs s x
    u.dram = s.dram ∧ u.hostMem = s.hostMem ∧ u.partitions = s.partitions ∧ u.cores = s.cores := by
  cases x with
  | pad o => simp [writeReach]
  | window k o => simp [writeReach]
  | chip a => exact ⟨rfl, rfl, rfl, rfl⟩
  | away => exact ⟨rfl, rfl, rfl, rfl⟩

/-- The bytes of the chip scratchpad. -/
theorem writeReach_kpad (a : Nat) :
    Becomes ((∃ o, x = .chip o) ∧ x.first ≤ a ∧ a < x.first + bs.length)
      (Memory.get (writeReach t shadow bs s x).kpad a) (bs.getD (a - x.first) 0) (Memory.get s.kpad a) := by
  cases x with
  | pad o =>
    rw [writeReach, State.modTeam_kpad]
    exact becomes_old (by simp) _ _
  | window k o =>
    rw [writeReach, State.modTeam_kpad]
    exact becomes_old (by simp) _ _
  | chip o =>
    show Becomes _ (Memory.get (Memory.putBytes s.kpad o bs) a) _ _
    rw [Memory.get_putBytes]
    exact becomes_ite (by simp [Reach.first]) _ _
  | away => exact becomes_old (by simp) _ _

/-- Each team is as the write leaves it. -/
theorem writeReach_team {k : Nat} {tm : Team} (hk : s.team? k = some tm) :
    (writeReach t shadow bs s x).team? k = some (tm.reachWritten t shadow bs x k) := by
  cases x with
  | pad o =>
    rw [writeReach, State.team?_modTeam, hk, Team.reachWritten]
    split <;> rfl
  | window j o =>
    rw [writeReach, State.team?_modTeam, hk, Team.reachWritten]
    split <;> rfl
  | chip a => exact hk
  | away => exact hk

variable (k : Nat) (tm : Team)

/-- What a write to an array leaves of a team. -/
theorem Team.reachWritten_rest : let w := tm.reachWritten t shadow bs x k
    w.groups = tm.groups ∧ w.tiles = tm.tiles ∧ w.slices = tm.slices ∧ w.padNonce = tm.padNonce := by
  cases x with
  | pad o =>
    rw [Team.reachWritten]
    split <;> exact ⟨rfl, rfl, rfl, rfl⟩
  | window j o =>
    rw [Team.reachWritten]
    split
    · split <;> exact ⟨rfl, rfl, rfl, rfl⟩
    · exact ⟨rfl, rfl, rfl, rfl⟩
  | chip a => exact ⟨rfl, rfl, rfl, rfl⟩
  | away => exact ⟨rfl, rfl, rfl, rfl⟩

/-- The bytes of the core scratchpad. -/
theorem Team.reachWritten_pad (nonce a : Nat) :
    Becomes (k = t ∧ (∃ o, x = .pad o) ∧ x.first ≤ a ∧ a < x.first + bs.length)
      (padGet nonce (tm.reachWritten t shadow bs x k).pad a) (bs.getD (a - x.first) 0) (padGet nonce tm.pad a) := by
  cases x with
  | pad o =>
    rw [Team.reachWritten]
    split
    · rename_i here
      show Becomes _ (padGet nonce (padPut tm.pad o bs) a) _ _
      rw [padGet_padPut]
      exact becomes_ite (by simp [Reach.first, here]) _ _
    · rename_i other
      exact becomes_old (by simp [other]) _ _
  | window j o =>
    have kept : (tm.reachWritten t shadow bs (.window j o) k).pad = tm.pad := by
      rw [Team.reachWritten]
      split
      · split <;> rfl
      · rfl
    rw [kept]
    exact becomes_old (by simp) _ _
  | chip o => exact becomes_old (by simp) _ _
  | away => exact becomes_old (by simp) _ _

/-- The bank that a write to a window reaches. -/
def Team.bank (b : Bool) (tm : Team) : List Host.Cell := if b then tm.shadow else tm.visible

/-- The bytes of a bank of the window. -/
theorem Team.reachWritten_bank (b : Bool) (a : Nat) :
    Becomes (shadow = b ∧ (∃ o, x = .window k o) ∧ x.first ≤ a ∧ a < x.first + bs.length)
      (Memory.get ((tm.reachWritten t shadow bs x k).bank b) a) (bs.getD (a - x.first) 0) (Memory.get (tm.bank b) a) := by
  cases x with
  | pad o =>
    have kept : (tm.reachWritten t shadow bs (.pad o) k).bank b = tm.bank b := by
      rw [Team.reachWritten]
      split <;> rfl
    rw [kept]
    exact becomes_old (by simp) _ _
  | window j o =>
    by_cases here : k = j ∧ shadow = b
    · have written : (tm.reachWritten t shadow bs (.window j o) k).bank b = Memory.putBytes (tm.bank b) o bs := by
        rw [Team.reachWritten, if_pos here.1, here.2]
        cases b <;> rfl
      rw [written, Memory.get_putBytes]
      exact becomes_ite (by simp [Reach.first, here]) _ _
    · have kept : (tm.reachWritten t shadow bs (.window j o) k).bank b = tm.bank b := by
        rw [Team.reachWritten]
        split
        · rename_i window
          have other : shadow ≠ b := fun same => here ⟨window, same⟩
          revert other
          cases b <;> cases shadow <;> simp [Team.bank]
        · rfl
      rw [kept]
      exact becomes_old (by
        rintro ⟨same, ⟨o', window⟩, -⟩
        exact here ⟨(Reach.window.inj window).1.symm, same⟩) _ _
  | chip o => exact becomes_old (by simp) _ _
  | away => exact becomes_old (by simp) _ _

end

/-! ## Stores under a registration -/

/-- A line of the L1 with bytes written at an address of it (R178). -/
def L1Line.written (va : Nat) (bs : List Byte) (l : L1Line) : L1Line :=
  { l with bytes := (List.range 128).map (fun i =>
      if va % 128 ≤ i ∧ i < va % 128 + bs.length then bs.getD (i - va % 128) 0 else l.bytes.getD i 0) }

/-- The bytes stand in the line. -/
theorem L1Line.written_bytes (va : Nat) (bs : List Byte) (l : L1Line) {i : Nat} (hi : i < bs.length)
    (inside : va % 128 + i < 128) : (l.written va bs).bytes.getD (va % 128 + i) 0 = bs.getD i 0 := by
  rw [L1Line.written, List.getD_eq_getElem?_getD, List.getElem?_map, List.getElem?_range inside, Option.map_some,
    Option.getD_some, if_pos (by omega), Nat.add_sub_cancel_left]

/-- A core in which a line stands for an address (R176): the line that stood there, or a new one without valid sectors. -/
def Core.withLine (c : Core) (asid va pa leaf : Nat) : Core :=
  if (c.l1Line asid va).isSome then c else c.fillL1 va asid pa leaf 0#4 []

/-- Its line stands. -/
theorem Core.withLine_line (c : Core) (asid va pa leaf : Nat) : ∃ l, (c.withLine asid va pa leaf).l1Line asid va = some l := by
  unfold Core.withLine
  cases h : c.l1Line asid va with
  | some l => exact ⟨l, by rw [Option.isSome_some, if_pos rfl, h]⟩
  | none =>
    have none : (Option.none : Option L1Line).isSome ≠ true := by simp
    rw [if_neg none]
    unfold Core.fillL1
    rw [h]
    exact ⟨_, List.find?_cons_of_pos (by simp)⟩

/-- Its registered bytes are those of before. -/
theorem Core.withLine_dirty (c : Core) (asid va pa leaf : Nat) : (c.withLine asid va pa leaf).dirty = c.dirty := by
  unfold Core.withLine
  split <;> rfl

/-- A store under a registration writes the registered bytes and the line (R178). -/
theorem Core.writeDirty_eq (c : Core) (asid va pa leaf : Nat) (bs : List Byte) : c.writeDirty asid va pa leaf bs =
    { c.withLine asid va pa leaf with
      dirty := padPut c.dirty pa bs
      l1 := (c.withLine asid va pa leaf).l1.map (fun l =>
        if l.va = va / 128 * 128 ∧ l.asid = asid then l.written va bs else l) } := rfl

/-- The registered bytes after a store. -/
theorem Core.writeDirty_dirty (c : Core) (asid va pa leaf : Nat) (bs : List Byte) :
    (c.writeDirty asid va pa leaf bs).dirty = padPut c.dirty pa bs := rfl

/-- The line of the address after a store. -/
theorem Core.writeDirty_line (c : Core) (asid va pa leaf : Nat) (bs : List Byte) :
    ∃ l : L1Line, (c.writeDirty asid va pa leaf bs).l1Line asid va = some (l.written va bs) := by
  obtain ⟨l, hl⟩ := c.withLine_line asid va pa leaf
  have place := Core.l1Line_some hl
  have same (x : L1Line) : (if x.va = va / 128 * 128 ∧ x.asid = asid then x.written va bs else x).va = x.va ∧
      (if x.va = va / 128 * 128 ∧ x.asid = asid then x.written va bs else x).asid = x.asid := by
    split <;> exact ⟨rfl, rfl⟩
  refine ⟨l, ?_⟩
  rw [Core.writeDirty_eq, Core.l1Line, List.find?_map]
  simp only [Function.comp_def, same]
  exact (congrArg _ hl).trans (congrArg some (if_pos place))

/-- What a store under a registration leaves of the machine (R178). -/
theorem State.coreWrite_rest (s : State) (tm : Team) (o : MemOp) (e : MemElem) : let u := s.coreWrite tm o e
    u.teams = s.teams ∧ u.sameMemory s ∧ u.registrations = s.registrations ∧ u.partitions = s.partitions ∧
      ∀ c, c ≠ tm.core → u.core c = s.core c := by
  refine ⟨rfl, ⟨rfl, rfl, rfl⟩, rfl, rfl, fun c other => ?_⟩
  rw [State.coreWrite, State.core_modCore, if_neg fun here => other here.1]

/-- The core of a store under a registration. -/
theorem State.coreWrite_core {s : State} {tm : Team} (o : MemOp) (e : MemElem) (there : tm.core < s.cores.length) :
    (s.coreWrite tm o e).core tm.core = (s.core tm.core).writeDirty o.asid e.va e.pa e.leaf e.bytes := by
  rw [State.coreWrite, State.core_modCore, if_pos ⟨rfl, there⟩]

/-- No other registered byte of the core changes. -/
theorem State.coreWrite_away (s : State) (tm : Team) (o : MemOp) (e : MemElem) {a : Nat} (away : a < e.pa ∨ e.pa + e.size ≤ a) :
    Map.get? ((s.coreWrite tm o e).core tm.core).dirty a = Map.get? (s.core tm.core).dirty a := by
  by_cases there : tm.core < s.cores.length
  · rw [State.coreWrite_core o e there, Core.writeDirty_dirty, get?_padPut, if_neg]
    rw [MemElem.bytes, length_leBytes]
    omega
  · rw [State.coreWrite, State.core_modCore, if_neg fun here => there here.2]

/-- The bytes stand among the registered ones. -/
theorem State.coreWrite_dirty {s : State} {tm : Team} (o : MemOp) (e : MemElem) (there : tm.core < s.cores.length) {i : Nat}
    (hi : i < e.size) : Map.get? ((s.coreWrite tm o e).core tm.core).dirty (e.pa + i) = some (e.bytes.getD i 0) := by
  have inside : i < e.bytes.length := by rwa [MemElem.bytes, length_leBytes]
  rw [State.coreWrite_core o e there, Core.writeDirty_dirty, get?_padPut, if_pos (by omega), Nat.add_sub_cancel_left]

/-- The bytes stand in the line of the address. -/
theorem State.coreWrite_line {s : State} {tm : Team} (o : MemOp) (e : MemElem) (there : tm.core < s.cores.length) {i : Nat}
    (hi : i < e.size) (inside : e.va % 128 + i < 128) :
    ∃ l, ((s.coreWrite tm o e).core tm.core).l1Line o.asid e.va = some l ∧
      l.bytes.getD (e.va % 128 + i) 0 = e.bytes.getD i 0 := by
  rw [State.coreWrite_core o e there]
  obtain ⟨l, hl⟩ := (s.core tm.core).writeDirty_line o.asid e.va e.pa e.leaf e.bytes
  exact ⟨_, hl, l.written_bytes e.va e.bytes (by rwa [MemElem.bytes, length_leBytes]) inside⟩

/-! ## Writes at a home -/

/-- A byte store leaves what follows the lines. -/
theorem State.storeByte_rest (s : State) (pa : Nat) (b : Byte) :
    (s.storeByte pa b).registrations = s.registrations ∧ (s.storeByte pa b).cipher = s.cipher := by
  unfold State.storeByte
  split <;> exact ⟨rfl, rfl⟩

/-- Byte stores leave the views of the units. -/
theorem State.storeBytes_cipher (abs : List (Nat × Byte)) (s : State) :
    (abs.foldl (fun (s : State) ab => s.storeByte ab.1 ab.2) s).cipher = s.cipher :=
  foldl_keeps (fun t : State => t.cipher = s.cipher) _ (fun t ab ht => (t.storeByte_rest ab.1 ab.2).2.trans ht) abs s rfl

/-- A write-back leaves the views of the units. -/
theorem State.writeBack_cipher (s : State) (r : Registration) : (s.writeBack r).cipher = s.cipher := by
  unfold State.writeBack
  exact foldl_keeps (fun t : State => t.cipher = s.cipher) State.stampLine (fun _ _ ht => ht) _ _ (State.storeBytes_cipher _ s)

/-- So does a line that enters the L2. -/
theorem State.intoL2_cipher (s : State) (pa : Nat) : (s.intoL2 pa).cipher = s.cipher := by
  have dropped (line : Nat) : (s.dropL2 line).cipher = s.cipher :=
    foldl_keeps (fun t : State => t.cipher = s.cipher) _ (fun t r ht => (t.writeBack_cipher r).trans ht) _ s rfl
  have freed : (s.freeWay pa).cipher = s.cipher := by
    unfold State.freeWay
    dsimp only
    split
    · rfl
    · split
      · exact dropped _
      · rfl
  unfold State.intoL2
  dsimp only
  split
  · rfl
  · exact freed

/-- So does a recall. -/
theorem State.recall_cipher (s : State) (pa n : Nat) : (s.recall pa n).cipher = s.cipher := by
  have given (t : State) (r : Registration) : (t.giveUp r).cipher = t.cipher :=
    foldl_keeps (fun u : State => u.cipher = t.cipher) _ (fun u l hu => (u.intoL2_cipher l).trans hu) _ _ (t.writeBack_cipher r)
  exact foldl_keeps (fun t : State => t.cipher = s.cipher) _ (fun t r ht => (given t r).trans ht) _ s rfl

/-- A unit of 16 bytes takes the view of its writer (R414). -/
def State.retagUnit (view u : Nat) (s : State) : State :=
  if Map.get s.cipher u 0 = view then s
  else
    let bs := (List.range 16).map (fun j => s.viewByte view (16 * u + j))
    let s := (List.range 16).foldl (fun (s : State) j => s.storeByte (16 * u + j) (bs.getD j 0)) s
    { s with cipher := if view = 0 then Map.del s.cipher u else Map.put s.cipher u view }

/-- The units of a range of DRAM take the view one after another. -/
theorem State.retag_eq (s : State) (view : Nat) {pa n : Nat} (some_byte : n ≠ 0) (dram : isDram pa = true) :
    s.retag view pa n = (List.range ((pa + n - 1) / 16 + 1 - pa / 16)).foldl (fun s k => s.retagUnit view (pa / 16 + k)) s := by
  unfold State.retag
  rw [if_neg (by simp [some_byte, dram])]
  rfl

/-- The registrations stand, and a byte and its unit's view are as they were. -/
structure State.Leaves (a : Nat) (s u : State) : Prop where
  registrations : u.registrations = s.registrations
  cipher : Map.get u.cipher (a / 16) 0 = Map.get s.cipher (a / 16) 0
  dram : Memory.get u.dram a = Memory.get s.dram a
  hostMem : Memory.get u.hostMem a = Memory.get s.hostMem a

/-- One change after another. -/
theorem State.Leaves.trans {a : Nat} {s u w : State} (h : s.Leaves a u) (k : u.Leaves a w) : s.Leaves a w :=
  ⟨k.registrations.trans h.registrations, k.cipher.trans h.cipher, k.dram.trans h.dram, k.hostMem.trans h.hostMem⟩

/-- A byte of another unit, or of one that has the view, is left. -/
theorem State.retagUnit_leaves {s : State} {view u a : Nat} (away : u ≠ a / 16 ∨ Map.get s.cipher (a / 16) 0 = view) :
    s.Leaves a (s.retagUnit view u) := by
  by_cases tagged : Map.get s.cipher u 0 = view
  · rw [State.retagUnit, if_pos tagged]
    exact ⟨rfl, rfl, rfl, rfl⟩
  · have other : u ≠ a / 16 := by
      rcases away with other | same
      · exact other
      · rintro rfl
        exact tagged same
    let bytes := (List.range 16).map (fun j => (16 * u + j,
      ((List.range 16).map (fun j => s.viewByte view (16 * u + j))).getD j 0))
    have elsewhere : ∀ ab ∈ bytes, ab.1 ≠ a := by
      intro ab hab same
      obtain ⟨j, hj, rfl⟩ := List.mem_map.1 hab
      have := List.mem_range.1 hj
      dsimp only at same
      omega
    obtain ⟨registrations, dram, hostMem⟩ := State.storeBytes_away a bytes s elsewhere
    have cipher := State.storeBytes_cipher bytes s
    rw [List.foldl_map] at registrations dram hostMem cipher
    rw [State.retagUnit, if_neg tagged]
    refine ⟨registrations, ?_, dram, hostMem⟩
    dsimp only
    rw [cipher]
    split
    · rw [Map.get, Map.get?_del, if_neg other]
      rfl
    · rw [Map.get_put, if_neg (Ne.symm other)]

/-- A byte of a unit outside the range, or of one that has the view, is left. -/
theorem State.retag_leaves {s : State} {view pa n a : Nat}
    (away : a / 16 < pa / 16 ∨ (pa + n - 1) / 16 < a / 16 ∨ Map.get s.cipher (a / 16) 0 = view) :
    s.Leaves a (s.retag view pa n) := by
  by_cases range : n = 0 ∨ (!isDram pa) = true
  · unfold State.retag
    rw [if_pos range]
    exact ⟨rfl, rfl, rfl, rfl⟩
  · obtain ⟨some_byte, dram⟩ := not_or.1 range
    rw [State.retag_eq s view some_byte (by simpa using dram)]
    refine List.foldlRecOn _ _ (motive := fun u => s.Leaves a u) ⟨rfl, rfl, rfl, rfl⟩ fun u left k hk => ?_
    have inside := List.mem_range.1 hk
    refine left.trans (State.retagUnit_leaves ?_)
    rcases away with below | above | same
    · exact .inl (by omega)
    · exact .inl (by omega)
    · exact .inr (left.cipher.trans same)

/-- The registrations stand. -/
theorem State.retag_registrations (s : State) (view pa n : Nat) : (s.retag view pa n).registrations = s.registrations :=
  (State.retag_leaves (a := pa + n + 16) (.inr (.inl (by omega)))).registrations

/-- Bytes stand at their home (R174). -/
def State.homePut (pa : Nat) (bs : List Byte) (s : State) : State :=
  if isDram pa then { s with dram := Memory.putBytes s.dram pa bs } else { s with hostMem := Memory.putBytes s.hostMem pa bs }

/-- The stored byte of a range at its home. -/
def State.storedAt (s : State) (pa a : Nat) : Byte :=
  if isDram pa = true then Memory.get s.dram a else Memory.get s.hostMem a

/-- Putting bytes leaves the registrations. -/
theorem State.homePut_registrations (pa : Nat) (bs : List Byte) (s : State) :
    (s.homePut pa bs).registrations = s.registrations := by
  unfold State.homePut
  split <;> rfl

/-- The bytes that are put stand there. -/
theorem State.homePut_stored (pa : Nat) (bs : List Byte) (s : State) {i : Nat} (hi : i < bs.length) :
    (s.homePut pa bs).storedAt pa (pa + i) = bs.getD i 0 := by
  have put (m : List Host.Cell) : Memory.get (Memory.putBytes m pa bs) (pa + i) = bs.getD i 0 := by
    rw [Memory.get_putBytes, if_pos (by omega), Nat.add_sub_cancel_left]
    rfl
  rw [State.storedAt, State.homePut]
  split
  · exact put _
  · exact put _

/-- The others are as they were. -/
theorem State.homePut_away (pa : Nat) (bs : List Byte) (s : State) {a : Nat} (away : a < pa ∨ pa + bs.length ≤ a) :
    Memory.get (s.homePut pa bs).dram a = Memory.get s.dram a ∧
      Memory.get (s.homePut pa bs).hostMem a = Memory.get s.hostMem a := by
  have put (m : List Host.Cell) : Memory.get (Memory.putBytes m pa bs) a = Memory.get m a := by
    rw [Memory.get_putBytes, if_neg (by omega)]
  rw [State.homePut]
  split
  · exact ⟨put _, rfl⟩
  · exact ⟨rfl, put _⟩

/-- The machine in which a write's bytes are put: the registrations of its bytes are recalled, and its units have its view. -/
def State.homeReady (s : State) (view pa n : Nat) : State := (s.recall pa n).retag view pa n

/-- A write at a home puts its bytes, then its lines are stamped and enter the L2 (R184, R192, R298). -/
theorem State.homeWrite_eq (s : State) (view pa : Nat) {bs : List Byte} (some_byte : bs ≠ []) : s.homeWrite view pa bs =
    (linesOf pa bs.length).foldl State.intoL2 ((linesOf pa bs.length).foldl State.touchLine
      ((s.homeReady view pa bs.length).homePut pa bs)) := by
  unfold State.homeWrite State.homeWritePast
  rw [if_neg (by simpa using some_byte)]
  rfl

/-- What it leaves is as it was when its bytes were put, where no registration stood (R184). -/
theorem State.homeWrite_after (s : State) (view pa : Nat) {bs : List Byte} (some_byte : bs ≠ []) {a : Nat}
    (free : ∀ r ∈ (s.homeReady view pa bs.length).registrations, ¬ (r.pa ≤ a ∧ a < r.pa + r.size)) :
    Memory.get (s.homeWrite view pa bs).dram a = Memory.get ((s.homeReady view pa bs.length).homePut pa bs).dram a ∧
      Memory.get (s.homeWrite view pa bs).hostMem a =
        Memory.get ((s.homeReady view pa bs.length).homePut pa bs).hostMem a := by
  have put := State.homePut_registrations pa bs (s.homeReady view pa bs.length)
  rw [State.homeWrite_eq s view pa some_byte]
  generalize (s.homeReady view pa bs.length).homePut pa bs = w at *
  have touched := State.KeepsOutside.foldl (rs := w.registrations) State.touchLine (linesOf pa bs.length) w (fun _ h => h)
    (fun v l _ _ => State.touchLine_outside _ v l)
  have kept := touched.trans (State.intoL2s_outside (linesOf pa bs.length) _ fun r hr => touched.1 r hr)
  exact kept.2 a fun r hr => free r (put ▸ hr)

/-- No registration that stands when the bytes are put overlaps them, and each stood before (R182). -/
theorem State.homeReady_registrations (s : State) (view pa n : Nat) {r : Registration}
    (hr : r ∈ (s.homeReady view pa n).registrations) : r ∈ s.registrations ∧ ¬ (r.pa < pa + n ∧ pa < r.pa + r.size) := by
  rw [State.homeReady, State.retag_registrations] at hr
  exact ⟨(s.recall_outside pa n fun _ h => h).1 r hr, s.recall_clears pa n r hr⟩

/-- The bytes of a write stand at their home (R192, R298). -/
theorem State.homeWrite_stored (s : State) (view pa : Nat) (bs : List Byte) {i : Nat} (hi : i < bs.length) :
    (s.homeWrite view pa bs).storedAt pa (pa + i) = bs.getD i 0 := by
  have some_byte : bs ≠ [] := List.ne_nil_of_length_pos (by omega)
  obtain ⟨dram, hostMem⟩ := s.homeWrite_after view pa some_byte (a := pa + i) fun r hr covers =>
    (s.homeReady_registrations view pa bs.length hr).2 (by omega)
  rw [State.storedAt, dram, hostMem]
  exact State.homePut_stored pa bs _ hi

/-- A write changes outside its bytes at most what a registration covered, or a unit of another view (R182, R414). -/
theorem State.homeWrite_away (s : State) (view pa : Nat) (bs : List Byte) {a : Nat} (away : a < pa ∨ pa + bs.length ≤ a)
    (free : ∀ r ∈ s.registrations, ¬ (r.pa ≤ a ∧ a < r.pa + r.size))
    (unit : a / 16 < pa / 16 ∨ (pa + bs.length - 1) / 16 < a / 16 ∨ Map.get s.cipher (a / 16) 0 = view) :
    Memory.get (s.homeWrite view pa bs).dram a = Memory.get s.dram a ∧
      Memory.get (s.homeWrite view pa bs).hostMem a = Memory.get s.hostMem a := by
  by_cases some_byte : bs = []
  · subst some_byte
    exact ⟨rfl, rfl⟩
  · obtain ⟨dram, hostMem⟩ := s.homeWrite_after view pa some_byte fun r hr =>
      free r (s.homeReady_registrations view pa bs.length hr).1
    have recalled := (s.recall_outside pa bs.length fun _ h => h).2 a free
    have tagged := State.retag_leaves (s := s.recall pa bs.length) (n := bs.length) (by rwa [State.recall_cipher])
    have kept := State.homePut_away pa bs (s.homeReady view pa bs.length) away
    exact ⟨dram.trans (kept.1.trans (tagged.dram.trans recalled.1)),
      hostMem.trans (kept.2.trans (tagged.hostMem.trans recalled.2))⟩

/-! ## The statement -/

/-- Settles O12: a write to an array by the array and the team that its reach names, a store under a registration by its core,
a write at a home by what stands when its bytes are put. -/
theorem storeFrames : Obligations.StoreFrames := by
  refine ⟨fun s t shadow bs x => ?_, fun s tm o e => ?_, fun s view pa bs => ?_⟩
  · obtain ⟨dram, hostMem, partitions, cores⟩ := writeReach_rest t shadow bs s x
    refine ⟨dram, hostMem, partitions, cores, fun a => (writeReach_kpad t shadow bs s x a).1,
      fun a => (writeReach_kpad t shadow bs s x a).2, fun k tm hk => ?_⟩
    obtain ⟨groups, tiles, slices, nonce⟩ := Team.reachWritten_rest t shadow bs x k tm
    refine ⟨_, writeReach_team t shadow bs s x hk, groups, tiles, slices, nonce, fun a => ?_⟩
    rw [nonce]
    obtain ⟨pad, pad_kept⟩ := Team.reachWritten_pad t shadow bs x k tm tm.padNonce a
    obtain ⟨visible, visible_kept⟩ := Team.reachWritten_bank t shadow bs x k tm false a
    obtain ⟨hidden, hidden_kept⟩ := Team.reachWritten_bank t shadow bs x k tm true a
    exact ⟨pad, pad_kept, visible, visible_kept, hidden, hidden_kept⟩
  · obtain ⟨teams, memory, registrations, partitions, cores⟩ := s.coreWrite_rest tm o e
    exact ⟨teams, memory, registrations, partitions, cores, fun a => s.coreWrite_away tm o e,
      fun there i hi => ⟨State.coreWrite_dirty o e there hi, State.coreWrite_line o e there hi⟩⟩
  · have only := s.homeWrite_only view pa bs
    exact ⟨only.kpad.1, only.teams, only.partitions, fun i => s.homeWrite_stored view pa bs,
      fun a => s.homeWrite_away view pa bs⟩

end Sys2Proof.Machine
end

section
/-! PROOFS. Global memory from issue to the queues: loads, stores and atomics by the threads that pass their check (R178,
R187–R193, R335); prefetches, fences, publications and logged values (R191, R203, R210, R333, R353, R354, R359, R360). -/

namespace Sys2Proof.Machine

/-! ## Loads -/

section
variable {i : Instr} {f : Fields} {kind : MemKind} {s : State} {v : View}

/-- The entry of a global load: an element for each thread that passes the check (R189). -/
def View.loadOp (v : View) (kind : MemKind) (code : Nat) (good : List (Nat × Nat)) (id : Nat) : MemOp :=
  { id := id, addr := v.run.addr, idx := v.run.idx, kind := kind, typ := code, aop := 0, asid := v.g.asid
    elems := good.map (fun lx =>
      ⟨lx.1, lx.2, elemBytes code, 0, 0, Map.get (cntsOf v.team v.g (lanesIn good)) lx.1 0, none, false, false, 0⟩) }

/-- A global load without threads that pass the check takes no slot (R189). -/
theorem View.sendLoad_eq (v : View) (good : List (Nat × Nat)) (regs : Nat) (op : MemOp) (s : State) :
    let u := countExec v.t v.gi (lanesIn good) s
    let sent := sendLong v u.fresh.1 regs .ld (lanesIn good) [] false [] u.fresh.2
    v.sendLoad good regs op s = if good = [] then sent
      else tryLoads v.t v.gi op (sent.modGroup v.t v.gi (fun g => { g with loads := g.loads ++ [op] })) := by
  cases good <;> rfl

/-- A global load that issues normally sends the elements of the threads that pass the check (R188, R189). -/
theorem globalLoad_issue (hx : exec i s = globalLoad i f kind s) (h : s.issue? sources i = some v) :
    let code := f.minor.toNat
    let n := elemBytes code
    let good := v.good (globalReach n v)
    let s0 := v.checked (globalReach n v) s
    exec i s = .next (retire v.t v.gi (if n = 16 ∨ (n = 8 ∧ kind = .ldq) then 2 else 1)
      (v.sendLoad good (Forms.typeRegs code) (v.loadOp kind code good (countExec v.t v.gi (lanesIn good) s0).fresh.1) s0)) := by
  have framed : exec i s = frame i _ s := hx
  exact framed.trans (frameWith_issue _ h)

/-! ## Stores and atomics -/

/-- The compare value of a thread's element: 0 but for CAS (R193). -/
def View.storeCmp (v : View) (kind : MemKind) (f : Fields) (l : Nat) : Nat :=
  if kind = .cas then v.operand v.form.b f.b.toNat l % 2 ^ (8 * elemBytes f.minor.toNat) else 0

/-- The data of a thread's element (R189). -/
def View.storeData (v : View) (f : Fields) (l : Nat) : Nat := v.c l % 2 ^ (8 * elemBytes f.minor.toNat)

/-- What a thread's element enters into the store signature: the compare value first where it has one (R335; log entry 41). -/
def View.storeSigned (v : View) (kind : MemKind) (f : Fields) (lx : Nat × Nat) : List (Nat × Nat × Nat × Nat) :=
  (if kind = .cas then [(lx.1, lx.2, elemBytes f.minor.toNat, v.storeCmp kind f lx.1)] else []) ++
    [(lx.1, lx.2, elemBytes f.minor.toNat, v.storeData f lx.1)]

/-- The store-queue entry of a global store or atomic: an element for each thread that passes the check (R189). -/
def View.storeOp (v : View) (kind : MemKind) (f : Fields) (good : List (Nat × Nat)) (id : Nat) : MemOp :=
  { id := id, addr := v.run.addr, idx := v.run.idx, kind := kind, typ := f.minor.toNat
    aop := if kind = .cas then 7 else f.mod.toNat % 16, asid := v.g.asid
    elems := good.map (fun lx => ⟨lx.1, lx.2, elemBytes f.minor.toNat, v.storeData f lx.1, v.storeCmp kind f lx.1,
      Map.get (cntsOf v.team v.g (lanesIn good)) lx.1 0, none, false, false, 0⟩) }

/-- The issue cycles of a global store or atomic of n bytes (R189, R192). -/
def MemKind.storeCycles (kind : MemKind) (n : Nat) : Nat :=
  match kind with
  | .st => if n = 16 then 2 else 1
  | .stq => if n = 16 then 2 else 1
  | _ => if 8 ≤ n then 2 else 1

/-- A global store or atomic without threads that pass the check takes no entry (R189). -/
theorem View.sendStore_eq (v : View) (good : List (Nat × Nat)) (regs : Nat) (reads : Bool)
    (signed : List (Nat × Nat × Nat × Nat)) (op : MemOp) (s : State) :
    let u := countExec v.t v.gi (lanesIn good) (signStores v.t v.gi 0 signed s)
    let sent := if reads then sendLong v u.fresh.1 regs .ld (lanesIn good) [] false [] u.fresh.2 else u.fresh.2
    v.sendStore good regs reads signed op s = if good = [] then sent
      else sent.modGroup v.t v.gi (fun g => { g with stores := g.stores ++ [op] }) := by
  cases good <;> rfl

/-- A global store or atomic that issues normally signs and sends the elements of the threads that pass the check (R188, R189,
R335). -/
theorem globalStore_issue (hx : exec i s = globalStore i f kind s) (h : s.issue? sources i = some v) :
    let n := elemBytes f.minor.toNat
    let good := v.good (globalReach n v)
    let signed := (good.map (v.storeSigned kind f)).flatten
    let s0 := v.checked (globalReach n v) s
    exec i s = .next (retire v.t v.gi (kind.storeCycles n) (v.sendStore good (Forms.typeRegs f.minor.toNat) kind.reads signed
      (v.storeOp kind f good (countExec v.t v.gi (lanesIn good) (signStores v.t v.gi 0 signed s0)).fresh.1) s0)) := by
  have framed : exec i s = frame i _ s := hx
  exact framed.trans (frameWith_issue _ h)

end

/-- An element without a compare value signs its data alone (R335). -/
theorem View.flatMap_storeSigned {kind : MemKind} (v : View) (f : Fields) (single : kind ≠ .cas) (good : List (Nat × Nat)) :
    good.flatMap (v.storeSigned kind f) =
      good.map (fun lx => (lx.1, lx.2, elemBytes f.minor.toNat, v.storeData f lx.1)) := by
  have alone : v.storeSigned kind f = fun lx => [(lx.1, lx.2, elemBytes f.minor.toNat, v.storeData f lx.1)] := by
    funext lx
    rw [View.storeSigned, if_neg single, List.nil_append]
  rw [alone, ← List.map_eq_flatMap]

/-- Settles O22: both are `globalLoad`, which has a cycle more for what is wide to it. -/
theorem globalLoadsIssue : Obligations.GlobalLoadsIssue := by
  intro f s v n good lanes issues
  have sends (i : Instr) (kind : MemKind) (hx : exec i s = globalLoad i f kind s) :
      issues i kind (if n = 16 ∨ (n = 8 ∧ kind = .ldq) then 2 else 1) := by
    intro h
    rw [globalLoad_issue hx h, View.sendLoad_eq]
    rfl
  refine ⟨?_, ?_⟩
  · simpa using sends (.ld f) .ld rfl
  · simpa using sends (.ldq f) .ldq rfl

/-- Settles O23: all five are `globalStore` of their kind, of which CAS alone has a compare value to send and to sign. -/
theorem globalStoresIssue : Obligations.GlobalStoresIssue := by
  intro f s v n good lanes data cas issues plain wide long
  have sends (i : Instr) (kind : MemKind) (hx : exec i s = globalStore i f kind s) :
      issues i kind (kind.storeCycles n) (if kind = .cas then 7 else f.mod.toNat % 16) (v.storeCmp kind f)
        (good.flatMap (v.storeSigned kind f)) := by
    intro h
    rw [globalStore_issue hx h, View.sendStore_eq, ← List.flatMap_def]
    rfl
  have sends_plain (i : Instr) (kind : MemKind) (single : kind ≠ .cas) (hx : exec i s = globalStore i f kind s) :
      issues i kind (kind.storeCycles n) (f.mod.toNat % 16) (fun _ => 0) plain := by
    have no_compare : v.storeCmp kind f = fun _ => 0 := funext fun l => if_neg single
    have sent := sends i kind hx
    rwa [if_neg single, no_compare, v.flatMap_storeSigned f single] at sent
  exact ⟨sends_plain (.st f) .st (by decide) rfl, sends_plain (.stq f) .stq (by decide) rfl,
    sends_plain (.red f) .red (by decide) rfl, sends_plain (.atom f) .atom (by decide) rfl, sends (.cas f) .cas rfl⟩

/-! ## Prefetches -/

section
variable {t : Nat} {tm : Team} {asid x : Nat} {l1 : Bool} {s : State}

/-- A prefetch past the address space is dropped (R191). -/
theorem prefetch_past (past : 2 ^ 52 ≤ x) : prefetch t tm asid l1 x s = s := by
  have high : x >>> 52 ≠ 0 := by rw [Nat.shiftRight_eq_div_pow]; omega
  rw [prefetch, if_pos high]

section
variable (inside : x < 2 ^ 52)
include inside

/-- A prefetch goes by the translation cache (R191). -/
theorem prefetch_inside : prefetch t tm asid l1 x s =
    if (s.tlbHit (s.translationSlice (dieOf tm.core) asid x) tm.part asid x).isSome then s.bring tm asid l1 x
    else s.askWalk (some ⟨if l1 then 5 else 6, t, x⟩) (dieOf tm.core) tm.part asid x := by
  have low : ¬ x >>> 52 ≠ 0 := by rw [Nat.shiftRight_eq_div_pow]; omega
  rw [prefetch, if_neg low]

/-- A prefetch of a page that is not cached waits for its walk (R191; log entry 40). -/
theorem prefetch_miss (miss : s.tlbHit (s.translationSlice (dieOf tm.core) asid x) tm.part asid x = none) :
    prefetch t tm asid l1 x s = s.askWalk (some ⟨if l1 then 5 else 6, t, x⟩) (dieOf tm.core) tm.part asid x := by
  rw [prefetch_inside inside, miss]
  rfl

/-- A prefetch of a page that is cached is made (R191; log entry 40). -/
theorem prefetch_hit (hit : s.tlbHit (s.translationSlice (dieOf tm.core) asid x) tm.part asid x ≠ none) :
    prefetch t tm asid l1 x s = s.bring tm asid l1 x := by
  rw [prefetch_inside inside, if_pos (Option.isSome_iff_ne_none.2 hit)]

end

/-- A line whose page has no leaf is not brought in (R191). -/
theorem State.bring_unmapped (unmapped : ∀ e pa z, s.translate (dieOf tm.core) tm.part asid x ≠ .leaf e pa z) :
    s.bring tm asid l1 x = s := by
  unfold State.bring
  split
  · rename_i e pa z leaf
    exact absurd leaf (unmapped e pa z)
  · rfl

/-- A prefetch is dropped at a page that is strongly ordered, outside DRAM or not readable, at a byte that a scrub has taken, at
a line with an error mark, and at a home that has stopped (R186, R191, R386, R468). -/
def State.dropsPrefetch (s : State) (tm : Team) (e pa : Nat) : Prop :=
  hasBit e 5 = true ∨ isDram pa = false ∨ hasBit e 2 = false ∨ s.refused pa = true ∨
    s.errors.contains (pa >>> 7) = true ∨ s.unitDown tm.part (s.homeUnit pa) = true

section
variable {e pa z : Nat} (leaf : s.translate (dieOf tm.core) tm.part asid x = .leaf e pa z)
include leaf

/-- A dropped prefetch brings nothing in. -/
theorem State.bring_dropped (dropped : s.dropsPrefetch tm e pa) : s.bring tm asid l1 x = s := by
  unfold State.bring
  rw [leaf]
  refine if_pos ?_
  simpa only [Bool.or_eq_true, Bool.not_eq_true', or_assoc, State.dropsPrefetch] using dropped

variable (made : ¬ s.dropsPrefetch tm e pa)
include made

/-- Another brings its line into the L2, and into the L1 where that is named and the page allows it (R191, R219). -/
theorem State.bring_made : s.bring tm asid l1 x =
    if l1 = false then s.readAtHome (pa / 128 * 128) 128
    else if bits e 51 50 = 1 then s
    else (s.readAtHome (pa / 128 * 128) 128).fillL1 tm.core x asid pa e 15#4 (s.lineBytes e pa) := by
  unfold State.bring
  rw [leaf]
  refine (if_neg ?_).trans ?_
  · simpa only [Bool.or_eq_true, Bool.not_eq_true', or_assoc, State.dropsPrefetch] using made
  · simp only [Bool.not_eq_true']

end

end

/-! ## What issues -/

section
variable {f : Fields} {s : State} {v : View}

/-- The prefetches of an unchecked run are made in lane order (R191). -/
theorem execPfch_issue (h : s.issue? sources (.pfch f) = some v) :
    exec (.pfch f) s = .next (v.passed 1 (if v.team.mode = .unchecked then
      v.lanes.lanes.foldl (fun s l => prefetch v.t v.team v.g.asid (f.minor.toNat == 0) (globalAddr v l) s) (v.start s)
      else v.start s)) := by
  show execPfch f s = _
  rw [execPfch, frame, frameWith_issue _ h]
  simp only [ne_eq, ite_not]
  rfl

/-- A pending operation stands behind those of its group, where it has threads (R203, R210, R354). -/
def View.pends (v : View) (empty : Prop) [Decidable empty] (p : Nat → Nat → Pending) (s : State) : State :=
  if empty then s.fresh.2
  else s.fresh.2.modGroup v.t v.gi (fun g => { g with pending := g.pending ++ [p s.fresh.1 g.asid] })

/-- FENCE stands among the group's pending operations for its threads (R203). -/
theorem execFence_issue (h : s.issue? sources (.fence f) = some v) :
    exec (.fence f) s = .next (retire v.t v.gi 1 (v.pends (v.lanes = 0) (fun id asid =>
      { id := id, addr := v.run.addr, idx := v.run.idx, kind := 0, lanes := v.lanes, scope := f.d.toNat
        pset := f.a.toNat, sset := f.b.toNat, ranges := [], asid := asid }) (countExec v.t v.gi v.lanes (v.start s)))) := by
  show execFence f s = _
  rw [execFence, frame, frameWith_issue _ h]
  rfl

/-- The ranges that are not empty, each with its thread (R210, R354). -/
def namedRanges (rs : List (Nat × Option (Nat × Nat))) : List (Nat × Nat × Nat) :=
  rs.filterMap (fun lr => lr.2.map (fun xn => (lr.1, xn.1, xn.2)))

/-- AFENCE stands there with the ranges of the threads that pass their check (R210). -/
theorem execAfence_issue (h : s.issue? sources (.afence f) = some v) :
    let good := v.good (rangeReach v)
    let ranges := namedRanges good
    exec (.afence f) s = .next (retire v.t v.gi 1 (v.pends (ranges = []) (fun id asid =>
      { id := id, addr := v.run.addr, idx := v.run.idx, kind := 1, lanes := lanesIn ranges, scope := 0, pset := 3
        sset := 31, ranges := ranges, asid := asid })
      (countExec v.t v.gi (lanesIn good) (v.checked (rangeReach v) s)))) := by
  show execAfence f s = _
  rw [execAfence, frame, frameWith_issue _ h]
  simp only [List.isEmpty_iff]
  rfl

/-- PUBLISH signs the ranges of checked threads, and stands there with those of the threads that pass their check, but for the
checked ones of a trail (R354, R359, R360). -/
theorem execPublish_issue (h : s.issue? sources (.publish f) = some v) :
    let good := v.good (publishReach v)
    let own := fun l => v.team.mode != .unchecked && !v.g.inLogged l
    let signed := (namedRanges good).foldl (v.signRange f.d.toNat) (v.checked (publishReach v) s)
    let mine := (namedRanges good).filter (fun r => !(v.team.mode == .trail && own r.1))
    exec (.publish f) s = .next (retire v.t v.gi 1 (v.pends (mine = []) (fun id asid =>
      { id := id, addr := v.run.addr, idx := v.run.idx, kind := 2, lanes := lanesIn mine, scope := f.d.toNat, pset := 2
        sset := if mine.any (fun r => own r.1) then 1 else 0, ranges := mine, asid := asid })
      (countExec v.t v.gi (lanesIn good) signed))) := by
  show execPublish f s = _
  rw [execPublish, frame, frameWith_issue _ h]
  simp only [List.isEmpty_iff]
  rfl

/-- LOGV sends its values through the log, once the log is free to take them (R330, R333). -/
theorem execLogv_issue (h : s.issue? sources (.logv f) = some v) (free : logWaits v.team v.g = false) :
    exec (.logv f) s = .next (v.sentLogged 1 (Forms.typeRegs f.minor.toNat) .ld 3 1 v.a id (v.start s)) := by
  show execLogv f s = _
  rw [execLogv, frame, frameWith_issue _ h]
  exact if_neg (Bool.eq_false_iff.1 free)

end

/-- Settles O25: a prefetch by what it finds of its page, and each instruction by what it leaves behind it. -/
theorem orderingInstructionsIssue : Obligations.OrderingInstructionsIssue := by
  intro f s v s1 named waits
  refine ⟨execPfch_issue, ?_, execFence_issue, execAfence_issue, execPublish_issue, execLogv_issue⟩
  intro t tm asid x l1 u hit
  refine ⟨prefetch_past, prefetch_miss, prefetch_hit, State.bring_unmapped, ?_⟩
  intro e pa z leaf dropped u1
  exact ⟨State.bring_dropped leaf, fun made => ⟨State.bring_made leaf made, State.bring_made leaf made⟩⟩

end Sys2Proof.Machine
end

section
/-! PROOFS. Translation by the steps of the device: line requests, the walk queues, the ends of walks (R191, R195, R221–R223,
R226, R386); the ends of fences and publications (R203, R210, R354); the fault ring and shootdowns (R224–R229, R257). -/

namespace Sys2Proof.Machine

/-! ## Line requests -/

section
variable {t gi op line : Nat} {s : State} {tm : Team} {g : Group} {o : MemOp} (ht : s.team? t = some tm)
  (hg : s.group? t gi = some g) (ho : g.memOp op = some o) (asks : (s.lineElems tm gi g o line).isEmpty = false)
  (sent : s.sentLater tm gi g o = false)
include ht hg ho asks sent

/-- A line request whose page is cached takes its leaf (R221). -/
theorem execLineRequestTranslation_hit {e : TlbEntry}
    (hit : s.tlbHit (s.translationSlice (dieOf tm.core) o.asid (line * 128)) tm.part o.asid (line * 128) = some e) :
    exec (.lineRequestTranslation t gi op line) s =
      .next (useLeaf t gi o line e.leaf ((bits e.leaf 47 8 <<< 8) + line * 128 % e.size) s) := by
  show execLineRequestTranslation t gi op line s = _
  simp only [execLineRequestTranslation, ht, hg, ho, asks, sent, hit, Bool.or_self, Bool.false_eq_true, if_false]

/-- Another asks for a walk, unless its page has been found not present (R222, R226). -/
theorem execLineRequestTranslation_miss
    (miss : s.tlbHit (s.translationSlice (dieOf tm.core) o.asid (line * 128)) tm.part o.asid (line * 128) = none) :
    exec (.lineRequestTranslation t gi op line) s =
      .next (if tm.fault.any (fun f => f.asid == o.asid && f.va >>> 16 == (line * 128) >>> 16) then s
        else s.askWalk none (dieOf tm.core) tm.part o.asid (line * 128)) := by
  show execLineRequestTranslation t gi op line s = _
  simp only [execLineRequestTranslation, ht, hg, ho, asks, sent, miss, Bool.or_self, Bool.false_eq_true, if_false]

end

/-! ## The walk queues -/

/-- What makes a walk one of a page at a slice (R222). -/
theorem Walk.of_iff (w : Walk) (slice p asid va : Nat) : w.of slice p asid va = true ↔
    w.slice = slice ∧ w.part = p ∧ w.asid = asid ∧ w.va >>> 16 = va >>> 16 := by
  simp only [Walk.of, Bool.and_eq_true, beq_iff_eq, and_assoc]

/-- A walk that an asker has joined (R222). -/
def Walk.joined (k : Option Asker) (w : Walk) : Walk :=
  { w with askers := w.askers ++ k.toList.filter (fun x => !w.askers.contains x) }

/-- A line request is in no list of askers. -/
theorem Walk.joined_none (w : Walk) : w.joined none = w := by
  rw [Walk.joined, Option.toList_none, List.filter_nil, List.append_nil]

/-- An asker joins a walk once. -/
theorem Walk.joined_some (w : Walk) (x : Asker) :
    w.joined (some x) = if w.askers.contains x then w else { w with askers := w.askers ++ [x] } := by
  rw [Walk.joined, Option.toList_some]
  split
  · rename_i there
    rw [List.filter_cons_of_neg (by simpa using there), List.filter_nil, List.append_nil]
  · rename_i absent
    rw [List.filter_cons_of_pos (by simpa using absent), List.filter_nil]

section
variable (s : State) (k : Option Asker) (die p asid va : Nat)

/-- A walk of a page at the slice of its asker is in its queue. -/
def State.walksPage (s : State) (die p asid va : Nat) : Bool := s.walks.any (·.of (s.translationSlice die asid va) p asid va)

/-- A request for a walk is refused by a halt, joins a walk of its page, or starts one where the queue has room (R222, R386; log
entries 32 and 34). -/
theorem State.askWalk_eq : s.askWalk k die p asid va =
    if (s.part p).halted then s
    else if s.walksPage die p asid va then { s with walks := s.walks.map (fun w =>
      if w.of (s.translationSlice die asid va) p asid va then w.joined k else w) }
    else if 66 ≤ (s.walksOf (s.translationSlice die asid va)).length then s
    else { s.fresh.2 with walks := s.walks ++ [⟨s.fresh.1, s.translationSlice die asid va, p, asid, va, k.toList⟩] } := by
  cases k with
  | none =>
    simp only [Walk.joined_none]
    rfl
  | some x =>
    simp only [Walk.joined_some]
    rfl

/-- In the terms of the queue's members. -/
theorem State.walksPage_iff : s.walksPage die p asid va = true ↔
    ∃ w ∈ s.walks, w.slice = s.translationSlice die asid va ∧ w.part = p ∧ w.asid = asid ∧ w.va >>> 16 = va >>> 16 := by
  simp only [State.walksPage, List.any_eq_true, Walk.of_iff]

end

section
variable {s : State} {k : Option Asker} {die p asid va : Nat}

/-- A halted partition starts no walk (R386). -/
theorem State.askWalk_halted (halted : (s.part p).halted = true) : s.askWalk k die p asid va = s := by
  rw [State.askWalk_eq, if_pos halted]

variable (runs : (s.part p).halted = false)
include runs

/-- The walk of the page is joined where it stands (R222). -/
theorem State.askWalk_joins (stands : s.walksPage die p asid va = true) :
    s.askWalk k die p asid va = { s with walks := s.walks.map (fun w =>
      if w.slice = s.translationSlice die asid va ∧ w.part = p ∧ w.asid = asid ∧ w.va >>> 16 = va >>> 16 then w.joined k
      else w) } := by
  rw [State.askWalk_eq, if_neg (Bool.eq_false_iff.1 runs), if_pos stands]
  simp only [Walk.of_iff]

variable (absent : ¬ s.walksPage die p asid va = true)
include absent

/-- A full queue takes no more walks (R222). -/
theorem State.askWalk_full (full : 66 ≤ (s.walksOf (s.translationSlice die asid va)).length) :
    s.askWalk k die p asid va = s := by
  rw [State.askWalk_eq, if_neg (Bool.eq_false_iff.1 runs), if_neg absent, if_pos full]

/-- Another takes the walk at its end (R222). -/
theorem State.askWalk_starts (room : (s.walksOf (s.translationSlice die asid va)).length < 66) :
    s.askWalk k die p asid va = { s.fresh.2 with
      walks := s.walks ++ [⟨s.fresh.1, s.translationSlice die asid va, p, asid, va, k.toList⟩] } := by
  rw [State.askWalk_eq, if_neg (Bool.eq_false_iff.1 runs), if_neg absent, if_neg (Nat.not_le.2 room)]

end

/-! ## The ends of walks -/

section
variable {s : State} {w : Walk} {k : Asker}

/-- A request other than a prefetch goes on with what its walk found (R222). -/
theorem State.answerWalk_request (request : k.kind < 5) :
    s.answerWalk { w with askers := [k] } = { s with answers := s.answers ++ [⟨k, w.asid, w.va >>> 16⟩] } :=
  if_neg (by omega)

/-- A prefetch is made once its walk has ended (R191; log entry 40). -/
theorem State.answerWalk_prefetch {tm : Team} (prefetches : k.kind = 5 ∨ k.kind = 6) (ht : s.team? k.a = some tm) :
    s.answerWalk { w with askers := [k] } = s.bring tm w.asid (k.kind == 5) k.b := by
  refine (if_pos prefetches).trans ?_
  simp only [ht]

end

/-- What enters a cache stands first in it. -/
theorem head?_capped {α : Type} [BEq α] (cap nonce : Nat) (here : α → Bool) (x : α) (xs : List α) :
    (capped cap nonce here x xs).head? = some x := by
  unfold capped
  dsimp only
  split
  · rfl
  · split <;> rfl

/-- A leaf that a walk ends at enters the translation cache of its slice (R221, R222). -/
theorem State.walked_leaf {s : State} {slice p asid va e pa size : Nat} (leaf : s.walkAt slice p asid va = .leaf e pa size) :
    (s.walked slice p asid va).tlb.head? = some ⟨slice, p, asid, va / size * size, size, e⟩ := by
  unfold State.walked
  simp only [leaf]
  exact head?_capped _ _ _ _ _

/-- What a walk finds from a table on does not depend on the queues of walks. -/
theorem State.walkFrom_walks (s : State) (ws : List Walk) (va level table : Nat) (levels : List (Nat × Nat × Nat)) :
    ({ s with walks := ws } : State).walkFrom va level table levels = s.walkFrom va level table levels := by
  induction levels generalizing level table with
  | nil => rfl
  | cons l rest ih =>
    simp only [State.walkFrom, ih]
    rfl

/-- Nor does what a walk of a slice finds. -/
theorem State.walkAt_walks (s : State) (ws : List Walk) (slice p asid va : Nat) :
    ({ s with walks := ws } : State).walkAt slice p asid va = s.walkAt slice p asid va := by
  simp only [State.walkAt, State.walk, State.walkFrom_walks]
  rfl

/-- A walk that has ended is out of its queue, and has given what it read and found to the caches and to its askers (R222). -/
def State.walkMade (s : State) (w : Walk) : State :=
  (({ s with walks := s.walks.filter (fun x => x.id != w.id) } : State).walked w.slice w.part w.asid w.va).answerWalk w

section
variable {s : State} {w : Walk} (stands : s.walks.find? (fun x => x.id == w.id) = some w)
  (first : ((s.walksOf w.slice).take 2).contains w = true)
include stands first

/-- A walk that ends at a leaf (R222). -/
theorem execWalkCompletes_leaf {e pa size : Nat} (leaf : s.walkAt w.slice w.part w.asid w.va = .leaf e pa size) :
    exec (.walkCompletes w.id) s = .next (s.walkMade w) := by
  show execWalkCompletes w.id s = _
  simp only [execWalkCompletes, stands, first, leaf, Bool.not_true, Bool.false_eq_true, if_false]
  rfl

/-- A walk that ends at a page that is not present faults the teams whose line requests wait for it (R226; log entry 33). -/
theorem execWalkCompletes_notPresent {level : Nat} (absent : s.walkAt w.slice w.part w.asid w.va = .notPresent level) :
    exec (.walkCompletes w.id) s = .next ((s.waiters w).foldl (fun (s : State) x =>
      s.pageFault x.team ⟨level, x.op.kind.faultKind, w.asid, x.line * 128, some x.order⟩) (s.walkMade w)) := by
  show execWalkCompletes w.id s = _
  simp only [execWalkCompletes, stands, first, absent, Bool.not_true, Bool.false_eq_true, if_false]
  rfl

/-- A malformed entry is a violation of each line request that waits for the walk (R220, R226). -/
theorem execWalkCompletes_violation (malformed : s.walkAt w.slice w.part w.asid w.va = .violation) :
    exec (.walkCompletes w.id) s = .next ((s.waiters w).foldl (fun (s : State) x =>
      s.accessFault x.team x.group x.op.addr x.op.idx
        (((x.op.elems.find? (fun e => e.va / 128 == x.line)).map (·.lane)).getD 0) (x.line * 128)) (s.walkMade w)) := by
  show execWalkCompletes w.id s = _
  simp only [execWalkCompletes, stands, first, malformed, Bool.not_true, Bool.false_eq_true, if_false]
  rfl

end

/-! ## The ends of fences and publications -/

section
variable {t gi id : Nat} {s : State} {tm : Team} {g : Group} {p : Pending}

/-- A FENCE is complete once every access counted before it is (R181, R203). -/
theorem execFenceComplete_pending (pending : s.pendingOf t gi id 0 = some (tm, g, p)) :
    exec (.fenceComplete t gi id) s = .next (if s.before t gi tm g p then s else if hasBit p.sset 0 ∧ p.scope ≠ 0
      then (s.dropPending t gi id).selfInvalidate tm.core else s.dropPending t gi id) := by
  show execFenceComplete t gi id s = _
  simp only [execFenceComplete, pending]
  split <;> rfl

/-- An AFENCE (kind 1) or a PUBLISH (kind 2) waits for the accesses before it, for the fences that keep it back, for its core, and
a PUBLISH for the release of its run (R203, R210, R341, R354, R386). -/
def Pending.waits (p : Pending) (s : State) (t gi kind : Nat) (tm : Team) (g : Group) : Bool :=
  s.before t gi tm g p || p.lanes.lanes.any (fun l => g.held p.id l (if kind = 1 then 3 else 2)) ||
    s.unitDown tm.part (s.coreUnit tm) || (kind == 2 && s.releasing tm)

/-- The four causes. -/
theorem Pending.waits_iff {kind : Nat} : p.waits s t gi kind tm g = true ↔
    s.before t gi tm g p = true ∨ (∃ l ∈ p.lanes.lanes, g.held p.id l (if kind = 1 then 3 else 2) = true) ∨
      s.unitDown tm.part (s.coreUnit tm) = true ∨ (kind = 2 ∧ s.releasing tm = true) := by
  simp only [Pending.waits, Bool.or_eq_true, Bool.and_eq_true, List.any_eq_true, beq_iff_eq, or_assoc]

/-- A range of an AFENCE or a PUBLISH that meets a violation (R210, R354). -/
def Pending.failing (p : Pending) (s : State) (tm : Team) : Option (Nat × Nat × Nat) :=
  p.ranges.find? (fun r => (s.rangePages (dieOf tm.core) tm.part p.asid r.2.1 r.2.2).isNone)

/-- An AFENCE or a PUBLISH has ended (R210, R354). -/
def State.endPending (s : State) (t gi id : Nat) (p : Pending) : State := (s.dropPending t gi id).spend ⟨4, t, p.id⟩

/-- How an AFENCE or a PUBLISH goes on: it waits, asks for the walks of its pages, ends with a violation, waits for the units that
serve it, or acts and ends (R210, R222, R354, R386). -/
def Pending.goesOn (p : Pending) (t gi id : Nat) (tm : Team) (waits down : Bool) (acted s : State) : Out :=
  if waits then .next s
  else if !s.allKnown ⟨4, t, p.id⟩ (dieOf tm.core) tm.part p.asid p.pages then
    .next (s.askWalks ⟨4, t, p.id⟩ (dieOf tm.core) tm.part p.asid p.pages)
  else match p.failing s tm with
    | some r => .next ((s.accessFault t gi p.addr p.idx (p.lanes.lanes.headD 0) r.2.1).endPending t gi id p)
    | none => if down then .next s else .next (acted.endPending t gi id p)

/-- Units that an AFENCE needs to give up its registrations, or a PUBLISH for its lines, have stopped (R386). -/
def Pending.down (p : Pending) (s : State) (kind : Nat) (tm : Team) : Bool :=
  if kind = 1 then s.rangeDown tm.part ((s.ranged tm p).filter (fun r => s.purges tm.core r.1 r.2))
  else s.rangeDown tm.part (s.ranged tm p)

/-- An AFENCE drops what the L1 of its core holds of its pages; a PUBLISH publishes the lines of its ranges, or tags those that its
run holds (R210, R354, R360). -/
def Pending.acted (p : Pending) (s : State) (kind : Nat) (tm : Team) : State :=
  if kind = 1 then (s.ranged tm p).foldl (fun (s : State) r => s.purgeL1 tm.core r.1 r.2) s
  else s.publishRanges (s.ranged tm p) p.scope tm.core
    (fun pa => p.sset == 1 && s.heldLines.any (fun h => h.ofTeam tm && h.pa == pa && !h.bytes.isEmpty))
    (fun h => h.ofTeam tm)

/-- AFENCE_COMPLETE is the one (R210). -/
theorem execAfenceComplete_pending (pending : s.pendingOf t gi id 1 = some (tm, g, p)) :
    exec (.afenceComplete t gi id) s =
      p.goesOn t gi id tm (p.waits s t gi 1 tm g) (p.down s 1 tm) (p.acted s 1 tm) s := by
  have waits : p.waits s t gi 1 tm g = (s.before t gi tm g p || p.lanes.lanes.any (fun l => g.held p.id l 3) ||
      s.unitDown tm.part (s.coreUnit tm)) := Bool.or_false _
  show execAfenceComplete t gi id s = _
  simp only [execAfenceComplete, pending, waits]
  rfl

/-- PUBLISH_COMPLETE is the other (R354). -/
theorem execPublishComplete_pending (pending : s.pendingOf t gi id 2 = some (tm, g, p)) :
    exec (.publishComplete t gi id) s =
      p.goesOn t gi id tm (p.waits s t gi 2 tm g) (p.down s 2 tm) (p.acted s 2 tm) s := by
  show execPublishComplete t gi id s = _
  simp only [execPublishComplete, pending]
  rfl

section
variable {waits down : Bool} {acted : State}

/-- It waits (R203, R386). -/
theorem Pending.goesOn_waits (waiting : waits = true) : p.goesOn t gi id tm waits down acted s = .next s := by
  rw [Pending.goesOn, if_pos waiting]

variable (free : ¬ waits = true)
include free

/-- It asks for the walks of its pages (R222). -/
theorem Pending.goesOn_asks (unknown : s.allKnown ⟨4, t, p.id⟩ (dieOf tm.core) tm.part p.asid p.pages = false) :
    p.goesOn t gi id tm waits down acted s = .next (s.askWalks ⟨4, t, p.id⟩ (dieOf tm.core) tm.part p.asid p.pages) := by
  rw [Pending.goesOn, if_neg free, unknown]
  rfl

variable (known : s.allKnown ⟨4, t, p.id⟩ (dieOf tm.core) tm.part p.asid p.pages = true)
include known

/-- A page of a range fails (R210, R354). -/
theorem Pending.goesOn_fails {r : Nat × Nat × Nat} (failing : p.failing s tm = some r) : p.goesOn t gi id tm waits down acted s =
    .next ((s.accessFault t gi p.addr p.idx (p.lanes.lanes.headD 0) r.2.1).endPending t gi id p) := by
  rw [Pending.goesOn, if_neg free, known, failing]
  rfl

variable (passes : p.failing s tm = none)
include passes

/-- Otherwise its units decide (R386). -/
theorem Pending.goesOn_passes : p.goesOn t gi id tm waits down acted s =
    if down = true then .next s else .next (acted.endPending t gi id p) := by
  rw [Pending.goesOn, if_neg free, known, passes]
  rfl

end

end

/-! ## The fault ring -/

section
variable {t : Nat} {s : State} {tm : Team} {f : PageFault} {g : Grid}

/-- A team whose page is not present is saved and parked once its requests have settled, and the fault entries that wait are
written (R226, R257). -/
theorem execPageNotPresentSave_settled (ht : s.team? t = some tm) (fault : tm.fault = some f)
    (hg : s.grid? tm.part tm.asid tm.record = some g) (runs : (s.part tm.part).halted = false)
    (rest : s.enginesRest t tm = true) (idle : s.windowBusy t tm = false)
    (settled : ((List.range tm.groups.length).zip tm.groups).all (fun ig => s.settledRequests t tm ig.1 ig.2) = true) :
    let saved := s.writeSave t tm g 3
    let parked := saved.modPart tm.part (fun x =>
      { x with parked := x.parked ++ [⟨tm.slot, tm.asid, s.faultEntry tm f, 0, false⟩] })
    exec (.pageNotPresentSave t) s = .next (if (saved.part tm.part).halted then saved
      else parked.flushFaults tm.part (parked.part tm.part).parked) := by
  intro saved parked
  show execPageNotPresentSave t s = _
  simp only [execPageNotPresentSave, ht, fault, hg, runs, rest, idle, settled, Bool.not_true, Bool.or_self, Bool.false_eq_true,
    if_false]
  split <;> rfl

end

section
variable {part : Nat} {s : State}

/-- Software's advance of READ clears the interrupt and lets waiting entries be written (R227, R402). -/
theorem execFaultRingReadAdvance_moves {read : Word} (moves : (s.part part).faultRead ≠ read.toNat) :
    let moved := s.modPart part (fun x => ({ x with faultRead := read.toNat } : Partition).clear 0)
    exec (.faultRingReadAdvance part read) s = .next (moved.flushFaults part (moved.part part).parked) := by
  intro moved
  show execFaultRingReadAdvance part read s = _
  rw [execFaultRingReadAdvance, if_neg moves]

/-- A parked record whose entry has been written is armed and enters its queue (R228, R257; log entry 117). -/
theorem execFaultResume_resumes {record : Dword} {k : Parked} (runs : (s.part part).halted = false)
    (stands : (s.part part).parked.find? (fun k => k.slot == record.toNat && k.written) = some k) :
    let level := ((s.saved.find? (fun t => t.part == part && t.slot == k.slot && t.asid == k.asid)).bind
      (fun t => s.grid? part t.asid t.record)).map (·.prio)
    let taken := s.modPart part (fun x => { x with parked := x.parked.filter (· != k) })
    let read := taken.devRead part 4 k.asid k.slot k.slot 32
    let written := read.2.devPut part 4 k.asid k.slot k.slot 32
      { Record.parse (ofLeBytes read.1) with p := false, q := true }.value
    let woken : State := { written with saved := written.saved.map (fun (t : SavedTeam) =>
      if t.part = part ∧ t.slot = k.slot ∧ t.asid = k.asid then { t with pend := false } else t) }
    exec (.faultResume part record) s = .next (if (woken.part part).halted then woken
      else woken.runRec (.enqueue part (level.getD 0) k.slot k.asid false)) := by
  intro level taken read written woken
  show execFaultResume part record s = _
  simp only [execFaultResume, stands, runs, Bool.false_eq_true, if_false]
  rfl

end

/-! ## Shootdowns -/

section
variable {part : Nat} {ctrl : Dword} {s : State}

/-- The identifier and the pages that a shootdown names (R224). -/
def Partition.shootNames (x : Partition) (ctrl : Dword) : Nat × Nat × Nat :=
  let first := bits x.shootVa.toNat 51 16
  (bits ctrl.toNat 15 0, if hasBit ctrl.toNat 16 then (0, 2 ^ 36) else (first, first + bits ctrl.toNat 63 32 + 1))

/-- The machine without the translations and the walk pointers of a partition's shootdown (R225). -/
def State.shot (s : State) (part : Nat) (x : Partition) : State :=
  { s with
    tlb := s.tlb.filter (fun e => !(e.part == part && x.shootsPage e.asid e.va e.size))
    walkCache := s.walkCache.filter (fun w => !(w.part == part && x.shootsPtr w)) }

/-- No translation of the range is left. -/
theorem State.shot_tlb (s : State) (x : Partition) :
    ∀ e ∈ (s.shot part x).tlb, e.part = part → x.shootsPage e.asid e.va e.size = false := by
  rintro e he rfl
  simpa using (List.mem_filter.1 he).2

/-- No walk pointer of the range is left. -/
theorem State.shot_walkCache (s : State) (x : Partition) :
    ∀ w ∈ (s.shot part x).walkCache, w.part = part → x.shootsPtr w = false := by
  rintro w hw rfl
  simpa using (List.mem_filter.1 hw).2

/-- A write of CR_SHOOT_CTRL without GO is taken (R224). -/
theorem execShootdownStart_write (idle : hasBit ctrl.toNat 31 = false) :
    exec (.shootdownStart part ctrl) s = .next (s.modPart part (fun x =>
      { x with shootCtrl := BitVec.ofNat 64 (bits ctrl.toNat 63 32 <<< 32 ||| bits ctrl.toNat 16 0) })) := by
  show execShootdownStart part ctrl s = _
  simp only [execShootdownStart, idle, Bool.and_false, Bool.not_false, Bool.false_eq_true, if_false, if_true]

/-- One with GO starts a shootdown, where none is in progress (R224, R225). -/
theorem execShootdownStart_go (free : (s.part part).shootBusy = false) (go : hasBit ctrl.toNat 31 = true) :
    ∃ u : State, exec (.shootdownStart part ctrl) s =
      .next (u.shot part { s.part part with shootRange := (s.part part).shootNames ctrl }) := by
  show ∃ u : State, execShootdownStart part ctrl s = _
  simp only [execShootdownStart, free, go, Bool.false_and, Bool.not_true, Bool.false_eq_true, if_false]
  exact ⟨_, rfl⟩

/-- A shootdown stays busy while a request that used a removed entry is outstanding, and then ends (R225). -/
theorem execShootdownComplete_eq : exec (.shootdownComplete part) s =
    .next (if (s.part part).shootBusy = true ∧ (s.part part).shootWaits.any s.shotOpen = false
      then s.modPart part (fun x => { x with shootBusy := false, shootWaits := [] }) else s) := by
  show execShootdownComplete part s = _
  simp only [execShootdownComplete, Bool.and_eq_true, Bool.not_eq_true']

end

/-! ## The statement -/

/-- Settles O43: line requests and walks by what they find, AFENCE and PUBLISH as one way to go on, and the fault ring and the
shootdowns by what stands in the partition. -/
theorem translationAndFaultEvents : Obligations.TranslationAndFaultEvents := by
  refine ⟨⟨?_, ?_, ?_, ?_, fun _ _ _ _ _ _ _ => execFenceComplete_pending, ?_⟩,
    fun _ _ _ _ _ => execPageNotPresentSave_settled, fun _ _ _ => execFaultRingReadAdvance_moves,
    fun _ _ _ _ => execFaultResume_resumes, fun _ _ _ => execShootdownStart_write, ?_, ?_, ?_⟩
  · intro t gi op line s tm g o ht hg ho asks sent
    exact ⟨fun _ => execLineRequestTranslation_hit ht hg ho asks sent, execLineRequestTranslation_miss ht hg ho asks sent⟩
  · intro s k die p asid va slice here asked joined
    have absent (away : ∀ w ∈ s.walks, ¬ here w) : ¬ s.walksPage die p asid va = true := by
      rw [State.walksPage_iff]
      rintro ⟨w, hw, same⟩
      exact away w hw same
    exact ⟨State.askWalk_halted, fun runs stands => State.askWalk_joins runs ((s.walksPage_iff die p asid va).2 stands),
      fun runs away => State.askWalk_full runs (absent away), fun runs away => State.askWalk_starts runs (absent away)⟩
  · intro s w k answered
    exact ⟨rfl, State.answerWalk_request, fun _ => State.answerWalk_prefetch⟩
  · intro s w stands first found gone walked made
    have same : gone.walkAt w.slice w.part w.asid w.va = found := s.walkAt_walks _ _ _ _ _
    exact ⟨fun e pa size leaf => ⟨execWalkCompletes_leaf stands first leaf, State.walked_leaf (same.trans leaf)⟩,
      fun level => execWalkCompletes_notPresent stands first, execWalkCompletes_violation stands first⟩
  · intro t gi id s tm g p kind which pending i die asker waits known fails places ends
    have waits_iff : p.waits s t gi kind tm g = true ↔ waits := Pending.waits_iff
    have goes : exec i s = p.goesOn t gi id tm (p.waits s t gi kind tm g) (p.down s kind tm) (p.acted s kind tm) s := by
      rcases which with rfl | rfl
      · exact execAfenceComplete_pending pending
      · exact execPublishComplete_pending pending
    refine ⟨fun waiting => goes.trans (Pending.goesOn_waits (waits_iff.2 waiting)),
      fun free unknown => goes.trans (Pending.goesOn_asks (mt waits_iff.1 free) unknown),
      fun free isKnown r failing => goes.trans (Pending.goesOn_fails (mt waits_iff.1 free) isKnown failing),
      fun free isKnown passes => ?_⟩
    have acts := goes.trans (Pending.goesOn_passes (mt waits_iff.1 free) isKnown passes)
    have stays := fun down => acts.trans (if_pos down)
    have ended := fun serves => acts.trans (if_neg (Bool.eq_false_iff.1 serves))
    refine ⟨?_, ?_⟩
    · rintro rfl
      exact ⟨stays, ended⟩
    · rintro rfl
      exact ⟨stays, ended⟩
  · intro part ctrl s free go first range x
    obtain ⟨u, started⟩ := execShootdownStart_go free go
    exact ⟨_, started, u.shot_tlb x, u.shot_walkCache x⟩
  · intro part s busy done
    exact execShootdownComplete_eq.trans (congrArg Host.Outcome.next (if_pos ⟨busy, done⟩))
  · intro part s outstanding
    have busy : ¬ ((s.part part).shootBusy = true ∧ (s.part part).shootWaits.any s.shotOpen = false) := by
      rw [outstanding]
      simp
    exact execShootdownComplete_eq.trans (congrArg Host.Outcome.next (if_neg busy))

end Sys2Proof.Machine
end

section
/-! PROOFS. The instructions that wait for an engine's stream and read it: SEQW and SEQR (R196, R208, R311, R312). -/

namespace Sys2Proof.Machine

section
variable {f : Fields} {s : State} {v : View}

/-- SEQW blocks on a fence of engine accesses and on a sequence number that an executing thread has not seen reached; else it
passes, and with the collective stream observes what has completed (R196, R208, R311). -/
theorem execSeqw_issue (h : s.issue? sources (.seqw f) = some v) :
    exec (.seqw f) s =
      if v.g.fenced v.lanes 4 || v.lanes.lanes.any (fun l => (v.g.stream f.minor.toNat).done < v.a l) then stall (v.start s)
      else .next (v.plainly (if f.minor.toNat = 1 ∧ v.lanes ≠ 0 then (v.start s).observe v.t v.gi else v.start s)) := by
  show execSeqw f s = _
  rw [execSeqw, frame, frameWith_issue _ h, ← plain_done]

/-- The word of a stream that SEQR reads: its error word or its sequence number (R312). -/
def Stream.seqWord (x : Stream) (error : Bool) : Nat := if error then x.err else x.done

/-- SEQR blocks on a fence of engine accesses and where the log is not free; else each executing thread's word goes through the
log, and the error word is cleared if that is asked (R196, R312, R330). -/
theorem execSeqr_issue (h : s.issue? sources (.seqr f) = some v) :
    let e := f.minor.toNat % 4
    let logged := lanesThroughLog v 4 1 v.lanes (fun _ => (v.g.stream e).seqWord (f.minor.getLsbD 2)) (v.start s)
    exec (.seqr f) s =
      if v.g.fenced v.lanes 4 || logWaits v.team v.g then stall (v.start s)
      else finish 1 2 (fun l => { regs := writesOf f.d.toNat (Map.get logged.1 l 0) 2 }) v
        (if f.minor.getLsbD 3 ∧ v.lanes ≠ 0
          then logged.2.modGroup v.t v.gi (fun g => g.modStream e (fun x => { x with err := 0 })) else logged.2) := by
  show execSeqr f s = _
  rw [execSeqr, frame, frameWith_issue _ h]
  rfl

end

/-- Settles O36: each of the two by what keeps it back and by what it does once nothing does. -/
theorem sequenceInstructionsExecute : Obligations.SequenceInstructionsExecute := by
  intro f s v
  refine ⟨fun h free reached => ?_, fun l h hl behind => ?_, ?_, fun fenced => ⟨fun h => ?_, fun h => ?_⟩⟩
  · rw [execSeqw_issue h, if_neg]
    simpa [free] using reached
  · have some_behind : v.lanes.lanes.any (fun l => (v.g.stream f.minor.toNat).done < v.a l) = true :=
      List.any_eq_true.2 ⟨l, hl, decide_eq_true behind⟩
    rw [execSeqw_issue h, some_behind, Bool.or_true, if_pos rfl]
  · intro h free ready e logged out cleared clean
    rw [execSeqr_issue h, free, ready, Bool.or_false, if_neg Bool.false_ne_true]
    exact finish_clean clean
  · rw [execSeqw_issue h, fenced, Bool.true_or, if_pos rfl]
  · rw [execSeqr_issue h, fenced, Bool.true_or, if_pos rfl]

end Sys2Proof.Machine
end

section
/-! PROOFS. Engine commands by the steps of the device: acceptance, what a command may do at its unit, and completion (R203,
R291–R294, R315, R326, R341, R386, R390, R395). -/

namespace Sys2Proof.Machine

section
variable {id : Nat} {s : State} {c : Command}

/-! ## Acceptance -/

/-- A command that may be accepted, in its turn, stands last in its queue; another waits (R293, R294). -/
theorem execCommandAccept_command (command : s.command? id = some c) : exec (.commandAccept id) s = .next (
    let turned := s.rotateQueue c
    if s.acceptable c && s.acceptTurn c
      then { turned with commands := turned.commands.filter (fun x => x.id != id) ++ [{ c with state := 1 }] } else s) := by
  show execCommandAccept id s = _
  simp only [execCommandAccept, command]
  cases s.acceptable c <;> cases s.acceptTurn c <;> rfl

/-! ## What a command may do at its unit -/

/-- Its unit or its clock stands, or its run releases what it held (R341, R386, R395). -/
def State.stands (s : State) (c : Command) : Bool :=
  s.unitDown c.part (s.engineUnit c) || s.clockStopped c.core || ((s.team? c.team).map s.releasing).getD false

/-- The three causes. -/
theorem State.stands_iff : s.stands c = true ↔ s.unitDown c.part (s.engineUnit c) = true ∨ s.clockStopped c.core = true ∨
    ∃ tm, s.team? c.team = some tm ∧ s.releasing tm = true := by
  cases team : s.team? c.team <;> simp [State.stands, team, or_assoc]

/-- Its team has gone, or is being saved while it is in the copy engine (R315, R317). -/
def State.leaves (s : State) (c : Command) : Bool :=
  match s.team? c.team with
  | none => true
  | some tm => c.engine == 0 && (tm.fault.isSome || tm.save != 0)

/-- The two causes. -/
theorem State.leaves_iff : s.leaves c = true ↔
    ∀ tm, s.team? c.team = some tm → c.engine = 0 ∧ (tm.fault ≠ none ∨ tm.save ≠ 0) := by
  cases team : s.team? c.team <;> simp [State.leaves, team, Option.isSome_iff_ne_none]

/-- A command of all ranks or of a partner device. -/
def Command.collective (c : Command) : Bool := c.major == 0xD4 || c.major == 0xD7

/-- The majors are COLL's and MIRR's. -/
theorem Command.collective_iff : c.collective = true ↔ c.major = 0xD4 ∨ c.major = 0xD7 := by
  simp [Command.collective]

/-- Its run replays, so that it performs nothing at other ranks (R326). -/
def State.replaying (s : State) (c : Command) : Bool :=
  (s.commandMode c).getD .unchecked == .trail || (s.commandMode c).getD .unchecked == .third

/-- The two modes. -/
theorem State.replaying_iff : s.replaying c = true ↔ s.commandMode c = some .trail ∨ s.commandMode c = some .third := by
  cases mode : s.commandMode c <;> simp [State.replaying, mode]

/-- It has been suspended, or is accepted, not held, and its order lets it start (R292, R306, R315). -/
def State.startable (s : State) (c : Command) : Prop :=
  c.state = 3 ∨ (c.state = 1 ∧ c.held = false ∧ s.mayStart c = true)

/-- The negation as the model tests it. -/
theorem State.not_startable : ¬ s.startable c ↔ (c.state ≠ 3 && (c.state ≠ 1 || c.held || !s.mayStart c)) = true := by
  simp only [State.startable, Bool.and_eq_true, Bool.or_eq_true, decide_eq_true_eq, Bool.not_eq_true', not_or, not_and,
    Bool.not_eq_true, ne_eq, or_assoc]
  grind

/-- It asks for its reservation (R390). -/
def State.asks (s : State) (c : Command) : State :=
  s.ask (clusterOf c.core) c.requester 2 (s.commandLevel c) c.team c.id

/-- It starts, once a MIRR's pages are known (R222, R297). -/
def State.begins (s : State) (c : Command) : State :=
  match s.mirrWaits c with
  | some pages => s.askWalks ⟨3, c.id, 0⟩ (dieOf c.core) c.part c.asid pages
  | none => (s.serve c.part (s.engineUnit c) { UnitFault.none with
      record := ((s.team? c.team).map (·.record)).getD 0, asid := c.asid, addr := c.ticket }).startWork c

/-- A MIRR waits for its pages (R222). -/
theorem State.begins_waits {pages : List Nat} (waits : s.mirrWaits c = some pages) :
    s.begins c = s.askWalks ⟨3, c.id, 0⟩ (dieOf c.core) c.part c.asid pages := by
  rw [State.begins, waits]

/-- Another starts (R297). -/
theorem State.begins_starts (known : s.mirrWaits c = none) : s.begins c = (s.serve c.part (s.engineUnit c) { UnitFault.none with
    record := ((s.team? c.team).map (·.record)).getD 0, asid := c.asid, addr := c.ticket }).startWork c := by
  rw [State.begins, known]

/-- A command does what its unit lets it do (R292). -/
theorem execCommandStart_command (command : s.command? id = some c) : exec (.commandStart id) s = .next (
    if s.stands c then s
    else if c.state = 2 then
      (if c.engine = 0 ∧ s.granted c then s.movePieces c.team c c.todo else if s.granted c then s else s.asks c)
    else if (s.leaves c && !c.collective) || (c.state ≠ 3 && (c.state ≠ 1 || c.held || !s.mayStart c)) then s
    else if c.collective && s.replaying c then s.modCommand c.id (fun c => { c with state := 4 })
    else if !s.granted c then s.asks c
    else if c.state = 3 then s.movePieces c.team c c.todo
    else s.begins c) := by
  show execCommandStart id s = _
  simp only [execCommandStart, command]
  rfl

section
variable (command : s.command? id = some c)
include command

/-- While something stands, nothing starts (R341, R386, R395). -/
theorem execCommandStart_stands (stands : s.stands c = true) : exec (.commandStart id) s = .next s := by
  rw [execCommandStart_command command, if_pos stands]

variable (free : ¬ s.stands c = true)
include free

/-- A running command asks for its reservation again, or goes on with its rows (R292, R390). -/
theorem execCommandStart_running (running : c.state = 2) : exec (.commandStart id) s = .next (
    if s.granted c then (if c.engine = 0 then s.movePieces c.team c c.todo else s) else s.asks c) := by
  rw [execCommandStart_command command, if_neg free, if_pos running]
  cases s.granted c <;> simp

variable (idle : c.state ≠ 2)
include idle

/-- One that leaves or is not ready waits (R292, R315). -/
theorem execCommandStart_waits (waits : (s.leaves c = true ∧ ¬ c.collective = true) ∨ ¬ s.startable c) :
    exec (.commandStart id) s = .next s := by
  rw [execCommandStart_command command, if_neg free, if_neg idle, if_pos]
  rw [State.not_startable] at waits
  simpa only [Bool.or_eq_true, Bool.and_eq_true (s.leaves c), Bool.not_eq_true', Bool.not_eq_true] using waits

variable (here : ¬ (s.leaves c = true ∧ ¬ c.collective = true)) (ready : s.startable c)
include here ready

/-- One that is ready does the first of these that it can (R297, R326, R390). -/
theorem execCommandStart_ready : exec (.commandStart id) s = .next (
    if c.collective && s.replaying c then s.modCommand c.id (fun c => { c with state := 4 })
    else if !s.granted c then s.asks c
    else if c.state = 3 then s.movePieces c.team c c.todo
    else s.begins c) := by
  rw [execCommandStart_command command, if_neg free, if_neg idle, if_neg]
  have may_go := mt State.not_startable.2 (not_not.2 ready)
  simpa only [Bool.or_eq_true, Bool.and_eq_true (s.leaves c), Bool.not_eq_true', ← Bool.not_eq_true, not_or] using
    And.intro here may_go

/-- A replaying run's collective is done with nothing performed (R326). -/
theorem execCommandStart_replays (replays : (c.collective && s.replaying c) = true) :
    exec (.commandStart id) s = .next (s.modCommand c.id (fun c => { c with state := 4 })) := by
  rw [execCommandStart_ready command free idle here ready, if_pos replays]

variable (performs : ¬ (c.collective && s.replaying c) = true)
include performs

/-- Another asks for its reservation (R390). -/
theorem execCommandStart_asks (without : s.granted c = false) : exec (.commandStart id) s = .next (s.asks c) := by
  rw [execCommandStart_ready command free idle here ready, if_neg performs, without]
  rfl

variable (granted : s.granted c = true)
include granted

/-- With it, a suspended command goes on with its rows (R315). -/
theorem execCommandStart_resumes (suspended : c.state = 3) :
    exec (.commandStart id) s = .next (s.movePieces c.team c c.todo) := by
  rw [execCommandStart_ready command free idle here ready, if_neg performs, granted, if_pos suspended]
  rfl

/-- An accepted one starts (R292, R297). -/
theorem execCommandStart_begins (accepted : c.state = 1) : exec (.commandStart id) s = .next (s.begins c) := by
  rw [execCommandStart_ready command free idle here ready, if_neg performs, granted,
    if_neg (show c.state ≠ 3 by rw [accepted]; decide)]
  rfl

end

/-! ## Completion -/

/-- A command that has finished completes once the lower tickets of its stream have: its stream notes it, and its run's engine
sum takes its signature (R291, R297, R337). -/
theorem execCommandCompletion_completes {tm : Team} (command : s.command? id = some c) (finished : c.state = 4)
    (first : s.commands.any (fun x => x.team == c.team && x.group == c.group && x.engine == c.engine &&
      decide (x.ticket < c.ticket)) = false) :
    let gone := (({ s with commands := s.commands.filter (fun x => x.id != id) } : State).spend ⟨3, id, 0⟩).mirrDone c
    gone.team? c.team = some tm → exec (.commandCompletion id) s = .next (gone.modTeam c.team (fun x =>
      { x.modGroup c.group (fun g => g.modStream c.engine (·.complete c)) with
        engineSum := if tm.mode = .unchecked then 0 else (x.engineSum + c.signature) % 2 ^ 64 })) := by
  intro gone team
  show execCommandCompletion id s = _
  simp only [execCommandCompletion, command, finished, first, ne_eq, not_true_eq_false, Bool.false_eq_true, or_self, if_false]
  rw [show gone.team? c.team = some tm from team]

end

end Sys2Proof.Machine
end

section
/-! PROOFS. The rows of a copy and the pieces that a row is cut into (R297, R299–R301, R304). -/

namespace Sys2Proof.Machine

/-! ## Rows within their allotments -/

/-- A row leaves an address space at one of its sides (R297). -/
def Piece.far (dk sk : Nat) (r : Piece) : Prop :=
  let top := fun (kind : Nat) => if kind = 0 then 2 ^ 52 else 2 ^ 32
  top dk ≤ r.dst ∨ (dk = 0 ∧ 2 ^ 52 < r.dst + r.len) ∨ (sk < 4 ∧ (top sk ≤ r.src ∨ (sk = 0 ∧ 2 ^ 52 < r.src + r.len)))

/-- The error code of a row, its destination's first; 0 for none (R297). -/
def State.rowCode (s : State) (t : Nat) (tm : Team) (dk sk : Nat) (r : Piece) : Nat :=
  let target := extentCode (s.extent t tm dk r.dst r.len)
  if target ≠ 0 then target else if sk < 4 then extentCode (s.extent t tm sk r.src r.len) else 0

section
variable {s : State} {t : Nat} {tm : Team} {dk sk : Nat} {rows : List Piece}

/-- The model's test of a row. -/
theorem Piece.far_iff (r : Piece) : r.far dk sk ↔
    (let top := fun (kind : Nat) => if kind = 0 then 2 ^ 52 else 2 ^ 32
     top dk ≤ r.dst || (dk == 0 && 2 ^ 52 < r.dst + r.len) ||
      (sk < 4 && (top sk ≤ r.src || (sk == 0 && 2 ^ 52 < r.src + r.len)))) = true := by
  simp only [Piece.far, Bool.or_eq_true, Bool.and_eq_true, decide_eq_true_eq, beq_iff_eq, or_assoc]

/-- A row that leaves an address space is refused before the others' allotments are looked at (R297). -/
theorem State.checkRows_far (far : ∃ r ∈ rows, r.far dk sk) : s.checkRows t tm dk sk rows = .error 2 := by
  unfold State.checkRows
  refine if_pos ?_
  obtain ⟨r, hr, leaves⟩ := far
  exact List.any_eq_true.2 ⟨r, hr, (Piece.far_iff r).1 leaves⟩

/-- The first element whose value is not 0 has the first such value. -/
theorem findSome?_nonzero {α : Type} (f : α → Nat) (xs : List α) :
    xs.findSome? (fun x => if f x ≠ 0 then some (f x) else none) = (xs.map f).find? (· != 0) := by
  induction xs with
  | nil => rfl
  | cons x xs ih =>
    rw [List.findSome?_cons, List.map_cons, List.find?_cons, ih]
    by_cases zero : f x = 0
    · simp [zero]
    · simp [bne_iff_ne.2 zero, zero]

/-- Otherwise the first row that fails decides (R297). -/
theorem State.checkRows_near (near : ∀ r ∈ rows, ¬ r.far dk sk) : s.checkRows t tm dk sk rows =
    match (rows.map (s.rowCode t tm dk sk)).find? (· != 0) with
    | some e => .error e
    | none => .ok rows := by
  have code (r : Piece) : (let x := extentCode (s.extent t tm dk r.dst r.len)
      let y := if sk < 4 then extentCode (s.extent t tm sk r.src r.len) else 0
      if x ≠ 0 then some x else if y ≠ 0 then some y else none) =
      if s.rowCode t tm dk sk r ≠ 0 then some (s.rowCode t tm dk sk r) else none := by
    unfold State.rowCode
    dsimp only
    split <;> simp_all
  rw [← findSome?_nonzero, ← funext code]
  unfold State.checkRows
  refine if_neg ?_
  intro far
  obtain ⟨r, hr, leaves⟩ := List.any_eq_true.1 far
  exact near r hr ((Piece.far_iff r).2 leaves)

end

/-! ## The rows of each form -/

/-- The kinds of a command's destination and source (R293, R299). -/
def Command.kinds (c : Command) : Nat × Nat := (c.minor % 4, if c.major = 0xD8 then 4 else c.minor / 4 % 4)

/-- A word of a descriptor. -/
def wordAt (w : List Nat) (k : Nat) : Nat := w.getD k 0

/-- A descriptor of a copy of rows that R301 refuses. -/
def Command.badTable (c : Command) (w : List Nat) : Bool :=
  wordAt w 0 < 4 || 2 ^ 20 < wordAt w 0 || wordAt w 0 % 4 != 0 ||
    (if c.major == 0xD1 then [3] else [3, 5, 7]).any (fun k => wordAt w k != 0) ||
    [4, 5, 6, 7].any (fun k => wordAt w k % 4 != 0)

/-- What is refused of its words. -/
theorem Command.badTable_iff (c : Command) (w : List Nat) : c.badTable w = true ↔
    wordAt w 0 < 4 ∨ 2 ^ 20 < wordAt w 0 ∨ wordAt w 0 % 4 ≠ 0 ∨ wordAt w 3 ≠ 0 ∨
      (c.major ≠ 0xD1 ∧ (wordAt w 5 ≠ 0 ∨ wordAt w 7 ≠ 0)) ∨
      wordAt w 4 % 4 ≠ 0 ∨ wordAt w 5 % 4 ≠ 0 ∨ wordAt w 6 % 4 ≠ 0 ∨ wordAt w 7 % 4 ≠ 0 := by
  unfold Command.badTable
  by_cases planes : c.major = 0xD1
  · simp [planes, or_assoc]
  · simp [planes, or_assoc]

/-- The rows of a CPYT: n in each of its planes (R300). -/
def Command.planeRows (c : Command) (w : List Nat) (n : Nat) : List Piece :=
  (List.range (wordAt w 2)).flatMap (fun z => (List.range n).map (fun y =>
    ⟨c.kinds.1, c.a + z * wordAt w 7 + y * wordAt w 6, c.kinds.2, c.b + z * wordAt w 5 + y * wordAt w 4, wordAt w 0⟩))

/-- An index of a GTHR or an SCTR (R300). -/
def Team.rowIndex (tm : Team) (w : List Nat) (j : Nat) : Nat :=
  ofLeBytes (padBytes tm.padNonce tm.pad (wordAt w 2 + 4 * j) 4)

/-- A row of a GTHR or an SCTR (R300). -/
def Command.listedRow (c : Command) (tm : Team) (w : List Nat) (j : Nat) : Piece :=
  if c.major = 0xD2 then
    ⟨c.kinds.1, c.a + j * wordAt w 6, c.kinds.2, c.b + tm.rowIndex w j * wordAt w 4, wordAt w 0⟩
  else ⟨c.kinds.1, c.a + tm.rowIndex w j * wordAt w 6, c.kinds.2, c.b + j * wordAt w 4, wordAt w 0⟩

/-- The rows whose index is not the one that stands for none (R300). -/
def Command.listedRows (c : Command) (tm : Team) (w : List Nat) (n : Nat) : List Piece :=
  ((List.range n).filter (fun j => tm.rowIndex w j != 0xFFFFFFFF)).map (c.listedRow tm w)

/-- The same in the model's form. -/
theorem Command.listedRows_eq (c : Command) (tm : Team) (w : List Nat) (n : Nat) : c.listedRows tm w n =
    (List.range n).filterMap (fun j =>
      if tm.rowIndex w j = 0xFFFFFFFF then none
      else if c.major = 0xD2 then
        some ⟨c.kinds.1, c.a + j * wordAt w 6, c.kinds.2, c.b + tm.rowIndex w j * wordAt w 4, wordAt w 0⟩
      else some ⟨c.kinds.1, c.a + tm.rowIndex w j * wordAt w 6, c.kinds.2, c.b + j * wordAt w 4, wordAt w 0⟩) := by
  rw [Command.listedRows, ← List.filterMap_eq_map, ← List.filterMap_eq_filter, List.filterMap_filterMap]
  congr 1
  funext j
  by_cases absent : tm.rowIndex w j = 0xFFFFFFFF
  · simp [absent]
  · simp [absent, Command.listedRow, apply_ite some]

section
variable {s : State} {t : Nat} {tm : Team} {c : Command}

/-- A command that is patched to nothing moves nothing (R304). -/
theorem State.copyRows_released (nothing : c.patch = some 0) : s.copyRows t tm c = .ok [] := by
  rw [State.copyRows]
  exact if_pos nothing

/-- Rows of one length are refused with their count, or checked where they have a byte (R297, R304). -/
theorem patchedRows {rows : Except Nat (List Piece)} {n : Nat} {f : Nat → Except Nat (List Piece)}
    (planned : rows = (c.patched n).bind (fun m => if m = 0 then .ok [] else f m)) :
    match c.patched n with
    | .error e => rows = .error e
    | .ok m => rows = if m = 0 then .ok [] else f m := by
  subst planned
  cases c.patched n <;> rfl

variable (patched : c.patch ≠ some 0)
include patched

/-- The rows of a CPY (R299). -/
theorem State.copyRows_cpy (major : c.major = 0xD0) : s.copyRows t tm c = (c.patched c.c).bind (fun n =>
    if n = 0 then .ok [] else s.checkRows t tm c.kinds.1 c.kinds.2 [⟨c.kinds.1, c.a, c.kinds.2, c.b, n⟩]) := by
  rw [State.copyRows]
  simp only [Command.kinds, major]
  refine (if_neg patched).trans ?_
  rfl

/-- The rows of a FILLZ (R299). -/
theorem State.copyRows_fillz (major : c.major = 0xD8) : s.copyRows t tm c = (c.patched c.b).bind (fun n =>
    if n = 0 then .ok [] else s.checkRows t tm c.kinds.1 c.kinds.2 [⟨c.kinds.1, c.a, c.kinds.2, 0, n⟩]) := by
  rw [State.copyRows]
  simp only [Command.kinds, major]
  refine (if_neg patched).trans ?_
  rfl

/-- The rows of the other three (R300, R301). -/
theorem State.copyRows_table (major : c.major = 0xD1 ∨ c.major = 0xD2 ∨ c.major = 0xD3) : s.copyRows t tm c =
    (descriptor tm c.c).bind (fun w => (c.patched (w.getD 1 0)).bind (fun n =>
      if c.badTable w then .error 2
      else if c.major == 0xD1 then s.checkRows t tm c.kinds.1 c.kinds.2 (c.planeRows w n)
      else if wordAt w 2 % 4 ≠ 0 then .error 2
      else if !tm.ownsPad (wordAt w 2) (4 * n) then .error 1
      else s.checkRows t tm c.kinds.1 c.kinds.2 (c.listedRows tm w n))) := by
  rw [State.copyRows]
  refine (if_neg patched).trans ?_
  split
  · omega
  · omega
  · show Except.bind _ _ = _
    congr 1
    funext w
    show Except.bind _ _ = _
    congr 1
    funext n
    rw [Command.listedRows_eq]
    rfl

variable (major : c.major = 0xD1 ∨ c.major = 0xD2 ∨ c.major = 0xD3)
include major

/-- Without a descriptor they are refused (R297, R301). -/
theorem State.copyRows_noTable {e : Nat} (table : descriptor tm c.c = .error e) : s.copyRows t tm c = .error e := by
  rw [State.copyRows_table patched major, table]
  rfl

variable {w : List Nat} (table : descriptor tm c.c = .ok w)
include table

/-- A patched count that is too large is refused (R304). -/
theorem State.copyRows_noCount {e : Nat} (count : c.patched (w.getD 1 0) = .error e) : s.copyRows t tm c = .error e := by
  rw [State.copyRows_table patched major, table, Except.bind, count]
  rfl

variable {n : Nat} (count : c.patched (w.getD 1 0) = .ok n)
include count

/-- The rest is decided by the descriptor's words (R300, R301). -/
theorem State.copyRows_counted : s.copyRows t tm c =
    if c.badTable w then .error 2
    else if c.major == 0xD1 then s.checkRows t tm c.kinds.1 c.kinds.2 (c.planeRows w n)
    else if wordAt w 2 % 4 ≠ 0 then .error 2
    else if !tm.ownsPad (wordAt w 2) (4 * n) then .error 1
    else s.checkRows t tm c.kinds.1 c.kinds.2 (c.listedRows tm w n) := by
  rw [State.copyRows_table patched major, table, Except.bind, count]
  rfl

/-- A bad descriptor is refused (R301). -/
theorem State.copyRows_badTable (bad : c.badTable w = true) : s.copyRows t tm c = .error 2 := by
  rw [State.copyRows_counted patched major table count, if_pos bad]

variable (fine : ¬ c.badTable w = true)
include fine

/-- A CPYT moves the rows of its planes (R300). -/
theorem State.copyRows_planes (planes : c.major = 0xD1) :
    s.copyRows t tm c = s.checkRows t tm c.kinds.1 c.kinds.2 (c.planeRows w n) := by
  rw [State.copyRows_counted patched major table count, if_neg fine, if_pos (beq_iff_eq.2 planes)]

variable (listing : c.major ≠ 0xD1)
include listing

/-- A misaligned list of indices is refused (R301). -/
theorem State.copyRows_oddList (odd : wordAt w 2 % 4 ≠ 0) : s.copyRows t tm c = .error 2 := by
  rw [State.copyRows_counted patched major table count, if_neg fine, if_neg (mt beq_iff_eq.1 listing), if_pos odd]

variable (even : wordAt w 2 % 4 = 0)
include even

/-- A list outside the scratchpad is refused (R296, R301). -/
theorem State.copyRows_outside (outside : tm.ownsPad (wordAt w 2) (4 * n) = false) : s.copyRows t tm c = .error 1 := by
  rw [State.copyRows_counted patched major table count, if_neg fine, if_neg (mt beq_iff_eq.1 listing), if_neg (not_not.2 even),
    outside]
  rfl

/-- A GTHR or an SCTR moves the rows of its list (R300). -/
theorem State.copyRows_listed (inside : tm.ownsPad (wordAt w 2) (4 * n) = true) :
    s.copyRows t tm c = s.checkRows t tm c.kinds.1 c.kinds.2 (c.listedRows tm w n) := by
  rw [State.copyRows_counted patched major table count, if_neg fine, if_neg (mt beq_iff_eq.1 listing), if_neg (not_not.2 even),
    inside]
  rfl

end

/-! ## The pieces of a row -/

/-- How long the first piece of a row is: as far as the next line at either side (R292). -/
def Piece.cutLen (r : Piece) : Nat :=
  min r.len (min (128 - r.dst % 128) (if r.sk = 4 then 128 else 128 - r.src % 128))

/-- What is left of a row after its first n bytes. -/
def Piece.after (r : Piece) (n : Nat) : Piece := { r with dst := r.dst + n, src := r.src + n, len := r.len - n }

/-- A row that is not empty gives its first piece and those of the rest. -/
theorem cutRow_succ (k : Nat) (r : Piece) : cutRow (k + 1) r =
    if r.len = 0 then [] else { r with len := r.cutLen } :: cutRow k (r.after r.cutLen) := rfl

/-- The first piece has a byte, crosses no line and goes no further than the row. -/
theorem Piece.cutLen_bounds {r : Piece} (some_byte : r.len ≠ 0) : 0 < r.cutLen ∧ r.cutLen ≤ r.len ∧
    r.dst % 128 + r.cutLen ≤ 128 ∧ (r.sk ≠ 4 → r.src % 128 + r.cutLen ≤ 128) := by
  unfold Piece.cutLen
  split <;> omega

/-- A piece of a row: bytes of it, of the same kinds, that cross no line. -/
def Piece.Part (r p : Piece) : Prop :=
  0 < p.len ∧ p.dk = r.dk ∧ p.sk = r.sk ∧ p.dst % 128 + p.len ≤ 128 ∧ (r.sk ≠ 4 → p.src % 128 + p.len ≤ 128) ∧
    r.dst ≤ p.dst ∧ p.dst + p.len ≤ r.dst + r.len ∧ p.src + r.dst = r.src + p.dst

/-- A piece of the rest is a piece of the row. -/
theorem Piece.Part.of_after {r p : Piece} {n : Nat} (inside : n ≤ r.len) (part : (r.after n).Part p) : r.Part p := by
  obtain ⟨some_byte, dk, sk, dst, src, first, last, same⟩ := part
  simp only [Piece.after] at dk sk src first last same
  exact ⟨some_byte, dk, sk, dst, src, by omega, by omega, by omega⟩

/-- What a row is cut into are pieces of it. -/
theorem cutRow_part {k : Nat} {r : Piece} : ∀ p ∈ cutRow k r, r.Part p := by
  induction k generalizing r with
  | zero => exact fun p hp => absurd hp List.not_mem_nil
  | succ k ih =>
    rw [cutRow_succ]
    split
    · exact fun p hp => absurd hp List.not_mem_nil
    · rename_i some_byte
      obtain ⟨positive, inside, dst, src⟩ := Piece.cutLen_bounds some_byte
      intro p hp
      rcases List.mem_cons.1 hp with rfl | later
      · exact ⟨positive, rfl, rfl, dst, src, le_rfl, Nat.add_le_add_left inside _, rfl⟩
      · exact (ih p later).of_after inside

/-- Every byte of a row is in one of them, where there may be as many as bytes. -/
theorem cutRow_covers {k : Nat} {r : Piece} (enough : r.len ≤ k) {i : Nat} (hi : i < r.len) :
    ∃ p ∈ cutRow k r, p.dst ≤ r.dst + i ∧ r.dst + i < p.dst + p.len := by
  induction k generalizing r i with
  | zero => omega
  | succ k ih =>
    have some_byte : r.len ≠ 0 := by omega
    obtain ⟨positive, inside, -, -⟩ := Piece.cutLen_bounds some_byte
    rw [cutRow_succ, if_neg some_byte]
    by_cases first : i < r.cutLen
    · exact ⟨_, List.mem_cons_self, Nat.le_add_right _ _, Nat.add_lt_add_left first _⟩
    · obtain ⟨p, hp, low, high⟩ := ih (r := r.after r.cutLen) (i := i - r.cutLen)
        (by simp only [Piece.after]; omega) (by simp only [Piece.after]; omega)
      simp only [Piece.after] at low high
      exact ⟨p, List.mem_cons_of_mem _ hp, by omega, by omega⟩

/-- They stand in rising order and do not overlap. -/
theorem cutRow_rising {k : Nat} {r : Piece} : (cutRow k r).Pairwise (fun p q => p.dst + p.len ≤ q.dst) := by
  induction k generalizing r with
  | zero => exact List.Pairwise.nil
  | succ k ih =>
    rw [cutRow_succ]
    split
    · exact List.Pairwise.nil
    · refine List.pairwise_cons.2 ⟨fun q hq => ?_, ih⟩
      obtain ⟨-, -, -, -, -, first, -, -⟩ := cutRow_part q hq
      exact first

end Sys2Proof.Machine
end

section
/-! PROOFS. A command moves its pieces (R222, R292, R298–R302, R315, R326). -/

namespace Sys2Proof.Machine

/-! ## What a piece of an unchecked run reads and writes -/

section
variable {s u : State} {t : Nat} {tm : Team} {c : Command} {p : Piece} {bs : List Byte}

section
variable (team : s.team? t = some tm) (plain : tm.mode = .unchecked)
include team plain

/-- A piece in global memory is written at its home (R298). -/
theorem State.putPiece_global {e pa n : Nat} (kind : p.dk = 0) (leaf : s.engineWalk c true p.dst = .leaf e pa n) :
    let u := (s.translated (dieOf c.core) c.part c.asid p.dst).serve c.part (s.homeUnit pa)
      { UnitFault.none with addr := pa, record := tm.record, asid := c.asid }
    s.putPiece t c p bs = .ok (u.homeWrite (u.viewOf e pa) pa bs) := by
  simp only [State.putPiece, team, kind, plain, leaf, State.runStore]
  rfl

/-- A piece in the core scratchpad (R158). -/
theorem State.putPiece_pad (kind : p.dk = 1) :
    s.putPiece t c p bs = .ok (s.modTeam t (fun tm => { tm with pad := padPut tm.pad p.dst bs })) := by
  simp only [State.putPiece, team, kind, plain]
  rfl

/-- A piece in a window is written to the bank that the command names (R164). -/
theorem State.putPiece_window {k : Nat} {o : Team} (kind : p.dk = 2) (window : s.windowOf t tm p.dst = some (k, o)) :
    s.putPiece t c p bs = .ok (s.modTeam k (fun o =>
      if hasBit c.mod 5 then { o with shadow := Memory.putBytes o.shadow (bits p.dst 17 0) bs }
      else { o with visible := Memory.putBytes o.visible (bits p.dst 17 0) bs })) := by
  simp only [State.putPiece, team, kind, plain, window, Team.replays]
  rfl

/-- A piece in the chip scratchpad (R156). -/
theorem State.putPiece_chip (kind : p.dk = 3) :
    s.putPiece t c p bs = .ok { s with kpad := Memory.putBytes s.kpad (tm.part * 2 ^ 26 + p.dst) bs } := by
  simp only [State.putPiece, team, kind, plain, Team.replays]
  rfl

end

/-- A piece that can be written is, and the others follow (R292). -/
theorem State.putPieces_cons {ps : List (Piece × List Byte)} (put : s.putPiece t c p bs = .ok u) :
    s.putPieces t tm c ((p, bs) :: ps) = u.putPieces t tm c ps := by
  simp only [State.putPieces, List.foldl_cons, put]
  rfl

/-- An unchecked run takes no piece from a log (R331). -/
theorem State.pieceEntry_unchecked (plain : tm.mode = .unchecked) (va : Nat) : s.pieceEntry tm c va = none := by
  simp only [State.pieceEntry, Team.replays, plain]
  rfl

/-- Bytes of a list of a range's values. -/
theorem drop_take_map_range {α : Type} (f : Nat → α) {a n m : Nat} (inside : a + n ≤ m) :
    (((List.range m).map f).drop a).take n = (List.range n).map (fun i => f (a + i)) := by
  apply List.ext_getElem
  · simp; omega
  · intro i _ _
    simp

/-- A piece in global memory is read as the run sees it (R298, R326). -/
theorem State.pieceBytes_global {e pa n : Nat} (plain : tm.mode = .unchecked) (kind : p.sk = 0)
    (inside : p.src % 128 + p.len ≤ 128) (leaf : s.engineWalk c false p.src = .leaf e pa n) :
    s.pieceBytes t tm c p =
      (List.range p.len).map (fun i => s.runByte tm (s.viewOf e pa) (pa / 128 * 128 + p.src % 128 + i)) := by
  simp only [State.pieceBytes, kind, State.sourceLine, State.pieceEntry_unchecked plain, leaf, drop_take_map_range _ inside,
    Nat.add_assoc]

/-- A piece in the core scratchpad. -/
theorem State.pieceBytes_pad (kind : p.sk = 1) : s.pieceBytes t tm c p = padBytes tm.padNonce tm.pad p.src p.len := by
  simp only [State.pieceBytes, kind]

/-- A piece in a window is read from the visible bank (R164). -/
theorem State.pieceBytes_window {k : Nat} {o : Team} (kind : p.sk = 2) (window : s.windowOf t tm p.src = some (k, o)) :
    s.pieceBytes t tm c p = Memory.getBytes o.visible (bits p.src 17 0) p.len := by
  simp only [State.pieceBytes, kind, window]

/-- A piece in the chip scratchpad. -/
theorem State.pieceBytes_chip (kind : p.sk = 3) :
    s.pieceBytes t tm c p = Memory.getBytes s.kpad (tm.part * 2 ^ 26 + p.src) p.len := by
  simp only [State.pieceBytes, kind]

/-- A piece of a FILLZ is zeros (R299). -/
theorem State.pieceBytes_zero (kind : p.sk = 4) : s.pieceBytes t tm c p = List.replicate p.len 0 := by
  simp only [State.pieceBytes, kind]

end

/-! ## The rows of a command move -/

/-- The rows that move in one step: one, or all of a checked run (R292; log entry 20). -/
def Team.rowsNow (tm : Team) (rows : List Piece) : List Piece := if tm.mode = .unchecked then rows.take 1 else rows

/-- The pieces of some rows (R292). -/
def piecesOf (rows : List Piece) : List Piece := rows.flatMap (fun r => cutRow (r.len + 1) r)

/-- The pages of a piece are known to its command (R222). -/
def State.knows (s : State) (tm : Team) (c : Command) (p : Piece) : Bool :=
  s.allKnown ⟨3, c.id, 0⟩ (dieOf c.core) c.part c.asid (s.pieceVas tm c p)

/-- A piece can be moved now: its pages are known and it meets no fault and no home that has stopped (R222, R298, R386). -/
def State.movable (s : State) (tm : Team) (c : Command) (p : Piece) : Bool :=
  s.knows tm c p && (s.pieceFault tm c p).isNone && !s.pieceDown tm c p

/-- The three conditions. -/
theorem State.movable_iff {s : State} {tm : Team} {c : Command} {p : Piece} : s.movable tm c p = true ↔
    s.knows tm c p = true ∧ s.pieceFault tm c p = none ∧ s.pieceDown tm c p = false := by
  simp [State.movable, and_assoc]

/-- The pieces that move in this step: all of a checked run or none, and of another as many as can (R292, R330). -/
def State.movableOf (s : State) (tm : Team) (c : Command) (alone : Bool) (pieces : List Piece) : List Piece :=
  if alone || pieces.all (s.movable tm c) then pieces.takeWhile (s.movable tm c) else []

/-- What the reads of pieces do at their homes and to the log, line after line in rising order (R302, R329). -/
def State.logPieces (s : State) (t : Nat) (c : Command) (pieces : List Piece) : State :=
  ((pieces.filter (fun p => p.sk == 0)).foldl (fun ls p => insertNat (p.src / 128 * 128) ls) []).foldl
    (fun s va => s.logPiece t c va) s

/-- The command stands at a state with its pieces left. -/
def State.stays (u : State) (c : Command) (left : List Piece) (n : Nat) : State :=
  u.modCommand c.id (fun c => { c with state := n, todo := left })

/-- What becomes of a command at a piece that meets a fault, or a home that has stopped (R298, R315, R386). -/
def State.faults (u : State) (t : Nat) (c : Command) (left : List Piece) (fault : Option (Bool × Nat × WalkEnd)) : State :=
  match fault with
  | some (write, va, .notPresent level) =>
    (u.stays c left 3).pageFault t ⟨level, if write then 1 else 0, c.asid, va / 128 * 128, none⟩
  | some (_, va, _) => (u.stays c [] 4).engineViolation t c va
  | none => u.stays c left 2

/-- How a command stands after its step, with its team `tm` before it and `now` after it: it has finished, stays with the rows
that are left, waits for walks, or meets a fault at its next piece (R222, R292). -/
def State.stopsMoving (u : State) (t : Nat) (tm now : Team) (c : Command) (alone : Bool) (pieces left rest : List Piece)
    (bad : Option Piece) : State :=
  match rest.head?, bad with
  | none, _ => u.stays c [] 4
  | some _, none => u.stays c rest 2
  | some _, some p =>
    if !left.isEmpty then u.stays c rest 2
    else if !u.knows tm c p then
      (u.askWalks ⟨3, c.id, 0⟩ (dieOf c.core) c.part c.asid
        ((if alone then [p] else pieces).flatMap (u.pieceVas now c))).stays c rest 2
    else u.faults t c rest (u.pieceFault now c p)

/-- The bytes of pieces are read and written, and the command goes on or stops (R292). -/
def State.moveOn (u : State) (t : Nat) (tm : Team) (c : Command) (alone : Bool) (pieces good rest : List Piece)
    (bad : Option Piece) : State :=
  match u.team? t with
  | none => u
  | some now =>
    let moved := u.putPieces t now c (good.zip (good.map (fun p => u.pieceBytes t now c p)))
    moved.1.stopsMoving t tm now c alone pieces moved.2 (moved.2 ++ rest) bad

/-! ## Where a command stops -/

section
variable {u : State} {t : Nat} {tm now : Team} {alone : Bool} {c : Command} {pieces ps : List Piece} {p : Piece}

/-- Where its pieces have moved, the command has finished or goes on with the rest (R292). -/
theorem State.stopsMoving_moved : u.stopsMoving t tm now c alone pieces [] ps none =
    u.modCommand c.id (fun c => { c with state := if ps = [] then 4 else 2, todo := ps }) := by
  cases ps <;> rfl

/-- The pages of its next piece are asked for (R222). -/
theorem State.stopsMoving_asks (unknown : u.knows tm c p = false) : u.stopsMoving t tm tm c true pieces [] (p :: ps) (some p) =
    (u.askWalks ⟨3, c.id, 0⟩ (dieOf c.core) c.part c.asid (u.pieceVas tm c p)).stays c (p :: ps) 2 := by
  show (if !u.knows tm c p then _ else _) = _
  rw [unknown, if_pos Bool.not_false, if_pos rfl, List.flatMap_singleton]

/-- Once they are known, the fault that it meets decides. -/
theorem State.stopsMoving_faults (known : u.knows tm c p = true) :
    u.stopsMoving t tm tm c true pieces [] (p :: ps) (some p) = u.faults t c (p :: ps) (u.pieceFault tm c p) := by
  show (if !u.knows tm c p then _ else _) = _
  rw [known]
  rfl

/-- A page that is present and still fails is a violation (R298). -/
theorem State.faults_violation {write : Bool} {va : Nat} {found : WalkEnd} (present : ∀ level, found ≠ .notPresent level) :
    u.faults t c ps (some (write, va, found)) = (u.stays c [] 4).engineViolation t c va := by
  cases found with
  | notPresent level => exact absurd rfl (present level)
  | leaf e pa n => rfl
  | violation => rfl

end

/-! ## A step of a command -/

section
variable {s w : State} {t : Nat} {tm : Team} {c : Command} {rows : List Piece} (team : s.team? t = some tm)
include team

/-- A step of a command in these terms (R292). -/
theorem State.movePieces_eq : s.movePieces t c rows =
    let alone := tm.mode == .unchecked
    let pieces := piecesOf (tm.rowsNow rows)
    let good := s.movableOf tm c alone pieces
    (s.logPieces t c good).moveOn t tm c alone pieces good
      (if good.isEmpty && !alone then rows else pieces.drop good.length ++ rows.drop (tm.rowsNow rows).length)
      (pieces.find? (fun p => !s.movable tm c p)) := by
  have now : tm.rowsNow rows = if tm.mode == .unchecked then rows.take 1 else rows := by
    unfold Team.rowsNow
    cases tm.mode <;> rfl
  rw [now]
  unfold State.movePieces
  rw [team]
  rfl

/-- Where all pieces can be moved, they are: read, then written, and the other rows are left (R292). -/
theorem State.movePieces_moves {tm' : Team} (some_piece : piecesOf (tm.rowsNow rows) ≠ [])
    (fine : ∀ p ∈ piecesOf (tm.rowsNow rows), s.movable tm c p = true) :
    let pieces := piecesOf (tm.rowsNow rows)
    let met := s.logPieces t c pieces
    let rest := rows.drop (tm.rowsNow rows).length
    met.team? t = some tm' → met.putPieces t tm' c (pieces.zip (pieces.map (met.pieceBytes t tm' c))) = (w, []) →
    s.movePieces t c rows = w.modCommand c.id (fun c => { c with state := if rest = [] then 4 else 2, todo := rest }) := by
  intro pieces met rest team' put
  have all_good : s.movableOf tm c (tm.mode == .unchecked) pieces = pieces := by
    rw [State.movableOf, if_pos (by rw [List.all_eq_true.2 fine, Bool.or_true]), List.takeWhile_eq_self_iff]
    exact fine
  have none_bad : pieces.find? (fun p => !s.movable tm c p) = none := by
    rw [List.find?_eq_none]
    exact fun p hp => by simp [fine p hp]
  have left : (if pieces.isEmpty && !(tm.mode == .unchecked) then rows else pieces.drop pieces.length ++ rest) = rest := by
    rw [List.isEmpty_eq_false_iff.2 some_piece, Bool.false_and, if_neg Bool.false_ne_true, List.drop_length, List.nil_append]
  rw [State.movePieces_eq team]
  show (s.logPieces t c (s.movableOf tm c (tm.mode == .unchecked) pieces)).moveOn _ _ _ _ _ _ _ _ = _
  rw [all_good, none_bad, left]
  show met.moveOn _ _ _ _ _ _ _ _ = _
  rw [State.moveOn, team']
  show State.stopsMoving _ _ _ _ _ _ _ _ _ _ = _
  rw [put, List.nil_append]
  exact State.stopsMoving_moved

/-- An unchecked command whose next piece cannot be moved stops at it (R292). -/
theorem State.movePieces_stuck {p : Piece} {ps : List Piece} (plain : tm.mode = .unchecked)
    (next : piecesOf (tm.rowsNow rows) = p :: ps) (stuck : ¬ s.movable tm c p = true) : s.movePieces t c rows =
      s.stopsMoving t tm tm c true (p :: ps) [] (p :: ps ++ rows.drop (tm.rowsNow rows).length) (some p) := by
  have none_good : s.movableOf tm c true (p :: ps) = [] := by
    rw [State.movableOf, Bool.true_or, if_pos rfl, List.takeWhile_cons_of_neg stuck]
  have bad : (p :: ps).find? (fun p => !s.movable tm c p) = some p :=
    List.find?_cons_of_pos (by simpa using stuck)
  have alone : (tm.mode == .unchecked) = true := by rw [plain]; rfl
  rw [State.movePieces_eq team, next, alone]
  show (s.logPieces t c (s.movableOf tm c true (p :: ps))).moveOn _ _ _ _ _ _ _ _ = _
  rw [none_good, bad]
  show s.moveOn _ _ _ _ _ _ _ _ = _
  rw [State.moveOn, team]
  rfl

end

end Sys2Proof.Machine
end

section
/-! PROOFS. Commands that act within their start: ZMAP, BIN and REL, and the start of a copy (R297, R299–R307). -/

namespace Sys2Proof.Machine

/-! ## Zero bitmaps -/

/-- The number of k bits that are set where a test holds. -/
def bitsWhere (k : Nat) (p : Nat → Bool) : Nat := (List.range k).foldl (fun n j => if p j then n + 2 ^ j else n) 0

/-- With one bit more. -/
theorem bitsWhere_succ (k : Nat) (p : Nat → Bool) :
    bitsWhere (k + 1) p = if p k then bitsWhere k p + 2 ^ k else bitsWhere k p := by
  simp [bitsWhere, List.range_succ]

/-- It has no other bits. -/
theorem bitsWhere_lt (k : Nat) (p : Nat → Bool) : bitsWhere k p < 2 ^ k := by
  induction k with
  | zero => simp [bitsWhere]
  | succ k ih =>
    rw [bitsWhere_succ]
    split <;> omega

/-- Each of its bits is the test's. -/
theorem testBit_bitsWhere {k : Nat} (p : Nat → Bool) {j : Nat} (hj : j < k) : (bitsWhere k p).testBit j = p j := by
  induction k with
  | zero => omega
  | succ k ih =>
    rw [bitsWhere_succ]
    have small := bitsWhere_lt k p
    rcases Nat.lt_or_ge j k with below | above
    · split
      · rw [Nat.add_comm, Nat.testBit_two_pow_add_gt below, ih below]
      · exact ih below
    · obtain rfl : j = k := by omega
      have clear : (bitsWhere j p).testBit j = false := Nat.testBit_lt_two_pow small
      split
      · rename_i holds
        rw [Nat.add_comm, Nat.testBit_two_pow_add_eq, clear, holds]
        rfl
      · rename_i fails
        rw [clear, Bool.eq_false_iff.2 fails]

/-- The pairs of two ranges, the second running faster. -/
def pairs (n m : Nat) : List (Nat × Nat) := List.range n ×ˢ List.range m

/-- One more of the first. -/
theorem pairs_succ (n m : Nat) : pairs (n + 1) m = pairs n m ++ (List.range m).map (Prod.mk n) := by
  show (List.range (n + 1)).flatMap _ = (List.range n).flatMap _ ++ _
  rw [List.range_succ, List.flatMap_append, List.flatMap_singleton]

/-- How many they are. -/
theorem length_pairs (n m : Nat) : (pairs n m).length = n * m := by
  rw [pairs, List.length_product, List.length_range, List.length_range]

/-- Where each stands. -/
theorem getElem?_pairs {n m i j : Nat} (hi : i < n) (hj : j < m) : (pairs n m)[i * m + j]? = some (i, j) := by
  induction n with
  | zero => omega
  | succ n ih =>
    rw [pairs_succ]
    rcases Nat.lt_or_ge i n with below | above
    · have inside : i * m + j < (pairs n m).length := by
        rw [length_pairs]
        calc i * m + j < i * m + m := by omega
          _ = (i + 1) * m := (Nat.succ_mul i m).symm
          _ ≤ n * m := Nat.mul_le_mul_right m below
      rw [List.getElem?_append_left inside, ih below]
    · obtain rfl : i = n := by omega
      rw [List.getElem?_append_right (by rw [length_pairs]; omega), length_pairs, Nat.add_sub_cancel_left]
      simp [hj]

/-- Which they are. -/
theorem mem_pairs {n m : Nat} {x : Nat × Nat} : x ∈ pairs n m ↔ x.1 < n ∧ x.2 < m := by
  obtain ⟨i, j⟩ := x
  rw [pairs, List.mem_product, List.mem_range, List.mem_range]

/-- The format code of a ZMAP's operand (R264, R303). -/
def zmapCode (w : List Nat) : Nat := bits (wordAt w 0) 3 0

/-- The elements of a window of it (R270, R303). -/
def zmapK (w : List Nat) : Nat := mmaK (zmapCode w)

/-- A descriptor that R303 refuses. -/
def zmapBad (w : List Nat) : Bool :=
  zmapK w = 0 || bits (wordAt w 0) 31 11 != 0 || bits (wordAt w 0) 7 6 != 0 || hasBit (wordAt w 0) 9 || wordAt w 1 % 8 != 0 ||
    wordAt w 3 % zmapK w != 0 || wordAt w 4 % 16 != 0 || wordAt w 5 != 0 || wordAt w 6 != 0 || wordAt w 7 != 0

/-- What is refused of its words. -/
theorem zmapBad_iff {w : List Nat} : zmapBad w = true ↔
    zmapK w = 0 ∨ bits (wordAt w 0) 31 11 ≠ 0 ∨ bits (wordAt w 0) 7 6 ≠ 0 ∨ hasBit (wordAt w 0) 9 = true ∨
      wordAt w 1 % 8 ≠ 0 ∨ wordAt w 3 % zmapK w ≠ 0 ∨ wordAt w 4 % 16 ≠ 0 ∨ wordAt w 5 ≠ 0 ∨ wordAt w 6 ≠ 0 ∨
      wordAt w 7 ≠ 0 := by
  simp only [zmapBad, Bool.or_eq_true, decide_eq_true_eq, bne_iff_ne, or_assoc]

section
variable (tm : Team) (c : Command) (w : List Nat)

/-- The address of a byte of an element of a row (R265, R303). -/
def Command.zmapByte (x e byte : Nat) : Nat :=
  c.a + x * wordAt w 4 + swizzle (bits (wordAt w 0) 5 4) x (matWidth (zmapCode w) * e / 8 + byte)

/-- The address of the halfword of a band of rows in a window (R303). -/
def Command.zmapPlace (win b : Nat) : Nat := c.b + 2 * (wordAt w 1 / 8) * (wordAt w 3 / zmapK w + win) + 2 * b

/-- The first of the eight elements of a bit (R303). -/
def zmapElem (win j : Nat) : Nat := wordAt w 3 + win * zmapK w + 8 * j

/-- Eight elements of a row are zero, but for the sign of a format that has one (R303). -/
def Command.zmapZero (x e : Nat) : Bool :=
  let v := ofLeBytes ((List.range (matWidth (zmapCode w))).map (fun b => padGet tm.padNonce tm.pad (c.zmapByte w x e b)))
  let sign := if zmapCode w = 7 ∨ zmapCode w = 8 then 0 else 1
  (List.range 8).all (fun j => bits v (matWidth (zmapCode w) * j + matWidth (zmapCode w) - 1 - sign)
    (matWidth (zmapCode w) * j) == 0)

/-- Each of the eight is. -/
theorem Command.zmapZero_iff (x e : Nat) : c.zmapZero tm w x e = true ↔
    let v := ofLeBytes ((List.range (matWidth (zmapCode w))).map (fun y => padGet tm.padNonce tm.pad (c.zmapByte w x e y)))
    ∀ i < 8, bits v (matWidth (zmapCode w) * i + matWidth (zmapCode w) - 1 - (if zmapCode w = 7 ∨ zmapCode w = 8 then 0 else 1))
      (matWidth (zmapCode w) * i) = 0 := by
  simp only [Command.zmapZero, List.all_eq_true, List.mem_range, beq_iff_eq]

/-- All that a ZMAP reads and writes lies in the team's scratchpad (R296, R303). -/
def Command.zmapInside : Bool :=
  (pairs (wordAt w 2) (wordAt w 1 / 8)).all (fun wb =>
    tm.ownsPad (c.zmapPlace w wb.1 wb.2) 2 &&
    (List.range 8).all (fun r => (List.range (zmapK w / 8)).all (fun j => (List.range (matWidth (zmapCode w))).all (fun byte =>
      tm.ownsPad (c.zmapByte w (8 * wb.2 + r) (zmapElem w wb.1 j) byte) 1))))

/-- Byte by byte. -/
theorem Command.zmapInside_iff : c.zmapInside tm w = true ↔ ∀ win < wordAt w 2, ∀ b < wordAt w 1 / 8,
    tm.ownsPad (c.zmapPlace w win b) 2 = true ∧ ∀ r < 8, ∀ j < zmapK w / 8, ∀ y < matWidth (zmapCode w),
      tm.ownsPad (c.zmapByte w (8 * b + r) (zmapElem w win j) y) 1 = true := by
  simp only [Command.zmapInside, List.all_eq_true, mem_pairs, Bool.and_eq_true, List.mem_range, Prod.forall, and_imp]
  exact ⟨fun all win hwin b hb => all win b hwin hb, fun all win b hwin hb => all win hwin b hb⟩

/-- The halfword of a band of rows in a window (R303). -/
def Command.zmapWord (win b : Nat) : Nat :=
  bitsWhere (zmapK w / 8) (fun j => (List.range 8).all (fun r => c.zmapZero tm w (8 * b + r) (zmapElem w win j)))

/-- A bit of it stands where the eight elements of each of its eight rows are zero. -/
theorem Command.testBit_zmapWord {win b j : Nat} (hj : j < zmapK w / 8) : (c.zmapWord tm w win b).testBit j = true ↔
    ∀ r < 8, c.zmapZero tm w (8 * b + r) (zmapElem w win j) = true := by
  rw [Command.zmapWord, testBit_bitsWhere _ hj]
  simp only [List.all_eq_true, List.mem_range]

/-- What a ZMAP writes, window after window (R303). -/
def Command.zmapWrites : List (Nat × Nat) :=
  (pairs (wordAt w 2) (wordAt w 1 / 8)).map (fun wb => (c.zmapPlace w wb.1 wb.2, c.zmapWord tm w wb.1 wb.2))

/-- One for each band of each window. -/
theorem Command.length_zmapWrites : (c.zmapWrites tm w).length = wordAt w 2 * (wordAt w 1 / 8) := by
  rw [Command.zmapWrites, List.length_map, length_pairs]

/-- Where the halfword of a band stands among them. -/
theorem Command.getElem?_zmapWrites {win b : Nat} (hwin : win < wordAt w 2) (hb : b < wordAt w 1 / 8) :
    (c.zmapWrites tm w)[win * (wordAt w 1 / 8) + b]? = some (c.zmapPlace w win b, c.zmapWord tm w win b) := by
  rw [Command.zmapWrites, List.getElem?_map, getElem?_pairs hwin hb]
  rfl

end

section
variable {tm : Team} {c : Command} {w : List Nat} (table : descriptor tm c.c = .ok w)
include table

/-- A ZMAP with a descriptor is refused, fails, or writes its halfwords (R297, R303). -/
theorem zmapPlan_eq : zmapPlan tm c =
    if zmapBad w then .error 2 else if !c.zmapInside tm w then .error 1 else .ok (c.zmapWrites tm w) := by
  unfold zmapPlan
  rw [table]
  rfl

/-- A bad descriptor is refused (R303). -/
theorem zmapPlan_bad (bad : zmapBad w = true) : zmapPlan tm c = .error 2 := by
  rw [zmapPlan_eq table, if_pos bad]

variable (fine : ¬ zmapBad w = true)
include fine

/-- One that reaches outside the scratchpad fails (R297). -/
theorem zmapPlan_outside (outside : ¬ c.zmapInside tm w = true) : zmapPlan tm c = .error 1 := by
  rw [zmapPlan_eq table, if_neg fine, Bool.eq_false_iff.2 outside]
  rfl

/-- Another writes its halfwords (R303). -/
theorem zmapPlan_writes (inside : c.zmapInside tm w = true) : zmapPlan tm c = .ok (c.zmapWrites tm w) := by
  rw [zmapPlan_eq table, if_neg fine, inside]
  rfl

end

/-! ## Words of the scratchpad, bins and releases -/

/-- A word of a team's scratchpad (R306). -/
theorem State.binGet_eq {s : State} {t : Nat} {tm : Team} (team : s.team? t = some tm) (a : Nat) :
    s.binGet t a = ofLeBytes (padBytes tm.padNonce tm.pad a 4) := by
  rw [State.binGet, team]

/-- An item enters its bin, or is counted as one too many (R306). -/
def State.binItem (c : Command) (ndest cap : Nat) (s : State) (item : Nat × Nat) : State :=
  let d := item.1 % 2 ^ 32
  if ndest ≤ d then s
  else
    let n := s.binGet c.team (c.c + 16 + 4 * d)
    let s := s.binPut c.team c (c.c + 16 + 4 * d) ((n + 1) % 2 ^ 32)
    if n < cap then s.binPut c.team c (c.c + 16 + 4 * ndest + 4 * (cap * d + n)) (item.2 % 2 ^ 32)
    else s.binPut c.team c (c.c + 12) ((s.binGet c.team (c.c + 12) + 1) % 2 ^ 32)

/-- The held commands of the slots of a bin table are patched with the counts of their bins (R304, R306). -/
def State.patchHeld (s : State) (c : Command) (ndest cap pbase : Nat) : State :=
  { s with commands := s.commands.map (fun h =>
      let slot := (h.lit.getD 0) % 4096
      if h.team = c.team ∧ h.held = true ∧ pbase ≤ slot ∧ slot < pbase + ndest then
        { h with patch := some (min (s.binGet c.team (c.c + 16 + 4 * (slot - pbase))) cap) } else h) }

/-- The held commands of some slots are released (R307). -/
def State.releaseHeld (s : State) (c : Command) : State :=
  { s with commands := s.commands.map (fun h =>
      let slot := (h.lit.getD 0) % 4096
      if h.team = c.team ∧ h.held = true ∧ h.state = 1 ∧ c.a ≤ slot ∧ slot < min (c.a + c.b) 4096 then { h with held := false }
      else h) }

section
variable {s : State} {c : Command}

/-- A BIN enters its items one after another, and patches if that is asked (R306). -/
theorem State.runBin_eq (ndest cap pbase : Nat) : s.runBin c.team c ndest cap pbase =
    let binned := c.items.foldl (State.binItem c ndest cap) s
    if hasBit c.minor 0 then binned.patchHeld c ndest cap pbase else binned := by
  unfold State.runBin State.patchHeld
  simp only [Bool.and_eq_true, beq_iff_eq, decide_eq_true_eq, and_assoc]
  rfl

/-- A REL releases (R307). -/
theorem State.runRel_eq : s.runRel c.team c = s.releaseHeld c := by
  unfold State.runRel State.releaseHeld
  simp only [Bool.and_eq_true, beq_iff_eq, decide_eq_true_eq, and_assoc]

/-! ## The start of a command -/

/-- A command ends at its start with an error code (R297). -/
def State.fails (s : State) (c : Command) (code : Nat) : State :=
  s.modCommand c.id (fun c => { c with state := 4, code := code })

/-- A command has finished. -/
def State.finishes (s : State) (c : Command) : State := s.modCommand c.id (fun c => { c with state := 4 })

/-- A REL acts within its start (R307). -/
theorem State.startWork_rel (major : c.major = 0xD6) : s.startWork c = (s.releaseHeld c).finishes c := by
  simp only [State.startWork, major, State.runRel_eq]
  rfl

variable {tm : Team} (team : s.team? c.team = some tm)
include team

/-- A BIN without a table fails (R305). -/
theorem State.startWork_bin_error {code : Nat} (major : c.major = 0xD5) (table : binTable tm c.c = .error code) :
    s.startWork c = s.fails c code := by
  simp only [State.startWork, major, team, table]
  rfl

/-- Another acts within its start (R306). -/
theorem State.startWork_bin {ndest cap pbase : Nat} (major : c.major = 0xD5)
    (table : binTable tm c.c = .ok (ndest, cap, pbase)) : s.startWork c = (s.runBin c.team c ndest cap pbase).finishes c := by
  simp only [State.startWork, major, team, table]
  rfl

/-- A ZMAP that is refused fails (R297, R303). -/
theorem State.startWork_zmap_error {code : Nat} (major : c.major = 0xD9) (plan : zmapPlan tm c = .error code) :
    s.startWork c = s.fails c code := by
  simp only [State.startWork, major, team, plan]
  rfl

/-- Another writes its halfwords within its start (R303). -/
theorem State.startWork_zmap {ws : List (Nat × Nat)} (major : c.major = 0xD9) (plan : zmapPlan tm c = .ok ws) :
    s.startWork c = (ws.foldl (fun (s : State) ax =>
      (s.modTeam c.team (fun tm => { tm with pad := padPut tm.pad ax.1 (leBytes ax.2 2) })).modCommand c.id
        (fun c => c.wrote 1 ax.1 (leBytes ax.2 2))) s).finishes c := by
  simp only [State.startWork, major, team, plan]
  rfl

variable (copies : c.major ∈ [0xD0, 0xD1, 0xD2, 0xD3, 0xD8])
include copies

/-- The start of a copy is decided by its rows (R292, R297). -/
theorem State.startWork_copies : s.startWork c = match s.copyRows c.team tm c with
    | .error code => s.fails c code
    | .ok rows => s.modCommand c.id (fun c => { c with state := if rows.isEmpty then 4 else 2, todo := rows }) := by
  simp only [List.mem_cons, List.not_mem_nil, or_false] at copies
  unfold State.startWork
  split
  · omega
  · omega
  · omega
  · rw [team]
    dsimp only
    rw [if_neg (by omega), if_neg (by omega)]
    rfl

/-- A copy that is refused fails (R297). -/
theorem State.startWork_copies_error {code : Nat} (refused : s.copyRows c.team tm c = .error code) :
    s.startWork c = s.fails c code := by
  rw [State.startWork_copies team copies, refused]

/-- Another starts with all its rows to move (R292). -/
theorem State.startWork_copies_rows {rows : List Piece} (planned : s.copyRows c.team tm c = .ok rows) :
    s.startWork c = s.modCommand c.id (fun c => { c with state := if rows = [] then 4 else 2, todo := rows }) := by
  rw [State.startWork_copies team copies, planned]
  simp only [List.isEmpty_iff]

end

end Sys2Proof.Machine
end

section
/-! PROOFS. Collectives run (R208, R308, R309, R386, R390); what engine commands do, put together (R203, R291–R317). -/

namespace Sys2Proof.Machine

/-! ## The start of a collective -/

/-- Where a rank's send buffer begins (R308). -/
def CollEntry.sendAt (x : CollEntry) (r : Nat) : Nat := (x.send + r * x.span) % 2 ^ 52

/-- Where a rank's receive buffer begins (R308). -/
def CollEntry.recvAt (x : CollEntry) (r : Nat) : Nat := (x.recv + r * x.span) % 2 ^ 52

/-- The bytes that a rank sends (R309). -/
def CollEntry.sendLen (x : CollEntry) : Nat := x.e * (codeBits x.typ / 8)

/-- The machine after the ranks' sends have been read: its ranks wait no more, and the homes and the log have seen the
reads (R184, R208, R329). -/
def State.collRead (s : State) (x : CollEntry) (ws : List CollWait) (cs : List Command) : State :=
  cs.foldl (fun (s : State) c => (s.collMeet c).commandReads c (x.sendAt c.a) x.sendLen)
    { s with collWaits := s.collWaits.filter (fun w => !ws.contains w) }

/-- What a rank sends: its buffer's elements, or those that arrived from another device (R309; log entry 53). -/
def State.collValue (s : State) (x : CollEntry) (w : CollWait) : List Nat :=
  match s.command? w.command with
  | some c => (s.collSend c x c.a).getD []
  | none => w.elems

/-- A local rank receives its result, and its sends for ranks on other devices go out (R308, R309; log entry 52). -/
def State.collDeliver (x : CollEntry) (op red : Nat) (vals : List (List Nat)) (away : List Nat) (s : State) (c : Command) :
    State :=
  let n := codeBits x.typ / 8
  let out := (collResult op red x.typ x.p x.e vals c.a).flatMap (fun y => leBytes y n)
  let fails := (pageChunks (x.recvAt c.a) out.length).any (fun k => (s.commandPage c k.1).isNone)
  match (if fails then none else s.pinWrite (dieOf c.core) c.part c.asid (x.recvAt c.a) out) with
  | some s => (away.foldl (fun (s : State) r => s.sendPackets c (s.rankDevice x r) 0 [] (x.e * n)) s).packetsDone c.id
  | none => s.engineViolation c.team c (x.recvAt c.a)

section
variable {part name : Nat} {s : State} {x : CollEntry} {ws : List CollWait} {c0 : Command} {cs : List Command}
  (entry : s.collEntry part name = some x) (ranks : s.collRanks part name x.p = some ws)
  (commands : ws.filterMap (fun w => s.command? w.command) = c0 :: cs)
include entry ranks commands

/-- While one of the local commands has to wait, each asks for its pages (R222, R386, R390). -/
theorem execCollInstanceStart_asks (waits : (c0 :: cs).any (s.collWaiting x) = true) :
    exec (.collInstanceStart part name) s = .next ((c0 :: cs).foldl (fun (s : State) c => s.collAsk x c) s) := by
  show execCollInstanceStart part name s = _
  simp only [execCollInstanceStart, entry, ranks, commands, List.head?_cons]
  exact if_pos waits

variable (free : (c0 :: cs).any (s.collWaiting x) = false)
include free

/-- Then every local rank receives its result (R309). -/
theorem execCollInstanceStart_delivers (readable : (c0 :: cs).find? (fun c => (s.collSend c x c.a).isNone) = none) :
    exec (.collInstanceStart part name) s = .next ((c0 :: cs).foldl
      (State.collDeliver x c0.minor (bits c0.mod 5 4) (ws.map (s.collValue x)) ((List.range x.p).filter (s.rankAway x)))
      (s.collRead x ws (c0 :: cs))) := by
  show execCollInstanceStart part name s = _
  simp only [execCollInstanceStart, entry, ranks, commands, List.head?_cons]
  refine (if_neg (Bool.eq_false_iff.1 free)).trans ?_
  rw [readable]
  rfl

/-- A send buffer that fails is a violation (R308). -/
theorem execCollInstanceStart_fails {c : Command} (failing : (c0 :: cs).find? (fun c => (s.collSend c x c.a).isNone) = some c) :
    exec (.collInstanceStart part name) s =
      .next ((s.collRead x ws (c0 :: cs)).engineViolation c.team c (x.sendAt c.a)) := by
  show execCollInstanceStart part name s = _
  simp only [execCollInstanceStart, entry, ranks, commands, List.head?_cons]
  refine (if_neg (Bool.eq_false_iff.1 free)).trans ?_
  rw [failing]
  rfl

end

/-! ## The statement -/

/-- Settles O46: acceptance, start and completion of a command; its rows, what it does within its start and how its rows move;
the pieces of a row; and the start of a collective. -/
theorem commandEvents : Obligations.CommandEvents := by
  refine ⟨⟨?_, ?_, ?_, ?_, fun x c => ⟨rfl, rfl, rfl⟩⟩, ?_, ?_, fun s t a tm team => State.binGet_eq team a, ?_, ?_,
    fun r => ⟨cutRow_part, fun i hi => cutRow_covers (Nat.le_succ _) hi, cutRow_rising⟩, ?_, ?_⟩
  · intro id s c command acceptable turn turned
    rw [execCommandAccept_command command, acceptable, turn]
    rfl
  · intro id s c command waits
    rw [execCommandAccept_command command, if_neg]
    rcases waits with waits | waits <;> simp [waits]
  · intro id s c command answers collective replays stands away asked ready
    have stands_iff : s.stands c = true ↔ stands := State.stands_iff
    have away_iff : (s.leaves c = true ∧ ¬ c.collective = true) ↔ away :=
      (and_congr State.leaves_iff (not_congr Command.collective_iff)).trans and_comm
    have both_iff : (c.collective && s.replaying c) = true ↔ collective ∧ replays :=
      Bool.and_eq_true_iff.trans (and_congr Command.collective_iff State.replaying_iff)
    refine ⟨fun stops => execCommandStart_stands command (stands_iff.2 stops), fun free running => ?_,
      fun free idle waits => execCommandStart_waits command (mt stands_iff.1 free) idle (waits.imp_left away_iff.2),
      fun free here may_go => ?_⟩
    · have runs := execCommandStart_running command (mt stands_iff.1 free) running
      exact ⟨fun without => by rwa [without] at runs, fun granted => by rwa [granted] at runs⟩
    · have idle : c.state ≠ 2 := by
        rcases may_go with suspended | ⟨accepted, -, -⟩ <;> intro running <;> simp_all
      have free' := mt stands_iff.1 free
      have here' := mt away_iff.1 here
      refine ⟨fun isCollective isReplay =>
          execCommandStart_replays command free' idle here' may_go (both_iff.2 ⟨isCollective, isReplay⟩),
        fun performs => execCommandStart_asks command free' idle here' may_go (mt both_iff.1 performs),
        fun performs granted => ⟨execCommandStart_resumes command free' idle here' may_go (mt both_iff.1 performs) granted,
          fun accepted => ?_⟩⟩
      have begins := execCommandStart_begins command free' idle here' may_go (mt both_iff.1 performs) granted accepted
      exact ⟨fun pages waits => begins.trans (congrArg _ (State.begins_waits waits)),
        fun known => begins.trans (congrArg _ (State.begins_starts known))⟩
  · intro id s c tm command team finished first gone team'
    exact execCommandCompletion_completes command finished first team'
  · intro s t tm c rows dk sk check single
    refine ⟨State.copyRows_released, fun patched => ⟨fun major => ?_, fun major => ?_, fun major => ⟨?_, ?_, ?_⟩⟩, ?_⟩
    · exact patchedRows (State.copyRows_cpy patched major)
    · exact patchedRows (State.copyRows_fillz patched major)
    · exact fun e => State.copyRows_noTable patched major
    · exact fun w e table => State.copyRows_noCount patched major table
    · intro w n table count f bad idx listed
      have bad_iff : c.badTable w = true ↔ bad := c.badTable_iff w
      exact ⟨fun refused => State.copyRows_badTable patched major table count (bad_iff.2 refused),
        fun fine => State.copyRows_planes patched major table count (mt bad_iff.1 fine),
        fun fine => State.copyRows_oddList patched major table count (mt bad_iff.1 fine),
        fun fine => State.copyRows_outside patched major table count (mt bad_iff.1 fine),
        fun fine => State.copyRows_listed patched major table count (mt bad_iff.1 fine)⟩
    · exact fun rows => ⟨State.checkRows_far, State.checkRows_near⟩
  · intro s c tm team ends copies put
    refine ⟨fun isCopy e => State.startWork_copies_error team (List.contains_iff_mem.1 isCopy),
      fun isCopy rows => State.startWork_copies_rows team (List.contains_iff_mem.1 isCopy),
      fun major e => State.startWork_zmap_error team major, fun major ws => State.startWork_zmap team major,
      State.startWork_rel, fun major e => State.startWork_bin_error team major, ?_⟩
    intro major ndest cap pbase table word count binned patched
    rw [State.startWork_bin team major table, State.runBin_eq]
    rfl
  · intro tm c w table f code k bands bad at' put elem zero inside
    have bad_iff : zmapBad w = true ↔ bad := zmapBad_iff
    have inside_iff : c.zmapInside tm w = true ↔ inside := c.zmapInside_iff tm w
    refine ⟨fun refused => zmapPlan_bad table (bad_iff.2 refused),
      fun fine outside => zmapPlan_outside table (mt bad_iff.1 fine) (mt inside_iff.1 outside), fun fine within =>
      ⟨c.zmapWrites tm w, zmapPlan_writes table (mt bad_iff.1 fine) (inside_iff.2 within), c.length_zmapWrites tm w, ?_⟩⟩
    intro win hwin b hb
    refine ⟨c.zmapWord tm w win b, c.getElem?_zmapWrites tm w hwin hb, bitsWhere_lt _ _, fun j hj => ?_⟩
    simp only [c.testBit_zmapWord tm w hj, c.zmapZero_iff tm w]
    rfl
  · intro s t c tm rows team now pieces asker known fine lines met rest
    have fine_iff (p : Piece) : s.movable tm c p = true ↔ fine p := State.movable_iff
    refine ⟨fun some_piece all_fine tm' w => ?_, ?_⟩
    · exact State.movePieces_moves team some_piece (fun p hp => (fine_iff p).2 (all_fine p hp))
    · intro p ps plain next stuck stays
      have stops := State.movePieces_stuck team plain next (mt (fine_iff p).1 stuck)
      have meets (isKnown : known p = true) := stops.trans (State.stopsMoving_faults isKnown)
      exact ⟨fun unknown => stops.trans (State.stopsMoving_asks unknown),
        fun isKnown write va level fault => by rw [meets isKnown, fault]; rfl,
        fun isKnown write va found fault present => by rw [meets isKnown, fault, State.faults_violation present]; rfl,
        fun isKnown none_fails => by rw [meets isKnown, none_fails]; rfl⟩
  · intro s t tm c p bs team plain writes window
    exact ⟨fun e pa n => State.putPiece_global team plain, State.putPiece_pad team plain,
      fun k o => State.putPiece_window team plain, State.putPiece_chip team plain,
      fun e pa n => State.pieceBytes_global plain, State.pieceBytes_pad, fun k o => State.pieceBytes_window,
      State.pieceBytes_chip, State.pieceBytes_zero, fun q ps qbs u => State.putPieces_cons⟩
  · intro part name s x ws c0 cs entry ranks commands n sendAt recvAt read vals away
    exact ⟨execCollInstanceStart_asks entry ranks commands, fun free =>
      ⟨execCollInstanceStart_delivers entry ranks commands free,
        fun c => execCollInstanceStart_fails entry ranks commands free⟩⟩

end Sys2Proof.Machine
end

section
/-! PROOFS. The assay unit: the end of a lead, the comparison of runs, the release of a decided team's lines, demerits and the
injection register (R214, R324, R338, R339, R341, R344, R385, R413, R443). -/

namespace Sys2Proof.Machine

/-! ## The end of a lead -/

/-- A lead that may end leaves its signatures and queues the trail (R324). -/
theorem execLeadEnd_ends {t : Nat} {s : State} {tm : Team} {c : Checked} (team : s.team? t = some tm)
    (checked : s.checkedOf tm = some c) (runs : (s.part tm.part).halted = false) (lead : tm.mode = .lead)
    (ends : s.mayEnd t tm = true) :
    let ended := (((s.putResult c 0 tm.result).reclaim t).setChecked c (fun c =>
      { c with stage := 1, lead := some tm.result, ended := false })).logStatus c 1 0
    exec (.leadEnd t) s = .next (ended.queueRun c 1) := by
  show execLeadEnd t s = _
  have goes : ((s.part tm.part).halted || tm.mode != .lead || !s.mayEnd t tm) = false := by simp [runs, lead, ends]
  simp only [execLeadEnd, team, checked, goes]
  rfl

/-! ## The release of a decided team's lines -/

section
variable {s u : State} {c : Checked} {v : Verdict} {copy : Nat}

/-- What is released is a held line of the run (R214, R339). -/
theorem State.releaseOne_some (released : s.releaseOne c copy = some u) :
    ∃ h ∈ s.heldLines, h.of c copy = true ∧ u.heldLines = s.heldLines.erase h := by
  obtain ⟨h, found, rfl⟩ := Option.map_eq_some_iff.1 released
  obtain ⟨held, mine⟩ := List.mem_filter.1 (List.mem_of_getElem? found)
  exact ⟨h, held, mine, rfl⟩

/-- A line of the winner is released, and counted where the team has become unchecked (R339, R341, R413). -/
theorem State.settleVote_releases (released : s.releaseOne c v.winner = some u) : s.settleVote c v =
    if c.stage = 4 then { u with health := { u.health with released := u.health.released + 1 } } else u := by
  rw [State.settleVote, released]

/-- After the last line the other run's lines are discarded, the losers' cores receive demerits, and the team ends (R339). -/
theorem State.settleVote_ends (last : s.releaseOne c v.winner = none) (checked : c.stage ≠ 4) : s.settleVote c v =
    (((v.losers.foldl State.demerit (s.discardRun c v.other)).setChecked c (fun c =>
      { c with stage := 3, verdict := none })).logStatus c 3 0).runRec (.ended c.part c.asid c.record c.index) := by
  rw [State.settleVote, last]
  exact if_neg checked

/-- A team that has become unchecked ends there if its run is over (R341). -/
theorem State.settleVote_unchecked (last : s.releaseOne c v.winner = none) (unchecked : c.stage = 4) :
    let emptied := s.discardRun c v.other
    let settled : State :=
      { emptied with checked := modifyFirst (fun x => x == c) (fun x => { x with verdict := none }) emptied.checked }
    s.settleVote c v = if c.ended then settled.runRec (.ended c.part c.asid c.record c.index) else settled := by
  rw [State.settleVote, last]
  exact if_pos unchecked

end

/-! ## The comparison of runs -/

section
variable {k : Nat} {s : State} {c : Checked} (stands : s.checked[k]? = some c) (runs : (s.part c.part).halted = false)
include stands runs

/-- A decided team goes on with what its verdict asks for (R339, R341). -/
theorem execRunCompare_decided {v : Verdict} (decided : c.verdict = some v) :
    exec (.runCompare k) s = .next (s.settleVote c v) := by
  show execRunCompare k s = _
  simp only [execRunCompare, stands, runs, decided]
  rfl

variable {a b : RunResult} (ended : c.ended = true) (undecided : c.verdict = none) (lead : c.lead = some a)
  (trail : c.trail = some b)
include ended undecided lead trail

/-- A trail that has ended decides for the lead, or queues a third run (R338, R339). -/
theorem execRunCompare_trail (stage : c.stage = 1) : exec (.runCompare k) s = .next (
    let noted := s.putResult c 1 b
    if a.agrees b then (noted.assayCount 1).decideFor c 0 2 []
    else (((noted.assayCount 2).setChecked c (fun c =>
      { c with stage := 2, ended := false })).logStatus c 2 0).queueRun c 2) := by
  show execRunCompare k s = _
  simp only [execRunCompare, stands, runs, ended, undecided, stage, lead, trail, Bool.not_true, Bool.false_eq_true, if_false]
  split <;> rfl

/-- A third run that has ended decides for the run that it matches, or halts the partition (R338, R339, R385). -/
theorem execRunCompare_third {d : RunResult} (stage : c.stage = 2) (third : c.third = some d) :
    exec (.runCompare k) s = .next (
      let noted := s.putResult c 2 d
      if d.agrees a then (noted.assayCount 4).decideFor c 0 2 b.cores
      else if d.agrees b then (noted.assayCount 3).decideFor c 2 0 a.cores
      else (((noted.discardRun c 0).discardRun c 2).disarmFor c.part c.record c.asid c.index).halt c.part 5 1023
        { UnitFault.none with record := c.record, asid := c.asid }) := by
  show execRunCompare k s = _
  simp only [execRunCompare, stands, runs, ended, undecided, stage, lead, trail, third, Bool.not_true, Bool.false_eq_true,
    if_false]
  split
  · rfl
  · split <;> rfl

end

/-! ## Demerits -/

/-- The demerits of a core once its deadline has passed (R344). -/
def Core.decayed (decay : Nat) (c : Core) : Core :=
  if c.demerits = 1 then { c with demerits := 0, deadline := 0 }
  else { c with demerits := c.demerits - 1, deadline := c.deadline + 2 ^ decay }

/-- A demerit of a core falls away once its deadline has passed (R344). -/
theorem execDemeritDecay_passed {core : Nat} {s : State} (there : core < s.cores.length)
    (some_demerit : (s.core core).demerits ≠ 0) (passed : (s.core core).deadline ≤ s.time) : Answers (.demeritDecay core) s (fun u =>
      u.core core = (s.core core).decayed (bits s.assayCtl.toNat 7 2)) := by
  refine ⟨_, rfl, (State.core_modCore s core core _).trans ?_⟩
  rw [if_pos ⟨rfl, there⟩, if_neg (by omega)]
  rfl

/-! ## The injection register -/

section
variable {s : State} {value : Dword}

/-- The register takes a write while it is not armed (R443). -/
theorem State.injectWrite_free (free : s.inject.getLsbD 63 = false) :
    s.injectWrite value = { s with inject := value &&& injectMask } := by
  rw [State.injectWrite, if_neg (Bool.eq_false_iff.1 free)]

/-- An armed register takes no write of ARM = 1 (R443). -/
theorem State.injectWrite_armed (armed : s.inject.getLsbD 63 = true) (arms : value.getLsbD 63 = true) :
    s.injectWrite value = s := by
  rw [State.injectWrite, if_pos armed, if_pos arms]

/-- A write of ARM = 0 disarms it (R443). -/
theorem State.injectWrite_disarms (armed : s.inject.getLsbD 63 = true) (disarms : value.getLsbD 63 = false) :
    s.injectWrite value = { s with inject := s.inject &&& ~~~ (1#64 <<< 63), target := none } := by
  rw [State.injectWrite, if_pos armed, if_neg (Bool.eq_false_iff.1 disarms)]

end

/-- Disarming changes bit 63 alone. -/
theorem disarmed_getLsbD (x : Dword) : (x &&& ~~~ (1#64 <<< 63)).getLsbD 63 = false ∧
    ∀ k, k < 63 → (x &&& ~~~ (1#64 <<< 63)).getLsbD k = x.getLsbD k := by
  refine ⟨by simp, fun k low => ?_⟩
  have elsewhere : (1#64 <<< 63).getLsbD k = false := by rw [BitVec.getLsbD_shiftLeft]; simp [low]
  have inside : k < 64 := by omega
  rw [BitVec.getLsbD_and, BitVec.getLsbD_not, elsewhere]
  simp [inside]

/-! ## The statement -/

/-- Settles O47: the end of a lead, the comparison by the runs that have ended, the verdict by the lines that are left, and the
two registers' writes. -/
theorem checkedRunEvents : Obligations.CheckedRunEvents := by
  refine ⟨⟨fun t s tm c => execLeadEnd_ends, ?_, ?_, ?_, ?_⟩, ?_, ?_, ?_, ?_, ?_⟩
  · intro k s c a b stands ended runs undecided stage lead trail
    have compared := execRunCompare_trail stands runs ended undecided lead trail stage
    exact ⟨fun agree => by rw [compared, if_pos agree], fun differ => by rw [compared, if_neg (by simp [differ])]⟩
  · intro k s c a b d stands ended runs undecided stage lead trail third
    have compared := execRunCompare_third stands runs ended undecided lead trail stage third
    refine ⟨fun agree => ?_, fun differ agree => ?_, fun differ differ' => ?_⟩
    · rw [compared, if_pos agree]
    · rw [compared, if_neg (by simp [differ]), if_pos agree]
    · rw [compared, if_neg (by simp [differ]), if_neg (by simp [differ'])]
  · intro k s c v stands runs decided checked
    have settled := execRunCompare_decided stands runs decided
    refine ⟨fun u released => ⟨?_, State.releaseOne_some released⟩, fun last => ?_⟩
    · rw [settled, State.settleVote_releases released, if_neg checked]
    · rw [settled, State.settleVote_ends last checked]
  · intro k s c v stands runs decided unchecked
    have settled := execRunCompare_decided stands runs decided
    refine ⟨fun u released => ?_, fun last => ?_⟩
    · rw [settled, State.settleVote_releases released, if_pos unchecked]
    · rw [settled, State.settleVote_unchecked last unchecked]
  · intro core s there several passed
    obtain ⟨u, answered, decayed⟩ := execDemeritDecay_passed there (by omega) passed
    rw [Core.decayed, if_neg (by omega)] at decayed
    exact ⟨u, answered, congrArg Core.demerits decayed, congrArg Core.deadline decayed⟩
  · intro core s there single passed
    obtain ⟨u, answered, decayed⟩ := execDemeritDecay_passed there (by omega) passed
    rw [Core.decayed, if_pos single] at decayed
    exact ⟨u, answered, congrArg Core.demerits decayed⟩
  · intro value s free
    have written := State.injectWrite_free (value := value) free
    exact ⟨congrArg Host.Outcome.next written, congrArg Host.Outcome.next written⟩
  · intro value s armed arms
    exact congrArg Host.Outcome.next (State.injectWrite_armed armed arms)
  · intro value s armed disarms
    obtain ⟨off, others⟩ := disarmed_getLsbD s.inject
    exact ⟨_, congrArg Host.Outcome.next (State.injectWrite_disarms armed disarms), rfl, off, others⟩

end Sys2Proof.Machine
end

section
/-! PROOFS. Accesses of the host and register writes (R6, R194, R213, R401). -/

namespace Sys2Proof.Machine

/-! ## Bytes consumed at their homes -/

/-- A halt changes no byte of memory and no registration (R385, R386). -/
theorem State.halt_outside (rs : List Registration) (s : State) (p cause unit : Nat) (x : UnitFault) :
    State.KeepsOutside rs s (s.halt p cause unit x) := .same rfl rfl rfl

/-- Correcting an error changes neither (R186). -/
theorem State.correct_outside (rs : List Registration) (s : State) (pa n : Nat) :
    State.KeepsOutside rs s (s.correct pa n) := by
  unfold State.correct
  dsimp only
  split
  · exact .same rfl rfl rfl
  · exact .refl rs s

/-- Consuming bytes changes neither (R186). -/
theorem State.consume_outside (rs : List Registration) (s : State) (p : Nat) (x : UnitFault) (pa n : Nat) :
    State.KeepsOutside rs s (s.consume p x pa n) := by
  unfold State.consume
  dsimp only
  split
  · exact (s.correct_outside rs pa n).trans (State.halt_outside rs _ _ _ _ _)
  · exact s.correct_outside rs pa n

/-- A read at the home changes no byte that no registration covers (R184, R327). -/
theorem State.readAtHome_outside (s : State) (pa n : Nat) : State.KeepsOutside s.registrations s (s.readAtHome pa n) := by
  have stamped : State.KeepsOutside s.registrations s (s.forwardStamp pa n) := by
    refine State.KeepsOutside.foldl _ _ s (fun _ h => h) fun u l _ _ => ?_
    split
    · exact u.stampLine_outside _ l
    · exact .refl _ u
  exact stamped.trans (State.intoL2s_outside _ _ stamped.1)

/-! ## The host -/

section
variable {p r a n : Nat} {s : State}

/-- A write that its home does not serve is dropped (R213). -/
theorem execHostWrite_unserved {data : List Byte} (reach : s.hostReach p a data.length = false) :
    exec (.hostWrite p r a data) s = .next s := by
  show execHostWrite p r a data s = _
  rw [execHostWrite, reach]
  rfl

/-- Another is made by its home (R213). -/
theorem execHostWrite_served {data : List Byte} (reach : s.hostReach p a data.length = true) :
    exec (.hostWrite p r a data) s = .next (s.plainWrite a data) := by
  show execHostWrite p r a data s = _
  rw [execHostWrite, reach]
  rfl

/-- A write to a register block is a register write (R6). -/
theorem State.plainWrite_registers {bs : List Byte} (home : homeOf a = .registers) :
    s.plainWrite a bs = s.regWrite a bs.length (ofLeBytes bs) := by
  rw [State.plainWrite, home]

/-- Another is a write at its home (R401). -/
theorem State.plainWrite_memory {bs : List Byte} (home : homeOf a ≠ .registers) : s.plainWrite a bs = s.homeWrite 0 a bs := by
  unfold State.plainWrite
  split
  · rename_i registers
    exact absurd registers home
  · rfl

/-- A read that its home does not serve is answered with nothing (R213; log entry 101). -/
theorem execHostRead_unserved (reach : s.hostReach p a n = false) :
    exec (.hostRead p r a n) s = .next { s with reply := [] } := by
  show execHostRead p r a n s = _
  rw [execHostRead, reach]
  rfl

/-- Another is answered with what its home gives, and consumes it in DRAM (R186, R213). -/
theorem execHostRead_served (reach : s.hostReach p a n = true) :
    let read := s.plainRead a n
    exec (.hostRead p r a n) s = .next { (if isDram a then read.2.consume p UnitFault.none a n else read.2) with
      reply := read.1 } := by
  show execHostRead p r a n s = _
  rw [execHostRead, reach]
  rfl

/-- A read of a register block is a register read (R190). -/
theorem State.plainRead_registers (home : homeOf a = .registers) :
    s.plainRead a n = (leBytes (s.regRead a n).1 n, (s.regRead a n).2) := by
  rw [State.plainRead, home]

/-- Another is a read at its home (R401). -/
theorem State.plainRead_memory (home : homeOf a ≠ .registers) : s.plainRead a n = (s.homeBytes 0 a n, s.readAtHome a n) := by
  unfold State.plainRead
  split
  · rename_i registers
    exact absurd registers home
  · rfl

/-- The machine after an AtomicOp: the new value is written, or the line only touched (R350, R401). -/
def State.atomicDone (s : State) (a n : Nat) (new : Option Nat) : State :=
  match new with
  | some y => s.homeWrite 0 a (leBytes y n)
  | none => s.touchLine a

/-- A new value stands at its home. -/
theorem State.atomicDone_some (dram : isDram a = true) (y : Nat) {i : Nat} (hi : i < n) :
    Memory.get (s.atomicDone a n (some y)).dram (a + i) = (leBytes y n).getD i 0 :=
  s.homeWrite_dram 0 a (leBytes y n) i dram (by rwa [length_leBytes])

/-- Without one no byte changes. -/
theorem State.atomicDone_none : (s.atomicDone a n none).dram = s.dram := by
  show (s.touchLine a).dram = s.dram
  unfold State.touchLine
  split <;> rfl

/-- An AtomicOp that its home serves answers the old value (R194, R401). -/
theorem execHostAtomic_served {op : HostAtomicOp} {x c : Nat} (reach : s.hostReach p a n = true) (dram : isDram a = true)
    (aligned : a % n = 0) (size : n = 4 ∨ n = 8 ∨ n = 16 ∧ op = .cas) :
    let u := (s.recall a n).consume p UnitFault.none a n
    exec (.hostAtomic p op a n x c) s = .next
      { u.atomicDone a n (hostAtomicNew op (ofLeBytes (u.homeBytes 0 a n)) x c n) with reply := u.homeBytes 0 a n } := by
  have width : (n == 4 || n == 8 || (n == 16 && op == .cas)) = true := by simpa [or_assoc] using size
  show execHostAtomic p op a n x c s = _
  rw [execHostAtomic, width, dram, reach, aligned]
  rfl

end

/-! ## Register writes -/

section
variable {p a : Nat} {w : Dword} {s : State}

/-- 0x11 names CR_HOLD_WAYS, which takes at most 8 (R185; log entry 30). -/
theorem execRegisterWrite_holdWays : exec (.registerWrite p 0x11 w) s =
    .next (if bits w.toNat 3 0 ≤ 8 then { s with holdWays := bits w.toNat 3 0 } else s) := by
  show execRegisterWrite p 0x11 w s = _
  rw [execRegisterWrite, if_pos rfl]
  simp only [← not_le, ite_not]

/-- A small multiple of 8 is an offset in the partition's block (R217; log entry 30). -/
theorem execRegisterWrite_offset (aligned : a % 8 = 0) (offset : a < 0x1000) :
    exec (.registerWrite p a w) s = .next (s.writePart p a w) := by
  show execRegisterWrite p a w s = _
  rw [execRegisterWrite, if_neg (by omega), if_neg (not_not.2 aligned), if_pos offset]

/-- Another is a physical address (R217, R397; log entry 30). -/
theorem execRegisterWrite_address (aligned : a % 8 = 0) (address : 0x1000 ≤ a) :
    exec (.registerWrite p a w) s = .next (s.regPut a w) := by
  show execRegisterWrite p a w s = _
  rw [execRegisterWrite, if_neg (by omega), if_neg (not_not.2 aligned), if_neg (by omega)]

end

/-- Settles O53: each access by whether its home serves it and by what its home is, and a register write by the form of its
address. -/
theorem hostAccesses : Obligations.HostAccesses := by
  refine ⟨?_, ?_, fun _ _ _ _ _ => execHostWrite_unserved, ?_, ?_, fun _ _ _ _ _ => execHostRead_unserved, ?_,
    fun _ _ _ _ _ => execRegisterWrite_offset, fun _ _ _ _ => execRegisterWrite_address,
    fun _ _ _ => execRegisterWrite_holdWays⟩
  · intro p r a data s reach home dram
    exact ⟨_, (execHostWrite_served reach).trans (by rw [State.plainWrite_memory home]),
      fun i hi => s.homeWrite_dram 0 a data i dram hi⟩
  · intro p r a data s reach home
    rw [execHostWrite_served reach, State.plainWrite_registers home]
  · intro p r a n s reach home
    refine ⟨_, execHostRead_served reach, ?_⟩
    rw [State.plainRead_memory home]
    refine ⟨rfl, fun x free => ?_⟩
    have read := s.readAtHome_outside a n
    dsimp only
    split
    · exact (read.trans (State.consume_outside _ _ p UnitFault.none a n)).2 x free
    · exact read.2 x free
  · intro p r a n s reach home
    refine ⟨_, execHostRead_served reach, ?_⟩
    rw [State.plainRead_registers home]
  · intro p op a n x c s reach dram aligned size u new
    refine ⟨_, execHostAtomic_served reach dram aligned size, rfl, fun y written i hi => ?_, fun kept => ?_⟩
    · exact (congrArg (fun v => Memory.get (u.atomicDone a n v).dram (a + i)) written).trans (u.atomicDone_some dram y hi)
    · exact (congrArg (fun v => (u.atomicDone a n v).dram) kept).trans u.atomicDone_none

end Sys2Proof.Machine
end

section
/-! PROOFS. The state after a device reset (R217, R224, R227, R235, R345, R387, R389, R397, R403, R415, R459, R461). -/

namespace Sys2Proof.Machine

/-- After a device reset every partition is as one is reset. -/
theorem State.reset_part (p : Nat) : State.reset.part p = Partition.reset := by
  show ((List.replicate 8 Partition.reset)[p]?).getD Partition.reset = Partition.reset
  rw [List.getElem?_replicate]
  split <;> rfl

/-- After a device reset every cluster is as one of its number is reset. -/
theorem State.reset_cluster (k : Nat) : State.reset.cluster k = Cluster.reset k := by
  show (((List.range 32).map Cluster.reset)[k]?).getD (Cluster.reset k) = Cluster.reset k
  rw [List.getElem?_map]
  rcases Nat.lt_or_ge k 32 with inside | past
  · rw [List.getElem?_range inside]
    rfl
  · rw [List.getElem?_eq_none (List.length_range.trans_le past)]
    rfl

/-- After a device reset no memory lists a byte. -/
theorem State.reset_canonical : State.reset.canonical = true := by
  have dram : State.reset.dram = [] := rfl
  have hostMem : State.reset.hostMem = [] := rfl
  have kpad : State.reset.kpad = [] := rfl
  have flash : State.reset.mgmt.flash = [] := rfl
  simp only [State.canonical, dram, hostMem, kpad, flash, Memory.wf_nil, Bool.and_self]

/-- Settles O5: each partition, each cluster and the management core are as its own reset state gives them, and no memory
lists a byte. -/
theorem resetState : Obligations.ResetState := by
  refine ⟨rfl, rfl, State.reset_canonical, rfl, rfl, rfl, rfl, fun p _ => ?_, fun k _ => ?_⟩
  · rw [State.reset_part]
    exact ⟨rfl, rfl, rfl, rfl, rfl, rfl, rfl⟩
  · rw [State.reset_cluster]
    exact ⟨rfl, rfl, rfl, rfl⟩

end Sys2Proof.Machine
end

section
/-! PROOFS. Instructions on team records, from their issue to the group's queue (R244–R246, R326, R335). -/

namespace Sys2Proof.Machine

section
variable {i : Instr} {f : Fields} {s : State} {v : View}

/-- The machine after the threads whose record is misaligned have trapped, and the others have signed their record and are counted
(R244, R335). -/
def View.recordsSigned (v : View) (s : State) : State :=
  countExec v.t v.gi (lanesIn (v.good (recordReach v)))
    (signRecords v (v.good (recordReach v)) (v.checked (recordReach v) s))

/-- JADD queues its additions and has no destination; a replaying run queues none (R244, R326). -/
theorem execJadd_issue (h : s.issue? sources (.jadd f) = some v) :
    let u := v.recordsSigned s
    exec (.jadd f) s = .next (retire v.t v.gi 1 (if v.team.replays then u.fresh.2
      else sendRecords v u.fresh.1 0 true (v.good (recordReach v)) (fun l => v.b l % 2 ^ 32) (fun _ => 0) u.fresh.2)) := by
  show execJadd f s = _
  rw [execJadd, frame, frameWith_issue _ h]
  rfl

/-- An instruction that arms records marks the destinations of its statuses empty and queues its accesses (R245, R246). -/
theorem armLanes_issue {aop : Nat} {data cmp : View → Nat → Nat} (hx : exec i s = armLanes i aop data cmp s)
    (h : s.issue? sources i = some v) :
    let good := v.good (recordReach v)
    let u := v.recordsSigned s
    exec i s = .next (retire v.t v.gi 1 (sendRecords v u.fresh.1 aop false good (data v) (cmp v)
      (sendLong v u.fresh.1 1 .none (lanesIn good) [] false [] u.fresh.2))) := by
  rw [hx, armLanes, frame, frameWith_issue _ h]
  rfl

end

/-- Settles O34: JADD by its own effect, LAUNCH and SPAWN as `armLanes` with their operands. -/
theorem recordInstructionsExecute : Obligations.RecordInstructionsExecute := by
  intro f s v good signed arms
  have arming (i : Instr) (aop : Nat) (data cmp : View → Nat → Nat) (hx : exec i s = armLanes i aop data cmp s) :
      arms i aop (data v) (cmp v) := armLanes_issue hx
  exact ⟨execJadd_issue, arming (.launch f) 1 (fun _ _ => 0) (fun _ _ => 0) rfl,
    arming (.spawn f) 2 (fun v l => bits (v.operand v.form.b f.b.toNat l) 51 0) (fun v l => bits (v.c l) 51 0) rfl⟩

end Sys2Proof.Machine
end

section
/-! PROOFS. The scheduler by the steps of the device: kicks, placement, pre-emption and saves, and the end of a team (R204, R234,
R235, R239–R241, R245, R247–R250, R317, R464). -/

namespace Sys2Proof.Machine

/-! ## Kicks -/

section
variable {part : Nat} {record : Dword} {s : State}

/-- Dies that are held in reset take no kick (R464). -/
theorem execKick_held (held : s.diesHeld = true) : exec (.kick part record) s = .next s := by
  show execKick part record s = _
  rw [execKick, if_pos held]

/-- A kick that is taken leaves a status: 5 without a configuration, 2 for a misaligned record, otherwise that of the arming
(R235, R245, R410); a partition that has halted, or that the arming halts, keeps its own (log entry 60). -/
theorem execKick_taken (runs : s.diesHeld = false) : exec (.kick part record) s = .next (
    let status := fun (n : Nat) (u : State) => u.modPart part (fun x => { x with schedStatus := n })
    let armed := s.arm part (s.part part).kickAsid (bits record.toNat 51 0) 1023 UnitFault.none
    if s.configuration = 0 then status 5 s
    else if (s.part part).halted = true then s
    else if bits record.toNat 51 0 % 32 ≠ 0 then status 2 s
    else if (armed.2.part part).halted = true then armed.2 else status armed.1 armed.2) := by
  show execKick part record s = _
  rw [execKick, if_neg (Bool.eq_false_iff.1 runs)]
  simp only [apply_ite Host.Outcome.next]

end

/-! ## Placement -/

section
variable {part : Nat} {s : State}

/-- Dies that are held in reset place no team (R464). -/
theorem execTeamPlacement_held (held : s.diesHeld = true) : exec (.teamPlacement part) s = .next s := by
  show execTeamPlacement part s = _
  rw [execTeamPlacement, held, Bool.or_true]
  rfl

/-- Otherwise a partition that runs tries the entries of its ready queues in order (R240). -/
theorem execTeamPlacement_tries (runs : s.diesHeld = false) (live : (s.part part).halted = false)
    (placing : (s.part part).paused = false) :
    exec (.teamPlacement part) s = .next (s.placeFirst part (s.part part).entries) := by
  show execTeamPlacement part s = _
  rw [execTeamPlacement, runs, live, placing]
  rfl

section
variable {level : Nat} {e : Nat × Nat} (rest : List (Nat × (Nat × Nat)))

/-- An entry that can be placed is the one (R240). -/
theorem State.placeFirst_placed {u : State} (tried : s.tryEntry part e = .placed u) :
    s.placeFirst part ((level, e) :: rest) = u := by
  rw [State.placeFirst, tried]

/-- One that fits no core asks for room, and those behind it wait (R240). -/
theorem State.placeFirst_block {lb : LaunchBlock} (tried : s.tryEntry part e = .block lb) :
    s.placeFirst part ((level, e) :: rest) = s.askRoom part level lb := by
  rw [State.placeFirst, tried]

/-- One that cannot run now is passed over (R240). -/
theorem State.placeFirst_skip (tried : s.tryEntry part e = .skip) :
    s.placeFirst part ((level, e) :: rest) = s.placeFirst part rest := by
  rw [State.placeFirst, tried]

end

end

/-! ## Pre-emption and saves -/

/-- A request for a core raises the flag of every team on it (R247). -/
theorem execPreempt_core {part c : Nat} {value : Dword} {s : State} (core : s.logicalCore (bits value.toNat 6 0) = some c) :
    exec (.preempt part value) s = .next { s with teams := s.teams.map (fun kt =>
      if kt.2.core = c then (kt.1, kt.2.raise) else kt) } := by
  show execPreempt part value s = _
  simp only [execPreempt, core]

section
variable {t : Nat} {s : State} {tm : Team} (ht : s.team? t = some tm)
include ht

section
variable (may : s.maySave tm = true)
include may

/-- A requested team whose groups have all stopped saves (R248). -/
theorem execVoluntarySave_stopped (stopped : tm.groups.all (s.groupStopped tm) = true) :
    exec (.voluntarySave t) s = .next (s.modTeam t (fun tm => { tm with save := 1 })) := by
  show execVoluntarySave t s = _
  simp only [execVoluntarySave, ht, may, stopped, Bool.and_self, if_true]

/-- One whose budget has run out is forced to (R249). -/
theorem execForcedSave_spent (spent : tm.budgetLeft = 0) :
    exec (.forcedSave t) s = .next (s.modTeam t (fun tm => { tm with save := 2 })) := by
  show execForcedSave t s = _
  simp only [execForcedSave, ht, may, spent, beq_self_eq_true, Bool.and_self, if_true]

end

/-- The image is written once the waits are over, and the saved record enters its ready queue unless its write has halted the
partition (R229, R250). -/
theorem execSaveImageWrite_drained {g : Grid} (hg : s.grid? tm.part tm.asid tm.record = some g) (saving : tm.save ≠ 0)
    (present : tm.fault = none) (live : (s.part tm.part).halted = false) (drained : s.drained t tm = true)
    (rest : s.enginesRest t tm = true) :
    let saved := s.writeSave t tm g tm.save
    exec (.saveImageWrite t) s = .next (if (saved.part tm.part).halted then saved
      else saved.runRec (.enqueue tm.part g.prio tm.slot tm.asid false)) := by
  intro saved
  show execSaveImageWrite t s = _
  simp only [execSaveImageWrite, ht, hg, saving, present, live, drained, rest, decide_false, Option.isSome_none, Bool.not_true,
    Bool.or_self, Bool.false_eq_true, if_false]
  exact (apply_ite Host.Outcome.next _ _ _).symm

/-! ## The end of a team -/

/-- The resources of a run that has ended go back; an unchecked team has then ended, and a trail or a third run leaves its result
(R241, R317, R338). -/
theorem execTeamEnd_finished (live : (s.part tm.part).halted = false) (finished : (s.mayEnd t tm || tm.diverged) = true)
    (own : tm.mode ≠ .lead) : exec (.teamEnd t) s = .next (
    if tm.mode = .unchecked then (s.reclaim t).runRec (.ended tm.part tm.asid tm.record tm.index)
    else (s.reclaim t).modChecked tm (fun c =>
      if tm.mode = .trail then { c with trail := some tm.result, ended := true }
      else { c with third := some tm.result, ended := true })) := by
  have not_lead : (tm.mode == .lead) = false := beq_eq_false_iff_ne.2 own
  show execTeamEnd t s = _
  simp only [execTeamEnd, ht, live, finished, not_lead, Bool.not_true, Bool.or_self, Bool.false_eq_true, if_false,
    apply_ite Host.Outcome.next]

end

/-! ## The statement -/

/-- Settles O44: a kick by the first condition that decides it, placement by what becomes of the first entry, and saves and the end
of a team by what they wait for. -/
theorem schedulerEvents : Obligations.SchedulerEvents := by
  refine ⟨fun part record s held => ⟨execKick_held held, execTeamPlacement_held held⟩, ?_, ?_, ?_, ?_, ?_,
    fun _ _ _ _ => execPreempt_core, fun _ _ _ => execVoluntarySave_stopped, fun _ _ _ => execForcedSave_spent,
    fun _ _ _ _ ht => execSaveImageWrite_drained ht, ?_, ?_⟩
  · intro part record s runs configured halted
    rw [execKick_taken runs, if_neg configured, if_pos halted]
  · intro part record s runs unconfigured
    rw [execKick_taken runs, if_pos unconfigured]
  · intro part record s runs configured live misaligned
    rw [execKick_taken runs, if_neg configured, if_neg (Bool.eq_false_iff.1 live), if_pos misaligned]
  · intro part record s st u runs configured live aligned arms
    rw [execKick_taken runs, if_neg configured, if_neg (Bool.eq_false_iff.1 live), if_neg (not_not_intro aligned), arms]
  · intro part s level e rest runs live placing entries
    rw [execTeamPlacement_tries runs live placing, entries]
    exact ⟨fun u tried => congrArg _ (State.placeFirst_placed rest tried),
      fun lb tried => congrArg _ (State.placeFirst_block rest tried),
      fun tried => congrArg _ (State.placeFirst_skip rest tried)⟩
  · intro t s tm ht live finished unchecked
    rw [execTeamEnd_finished ht live finished (by simp [unchecked]), if_pos unchecked]
  · intro t s tm ht live finished replays
    have checked : tm.mode ≠ .lead ∧ tm.mode ≠ .unchecked := by rcases replays with m | m <;> simp [m]
    rw [execTeamEnd_finished ht live finished checked.1, if_neg checked.2]

end Sys2Proof.Machine
end

section
/-! PROOFS. The matrix sequencer: matrix operations from their checks to the end of their reservation, what products and tile
instructions write, and the control of the stream (R259–R285, R314, R390). -/

namespace Sys2Proof.Machine

/-! ## Checks in order -/

/-- The first check that has not passed decides (R260). -/
@[simp] theorem firstFail_cons (ok : Bool) (code : Nat) (cs : List (Bool × Nat)) :
    firstFail ((ok, code) :: cs) = if ok = false then some code else firstFail cs := by
  cases ok <;> rfl

/-- Where no check is left, none has failed. -/
@[simp] theorem firstFail_nil : firstFail [] = none := rfl

/-- The checks of a matrix operation in their order: format, tile slots, window and operand (R260). -/
theorem firstFail_in_order (format slots window operand : Bool) :
    firstFail [(format, 4), (slots, 2), (window, 6), (operand, 3)] =
      if format = false then some 4 else if slots = false then some 2 else if window = false then some 6
      else if operand = false then some 3 else none := by
  simp only [firstFail_cons, firstFail_nil]

/-- A matrix operation that reaches no window cannot fail that check. -/
theorem firstFail_windowless (format slots operand : Bool) :
    firstFail [(format, 4), (slots, 2), (operand, 3)] = firstFail [(format, 4), (slots, 2), (true, 6), (operand, 3)] := by
  simp

/-- A matrix operation that reaches no window passes where its format, its slots and its operand do. -/
theorem firstFail_passes {format slots operand : Bool} (passes : (format && (slots && operand)) = true) :
    firstFail [(format, 4), (slots, 2), (operand, 3)] = none := by
  simp only [Bool.and_eq_true] at passes
  simp [passes]

/-- One that takes tile slots and nothing else can fail only their check. -/
theorem firstFail_slots (slots : Bool) :
    firstFail [(slots, 2)] = firstFail [(true, 4), (slots, 2), (true, 6), (true, 3)] := by
  simp

/-- The bytes that TST writes at a row stand where they may (R265, R278): those of a window map in the target's window, where
there is one, the others below Q. -/
def tstRowOk (s : State) (t : Nat) (tm : Team) (m : OperandMap) (y : Nat) : Bool :=
  if m.win then
    (s.windowOf t tm m.base).all (fun ko => (m.rowBytes m.koff 64).all (fun o => decide (m.windowAt y o < ko.2.lb.win)))
  else windowOk tm m y 64

/-- TST checks its bytes row by row (R278). -/
theorem tstCheck_eq (s : State) (t : Nat) (tm : Team) (f : Fields) :
    let m := tm.om f.a.toNat
    tstCheck s t tm f = firstFail [
      (loadable m.format && !m.mx, 4),
      (slotsOk tm f.d.toNat 1, 2),
      (!m.win || (s.windowOf t tm m.base).isSome || (tm.replays && tm.lb.win != 0), 6),
      (m.useOk && (List.range 64).all (tstRowOk s t tm m), 3)] := by
  intro m
  unfold tstCheck
  cases hw : (tm.om f.a.toNat).win with
  | false => simp [m, hw, tstRowOk]
  | true => cases ht : s.windowOf t tm (tm.om f.a.toNat).base <;> simp [m, hw, ht, tstRowOk]

/-! ## The tile instructions by their checks and effects -/

/-- TZERO's check of its slots (R276). -/
def tzeroCheck (_ : State) (_ : Nat) (tm : Team) (f : Fields) : Option Nat :=
  firstFail [(slotsOk tm f.d.toNat f.b.toNat, 2)]

/-- TZERO clears its slots (R276). -/
def tzeroEffect (s : State) (t : Nat) (_ : Team) (f : Fields) : State :=
  s.modTeam t (fun tm =>
    { tm with tiles := tm.tiles.filter (fun kv =>
        !(f.d.toNat * 4096 ≤ kv.1 && kv.1 < (f.d.toNat + f.b.toNat) * 4096)) })

/-- TLD's checks (R277). -/
def tldCheck (_ : State) (_ : Nat) (tm : Team) (f : Fields) : Option Nat :=
  let m := tm.om f.a.toNat
  firstFail [(loadable m.format && !m.mx && !m.win, 4), (slotsOk tm f.d.toNat 1, 2),
    (m.useOk && (List.range 64).all (fun x => windowOk tm m x 64), 3)]

/-- TLD writes its slot's words; with .adv its map moves on (R277). -/
def tldEffect (s : State) (t : Nat) (tm : Team) (f : Fields) : State :=
  let m := tm.om f.a.toNat
  let words := tilePlaces.map (fun rc =>
    (tileKey f.d.toNat rc.1 rc.2, tldWord m.format (elementBits tm m rc.1 (m.koff + rc.2))))
  advance64 (s.modTeam t (fun tm => words.foldl (fun (tm : Team) kw => tm.putTile kw.1 kw.2) tm)) t f

/-- TEPI's checks; `g` holds its switches for a scale and a bias (R279). -/
def tepiCheck (g : Fields) (_ : State) (_ : Nat) (tm : Team) (f : Fields) : Option Nat :=
  let scl := g.minor.getLsbD 3
  let bias := g.minor.getLsbD 4
  let a := tm.om f.a.toNat
  let b := tm.om f.b.toNat
  firstFail [((!scl || vectorOk a) && (!bias || vectorOk b), 4), (slotsOk tm f.d.toNat 1, 2),
    ((!scl || (a.useOk && windowOk tm a 0 64)) && (!bias || (b.useOk && windowOk tm b 0 64)), 3)]

/-- TEPI scales, biases and activates its slot's words (R279). -/
def tepiEffect (g : Fields) (s : State) (t : Nat) (tm : Team) (f : Fields) : State :=
  let scl := g.minor.getLsbD 3
  let bias := g.minor.getLsbD 4
  let words := tilePlaces.map (fun rc =>
    let x := tm.tile f.d.toNat rc.1 rc.2
    let scale := if scl then vectorAt tm (tm.om f.a.toNat) rc.2 else 0x3F800000
    let addend := if bias then vectorAt tm (tm.om f.b.toNat) rc.2 else 0
    let y := if !scl && !bias then x else (fFma (fmtOf 14) 0 false false x scale addend).1
    (tileKey f.d.toNat rc.1 rc.2, activation (f.minor.toNat % 8) y))
  s.modTeam t (fun tm => words.foldl (fun (tm : Team) kw => tm.putTile kw.1 kw.2) tm)

/-- TZERO by its check and its effect. -/
theorem exec_tzero (f : Fields) (s : State) :
    exec (.tzero f) s = macroOp (.tzero f) (fun _ _ => 1) tzeroCheck tzeroEffect s := rfl

/-- TLD by its checks and its effect. -/
theorem exec_tld (f : Fields) (s : State) :
    exec (.tld f) s = macroOp (.tld f) (fun _ _ => 3) tldCheck tldEffect s := rfl

/-- TST stores one row at a time and goes on until its last (R278, R314). -/
theorem exec_tst (f : Fields) (s : State) :
    exec (.tst f) s = macroOp (.tst f) (fun _ _ => 3) tstCheck tstRow s (fun tm => decide (tm.seq.row < 63)) := rfl

/-- TEPI by its checks and its effect. -/
theorem exec_tepi (f : Fields) (s : State) :
    exec (.tepi f) s = macroOp (.tepi f) (fun _ _ => 3) (tepiCheck f) (tepiEffect f) s := rfl

/-! ## Matrix operations -/

section
variable {i : Instr} {s : State} {t : Nat} {tm : Team} {r : ClauseRun} {f : Fields} {size : Team → Fields → Nat}
  {check : State → Nat → Team → Fields → Option Nat} {effect : State → Nat → Team → Fields → State}
  {more : Team → Bool}

/-- A matrix operation whose check fails halts the partition and has no other effect (R260). -/
theorem macroOp_halts {code : Nat} (h : s.matIssue? i = some (t, tm, r, f)) (first : tm.seq.row = 0)
    (fails : check s t tm f = some code) :
    macroOp i size check effect s more = stall (matrixHalt t r.addr r.idx code s) := by
  rw [macroOp, matFrame_issue _ h, if_pos first, fails]

/-- One that passes its check, or has passed it at an earlier row, acts once its reservation is granted, and until then asks for
it at its turn (R259, R285, R390). -/
theorem macroOp_passed (h : s.matIssue? i = some (t, tm, r, f)) (passes : tm.seq.row = 0 → check s t tm f = none) :
    macroOp i size check effect s more =
      if tm.seq.res = 2 then
        if more tm then stall (effect s t tm f)
        else .next (seqRetire t r ((effect s t tm f).modSeq t (fun q => { q with res := 0, busy := true })))
      else if tm.seq.res = 1 ∨ (s.cluster (clusterOf tm.core)).requests.any (fun q => q.requester == 20 + tm.core % 4) ∨
          !s.matrixTurn tm then stall s
      else stall ((s.ask (clusterOf tm.core) (20 + tm.core % 4) (size tm f) (s.levelOf tm) t 0).modSeq t
        (fun q => { q with res := 1 })) := by
  have none_fails : (if tm.seq.row = 0 then check s t tm f else none) = none := ite_eq_right_iff.2 passes
  rw [macroOp, matFrame_issue _ h, none_fails]
  by_cases granted : tm.seq.res = 2 <;> simp [granted]

/-- A matrix operation that has been granted acts and retires; its sequencer is busy until its cycles have passed (R259). -/
theorem macroOp_retires (h : s.matIssue? i = some (t, tm, r, f)) (run : exec i s = macroOp i size check effect s more)
    (granted : tm.seq.res = 2) (passes : tm.seq.row = 0 → check s t tm f = none) (last : more tm = false) :
    exec i s = .next (seqRetire t r ((effect s t tm f).modSeq t (fun q => { q with res := 0, busy := true }))) := by
  rw [run, macroOp_passed h passes, if_pos granted, last, if_neg Bool.false_ne_true]

/-- One that has more to do after its effect goes on with its reservation (R314). -/
theorem macroOp_goesOn (h : s.matIssue? i = some (t, tm, r, f)) (run : exec i s = macroOp i size check effect s more)
    (granted : tm.seq.res = 2) (passes : tm.seq.row = 0 → check s t tm f = none) (goes : more tm = true) :
    exec i s = stall (effect s t tm f) := by
  rw [run, macroOp_passed h passes, if_pos granted, if_pos goes]

/-- Before it has been granted, a matrix operation halts, asks or waits (R260, R285, R390). -/
theorem macroOp_ungranted {result : Option Nat} (h : s.matIssue? i = some (t, tm, r, f))
    (run : exec i s = macroOp i size check effect s more) (checked : check s t tm f = result) :
    (∀ code, tm.seq.row = 0 → result = some code → exec i s = stall (matrixHalt t r.addr r.idx code s)) ∧
    (tm.seq.row ≠ 0 ∨ result = none →
      let queued := (s.cluster (clusterOf tm.core)).requests.any (fun q => q.requester == 20 + tm.core % 4) = true
      (tm.seq.res = 0 → ¬ queued → s.matrixTurn tm = true → exec i s =
        stall ((s.ask (clusterOf tm.core) (20 + tm.core % 4) (size tm f) (s.levelOf tm) t 0).modSeq t
          (fun q => { q with res := 1 }))) ∧
      (tm.seq.res = 1 ∨ (tm.seq.res = 0 ∧ (queued ∨ s.matrixTurn tm = false)) → exec i s = stall s)) := by
  subst checked
  rw [run]
  refine ⟨fun code first fails => macroOp_halts h first fails, fun passes => ?_⟩
  rw [macroOp_passed h (fun first => passes.resolve_left (not_not_intro first))]
  refine ⟨fun unasked free turn => ?_, fun waits => ?_⟩
  · rw [if_neg (by simp [unasked]), if_neg (by simp [unasked, turn, eq_false_of_ne_true free])]
  · rcases waits with asked | ⟨unasked, blocked⟩
    · rw [if_neg (by simp [asked]), if_pos (.inl asked)]
    · rw [if_neg (by simp [unasked]), if_pos (.inr (by simpa using blocked))]

end

/-- At MATRIX_OP_COMPLETE a busy sequencer becomes free and its reservation returns to the arbiter (R259, R285). -/
theorem execMatrixOpComplete_busy {s : State} {t : Nat} {tm : Team} (ht : s.team? t = some tm) (busy : tm.seq.busy = true) :
    exec (.matrixOpComplete t) s =
      .next ((s.modSeq t (fun q => { q with busy := false })).modCluster (clusterOf tm.core) (fun x => { x with
        holdings := x.holdings.filter (fun h => !(h.requester == 20 + tm.core % 4 && h.team == t)) })) := by
  show execMatrixOpComplete t s = _
  simp [execMatrixOpComplete, ht, busy]

/-- Settles O38: every matrix operation by what `macroOp` does before the grant, with its own checks. -/
theorem macroOperationsExecute : Obligations.MacroOperationsExecute := by
  refine ⟨?_, fun s t tm => execMatrixOpComplete_busy⟩
  intro f s t tm r engine asked whole x a b k first mma own target stored scl bias
  have windowless (format slots operand : Bool) :=
    (firstFail_windowless format slots operand).trans (firstFail_in_order format slots true operand)
  have multiplies (i : Instr) (run : exec i s = macroOp i mmaSize mmaCheck mmaEffect s) : whole i (mmaSize tm f) mma :=
    fun h => macroOp_ungranted h run (windowless ..)
  have by_row : (List.range 64).all (tstRowOk s t tm (tm.om f.a.toNat)) = stored := by
    unfold stored target tstRowOk
    cases s.windowOf t tm (tm.om f.a.toNat).base <;> rfl
  refine ⟨multiplies _ rfl, multiplies _ rfl, multiplies _ rfl, multiplies _ rfl,
    fun h => macroOp_ungranted h (exec_tzero f s) ((firstFail_slots _).trans (firstFail_in_order ..)),
    fun h => macroOp_ungranted h (exec_tld f s) (windowless ..), fun h => macroOp_ungranted h (exec_tst f s) ?_,
    fun h => macroOp_ungranted h (exec_tepi f s) (windowless ..)⟩
  rw [tstCheck_eq, firstFail_in_order, by_row]
  rfl

/-! ## What matrix operations write -/

/-- Settles O39: the products as `mmaEffect`, the tile instructions as their effects, TST by its place between the rows. -/
theorem matrixInstructionsExecute : Obligations.MatrixInstructionsExecute := by
  refine ⟨?_, fun f s t tm r => ?_⟩
  · intro f s t tm r busy x a b words written moved advanced runs
    have multiplies (i : Instr) (run : exec i s = macroOp i mmaSize mmaCheck mmaEffect s) : runs i :=
      fun h granted passes => macroOp_retires h run granted (fun _ => passes) rfl
    exact ⟨multiplies _ rfl, multiplies _ rfl, multiplies _ rfl, multiplies _ rfl⟩
  · refine ⟨fun h granted ok => macroOp_retires h (exec_tzero f s) granted (fun _ => ?_) rfl,
      fun h granted ok => macroOp_retires h (exec_tld f s) granted (fun _ => ?_) rfl,
      fun h granted passes => ⟨fun inner => ?_, fun last => ?_⟩,
      fun h granted ok => macroOp_retires h (exec_tepi f s) granted (fun _ => ?_) rfl⟩
    · simpa [tzeroCheck, slotsOk] using ok
    · exact firstFail_passes (slots := decide (f.d.toNat < tm.lb.tiles)) (by simpa only [Bool.and_assoc] using ok)
    · exact (macroOp_goesOn h (exec_tst f s) granted passes (decide_eq_true inner)).trans (congrArg stall (if_pos inner))
    · have not_inner : ¬ tm.seq.row < 63 := not_lt.2 last
      refine (macroOp_retires h (exec_tst f s) granted passes (decide_eq_false not_inner)).trans ?_
      rw [tstRow, if_neg not_inner]
    · exact firstFail_passes (slots := decide (f.d.toNat < tm.lb.tiles)) (by simpa only [Bool.and_assoc] using ok)

/-! ## Control of the stream -/

/-- The value that OMAP writes (R275). -/
def omapValue (f : Fields) : Nat := match f.lit with | some w => w.toNat | none => f.b.toNat

/-- OMAP's checks of its value: a format by its fields, a base and a pitch by their alignment (R263). -/
def omapCheck (f : Fields) : Option Nat :=
  let code := f.minor.toNat
  let x := omapValue f
  firstFail [(code != 3 || (bits x 31 11 == 0 && bits x 7 6 == 0 && bits x 3 0 ≤ 10), 4), (1 < code || x % 16 == 0, 3)]

/-- The field of a map may hold the value (R263). -/
def OmapAllowed (f : Fields) : Prop :=
  (f.minor.toNat = 3 →
    bits (omapValue f) 31 11 = 0 ∧ bits (omapValue f) 7 6 = 0 ∧ bits (omapValue f) 3 0 ≤ 10) ∧
  (f.minor.toNat ≤ 1 → omapValue f % 16 = 0)

/-- A value that is allowed passes OMAP's checks. -/
theorem omapCheck_allowed {f : Fields} (allowed : OmapAllowed f) : omapCheck f = none := by
  obtain ⟨format, aligned⟩ := allowed
  by_cases isFormat : f.minor.toNat = 3
  · simp [omapCheck, isFormat, format isFormat]
  · by_cases isAddress : f.minor.toNat ≤ 1
    · simp [omapCheck, isFormat, aligned isAddress]
    · simp [omapCheck, isFormat, not_le.1 isAddress]

/-- A format that is not allowed fails with code 4, a base or a pitch with code 3. -/
theorem omapCheck_not_allowed {f : Fields} (bad : ¬ OmapAllowed f) :
    omapCheck f = some (if f.minor.toNat = 3 then 4 else 3) := by
  by_cases isFormat : f.minor.toNat = 3
  · have bad_format : ¬ (bits (omapValue f) 31 11 = 0 ∧ bits (omapValue f) 7 6 = 0 ∧ bits (omapValue f) 3 0 ≤ 10) :=
      fun ok => bad ⟨fun _ => ok, fun low => by omega⟩
    simpa [omapCheck, isFormat, and_assoc] using bad_format
  · obtain ⟨isAddress, misaligned⟩ : f.minor.toNat ≤ 1 ∧ omapValue f % 16 ≠ 0 := by
      by_contra ok
      exact bad ⟨fun k => absurd k isFormat, fun low => by_contra fun odd => ok ⟨low, odd⟩⟩
    simp [omapCheck, isFormat, misaligned, not_lt.2 isAddress]

section
variable {i : Instr} {f : Fields} {s : State} {t : Nat} {tm : Team} {r : ClauseRun}

/-- OMAP sets a field of a map to a value that passes its checks (R275). -/
theorem execOmap_passes (h : s.matIssue? (.omap f) = some (t, tm, r, f)) (passes : omapCheck f = none) :
    exec (.omap f) s =
      .next (seqRetire t r (s.modSeq t (fun q => q.modMap f.d.toNat (·.set f.minor.toNat (omapValue f))))) := by
  show execOmap f s = _
  rw [execOmap, matFrame_issue _ h]
  split
  next c fails => exact absurd (passes.symm.trans fails) (by simp)
  next => rfl

/-- OMAP of a value that fails a check halts the partition with the check's code (R260). -/
theorem execOmap_fails {code : Nat} (h : s.matIssue? (.omap f) = some (t, tm, r, f)) (fails : omapCheck f = some code) :
    exec (.omap f) s = stall (matrixHalt t r.addr r.idx code s) := by
  show execOmap f s = _
  rw [execOmap, matFrame_issue _ h]
  split
  next c first => rw [Option.some.inj (first.symm.trans fails)]
  next passes => exact absurd (passes.symm.trans fails) (by simp)

/-- An arrival of the sequencer at a team barrier (R280): one that the completion of a phase has made lets the stream go on, one
in a phase that holds the sequencer's bit is held, and any other is made at once. -/
theorem seqArrive_meets {waits : Bool} (run : exec i s = seqArrive i waits s) (h : s.matIssue? i = some (t, tm, r, f)) :
    let barrier := (tm.barriers[f.a.toNat]?).getD .fresh
    let now := (s.core tm.core).cycles
    (tm.seq.arrived = true → exec i s = .next ((seqRetire t r s).modSeq t (fun q => { q with arrived := false }))) ∧
    (tm.seq.arrived = false → barrier.seq = true → exec i s =
      stall (s.modSeq t (fun q => { q with mode := 2, barrier := f.a.toNat, held := some (f.b.toNat, waits) }))) ∧
    (tm.seq.arrived = false → barrier.seq = false → exec i s = .next ((seqRetire t r s).modTeam t (fun tm =>
      let q := if waits then { tm.seq with mode := 1, barrier := f.a.toNat } else tm.seq
      let w : Team := { tm with barriers := modNth (·.arrive none f.b.toNat now) f.a.toNat tm.barriers, seq := q }
      w.checkBarrier f.a.toNat now 40))) := by
  rw [run, seqArrive, matFrame_issue _ h]
  exact ⟨fun made => if_pos made,
    fun unmade held => (if_neg (Bool.eq_false_iff.1 unmade)).trans (if_pos held),
    fun unmade free => (if_neg (Bool.eq_false_iff.1 unmade)).trans (if_neg (Bool.eq_false_iff.1 free))⟩

/-- MLOOP counts, and goes back until its count is reached (R282). -/
theorem execMloop_issue (h : s.matIssue? (.mloop f) = some (t, tm, r, f)) :
    let n := f.d.toNat
    let x := tm.seq.lc.getD n 0 + 1
    let back : Sequencer → Sequencer := fun q => { q with
      lc := modNth (fun _ => x) n q.lc
      pc := wrap 52 ((r.addr : Int) + sext (Forms.litNat f) 32), idx := 0, clause := none }
    let onward : Sequencer → Sequencer := fun q => { q with
      lc := modNth (fun _ => 0) n q.lc, pc := r.next, idx := 0, clause := none }
    exec (.mloop f) s = .next (s.modSeq t (if x < (if f.b.toNat = 0 then 256 else f.b.toNat) then back else onward)) := by
  show execMloop f s = _
  rw [execMloop, matFrame_issue _ h]
  refine congrArg (fun u => Host.Outcome.next (s.modSeq t u)) (funext fun q => ?_)
  rw [ite_apply]

/-- MEND ends the stream (R283). -/
theorem execMend_issue (h : s.matIssue? (.mend f) = some (t, tm, r, f)) :
    exec (.mend f) s = .next (s.modSeq t (fun q => { q with mode := 3, clause := none })) := by
  show execMend f s = _
  rw [execMend, matFrame_issue _ h]

/-- MNOP does nothing but retire (R283). -/
theorem execMnop_issue (h : s.matIssue? (.mnop f) = some (t, tm, r, f)) : exec (.mnop f) s = .next (seqRetire t r s) := by
  show execMnop f s = _
  rw [execMnop, matFrame_issue _ h]

end

/-- Settles O40: OMAP by its check, MSIG and MWAIT by the three ways an arrival is met, the others by their effect. -/
theorem sequencerControlExecutes : Obligations.SequencerControlExecutes := by
  intro f s t tm r
  exact ⟨fun h allowed => execOmap_passes h (omapCheck_allowed allowed),
    fun h bad => execOmap_fails h (omapCheck_not_allowed bad), seqArrive_meets rfl, seqArrive_meets rfl,
    execMloop_issue, execMend_issue, execMnop_issue⟩

end Sys2Proof.Machine
end

section
/-! PROOFS. What a step can do, every instruction and event with it: each answers a next state, so that a step stops on words
that decode to nothing only, and each keeps the memories in canonical form. -/

namespace Sys2Proof.Machine

/-! ## Every instruction answers -/

/-- The outcome is a next state. -/
def IsNext (o : Out) : Prop := ∃ t, o = .next t

/-- A next state is one. -/
theorem isNext_next (t : State) : IsNext (.next t) := ⟨t, rfl⟩

/-- An instruction that waits has a next state. -/
theorem isNext_stall (s : State) : IsNext (stall s) := ⟨_, rfl⟩

/-- A choice between two outcomes. -/
theorem isNext_ite {c : Prop} [Decidable c] {x y : Out} (hx : IsNext x) (hy : IsNext y) :
    IsNext (if c then x else y) := by
  split
  · exact hx
  · exact hy

/-- The common frame waits, has no issuer, or hands on to the instruction's own effect (R32). -/
theorem frameWith_isNext {read : Fields → Form → List (Nat × Bool)} {i : Instr} {effect : View → State → Out}
    (h : ∀ v s, IsNext (effect v s)) (s : State) : IsNext (frameWith read i effect s) := by
  unfold frameWith
  split
  · refine isNext_ite (isNext_stall _) ?_
    dsimp only
    split
    · exact isNext_next _
    · split
      · exact isNext_next _
      · exact isNext_ite (isNext_stall _) (h _ _)
  · exact isNext_next _

/-- The same of the frame in which every source is read. -/
theorem frame_isNext {i : Instr} {effect : View → State → Out} (h : ∀ v s, IsNext (effect v s)) (s : State) :
    IsNext (frame i effect s) :=
  frameWith_isNext h s

/-- A fixed-latency instruction ends, whichever of its threads trap (R55, R98). -/
theorem finish_isNext (cycles lat : Nat) (k : Nat → LaneOut) (v : View) (s : State) :
    IsNext (finish cycles lat k v s) := by
  unfold finish
  dsimp only
  split <;> exact isNext_next _

/-- So does one without a result. -/
theorem plain_isNext (v : View) (s : State) : IsNext (plain v s) := finish_isNext ..

/-- A fixed-latency instruction given by what each thread computes. -/
theorem vec_isNext (i : Instr) (cycles lat : Nat) (k : View → Nat → LaneOut) (s : State) :
    IsNext (vec i cycles lat k s) :=
  frame_isNext (fun _ _ => finish_isNext ..) s

/-- A slice instruction waits, saves its team, halts its partition, or has its effect (R116). -/
theorem sliceAccess_isNext {i : Instr} {write : Bool} {check : View → Nat → Except (Nat × Nat) SliceReach}
    {effect : View → List (Nat × SliceReach) → State → Out} (h : ∀ v rs s, IsNext (effect v rs s)) (s : State) :
    IsNext (sliceAccess i write check effect s) := by
  refine frame_isNext (fun v s => isNext_ite (isNext_stall _) (isNext_ite (isNext_stall _) ?_)) s
  split
  · exact isNext_stall _
  · exact isNext_stall _
  · exact isNext_ite (isNext_stall _) (h _ _ _)

/-- An ENGINE-class instruction sends nothing, waits, traps or sends (R293). -/
theorem sendCommand_isNext (i : Instr) (s : State) : IsNext (sendCommand i s) := by
  unfold sendCommand
  refine frameWith_isNext (fun v s => ?_) s
  split
  · exact plain_isNext _ _
  · refine isNext_ite (isNext_stall _) ?_
    dsimp only
    split
    · exact isNext_next _
    · exact isNext_ite (isNext_stall _) (finish_isNext ..)

/-- The frame of a matrix instruction waits, has no issuer, or hands on to the instruction's own effect (R259). -/
theorem matFrame_isNext {i : Instr} {effect : Nat → Team → ClauseRun → Fields → State → Out}
    (h : ∀ t tm r f s, IsNext (effect t tm r f s)) (s : State) : IsNext (matFrame i effect s) := by
  unfold matFrame
  split
  · split
    · exact isNext_next _
    · split
      · exact isNext_next _
      · exact isNext_ite (isNext_stall _) (isNext_ite (isNext_stall _) (h _ _ _ _ _))
  · exact isNext_next _

/-- A matrix operation halts on its check, has its effect, or waits for its reservation (R259). -/
theorem macroOp_isNext (i : Instr) (size : Team → Fields → Nat) (check : State → Nat → Team → Fields → Option Nat)
    (effect : State → Nat → Team → Fields → State) (s : State) (more : Team → Bool) :
    IsNext (macroOp i size check effect s more) := by
  refine matFrame_isNext (fun t tm r f s => ?_) s
  split
  · exact isNext_stall _
  · exact isNext_ite (isNext_stall _) (isNext_ite (isNext_next _) (isNext_ite (isNext_stall _) (isNext_stall _)))

/-- A sequencer's arrival is made or held (R280). -/
theorem seqArrive_isNext (i : Instr) (waits : Bool) (s : State) : IsNext (seqArrive i waits s) :=
  matFrame_isNext (fun _ _ _ _ _ => isNext_ite (isNext_next _) (isNext_ite (isNext_stall _) (isNext_next _))) s

/-- Every instruction and every event answers a next state: an instruction by the frame that it shares with others, an event by
the cases of its own meaning. -/
theorem exec_isNext (i : Instr) (s : State) : IsNext (exec i s) := by
  cases i <;> dsimp only [exec]
  -- fixed latency
  case nop | mov | movi | sel | plop | lea | idot4 | shfl | vote | gred | matchLanes | rng4 | ffma | fcmp | fclass | frnd |
      cvt | cvtq | sclx | fscl | iadd | isub | imin | imax | iabs | ineg | imul | imulh | imad | icmp | popc | clz | brev |
      bfx | bfi | bperm | shl | shr | sar | rot | and | or | xor | not | lop3 | fadd | fsub | fmul | fmin | fmax | hfma2 |
      hadd2 | hmul2 | pack6 | pack4 | pack8 | unpk6 | unpk4 | unpk8 =>
    simp only [execNop, execMov, execMovi, execSel, execPlop, execLea, execIdot4, execShfl, execVote, execGred,
      execMatchLanes, execRng4, execFfma, execFcmp, execFclass, execFrnd, execCvt, execCvtq, execSclx, execFscl, execIadd,
      execIsub, execImin, execImax, execIabs, execIneg, execImul, execImulh, execImad, execIcmp, execPopc, execClz,
      execBrev, execBfx, execBfi, execBperm, execShl, execShr, execSar, execRot, execAnd, execOr, execXor, execNot,
      execLop3, execFadd, execFsub, execFmul, execFmin, execFmax, execHfma2, execHadd2, execHmul2, execPack6, execPack4,
      execPack8, execUnpk6, execUnpk4, execUnpk8, intSimple, intMul, simple, shiftOp, bitOp, fBinary, fSelect, packedHalf,
      packLanes, unpackLanes, vec_isNext]
  -- the common frame over an effect of its own
  case movx | movxw | getid | setfe | pfch | fence | afence | logv | sbar | join | leave | exit | kset | kwait | yield |
      bar | jadd | preq | tret | crw | gate | gret | publish | seqw | seqr | halt | frcp | frsq | fsqrt | fexp2 | flog2 |
      fsin | fcos | ftanh | ld | ldq | st | stq | atom | red | cas | lds | ldw | ldk | sts | stw | stx | stk | atoms |
      atomk | bra | brc | brx | call | callx | ret | spawn | launch | trap | brk | crr | time | cyc =>
    dsimp only [execMovx, execMovxw, execGetid, execSetfe, execPfch, execFence, execAfence, execLogv, execSbar,
      execJoin, execLeave, execExit, execKset, execKwait, execYield, execBar, execJadd, execPreq, execTret, execCrw,
      execGate, execGret, execPublish, execSeqw, execSeqr, execHalt, execFrcp, execFrsq, execFsqrt, execFexp2, execFlog2,
      execFsin, execFcos, execFtanh, execLd, execLdq, execSt, execStq, execAtom, execRed, execCas, execLds, execLdw,
      execLdk, execSts, execStw, execStx, execStk, execAtoms, execAtomk, execBra, execBrc, execBrx, execCall, execCallx,
      execRet, execSpawn, execLaunch, execTrap, execBrk, execCrr, execTime, execCyc, sfu, globalLoad, globalStore,
      localLoad, localStore, localAtomic, transfer, armLanes, trapNow, readValue]
    refine frame_isNext (fun v s => ?_) s
    (repeat' split) <;> simp only [isNext_next, isNext_stall, finish_isNext, plain_isNext]
  -- slices
  case spill | fill | ldl | stl =>
    dsimp only [execSpill, execFill, execLdl, execStl]
    refine sliceAccess_isNext (fun v rs s => ?_) s
    simp only [sliceLoad, sliceStore, isNext_next]
  -- engine commands
  case cpy | cpyt | gthr | sctr | coll | bin | rel | mirr | fillz | zmap =>
    dsimp only [execCpy, execCpyt, execGthr, execSctr, execColl, execBin, execRel, execMirr, execFillz, execZmap]
    exact sendCommand_isNext _ s
  -- the matrix operations of the matrix sequencer
  case mma | mmaG | mmaS | mmaGs | tzero | tld | tst | tepi =>
    dsimp only [execMma, execMmaG, execMmaS, execMmaGs, execTzero, execTld, execTst, execTepi]
    exact macroOp_isNext ..
  -- its arrivals at team barriers
  case msig | mwait =>
    dsimp only [execMsig, execMwait]
    exact seqArrive_isNext ..
  -- its own instructions
  case omap | mloop | mend | mnop =>
    dsimp only [execOmap, execMloop, execMend, execMnop]
    refine matFrame_isNext (fun t tm r f s => ?_) s
    (repeat' split) <;> simp only [isNext_next, isNext_stall]
  -- events that have one outcome
  case shootdownComplete | demeritDecay | injectArm | injectDisarm | externalHalt | reservationUrgent | reservationReturn |
      pipeSleep | poolClassWrite | boostCancel | boostRevoke | boostLeaseEnd | droopAlarm | stretchEnd |
      halfIssueWindowEnd | recalibration | healthRecordRewrite | escapeEntry | fabricPortFailure | portRemoval |
      hostWrite | scrubGo | scrubProgressRead | deviceReset | mgmtReset | sealVerify | sealResult | measLatch | assign |
      portRetrainComplete | missedHeartbeat | getVersion | getCapabilities | negotiateAlgorithms | getDigests |
      getCertificate | challenge | getMeasurements | keyExchange | finish | keyUpdate | heartbeat | endSession |
      vendorKeyLoad | vendorKeyZeroise | spdmUnsupportedRequest =>
    simp only [execShootdownComplete, execDemeritDecay, execInjectArm, execInjectDisarm, execExternalHalt,
      execReservationUrgent, execReservationReturn, execPipeSleep, execPoolClassWrite, execBoostCancel, execBoostRevoke,
      execBoostLeaseEnd, execDroopAlarm, execStretchEnd, execHalfIssueWindowEnd, execRecalibration,
      execHealthRecordRewrite, execEscapeEntry, execFabricPortFailure, execPortRemoval, execHostWrite, execScrubGo,
      execScrubProgressRead, execDeviceReset, execMgmtReset, execSealVerify, execSealResult, execMeasLatch, execAssign,
      execPortRetrainComplete, execMissedHeartbeat, execGetVersion, execGetCapabilities, execNegotiateAlgorithms,
      execGetDigests, execGetCertificate, execChallenge, execGetMeasurements, execKeyExchange, execFinish, execKeyUpdate,
      execHeartbeat, execEndSession, execVendorKeyLoad, execVendorKeyZeroise, execSpdmUnsupportedRequest, State.gritus, isNext_next]
  -- events that have more than one
  case clauseDecode | cacheReplacement | faultRingReadAdvance | shootdownStart | kick | teamPlacement | pubCtrlGo |
      unitStop | pipeWake | poolMove | boostRequest | clockRestart | partitionReconfigure | partitionConfigure |
      firmwareUpdate | sliceRetirement | partnerPairing | partnerRestore | hostRead | hostAtomic | scrubPhaseEnd |
      flashProgram | measExtend | registerWrite | resultLands | sfuResultLands | storePerforms | registrationRequest |
      loadMissAtHome | lineRequestTranslation | walkCompletes | fenceComplete | afenceComplete | publishComplete |
      pageNotPresentSave | faultResume | preempt | voluntarySave | forcedSave | saveImageWrite | teamEnd | sbarSwap |
      leaveComplete | gateEntry | gateCompletion | commandAccept | commandStart | commandCompletion | collInstanceStart |
      matrixOpComplete | leadEnd | runCompare | watchdogExpiry | reservationGrant | engineReservationRenew | fabricPacket |
      mgmtCoreInstruction =>
    dsimp only [execClauseDecode, execCacheReplacement, execFaultRingReadAdvance, execShootdownStart, execKick,
      execTeamPlacement, execPubCtrlGo, execUnitStop, execPipeWake, execPoolMove, execBoostRequest, execClockRestart,
      execPartitionReconfigure, execPartitionConfigure, execFirmwareUpdate, execSliceRetirement, execPartnerPairing,
      execPartnerRestore, execHostRead, execHostAtomic, execScrubPhaseEnd, execFlashProgram, execMeasExtend,
      execRegisterWrite, execResultLands, execSfuResultLands, execStorePerforms, execRegistrationRequest,
      execLoadMissAtHome, execLineRequestTranslation, execWalkCompletes, execFenceComplete, execAfenceComplete,
      execPublishComplete, execPageNotPresentSave, execFaultResume, execPreempt, execVoluntarySave, execForcedSave,
      execSaveImageWrite, execTeamEnd, execSbarSwap, execLeaveComplete, execGateEntry, execGateCompletion,
      execCommandAccept, execCommandStart, execCommandCompletion, execCollInstanceStart, execMatrixOpComplete, execLeadEnd,
      execRunCompare, execWatchdogExpiry, execReservationGrant, execEngineReservationRenew, execFabricPacket,
      execMgmtCoreInstruction]
    (repeat' split) <;> exact isNext_next _

/-! ## Every instruction keeps the memories in canonical form -/

/-- The next state of an instruction or an event has its four byte arrays in canonical form where the state had: each meaning keeps
them so. -/
theorem exec_canonical {i : Instr} {s t : State} (hs : s.canonical = true) (h : exec i s = .next t) : t.canonical = true := by
  have kept : outCanonical (exec i s) = true := by
    cases i <;> simp [exec, hs]
  rwa [h] at kept

/-! ## What a step can do -/

/-- A machine that differs from another in its plan and its turn only: what is planned, whose turn it is, whether that issuer
waits (log entries 1 and 10). -/
def State.Turned (s t : State) : Prop := t = { s with agenda := t.agenda, cur := t.cur, stalled := t.stalled }

/-- A new plan and a new turn. -/
theorem State.turned_mk (s : State) (agenda : List Move) (cur : Issuer) (stalled : Bool) :
    s.Turned { s with agenda := agenda, cur := cur, stalled := stalled } := rfl

/-- The machine itself. -/
theorem State.Turned.refl (s : State) : s.Turned s := rfl

/-- One change of the plan and the turn after another. -/
theorem State.Turned.trans {s t u : State} (h : s.Turned t) (k : t.Turned u) : s.Turned u := by
  unfold State.Turned at h k ⊢
  rw [k, h]

/-- The clauses in progress are the same. -/
theorem State.Turned.clauseOf {s t : State} (h : s.Turned t) (u : Issuer) : t.clauseOf u = s.clauseOf u := by
  rw [h]
  rfl

/-- The memories are in the same form. -/
theorem State.Turned.canonical {s t : State} (h : s.Turned t) : t.canonical = s.canonical := by
  rw [h]
  rfl

/-- What a step from a machine can be: an instruction or an event that runs, a plan dropped, or the stop on words of a clause in
progress that decode to no instruction. -/
inductive State.Runs (s : State) : Out → Prop where
  | exec {t : State} (i : Instr) (h : s.Turned t) : s.Runs (exec i t)
  | skip {t : State} (h : s.Turned t) : s.Runs (.next t)
  | undecodable {u : Issuer} {r : ClauseRun} {ws : List Word} {e : DecodeError} (h : s.clauseOf u = some r) (hw : ws ∈ r.insns)
      (hd : decode ws = .error e) : s.Runs (.fault .undecodable)

/-- Where the machine before may be taken for the one after. -/
theorem State.Runs.of_turned {s t : State} {o : Out} (h : s.Turned t) (k : t.Runs o) : s.Runs o := by
  cases k with
  | exec i h' => exact .exec i (h.trans h')
  | skip h' => exact .skip (h.trans h')
  | undecodable hc hw hd => exact .undecodable ((h.clauseOf _).symm.trans hc) hw hd

/-- Words that decode to no instruction stop the step. -/
theorem runWords_undecodable {ws : List Word} {e : DecodeError} (h : decode ws = .error e) (s : State) :
    runWords ws s = .fault .undecodable := by
  unfold runWords
  rw [h]

/-- The words of the current issuer stand in its clause. -/
theorem State.current_some {s : State} {ws : List Word} (h : s.current = some ws) :
    ∃ r, s.clauseOf s.cur = some r ∧ ws ∈ r.insns := by
  obtain ⟨r, hr, hw⟩ := Option.bind_eq_some_iff.1 h
  exact ⟨r, hr, List.mem_of_getElem? hw⟩

/-- The current issuer's next words run, or stop the step. -/
theorem State.runs_runWords {s : State} {ws : List Word} (h : s.current = some ws) : s.Runs (runWords ws s) := by
  cases hd : decode ws with
  | ok x => rw [runWords_decode (rest := x.2) hd]; exact .exec x.1 (.refl s)
  | error e =>
    obtain ⟨r, hr, hw⟩ := State.current_some h
    rw [runWords_undecodable hd]
    exact .undecodable hr hw hd

/-- What the machine does by itself is an event that runs. -/
theorem State.runs_background {s t : State} (h : s.background = some t) : s.Runs (.next t) := by
  obtain ⟨i, -, hi⟩ := List.exists_of_findSome?_eq_some h
  have ran : exec i s = .next t := by
    obtain ⟨u, hu⟩ := exec_isNext i s
    rw [hu] at hi ⊢
    simp only [changed, Option.ite_none_left_eq_some, Option.some.injEq] at hi
    rw [hi.2]
  rw [← ran]
  exact .exec i (.refl s)

/-- An issuer that has its turn runs its words, or stops the step. -/
theorem State.runs_tryIssuer {s : State} {u : Issuer} {o : Out} (h : s.tryIssuer u = some o) : s.Runs o := by
  have turned : s.Turned { s with cur := u } := State.turned_mk ..
  unfold State.tryIssuer at h
  dsimp only at h
  split at h
  · cases h
  · rename_i ws hw
    have runs := State.runs_runWords hw
    split at h
    · rename_i t ht
      split at h
      · cases h
      · rw [ht] at runs; cases h; exact runs.of_turned turned
    · cases h; exact runs.of_turned turned

/-- Where the current issuer has no turn, an event, another issuer or the management core has it. -/
theorem State.runs_stepOther (s : State) : s.Runs (stepOther s) := by
  unfold stepOther
  split
  · rename_i t ht; exact State.runs_background ht
  · split
    · rename_i o ho
      obtain ⟨u, -, hu⟩ := List.exists_of_findSome?_eq_some ho
      exact State.runs_tryIssuer hu
    · exact .exec _ (.refl s)

/-- Without a plan: the current issuer unless it waits, and otherwise something else. -/
theorem State.runs_stepDefault (s : State) : s.Runs (stepDefault s) := by
  unfold stepDefault
  split
  · rename_i hw; exact State.runs_runWords hw
  · exact (State.runs_stepOther _).of_turned (State.turned_mk ..)

/-- The machine at the moment of its step: after the ticks of the head of the agenda (log entry 1). -/
def State.atTurn (s : State) : State := match s.agenda with | [] => s | m :: _ => s.passTime m.dt

/-- Everything that a step can do. -/
theorem State.runs_step (s : State) : s.atTurn.Runs (step s) := by
  unfold State.atTurn step
  cases s.agenda with
  | nil => exact State.runs_stepDefault s
  | cons m more =>
    dsimp only
    split
    · split
      · exact .exec _ (State.turned_mk ..)
      · exact .skip (State.turned_mk ..)
    · exact (State.runs_stepDefault _).of_turned (State.turned_mk ..)

/-- The memories are in the same form at the moment of the step. -/
theorem State.atTurn_canonical (s : State) : s.atTurn.canonical = s.canonical := by
  unfold State.atTurn
  split
  · rfl
  · exact State.passTime_canonical _ _

/-- Settles O7: an instruction keeps the form by its meaning, and a plan dropped has no effect on the memories. -/
theorem stepKeepsMemoryCanonical : Obligations.StepKeepsMemoryCanonical := by
  intro s t hs h
  have before : s.atTurn.canonical = true := s.atTurn_canonical.trans hs
  have runs := s.runs_step
  rw [h] at runs
  generalize ho : Host.Outcome.next t = o at runs
  cases runs with
  | exec i turned => exact exec_canonical (turned.canonical.trans before) ho.symm
  | skip turned => cases ho; exact turned.canonical.trans before
  | undecodable => cases ho

/-- A step answers a next state, or stops on words of a clause in progress that decode to no instruction. -/
theorem step_isNext_or_undecodable (s : State) : (∃ t, step s = .next t) ∨ (step s = .fault .undecodable ∧
    ∃ u r ws e, s.atTurn.clauseOf u = some r ∧ ws ∈ r.insns ∧ decode ws = .error e) := by
  have runs := s.runs_step
  generalize step s = o at runs
  cases runs with
  | exec i => exact .inl (exec_isNext i _)
  | skip => exact .inl ⟨_, rfl⟩
  | undecodable hc hw hd => exact .inr ⟨rfl, _, _, _, _, hc, hw, hd⟩

/-- Settles O6: every meaning answers, a step runs one of them or stops, and does stop on words that decode to nothing. -/
theorem everyInstructionAnswers : Obligations.EveryInstructionAnswers := by
  refine ⟨exec_isNext, step_isNext_or_undecodable, fun s ws e ha hs hw hd => ?_⟩
  rw [step_unplanned ha, stepDefault_current hs hw, runWords_undecodable hd]

end Sys2Proof.Machine
end

section
/-! PROOFS. Traps that instructions raise, returns from a handler, HALT, and the control registers (R377, R379–R384, R400). -/

namespace Sys2Proof.Machine

/-! ## Instructions without a result that some threads may not execute -/

/-- The threads of a set that pass a test, in lane order. -/
@[simp] theorem LaneSet.lanes_filter (m : LaneSet) (p : Nat → Bool) : (LaneSet.filter m p).lanes = m.lanes.filter p := by
  unfold LaneSet.filter
  rw [LaneSet.lanes, LaneSet.lanes, List.filter_filter]
  refine List.filter_congr fun l hl => ?_
  have inRange : l < 32 := List.mem_range.1 hl
  rw [LaneSet.ofList_getLsbD _ _ inRange, Bool.eq_iff_iff, List.contains_iff_mem, List.mem_filter, and_iff_right hl]

/-- The threads of a set outside a part of it, in lane order. -/
theorem LaneSet.lanes_without (m : LaneSet) (p : Nat → Bool) :
    (m &&& ~~~ LaneSet.filter m p).lanes = m.lanes.filter (fun l => !p l) := by
  have same : m &&& ~~~ LaneSet.filter m p = LaneSet.filter m (fun l => !p l) := by
    refine BitVec.eq_of_getLsbD_eq fun l inRange => ?_
    have chosen (q : Nat → Bool) : (LaneSet.filter m q).getLsbD l = (m.getLsbD l && q l) := by
      unfold LaneSet.filter
      rw [LaneSet.ofList_getLsbD _ _ inRange, Bool.eq_iff_iff, List.contains_iff_mem, List.mem_filter, LaneSet.mem_lanes]
      simp [inRange]
    rw [BitVec.getLsbD_and, BitVec.getLsbD_not, chosen, chosen]
    cases m.getLsbD l <;> cases p l <;> simp [inRange]
  rw [same, LaneSet.lanes_filter]

/-- What a thread makes of an instruction that has no result: it traps where the instruction refuses it. -/
def refusing (p : Nat → Bool) (c : Nat × Nat) (l : Nat) : LaneOut := if p l then {} else { trap := some c }

section
variable (v : View) (p : Nat → Bool) (c : Nat × Nat)

/-- The refused threads take their trap. -/
theorem View.ownTraps_refusing :
    v.ownTraps (refusing p c) = (v.lanes.lanes.filter (fun l => !p l)).map (fun l => (l, c)) := by
  unfold View.ownTraps View.outs
  induction v.lanes.lanes with
  | nil => rfl
  | cons l ls ih =>
    rw [List.map_cons, List.filterMap_cons, ih, List.filter_cons, refusing]
    cases p l <;> rfl

/-- No thread raises a flag. -/
theorem View.arith_refusing : v.arith (refusing p c) = [] := by
  refine List.eq_nil_iff_forall_not_mem.2 fun lo hlo => ?_
  obtain ⟨-, untrapped, raised⟩ := View.mem_arith.1 hlo
  refine raised ?_
  unfold refusing
  split <;> simp

/-- The other threads are left, with nothing to write. -/
theorem View.passing_refusing :
    v.passing (refusing p c) = ({ v with lanes := LaneSet.filter v.lanes p } : View).outs (fun _ => {}) := by
  unfold View.passing View.outs
  rw [LaneSet.lanes_filter]
  induction v.lanes.lanes with
  | nil => rfl
  | cons l ls ih =>
    rw [List.map_cons, List.filter_cons, ih, List.filter_cons, refusing]
    cases p l
    · rfl
    · simp

/-- Outputs without writes fit every shape. -/
theorem View.shapeFault_plain : shapeFault v (v.outs (fun _ => {})) = none := by
  have widths : ∀ ls : List Nat, ((ls.map (fun l => (l, ({} : LaneOut)))).map (fun lo => lo.2.regs.length)).foldl max 0 = 0 := by
    intro ls
    induction ls with
    | nil => rfl
    | cons l ls ih => simpa using ih
  rw [shapeFault, View.outs, widths]
  rfl

/-- Outputs without writes meet no flip (R444). -/
theorem View.injectShaped_plain (s : State) : injectShaped v (v.outs (fun _ => {})) s = (v.outs (fun _ => {}), s) := by
  have unmet : (v.outs (fun _ => ({} : LaneOut))).any
      (fun lo => lo.2.trap.isNone && lo.2.regs.any (fun rw => s.injects v.team v.gi lo.1 rw.1)) = false := by
    refine List.any_eq_false.2 fun lo hlo => ?_
    simp [(View.mem_outs.1 hlo).2]
  rw [injectShaped, View.shapeFault_plain, injectOuts, unmet]
  rfl

/-- An instruction without a result executes as one that issues in the threads that it does not refuse. -/
theorem finish_refusing (s : State) : finish 1 1 (refusing p c) v s =
    .next (({ v with lanes := LaneSet.filter v.lanes p } : View).plainly
      (trapLanes v ((v.lanes.lanes.filter (fun l => !p l)).map (fun l => (l, c))) s)) := by
  let w : View := { v with lanes := LaneSet.filter v.lanes p }
  have injected (u : State) : injectShaped v (w.outs (fun _ => {})) u = (w.outs (fun _ => {}), u) := w.injectShaped_plain u
  have shaped : shapeFault v (w.outs (fun _ => {})) = none := w.shapeFault_plain
  have named : (w.outs (fun _ => ({} : LaneOut))).map Prod.fst = w.lanes.lanes := by simp [View.outs, Function.comp_def]
  rw [finish_eq, View.passing_refusing, View.preTrapped, View.arith_refusing, View.ownTraps_refusing, injected]
  show Host.Outcome.next (v.write 1 1 (w.outs (fun _ => {})) _) = _
  rw [View.write, shaped, named, LaneSet.ofList_lanes]
  rfl

end

/-! ## Traps, returns and stops -/

section
variable {f : Fields} {s : State} {v : View}

/-- TRAP and BRK trap every executing thread at the next clause (R380). -/
theorem trapNow_issue {i : Instr} {cause : Nat} (hx : exec i s = trapNow i f cause s) (h : s.issue? sources i = some v) :
    exec i s = .next (retire v.t v.gi 1 (v.lanes.lanes.foldl (fun s l =>
      takeTrap v.t v.gi l v.run.trapVec v.run.next cause 0 ((v.run.addr % 2 ^ 52) * 2 ^ 12 ||| f.b.toNat) s) (v.start s))) := by
  rw [hx, trapNow, frame, frameWith_issue _ h, Nat.shiftLeft_eq]

/-- TRET notes the threads in trap mode and refuses the others (R379). -/
theorem execTret_issue (h : s.issue? sources (.tret f) = some v) :
    let back := LaneSet.filter v.lanes (fun l => (v.g.thread l).trapMode)
    exec (.tret f) s = finish 1 1 (refusing (fun l => (v.g.thread l).trapMode) (1, 0)) v
      (v.modRun (fun r => { r with tret := r.tret ||| back }) (v.start s)) := by
  intro back
  show execTret f s = _
  rw [execTret, frame, frameWith_issue _ h]
  refine finish_congr (fun l hl => ?_) 1 1 _
  have here : back.getLsbD l = (v.g.thread l).trapMode := by
    obtain ⟨inRange, executes⟩ := (LaneSet.mem_lanes _ _).1 hl
    rw [Bool.eq_iff_iff]
    refine Iff.trans ?_ (and_iff_right (a := l ∈ v.lanes.lanes) hl)
    rw [← List.mem_filter (p := fun l => (v.g.thread l).trapMode), ← LaneSet.lanes_filter, LaneSet.mem_lanes,
      and_iff_right inRange]
  rw [refusing, ← here]

/-- HALT halts the partition for its lowest executing thread (R381, log entry 44). -/
theorem execHalt_issue (h : s.issue? sources (.halt f) = some v) : exec (.halt f) s = .next (v.plainly
    (if v.lanes = 0 then v.start s else (v.start s).halt v.team.part 10 ((v.start s).coreUnit v.team)
      { UnitFault.of v.team v.g v.run.addr f.b.toNat (32 * v.gi + v.lanes.lanes.headD 0) with index := v.run.idx })) :=
  frame_plain (fun v s => if v.lanes = 0 then s else s.halt v.team.part 10 (s.coreUnit v.team)
    { UnitFault.of v.team v.g v.run.addr f.b.toNat (32 * v.gi + v.lanes.lanes.headD 0) with index := v.run.idx }) h

end

/-- Settles O32: TRAP and BRK as `trapNow`, TRET by the threads that it refuses, HALT by its effect at issue. -/
theorem trapInstructionsExecute : Obligations.TrapInstructionsExecute := by
  intro f s v trapped
  refine ⟨trapNow_issue rfl, trapNow_issue rfl, fun h => ?_, fun h hl => ?_⟩
  · exact (execTret_issue h).trans (finish_refusing v _ (1, 0) _)
  · exact (execHalt_issue h).trans (by rw [if_neg hl])

/-! ## Control registers -/

section
variable {i : Instr} {f : Fields} {s : State} {v : View} {n : Nat} {value : View → State → Nat → Nat}

/-- A value of a logged kind is read at issue and sent through the log (R326, R329). -/
theorem readValue_logged {logged : Bool} (hl : logged = true) (hx : exec i s = readValue i n logged value s)
    (h : s.issue? sources i = some v) (ready : logWaits v.team v.g = false) :
    exec i s = .next (v.sentLogged 1 n .none 4 1
      (fun l => Map.get (v.lanes.lanes.map (fun l => (l, value v (v.start s) l))) l 0) id (v.start s)) := by
  rw [hx, readValue, frame, frameWith_issue _ h, hl, ready]
  rfl

/-- Another value is read at issue and sent as it is. -/
theorem readValue_unlogged {logged : Bool} (hl : logged = false) (hx : exec i s = readValue i n logged value s)
    (h : s.issue? sources i = some v) :
    exec i s = .next (v.sent 1 n .none (v.lanes.lanes.map (fun l => (l, wordsOf (value v (v.start s) l) n))) false [] (v.start s)) := by
  rw [hx, readValue, frame, frameWith_issue _ h, hl]
  have words : (v.lanes.lanes.map (fun l => (l, value v (v.start s) l))).map (fun lx => (lx.1, wordsOf lx.2 n)) =
      v.lanes.lanes.map (fun l => (l, wordsOf (value v (v.start s) l) n)) := List.map_map
  rw [← words]
  rfl

/-- CRW writes for its executing threads in lane order (R384). -/
theorem execCrw_issue (h : s.issue? sources (.crw f) = some v) : exec (.crw f) s =
    .next (v.plainly (v.lanes.lanes.foldl (fun s l => crWrite v f.b.toNat l (v.a l) s) (v.start s))) := by
  show execCrw f s = _
  exact frame_plain (fun v s => v.lanes.lanes.foldl (fun s l => crWrite v f.b.toNat l (v.a l) s) s) h

/-- PREQ reads the request, or what is left of the budget, through the log (R251). -/
theorem execPreq_issue (h : s.issue? sources (.preq f) = some v) (ready : logWaits v.team v.g = false) :
    let logged := lanesThroughLog v 4 1 v.lanes (fun _ =>
      if f.minor.toNat = 1 then v.team.budgetLeft else if v.team.request then 1 else 0) (v.start s)
    exec (.preq f) s = finish 1 2 (fun l => if f.minor.toNat = 1 then out32 v (Map.get logged.1 l 0)
      else { preds := [(f.d.toNat, Map.get logged.1 l 0 != 0)] }) v logged.2 := by
  show execPreq f s = _
  rw [execPreq, frame, frameWith_issue _ h, ready]
  rfl

end

/-- Settles O33: the readers as `readValue` with their own value, logged or not; CRW by its effect at issue, PREQ by what the log
gives. -/
theorem controlRegistersExecute : Obligations.ControlRegistersExecute := by
  intro f s v reads
  refine ⟨fun above => readValue_logged (value := fun v s l => crValue v s f.b.toNat l) (decide_eq_true above) rfl,
    fun below => readValue_unlogged (value := fun v s l => crValue v s f.b.toNat l) (decide_eq_false (Nat.not_le.2 below)) rfl,
    readValue_logged (value := fun _ s _ => s.time % 2 ^ 64) rfl rfl,
    readValue_logged (value := fun v s _ => (s.core v.team.core).cycles % 2 ^ 64) rfl rfl,
    execCrw_issue, ?_⟩
  intro h ready logged out clean
  exact (execPreq_issue h ready).trans (finish_clean clean)

end Sys2Proof.Machine
end

section
/-! PROOFS. What the halt controller keeps of a fault, the entry of a per-thread trap, and the gate instructions (R364, R365, R368,
R369, R377–R379, R385). -/

namespace Sys2Proof.Machine

/-! ## Faults of a partition -/

/-- What a fault of a partition makes of it at a time (R385). -/
def Partition.faulted (x : Partition) (time cause unit : Nat) (u : UnitFault) : Partition :=
  let noted := { x with unitFaults :=
    if (Map.get? x.unitFaults unit).isSome then x.unitFaults else Map.put x.unitFaults unit { u with cause := cause } }
  if noted.halted then
    if noted.haltAt = time ∧ unit < noted.haltIndex then { noted with haltCause := cause, haltIndex := unit } else noted
  else ({ noted with halted := true, haltCause := cause, haltIndex := unit, haltAt := time } : Partition).raise 1

/-- A halt changes its own partition only. -/
theorem State.part_halt (s : State) (p cause unit : Nat) (u : UnitFault) (q : Nat) :
    (s.halt p cause unit u).part q =
      if q = p ∧ q < s.partitions.length then (s.part q).faulted s.time cause unit u else s.part q :=
  s.part_modPart p q (fun x => x.faulted s.time cause unit u)

/-- Raising an interrupt makes it pending. -/
theorem Partition.mem_raise (p : Partition) (source : Nat) : source ∈ (p.raise source).irqs := by
  unfold Partition.raise
  split
  · rename_i pending
    exact List.contains_iff_mem.1 pending
  · simp

/-- Raising an interrupt changes the interrupts only. -/
theorem Partition.raise_eq (p : Partition) (source : Nat) : p.raise source = { p with irqs := (p.raise source).irqs } := by
  unfold Partition.raise
  split <;> rfl

section
variable (x : Partition) (time cause unit : Nat) (u : UnitFault)

/-- The first fault decides the cause and the unit, and raises the halt interrupt (R385, R386). -/
theorem Partition.faulted_first (running : x.halted = false) :
    let y := x.faulted time cause unit u
    y.halted = true ∧ y.haltCause = cause ∧ y.haltIndex = unit ∧ 1 ∈ y.irqs := by
  unfold Partition.faulted
  simp only [running, Bool.false_eq_true, if_false]
  refine ⟨?_, ?_, ?_, Partition.mem_raise _ 1⟩ <;> rw [Partition.raise_eq]

/-- A later one leaves the partition halted, and keeps the cause unless it is of the same tick and of a lower unit (R385). -/
theorem Partition.faulted_halted (halted : x.halted = true) :
    let y := x.faulted time cause unit u
    y.halted = true ∧ y.haltAt = x.haltAt ∧ (¬ (x.haltAt = time ∧ unit < x.haltIndex) → y.haltCause = x.haltCause ∧
      y.haltIndex = x.haltIndex) := by
  unfold Partition.faulted
  simp only [halted, if_true]
  split
  · rename_i earlier
    exact ⟨rfl, rfl, fun later => absurd earlier later⟩
  · exact ⟨rfl, rfl, fun _ => ⟨rfl, rfl⟩⟩

/-- A fault leaves the partition halted. -/
theorem Partition.faulted_halts : (x.faulted time cause unit u).halted = true := by
  cases h : x.halted
  · exact (x.faulted_first time cause unit u h).1
  · exact (x.faulted_halted time cause unit u h).1

end

/-! ## Entry of a trap -/

/-- A thread has become another, which takes no part in the clause in progress; every other thread, the registers, the call, the
partitions and memory are as before. -/
def State.Becomes (s u : State) (t gi l : Nat) (g : Group) (th : Thread) : Prop :=
  u.sameMemory s ∧ u.partitions = s.partitions ∧
    ∃ h, u.group? t gi = some h ∧ h.regs = g.regs ∧ h.gate = g.gate ∧ (∀ m, m ≠ l → h.thread m = g.thread m) ∧
      h.thread l = th ∧ ∀ r, h.clause = some r → l < 32 → r.active.getLsbD l = false

section
variable {t gi l : Nat} {s : State} {tm : Team} {g : Group}

/-- A thread that leaves its clause and changes. -/
theorem State.dropLane_becomes (hg : s.group? t gi = some g) (hl : l < g.threads.length) (f : Thread → Thread) :
    s.Becomes ((s.modGroup t gi (·.dropLane l)).modThread t gi l f) t gi l g (f (g.thread l)) := by
  refine ⟨⟨by simp, by simp, by simp⟩, by simp, (g.dropLane l).modThread l f, ?_, rfl, rfl, fun m hm => ?_, ?_, fun r hr _ => ?_⟩
  · rw [State.modThread, State.group?_modGroup, if_pos ⟨rfl, rfl⟩, State.group?_modGroup, if_pos ⟨rfl, rfl⟩, hg]
    rfl
  · rw [Group.thread_modThread, if_neg (fun h => hm h.1)]
    rfl
  · rw [Group.thread_modThread, if_pos ⟨rfl, hl⟩]
    rfl
  · obtain ⟨q, -, rfl⟩ := Option.map_eq_some_iff.1 (show (g.dropLane l).clause = some r from hr)
    simp

/-- The thread that stands at a handler with its trap registers set (R377, R378). -/
def Thread.entered (th : Thread) (target pc cause index detail : Nat) : Thread :=
  { th with
    trapMode := true, pc := target, idx := 0, trapPc := BitVec.ofNat 64 pc, trapCause := causeWord cause index
    trapDetail := BitVec.ofNat 64 detail }

/-- What a unit reports of an unhandled trap: of the earlier one, where the thread is in trap mode (R388). -/
def Thread.trapReport (th : Thread) (pc index detail : Nat) : UnitFault :=
  if th.trapMode then
    { UnitFault.none with
      addr := th.trapPc.toNat, detail := th.trapDetail.toNat,
      index := bits th.trapCause.toNat 11 8 }
  else { UnitFault.none with addr := pc, detail := detail, index := index }

section
variable (vec : Dword) (pc cause index detail : Nat)

/-- In a gate callee a trap enters at its handler, and a second one finishes the thread (R368). -/
theorem takeTrap_inCall (ht : s.team? t = some tm) (hg : s.group? t gi = some g) (inside : g.inCall l = true) :
    takeTrap t gi l vec pc cause index detail s =
      if (g.thread l).trapMode then
        (s.modGroup t gi (·.dropLane l)).modThread t gi l (fun th => { th with status := some 4 })
      else (s.modGroup t gi (·.dropLane l)).modThread t gi l
        (·.entered ((g.gate.map (·.handler)).getD 0) pc cause index detail) := by
  unfold takeTrap
  rw [ht, hg]
  simp only [inside, if_true]
  rfl

/-- Outside one it enters at the handler that the team has (R378). -/
theorem takeTrap_handled (ht : s.team? t = some tm) (hg : s.group? t gi = some g) (outside : g.inCall l = false)
    (handled : ((g.thread l).trapMode || vec == 0) = false) :
    takeTrap t gi l vec pc cause index detail s =
      (s.modGroup t gi (·.dropLane l)).modThread t gi l (·.entered vec.toNat pc cause index detail) := by
  unfold takeTrap
  rw [ht, hg]
  simp only [outside, handled, Bool.false_eq_true, if_false]
  rfl

/-- A trap that no handler takes makes a trail or a third run diverge, and halts the partition of another (R376, R378). -/
theorem takeTrap_unhandled (ht : s.team? t = some tm) (hg : s.group? t gi = some g) (outside : g.inCall l = false)
    (unhandled : ((g.thread l).trapMode || vec == 0) = true) :
    takeTrap t gi l vec pc cause index detail s =
      let dropped := s.modGroup t gi (·.dropLane l)
      if tm.mode = .trail ∨ tm.mode = .third then dropped.modTeam t (fun x => { x with diverged := true })
      else dropped.halt tm.part 1 (dropped.coreUnit tm) { (g.thread l).trapReport pc index detail with
        record := tm.record, asid := tm.asid, domain := g.domain, trapCause := cause, thread := 32 * gi + l } := by
  unfold takeTrap
  rw [ht, hg]
  simp only [outside, unhandled, Bool.false_eq_true, if_false, if_true]
  cases tm.mode <;> rfl

/-- What an unhandled trap leaves, halts or makes diverge. -/
theorem takeTrap_unhandled_effect (ht : s.team? t = some tm) (hg : s.group? t gi = some g) (outside : g.inCall l = false)
    (unhandled : ((g.thread l).trapMode || vec == 0) = true) :
    let u := takeTrap t gi l vec pc cause index detail s
    u.sameMemory s ∧
      (tm.mode = .unchecked ∨ tm.mode = .lead → tm.part < s.partitions.length →
        (u.part tm.part).halted = true ∧
        ((s.part tm.part).halted = false →
          (u.part tm.part).haltCause = 1 ∧ (u.part tm.part).haltIndex = s.coreUnit tm ∧ 1 ∈ (u.part tm.part).irqs)) ∧
      (tm.mode = .trail ∨ tm.mode = .third → u.partitions = s.partitions ∧ ∃ x, u.team? t = some x ∧ x.diverged = true) := by
  rw [takeTrap_unhandled vec pc cause index detail ht hg outside unhandled]
  dsimp only
  by_cases diverges : tm.mode = .trail ∨ tm.mode = .third
  · rw [if_pos diverges]
    refine ⟨⟨by simp, by simp, by simp⟩, fun kept => ?_, fun _ => ⟨by simp, ?_⟩⟩
    · rcases diverges with h | h <;> rw [h] at kept <;> simp at kept
    · rw [State.team?_modTeam, if_pos rfl, State.modGroup, State.team?_modTeam, if_pos rfl, ht]
      exact ⟨_, rfl, rfl⟩
  · rw [if_neg diverges]
    have unit : (s.modGroup t gi (·.dropLane l)).coreUnit tm = s.coreUnit tm := by simp [State.coreUnit, State.core]
    have before : (s.modGroup t gi (·.dropLane l)).part tm.part = s.part tm.part := by simp [State.part]
    refine ⟨⟨by simp [State.halt, State.modPart], by simp [State.halt, State.modPart], by simp [State.halt, State.modPart]⟩,
      fun _ present => ?_, fun h => absurd h diverges⟩
    rw [State.part_halt, if_pos ⟨rfl, by simpa using present⟩, unit, before]
    refine ⟨Partition.faulted_halts .., fun running => ?_⟩
    obtain ⟨-, first⟩ := Partition.faulted_first _ _ 1 (s.coreUnit tm) _ running
    exact first

end
end

/-- CAUSE and INDEX stand in bits 7:0 and 11:8 of CR_TRAP_CAUSE (R377). -/
theorem causeWord_fields {cause : Nat} (index : Nat) (small : cause < 256) :
    bits (causeWord cause index).toNat 7 0 = cause ∧ bits (causeWord cause index).toNat 11 8 = index % 16 := by
  have value : (causeWord cause index).toNat = cause + 256 * (index % 16) := by
    rw [causeWord, BitVec.toNat_ofNat, Nat.mod_eq_of_lt]
    omega
  rw [value]
  simp only [bits, Nat.shiftRight_eq_div_pow]
  omega

/-- Settles O13: by where the thread is, and whether it is in trap mode. (The model has a `trapEntry` of its own.) -/
theorem trapEntryHolds : Obligations.TrapEntry := by
  refine ⟨?_, fun cause index small => causeWord_fields index small, fun th => ⟨rfl, rfl, rfl⟩⟩
  intro t gi l vec pc cause index detail s tm g ht hg hl u entered becomes
  have leaves (f : Thread → Thread) (h : u = (s.modGroup t gi (·.dropLane l)).modThread t gi l f) : becomes (f (g.thread l)) := by
    show s.Becomes u t gi l g _
    rw [h]
    exact State.dropLane_becomes hg hl f
  refine ⟨fun outside fresh handler => ?_, fun outside unhandled => ?_, fun inside fresh => ?_, fun inside again => ?_⟩
  · exact leaves _ (takeTrap_handled vec pc cause index detail ht hg outside (by rw [fresh, beq_false_of_ne handler]; rfl))
  · exact takeTrap_unhandled_effect vec pc cause index detail ht hg outside (by simpa using unhandled)
  · exact leaves _ ((takeTrap_inCall vec pc cause index detail ht hg inside).trans (by rw [fresh]; rfl))
  · exact leaves _ ((takeTrap_inCall vec pc cause index detail ht hg inside).trans (by rw [again]; rfl))

/-! ## Gates -/

section
variable {f : Fields} {s : State} {v : View}

/-- The executing threads of a GATE that are not in trap mode (R365). -/
def View.callers (v : View) : LaneSet := v.lanes &&& ~~~ LaneSet.filter v.lanes (fun l => (v.g.thread l).trapMode)

/-- The entry that a GATE names, read for its first thread outside trap mode. -/
def View.namedGate (v : View) (gate : Nat) (s : State) : Except Unit (Option GateEntry) × State :=
  s.gateEntry v.team.part v.g.asid gate
    { UnitFault.of v.team v.g v.run.addr 0 (32 * v.gi + v.callers.lanes.headD 0) with index := v.run.idx }

/-- The status with which an entry meets a group: 1 where there is none (R365). -/
def View.gateStatus (v : View) (entry : Option GateEntry) : Nat :=
  match entry with
  | some e => e.status v.team v.gi
  | none => 1

/-- The call that a GATE begins (R364, R365). -/
def View.gateCall (v : View) (f : Fields) (entry : Option GateEntry) : GateCall :=
  let st := v.gateStatus entry
  let e := entry.getD (GateEntry.parse 0 [])
  { waiting := true, frame := 0, frameIndex := 0, callerAsid := v.g.asid, gate := f.b.toNat
    logged := hasBit e.attr 0, entered := if st = 0 then v.callers else 0, named := v.lanes
    early := (LaneSet.filter v.lanes (fun l => (v.g.thread l).trapMode)).lanes.map (fun l => (l, 6)) ++
      (if st = 0 then [] else v.callers.lanes.map (fun l => (l, st)))
    entryPa := e.pa, asid := e.asid, handler := e.handler, pc := e.pc, frameBase := e.base, frameSize := e.size
    nframes := e.nframes, narg := e.narg, nret := e.nret, slice := e.slice, fpMode := e.fpMode
    scratch := e.scratch, budget := if e.budget = 0 then 2 ^ 32 else e.budget, domain := e.domain
    dest := f.d.toNat, trapStatus := f.mod.getLsbD 0, addr := v.run.addr, idx := v.run.idx, next := v.run.next
    cnts := cntsOf v.team v.g v.lanes, regs := [], empty := [], poison := [], threads := [], pad := [] }

/-- What a GATE finds, read only where a thread is not in trap mode. -/
def View.foundGate (v : View) (gate : Nat) (s : State) : Except Unit (Option GateEntry) × State :=
  if v.callers = 0 then (.ok none, s) else v.namedGate gate s

/-- A GATE that finds its entry, or its lack, begins the call (R364, R365). -/
theorem execGate_calls {entry : Option GateEntry} (h : s.issue? sources (.gate f) = some v) (hl : v.lanes ≠ 0)
    (found : (v.foundGate f.b.toNat (v.start s)).1 = .ok entry) :
    exec (.gate f) s = .next (v.plainly ((v.foundGate f.b.toNat (v.start s)).2.modGroup v.t v.gi
      (fun g => { g with gate := some (v.gateCall f entry) }))) := by
  have pair : v.foundGate f.b.toNat (v.start s) = (.ok entry, (v.foundGate f.b.toNat (v.start s)).2) := by rw [← found]
  generalize (v.foundGate f.b.toNat (v.start s)).2 = u at pair ⊢
  unfold View.foundGate View.namedGate View.callers at pair
  show execGate f s = _
  rw [execGate, frame, frameWith_issue _ h]
  dsimp only
  rw [if_neg hl, pair]
  dsimp only
  rw [plain_done]
  rfl

/-- A GATE whose directory is no memory violates (R365). -/
theorem execGate_violates (h : s.issue? sources (.gate f) = some v) (hl : v.lanes ≠ 0)
    (found : (v.foundGate f.b.toNat (v.start s)).1 = .error ()) :
    exec (.gate f) s = .next (v.plainly ((v.foundGate f.b.toNat (v.start s)).2.violate v
      ((v.foundGate f.b.toNat (v.start s)).2.part v.team.part).gateDir.toNat)) := by
  have pair : v.foundGate f.b.toNat (v.start s) = (.error (), (v.foundGate f.b.toNat (v.start s)).2) := by rw [← found]
  generalize (v.foundGate f.b.toNat (v.start s)).2 = u at pair ⊢
  unfold View.foundGate View.namedGate View.callers at pair
  show execGate f s = _
  rw [execGate, frame, frameWith_issue _ h]
  dsimp only
  rw [if_neg hl, pair]
  dsimp only
  rw [plain_done]

/-- GRET finishes the threads that are in a callee, and traps the others (R369). -/
theorem execGret_issue (h : s.issue? sources (.gret f) = some v) :
    let inside := LaneSet.filter v.lanes v.g.inCall
    let outside := (v.lanes.lanes.filter (fun l => !v.g.inCall l)).map (fun l => (l, (1, 0)))
    exec (.gret f) s = .next (retire v.t v.gi 1 (finishCall v.t v.gi (if f.minor.toNat = 1 then 4 else 0) inside
      (countExec v.t v.gi inside (trapLanes v outside (v.start s))))) := by
  show execGret f s = _
  rw [execGret, frame, frameWith_issue _ h]
  dsimp only
  rw [LaneSet.lanes_without]

/-- One status for a list of threads, before other entries. -/
theorem Map.get?_map_const (ls : List Nat) (x l : Nat) :
    Map.get? (ls.map (fun l => (l, x))) l = if l ∈ ls then some x else none := by
  induction ls with
  | nil => rfl
  | cons k ls ih =>
    rw [List.map_cons, Map.get?, ih]
    by_cases same : k = l
    · simp [same]
    · simp [Ne.symm same]

variable (v f)

/-- The threads in trap mode are refused with status 6 (R365). -/
theorem View.gateCall_early_trapped (entry : Option GateEntry) {l : Nat} (hl : l ∈ v.lanes.lanes)
    (trapped : (v.g.thread l).trapMode = true) : Map.get? (v.gateCall f entry).early l = some 6 := by
  unfold View.gateCall
  rw [Map.get?_append, Map.get?_map_const, LaneSet.lanes_filter, if_pos (List.mem_filter.2 ⟨hl, trapped⟩), Option.some_or]

/-- The others are refused with the status of the entry, where it has one (R365). -/
theorem View.gateCall_early_refused (entry : Option GateEntry) (refused : v.gateStatus entry ≠ 0) {l : Nat}
    (hl : l ∈ v.lanes.lanes) (fresh : (v.g.thread l).trapMode = false) :
    Map.get? (v.gateCall f entry).early l = some (v.gateStatus entry) := by
  unfold View.gateCall View.callers
  have untrapped : ¬ l ∈ v.lanes.lanes.filter (fun l => (v.g.thread l).trapMode) := by simp [fresh]
  have calls : l ∈ v.lanes.lanes.filter (fun l => !(v.g.thread l).trapMode) := List.mem_filter.2 ⟨hl, by simp [fresh]⟩
  rw [Map.get?_append, Map.get?_map_const, LaneSet.lanes_filter, if_neg untrapped, Option.none_or, if_neg refused,
    LaneSet.lanes_without, Map.get?_map_const, if_pos calls]

end

/-- Settles O35: the call as `View.gateCall` by what the directory gives, and GRET by the threads in a callee. -/
theorem gateInstructionsExecute : Obligations.GateInstructionsExecute := by
  intro f s v trapped others named
  refine ⟨fun entry h hl found => ⟨v.gateCall f entry, ?_, rfl, rfl, rfl, rfl, rfl, rfl, rfl, rfl, rfl, fun l hl ht => ?_, ?_,
    ?_, ?_⟩, fun h callers violates => ?_, execGret_issue⟩
  · have state : (if others = 0 then v.start s else named.2) = (v.foundGate f.b.toNat (v.start s)).2 := by
      rw [View.foundGate, apply_ite Prod.snd]
      rfl
    rw [state]
    refine execGate_calls h hl ?_
    unfold View.foundGate
    by_cases nobody : v.callers = 0
    · rw [if_pos nobody, show entry = none from (if_pos nobody).mp found]
    · rw [if_neg nobody]
      exact (if_neg nobody).mp found
  · exact v.gateCall_early_trapped f entry hl ht
  · rintro rfl
    exact ⟨rfl, fun l hl ht => v.gateCall_early_refused f none Nat.one_ne_zero hl ht⟩
  · rintro e rfl refused
    exact ⟨if_neg refused, fun l hl ht => v.gateCall_early_refused f (some e) refused hl ht⟩
  · rintro e rfl fits
    exact ⟨if_pos fits, rfl, rfl, rfl, rfl, rfl, rfl, rfl, rfl, rfl, rfl, rfl⟩
  · have found : v.foundGate f.b.toNat (v.start s) = named := if_neg callers
    have executing : v.lanes ≠ 0 := by
      intro nobody
      refine callers ?_
      show v.lanes &&& _ = 0
      rw [nobody]
      exact BitVec.zero_and
    exact (execGate_violates h executing (by rw [found]; exact violates)).trans (by rw [found])

end Sys2Proof.Machine
end

section
/-! PROOFS. Engine commands at issue: one command for the issue, under the next ticket of its stream (R290–R296). -/

namespace Sys2Proof.Machine

section
variable (v : View) (major l : Nat) (s : State)

/-- The second operand of a command, its leader's: the literal stands for it in REL only (R293). -/
def View.commandB : Nat := (v.lit.filter (fun _ => major == 0xD6)).getD (v.operand v.form.b v.f.b.toNat l)

/-- The ticket of the next command of a stream (R291). -/
def View.ticket : Nat := (v.g.stream (engineOf major)).issued + 1

/-- The command of an issue with its leader (R290–R296). -/
def View.command : Command :=
  { id := s.fresh.1, team := v.t, part := v.team.part, group := v.gi, lanes := v.lanes, engine := engineOf major, major := major
    minor := v.f.minor.toNat, mod := v.f.mod.toNat, ticket := v.ticket major
    a := if major = 0xD5 then 0 else v.a l, b := if major = 0xD5 then 0 else v.commandB major l, c := v.c l
    lit := v.lit, asid := v.g.asid, slot := v.gi % 4, core := v.team.core
    held := v.f.mod.getLsbD 7, patch := none
    items := if major = 0xD5 then v.lanes.lanes.map (fun l => (v.a l, v.b l)) else [], dest := none
    state := 0, todo := [], code := 0, written := [] }

/-- The machine in which it waits, under its ticket. -/
def View.sends : State :=
  { s.fresh.2 with commands := s.fresh.2.commands ++ [v.command major l s] }.modGroup v.t v.gi
    (fun g => g.modStream (engineOf major) (fun x => { x with issued := v.ticket major }))

/-- The first check that its leader fails, of the sources and of the operands (R293). -/
def View.commandTrap : Option (Nat × Nat) :=
  firstTrap [readTrap v.g l (commandSources v.f v.form major).1, commandCheck v s major (v.a l) (v.commandB major l) (v.c l)]

/-- What an ENGINE-class instruction does for its leader: it waits on a source, traps every thread, waits for room, or sends its
command and gives D the ticket (R293). -/
def View.sendFor : Out :=
  if blocked v.g (1#32 <<< l) (commandSources v.f v.form major).1 then stall s
  else match v.commandTrap major l s with
    | some cause => .next (retire v.t v.gi 1 (trapLanes v (v.lanes.lanes.map (fun l => (l, cause))) s))
    | none =>
      if !s.hasRoom v.t v.gi v.team (engineOf major) then stall s
      else finish 1 2 (fun _ => { regs := writesOf v.f.d.toNat (v.ticket major) 2 }) v (v.sends major l s)

end

section
variable {i : Instr} {s : State} {v : View} {l : Nat}

/-- Without an executing thread an ENGINE-class instruction sends nothing. -/
theorem sendCommand_nobody (hx : exec i s = sendCommand i s)
    (h : s.issue? (fun f k => (commandSources f k i.major).2) i = some v) (nobody : v.lanes = 0) :
    exec i s = .next (v.plainly (v.start s)) := by
  rw [hx, sendCommand, frameWith_issue _ h]
  dsimp only
  rw [nobody, LaneSet.lanes_zero, ← plain_done]

/-- With one, it acts for the first. -/
theorem sendCommand_leader (hx : exec i s = sendCommand i s)
    (h : s.issue? (fun f k => (commandSources f k i.major).2) i = some v) (leads : v.lanes.lanes.head? = some l) :
    exec i s = v.sendFor i.major l (v.start s) := by
  obtain ⟨ls, lanes⟩ := List.head?_eq_some_iff.1 leads
  rw [hx, sendCommand, frameWith_issue _ h]
  unfold View.sendFor View.commandTrap View.sends View.command
  dsimp only
  rw [lanes]
  rfl

end

/-- Settles O37: each of the ten is `sendCommand`, which acts for its leader. -/
theorem commandsAreSent : Obligations.CommandsAreSent := by
  intro f s v l sends
  have sending (i : Instr) (hx : exec i s = sendCommand i s) : sends i := by
    intro h
    refine ⟨sendCommand_nobody hx h, fun leads waits => ?_, fun leads free => ⟨fun cause fails => ?_, fun passes =>
      ⟨fun full => ?_, fun room clean => ?_⟩⟩⟩
    · rw [sendCommand_leader hx h leads, View.sendFor, if_pos waits]
    · have trap : v.commandTrap i.major l (v.start s) = some cause := fails
      rw [sendCommand_leader hx h leads, View.sendFor, if_neg (Bool.eq_false_iff.1 free), trap]
    · have trap : v.commandTrap i.major l (v.start s) = none := passes
      have none_left : (v.start s).hasRoom v.t v.gi v.team (engineOf i.major) = false := full
      rw [sendCommand_leader hx h leads, View.sendFor, if_neg (Bool.eq_false_iff.1 free), trap, none_left]
      rfl
    · have trap : v.commandTrap i.major l (v.start s) = none := passes
      have some_left : (v.start s).hasRoom v.t v.gi v.team (engineOf i.major) = true := room
      rw [sendCommand_leader hx h leads, View.sendFor, if_neg (Bool.eq_false_iff.1 free), trap, some_left]
      exact finish_clean clean
  exact ⟨sending _ rfl, sending _ rfl, sending _ rfl, sending _ rfl, sending _ rfl, sending _ rfl, sending _ rfl, sending _ rfl,
    sending _ rfl, sending _ rfl⟩

end Sys2Proof.Machine
end

section
/-! PROOFS. Publication from the registers, halts from outside, the stop of a partition's units, and the watchdog (R358,
R385–R389). -/

namespace Sys2Proof.Machine

/-! ## Publication -/

section
variable {part : Nat} {value : Dword} {s : State}

/-- What a write of CR_PUB_CTRL leaves in it, and the range that its GO publishes (R358). -/
def State.pubSet (s : State) (part : Nat) (value : Dword) : State :=
  s.modPart part (fun x => { x with pubCtrl := BitVec.ofNat 64 (bits value.toNat 63 32 <<< 32 ||| bits value.toNat 15 0) })

/-- The core from which a partition publishes: its first. -/
def State.pubOrigin (s : State) (part : Nat) : Nat := (s.coresOf part).headD 0

/-- The physical ranges that a GO publishes, none where a page fails. -/
def State.pubRanges (s : State) (part : Nat) (value : Dword) : Option (List ((Nat × Nat) × (Nat × Nat))) :=
  let set := s.pubSet part value
  set.rangePages (dieOf (set.pubOrigin part)) part (bits value.toNat 15 0) (s.part part).pubVa.toNat ((bits value.toNat 63 32 + 1) * 128)

/-- A write without GO only sets the register (R358). -/
theorem execPubCtrlGo_set (idle : (s.part part).pubBusy = false) (go : hasBit value.toNat 31 = false) :
    exec (.pubCtrlGo part value) s = .next (s.pubSet part value) := by
  show execPubCtrlGo part value s = _
  unfold execPubCtrlGo
  simp only [idle, go, Bool.false_eq_true, if_false, Bool.not_false, if_true]
  rfl

/-- A GO publishes its range, or nothing while a home of it has stopped (R358, R386). -/
theorem execPubCtrlGo_publishes {rs} (idle : (s.part part).pubBusy = false) (go : hasBit value.toNat 31 = true)
    (found : s.pubRanges part value = some rs) : exec (.pubCtrlGo part value) s = .next (
      if (s.pubSet part value).rangeDown part (rs.map (·.1)) then s.pubSet part value
      else (s.pubSet part value).publishRanges (rs.map (·.1)) 3 ((s.pubSet part value).pubOrigin part)
        (fun _ => false) (fun _ => false)) := by
  unfold State.pubRanges State.pubSet State.pubOrigin at found
  show execPubCtrlGo part value s = _
  unfold execPubCtrlGo
  simp only [idle, go, Bool.false_eq_true, if_false, Bool.not_true]
  dsimp only at found
  rw [found]
  rfl

/-- A GO whose range has no page halts the partition (R358, R388). -/
theorem execPubCtrlGo_halts (idle : (s.part part).pubBusy = false) (go : hasBit value.toNat 31 = true)
    (found : s.pubRanges part value = none) : exec (.pubCtrlGo part value) s = .next ((s.pubSet part value).halt part 2 1023
      { UnitFault.none with detail := (s.part part).pubVa.toNat, asid := bits value.toNat 15 0 }) := by
  unfold State.pubRanges State.pubSet State.pubOrigin at found
  show execPubCtrlGo part value s = _
  unfold execPubCtrlGo
  simp only [idle, go, Bool.false_eq_true, if_false, Bool.not_true]
  dsimp only at found
  rw [found]
  rfl

end

/-! ## Halts from outside and the watchdog -/

section
variable {part : Nat} {s : State}

/-- EXT halts the partition; a write without it does nothing (R387). -/
theorem execExternalHalt_eq (value : Dword) : exec (.externalHalt part value) s =
    .next (if value.getLsbD 8 then s.halt part 11 1023 UnitFault.none else s) := rfl

/-- The watchdog names the team and halts its partition (R389). -/
theorem execWatchdogExpiry_due {t : Nat} {tm : Team} (ht : s.team? t = some tm) (running : (s.part tm.part).halted = false)
    (set : 0 < (s.part tm.part).watchdog) (due : (s.part tm.part).watchdog * 2 ^ 24 ≤ tm.resident) :
    exec (.watchdogExpiry t) s =
      .next ((s.modPart tm.part (fun x => { x with watched := some (s.coreUnit tm, tm.record, tm.asid) })).halt tm.part 6 1023
        { UnitFault.none with record := tm.record, asid := tm.asid }) := by
  show execWatchdogExpiry t s = _
  unfold execWatchdogExpiry
  rw [ht]
  dsimp only
  rw [if_neg]
  rintro (h | h | h)
  · omega
  · omega
  · rw [running] at h
    cases h

end

/-! ## The stop of a unit -/

section
variable (part index : Nat) (late : Bool) (s : State)

/-- What the record of a stopping unit reports: its fault, else whom it served, and the team that the watchdog named (R388,
R389). -/
def Partition.stopReport (x : Partition) (index : Nat) : UnitFault :=
  let u := (Map.get? x.unitFaults index).getD (Map.get x.served index UnitFault.none)
  match x.watched with
  | some (n, record, asid) => if n = index then { u with record := record, asid := asid } else u
  | none => u

/-- The machine after a unit has stopped and written its record (R386, R388). -/
def State.unitStopped : State :=
  let own : Option UnitFault := Map.get? (s.part part).unitFaults index
  ({ s with heldLines := s.heldLines.filter (fun h => h.part != part) }.putStop part index
    (stopRecord ((own.map UnitFault.cause).getD 0) (unitKind index) (bit own.isSome 0 + bit late 1) index s.time
      ((s.part part).stopReport index))).modPart part (fun x => { x with stopped := x.stopped ++ [index] })

/-- The machine after the summary has been written and DONE set (R387). -/
def State.haltFinished (u : State) : State :=
  let x := s.part part
  let origin := x.haltIndex == 1023
  let report := if origin then Map.get x.unitFaults 1023 UnitFault.none else UnitFault.none
  (u.putStop part 1023 (stopRecord x.haltCause 8 (bit origin 0) x.haltIndex u.time report)).modPart part
    (fun x => { x with haltDone := true })

/-- A stop record leaves the partitions. -/
theorem State.putStop_partitions (place : Nat) (bs : List Byte) : (s.putStop part place bs).partitions = s.partitions := by
  unfold State.putStop
  dsimp only
  split
  · unfold State.putPhys
    split
    · rfl
    · rfl
    · split
      · rfl
      · exact (State.homeWrite_only ..).partitions
  · rfl

/-- A stop record leaves every partition. -/
theorem State.putStop_part (place : Nat) (bs : List Byte) (q : Nat) : (s.putStop part place bs).part q = s.part q := by
  unfold State.part
  rw [State.putStop_partitions]

variable {part index late s}

/-- A unit of a halted partition that has not stopped stops; after the last, DONE is set (R386, R387). -/
theorem execUnitStop_stops (halted : (s.part part).halted = true) (stops : (s.part part).stopped.contains index = false)
    (unit : (s.unitsOf part).contains index = true) : exec (.unitStop part index late) s = .next (
      let u := s.unitStopped part index late
      if (s.unitsOf part).all (fun n => (u.part part).stopped.contains n) then s.haltFinished part u else u) := by
  show execUnitStop part index late s = _
  unfold execUnitStop State.unitStopped State.haltFinished Partition.stopReport
  simp only [halted, stops, unit, Bool.not_true, Bool.or_false, Bool.false_eq_true, if_false, apply_ite Host.Outcome.next] <;>
    rfl

/-- The unit then stands among the stopped ones. -/
theorem State.unitStopped_part (present : part < s.partitions.length) :
    (s.unitStopped part index late).part part = { s.part part with stopped := (s.part part).stopped ++ [index] } := by
  unfold State.unitStopped
  dsimp only
  rw [State.part_modPart, State.putStop_part, State.putStop_partitions, if_pos ⟨rfl, present⟩]
  rfl

/-- The end of a halt sets DONE and leaves the stopped units. -/
theorem State.haltFinished_part {u : State} (present : part < u.partitions.length) :
    (s.haltFinished part u).part part = { u.part part with haltDone := true } := by
  unfold State.haltFinished
  dsimp only
  rw [State.part_modPart, State.putStop_part, State.putStop_partitions, if_pos ⟨rfl, present⟩]

/-- A stop of a unit leaves how many partitions there are. -/
theorem State.unitStopped_length : (s.unitStopped part index late).partitions.length = s.partitions.length := by
  unfold State.unitStopped State.modPart
  dsimp only
  rw [modNth_length, State.putStop_partitions]

end

/-- Settles O48: publication, EXT, the stop of a unit and the watchdog, each by its cases. -/
theorem haltEvents : Obligations.HaltEvents := by
  refine ⟨fun part value s idle => ?_, fun part value s present ext => ?_, fun part value s ext => ?_,
    fun part index late s present halted stops unit => ?_, fun t s tm ht present running set due => ?_⟩
  · exact ⟨execPubCtrlGo_set idle, fun rs => execPubCtrlGo_publishes idle, execPubCtrlGo_halts idle⟩
  · refine ⟨s.halt part 11 1023 UnitFault.none, (execExternalHalt_eq value).trans (by rw [if_pos ext]), ?_⟩
    dsimp only
    rw [State.part_halt, if_pos ⟨rfl, present⟩]
    refine ⟨Partition.faulted_halts .., fun running => ?_, fun halted inRange => ?_⟩
    · exact (Partition.faulted_first _ _ 11 1023 _ running).2.1
    · obtain ⟨-, -, keeps⟩ := Partition.faulted_halted (s.part part) s.time 11 1023 UnitFault.none halted
      exact (keeps (fun earlier => absurd earlier.2 (Nat.not_lt.2 inRange))).1
  · exact (execExternalHalt_eq value).trans (by rw [ext]; rfl)
  · refine ⟨_, execUnitStop_stops halted stops unit, ?_⟩
    dsimp only
    rw [State.unitStopped_part present]
    split
    · rw [State.haltFinished_part (by rw [State.unitStopped_length]; exact present), State.unitStopped_part present]
      exact ⟨rfl, fun _ => rfl⟩
    · rename_i others
      rw [State.unitStopped_part present]
      exact ⟨rfl, fun all => absurd all others⟩
  · refine ⟨_, execWatchdogExpiry_due ht running set due, ?_⟩
    dsimp only
    rw [State.part_halt, if_pos ⟨rfl, by simpa [State.modPart] using present⟩, State.part_modPart, if_pos ⟨rfl, present⟩]
    obtain ⟨halted, cause, -⟩ := Partition.faulted_first
      { s.part tm.part with watched := some (s.coreUnit tm, tm.record, tm.asid) } s.time 6 1023
      { UnitFault.none with record := tm.record, asid := tm.asid } running
    exact ⟨halted, cause⟩

end Sys2Proof.Machine
end

section
/-! PROOFS. The arbiter of a cluster's current, sleeping pipes, clock classes, boost leases, droops and the guard-band (R390, R391,
R393–R397, R402, R409). -/

namespace Sys2Proof.Machine

/-! ## The arbiter -/

/-- The first request of a list is one of them. -/
theorem firstRequest_mem {rs : List Current} {r : Current} (h : firstRequest rs = some r) : r ∈ rs := by
  induction rs generalizing r with
  | nil => cases h
  | cons x xs ih =>
    unfold firstRequest at h
    split at h
    · cases h
      exact List.mem_cons_self ..
    · rename_i q found
      split at h <;> cases h
      · exact List.mem_cons_of_mem _ (ih found)
      · exact List.mem_cons_self ..

/-- A list with a request has a first one. -/
theorem firstRequest_none {rs : List Current} (h : firstRequest rs = none) : rs = [] := by
  cases rs with
  | nil => rfl
  | cons x xs =>
    unfold firstRequest at h
    split at h
    · cases h
    · split at h <;> cases h

/-- A request comes before an urgent one where it is urgent and older (R391). -/
theorem Current.before_urgent {a b : Current} (hb : b.urgent = true) :
    a.before b = (a.urgent && decide (a.since < b.since)) := by
  unfold Current.before
  cases a.urgent <;> simp [hb]

/-- An urgent request comes before one that is not (R391). -/
theorem Current.before_calm {a b : Current} (ha : a.urgent = true) (hb : b.urgent = false) : a.before b = true := by
  unfold Current.before
  simp [ha, hb]

/-- Where an urgent request waits, the first is urgent and the oldest of those (R391). -/
theorem firstRequest_urgent {rs : List Current} {r : Current} (h : firstRequest rs = some r) {q : Current} (hq : q ∈ rs)
    (urgent : q.urgent = true) : r.urgent = true ∧ r.since ≤ q.since := by
  induction rs generalizing r q with
  | nil => cases hq
  | cons x xs ih =>
    unfold firstRequest at h
    split at h
    · rename_i last
      cases h
      rw [firstRequest_none last, List.mem_singleton] at hq
      exact hq ▸ ⟨urgent, Nat.le_refl _⟩
    · rename_i y found
      rcases List.mem_cons.1 hq with rfl | later
      · rw [Current.before_urgent urgent] at h
        split at h <;> cases h
        · rename_i before
          obtain ⟨hy, older⟩ := Bool.and_eq_true_iff.1 before
          exact ⟨hy, Nat.le_of_lt (of_decide_eq_true older)⟩
        · exact ⟨urgent, Nat.le_refl _⟩
      · obtain ⟨hy, oldest⟩ := ih found later urgent
        cases hx : x.urgent
        · rw [Current.before_calm hy hx, if_pos rfl] at h
          cases h
          exact ⟨hy, oldest⟩
        · rw [Current.before_urgent hx] at h
          split at h <;> cases h
          · exact ⟨hy, oldest⟩
          · rename_i after
            refine ⟨hx, Nat.le_trans (Nat.not_lt.1 fun older => after ?_) oldest⟩
            rw [hy, decide_eq_true older]
            rfl

/-- What the arbiter grants waits and fits; while an urgent request waits, it is the oldest urgent one (R391). -/
theorem Cluster.grantable_some {c : Cluster} {r : Current} (h : c.grantable = some r) :
    r ∈ c.requests ∧ r.size + c.used ≤ c.cap ∧
      (c.requests.any (·.urgent) = true → r.urgent = true ∧ ∀ q ∈ c.requests, q.urgent = true → r.since ≤ q.since) := by
  unfold Cluster.grantable at h
  dsimp only at h
  split at h
  · rename_i waits
    obtain ⟨first, fits⟩ := Option.filter_eq_some_iff.1 h
    obtain ⟨q, hq, urgent⟩ := List.any_eq_true.1 waits
    exact ⟨firstRequest_mem first, of_decide_eq_true fits, fun _ => ⟨(firstRequest_urgent first hq urgent).1,
      fun p hp hu => (firstRequest_urgent first hp hu).2⟩⟩
  · rename_i calm
    obtain ⟨waits, fits⟩ := List.mem_filter.1 (firstRequest_mem h)
    exact ⟨waits, of_decide_eq_true fits, fun urgent => absurd urgent calm⟩

section
variable {k : Nat} {s : State}

/-- The cluster after a grant: the request has become a holding (R391). -/
def Cluster.granted (c : Cluster) (r : Current) : Cluster :=
  { c.aged with requests := c.aged.requests.filter (· != r), holdings := c.aged.holdings ++ [r] }

/-- A grant changes the cluster's arbiter, and beside it a core and a team only (R390, R391). -/
theorem execReservationGrant_some {r : Current} (h : (s.cluster k).aged.grantable = some r) :
    ∃ u, exec (.reservationGrant k) s = .next u ∧ u.clusters = (s.modCluster k (·.granted r)).clusters := by
  show ∃ u, execReservationGrant k s = .next u ∧ _
  unfold execReservationGrant
  rw [h]
  refine ⟨_, rfl, ?_⟩
  dsimp only
  split
  · split
    · rw [State.modSeq, State.modTeam_clusters, State.modCore_clusters]
      rfl
    · rfl
  · rfl

/-- Nothing is granted where nothing may be. -/
theorem execReservationGrant_none (h : (s.cluster k).aged.grantable = none) : exec (.reservationGrant k) s = .next s := by
  show execReservationGrant k s = _
  rw [execReservationGrant, h]

/-- A change of a cluster, seen in the cluster itself. -/
theorem State.cluster_modCluster_self (inRange : k < s.clusters.length) (f : Cluster → Cluster) :
    (s.modCluster k f).cluster k = f (s.cluster k) := by
  rw [State.cluster_modCluster, if_pos ⟨rfl, inRange⟩]

/-- Clusters that stand the same read the same. -/
theorem State.cluster_congr {u : State} (h : u.clusters = s.clusters) (k : Nat) : u.cluster k = s.cluster k := by
  rw [State.cluster, h]
  rfl

/-- A running command's holding goes back and is asked for again, unless its engine already asks (R390). -/
theorem execEngineReservationRenew_some {who : Nat} {h : Current}
    (found : (s.cluster k).holdings.find? (fun h => h.requester == who && h.command != 0 && !s.holdingOver k h) = some h) :
    exec (.engineReservationRenew k who) s = .next (s.modCluster k (fun c => { c with
      holdings := c.holdings.filter (· != h)
      requests := c.requests ++ (if (s.cluster k).requests.any (fun r => r.requester == who) then []
        else [{ h with since := (s.cluster k).cycles, urgent := false }]) })) := by
  show execEngineReservationRenew k who s = _
  unfold execEngineReservationRenew
  dsimp only
  rw [found]

/-! ## Sleeping pipes -/

/-- A slot that a change of the slots makes of one. -/
theorem Core.slot_modNth (c : Core) {n : Nat} (inRange : n < c.slots.length) (f : Slot → Slot) :
    Core.slot { c with slots := modNth f n c.slots } n = f (c.slot n) := by
  unfold Core.slot
  dsimp only
  rw [modNth_getElem?, if_pos rfl, List.getElem?_eq_getElem inRange]
  rfl

/-- A pipe sleeps after 512 cycles without an instruction (R390). -/
theorem execPipeSleep_eq (core slot : Nat) : exec (.pipeSleep core slot) s =
    .next (s.modCore core (fun c => { c with slots := modNth (fun x =>
      if x.lastVector + 512 ≤ c.cycles then { x with asleep := true } else x) slot c.slots })) := rfl

/-- A pipe whose reservation has been granted wakes, and its reservation goes (R390). -/
theorem execPipeWake_granted {core slot : Nat}
    (granted : (s.cluster (clusterOf core)).holdings.any (fun h => h.requester == 4 * (core % 4) + slot) = true) :
    exec (.pipeWake core slot) s = .next ((s.modCore core (fun c => { c with
      slots := modNth (fun x => { x with asleep := false, lastVector := c.cycles }) slot c.slots })).modCluster
      (clusterOf core) (fun c => { c with holdings := c.holdings.filter (fun h => h.requester != 4 * (core % 4) + slot) })) := by
  show execPipeWake core slot s = _
  unfold execPipeWake
  dsimp only
  rw [if_pos granted]

/-! ## Classes and leases -/

/-- A move into or out of the boost pool keeps the class and the clock that runs (R395). -/
theorem Cluster.toBoost_keeps (c : Cluster) (on : Bool) (time nonce : Nat) :
    (c.toBoost on time nonce).cls = c.cls ∧ (c.toBoost on time nonce).moving = c.moving ∧
      (c.toBoost on time nonce).mhz = c.mhz := by
  unfold Cluster.toBoost Cluster.stopClock
  split <;> exact ⟨rfl, rfl, rfl⟩

/-- After it the clock restarts at the frequency of its class there, if it was to before (R393, R395). -/
theorem Cluster.toBoost_nextMhz {c : Cluster} (h : c.nextMhz = classMhz c.cls c.boost) (on : Bool) (time nonce : Nat) :
    (c.toBoost on time nonce).nextMhz = classMhz c.cls (c.toBoost on time nonce).boost := by
  unfold Cluster.toBoost Cluster.stopClock
  split
  · exact h
  · rfl

/-- The cluster with its new class, before it moves between the pools (R393). -/
def Cluster.reclassed (c : Cluster) : Cluster :=
  let x := { c with cls := c.nextCls, moving := false }
  if c.boost || c.stopped then { x with nextMhz := classMhz x.cls x.boost }
  else { x with mhz := classMhz x.cls false, nextMhz := classMhz x.cls false }

/-- It has the class, and its clock or the clock at which it restarts (R393). -/
theorem Cluster.reclassed_class (c : Cluster) : c.reclassed.cls = c.nextCls ∧ c.reclassed.moving = false ∧
    c.reclassed.nextMhz = classMhz c.reclassed.cls c.reclassed.boost ∧
    (c.boost = false → c.stopped = false → c.reclassed.mhz = classMhz c.nextCls false) := by
  unfold Cluster.reclassed
  dsimp only
  split
  · rename_i stands
    refine ⟨rfl, rfl, rfl, fun calm runs => ?_⟩
    rw [calm, runs] at stands
    cases stands
  · rename_i runs
    have calm : c.boost = false := by
      cases h : c.boost
      · rfl
      · exact absurd (by rw [h]; rfl) runs
    exact ⟨rfl, rfl, by rw [calm], fun _ _ => rfl⟩

/-- The class that an empty cluster takes, its clock at once or at its restart (R393, R395). -/
theorem Cluster.settle_class (c : Cluster) (leased : Bool) (time nonce : Nat) :
    let d := c.settle leased time nonce
    d.cls = c.nextCls ∧ d.moving = false ∧ d.nextMhz = classMhz c.nextCls d.boost ∧
      (c.boost = false → c.stopped = false → d.mhz = classMhz c.nextCls false) := by
  have split : c.settle leased time nonce = c.reclassed.toBoost (leased && c.reclassed.cls == 0) time nonce := rfl
  obtain ⟨cls, moving, next, runs⟩ := c.reclassed_class
  obtain ⟨keepsCls, keepsMoving, keepsMhz⟩ := c.reclassed.toBoost_keeps (leased && c.reclassed.cls == 0) time nonce
  dsimp only
  rw [split, keepsCls, keepsMoving, keepsMhz, Cluster.toBoost_nextMhz next, cls]
  exact ⟨rfl, moving, rfl, runs⟩

/-- A cluster without a team that waits for its class takes it; one with a team waits (R393). -/
theorem execPoolMove_eq : exec (.poolMove k) s = if s.teams.any (fun kt => clusterOf kt.2.core == k) then .next s
    else .next (s.modCluster k (fun c => if !c.moving then c
      else c.settle (match c.partition with | some p => (s.part p).lease != 0 | none => false) s.time s.nonce)) := rfl

/-- A request for a lease that a reason refuses (R394). -/
theorem execBoostRequest_refused {part : Nat} {value : Dword} {holds : Bool} (request : hasBit value.toNat 31 = false)
    (refused : s.boostReason part (bits value.toNat 47 32) holds ≠ 0) : exec (.boostRequest part value holds) s =
      .next (s.modPart part (fun x => { x with
        boostState := 3, boostReason := s.boostReason part (bits value.toNat 47 32) holds })) := by
  show execBoostRequest part value holds s = _
  unfold execBoostRequest
  simp only [request, Bool.false_eq_true, if_false, if_pos refused]

/-- A request that none refuses begins a lease and moves the class-0 clusters to the boost pool (R394). -/
theorem execBoostRequest_granted {part : Nat} {value : Dword} {holds : Bool} (request : hasBit value.toNat 31 = false)
    (granted : s.boostReason part (bits value.toNat 47 32) holds = 0) : exec (.boostRequest part value holds) s =
      .next { (s.modPart part (fun x => { x with
        lease := 1, boostState := 1, boostReason := 0
        boostEnd := (s.time + 1000 * bits value.toNat 47 32) % 2 ^ 64 })).modClusters part
        (fun c => if c.cls = 0 then c.toBoost true s.time s.nonce else c) with nonce := s.nonce + 1 } := by
  show execBoostRequest part value holds s = _
  unfold execBoostRequest
  simp only [request, Bool.false_eq_true, if_false, granted, ne_eq, not_true_eq_false]

/-- A held lease is revoked under notice, with the boost interrupt (R395, R402). -/
theorem execBoostRevoke_held {part : Nat} (present : part < s.partitions.length) (held : (s.part part).lease = 1) :
    Answers (.boostRevoke part) s (fun u =>
      (u.part part).lease = 2 ∧ (u.part part).boostState = 2 ∧ (u.part part).boostEnd = (s.time + 200000) % 2 ^ 64 ∧
      (u.part part).irqs.contains 2 = true) := by
  refine ⟨_, rfl, ?_⟩
  dsimp only
  rw [State.part_modPart, if_pos ⟨rfl, present⟩, if_pos held, List.contains_iff_mem]
  refine ⟨?_, ?_, ?_, Partition.mem_raise _ 2⟩ <;> rw [Partition.raise_eq]

/-- Clusters of a machine whose clock restarts stand as the restart leaves them. -/
theorem execClockRestart_due (stopped : (s.cluster k).stopped = true) (due : (s.cluster k).stopAt + 2000 ≤ s.time) :
    ∃ u, exec (.clockRestart k) s = .next u ∧
      u.clusters = (s.modCluster k (fun c => c.restarted.pass s.time (s.time - ((s.cluster k).stopAt + 2000)))).clusters := by
  show ∃ u, execClockRestart k s = .next u ∧ _
  unfold execClockRestart
  dsimp only
  rw [if_pos ⟨stopped, due⟩]
  exact ⟨_, rfl, rfl⟩

/-- A clock that runs, or has not stopped for its 2,000 ticks, is left. -/
theorem execClockRestart_early (early : (s.cluster k).stopped = false ∨ s.time < (s.cluster k).stopAt + 2000) :
    exec (.clockRestart k) s = .next s := by
  show execClockRestart k s = _
  unfold execClockRestart
  dsimp only
  rw [if_neg]
  rintro ⟨stopped, due⟩
  rcases early with runs | before
  · rw [runs] at stopped
    cases stopped
  · omega

end

/-- The events of the arbiter and of the pipes (R390, R391). -/
theorem reservations : (∀ k s r, k < s.clusters.length → (s.cluster k).aged.grantable = some r →
      Answers (.reservationGrant k) s (fun u => (u.cluster k).holdings = (s.cluster k).holdings ++ [r] ∧
        (u.cluster k).requests = (s.cluster k).aged.requests.filter (· != r))) ∧
    (∀ k who s, k < s.clusters.length → Answers (.reservationReturn k who) s (fun u =>
      ∀ h, h ∈ (u.cluster k).holdings ↔
        h ∈ (s.cluster k).holdings ∧ ¬ (h.requester = who ∧ s.holdingOver k h = true))) ∧
    (∀ core slot s, core < s.cores.length → slot < (s.core core).slots.length →
      Answers (.pipeSleep core slot) s (fun u => ((u.core core).slot slot).asleep =
        (((s.core core).slot slot).asleep || decide (((s.core core).slot slot).lastVector + 512 ≤ (s.core core).cycles)))) ∧
    (∀ core slot s, core < s.cores.length → slot < (s.core core).slots.length →
      (s.cluster (clusterOf core)).holdings.any (fun h => h.requester == 4 * (core % 4) + slot) = true →
      Answers (.pipeWake core slot) s (fun u => ((u.core core).slot slot).asleep = false)) := by
  refine ⟨fun k s r inRange h => ?_, fun k who s inRange => ⟨_, rfl, fun h => ?_⟩, fun core slot s inRange slots =>
    ⟨_, execPipeSleep_eq core slot, ?_⟩, fun core slot s inRange slots granted => ⟨_, execPipeWake_granted granted, ?_⟩⟩
  · obtain ⟨u, granted, clusters⟩ := execReservationGrant_some h
    refine ⟨u, granted, ?_⟩
    dsimp only
    rw [State.cluster_congr clusters, State.cluster_modCluster_self inRange]
    exact ⟨rfl, rfl⟩
  · rw [State.cluster_modCluster_self inRange, List.mem_filter, Bool.not_eq_true', ← Bool.not_eq_true, Bool.and_eq_true,
      beq_iff_eq]
  · dsimp only
    rw [State.core_modCore, if_pos ⟨rfl, inRange⟩, Core.slot_modNth _ slots]
    split
    · rename_i idle
      simp [idle]
    · rename_i busy
      simp [busy]
  · show (((s.modCore core _).core core).slot slot).asleep = false
    rw [State.core_modCore, if_pos ⟨rfl, inRange⟩, Core.slot_modNth _ slots]

/-- Settles O49: the arbiter by what it may grant, the class by `Cluster.settle_class`, the leases and the clock by their cases. -/
theorem reservationAndClassEvents : Obligations.ReservationAndClassEvents := by
  obtain ⟨grants, returns, sleeps, wakes⟩ := reservations
  refine ⟨⟨grants, fun k s => execReservationGrant_none, fun c => ⟨rfl, rfl⟩, fun c r => Cluster.grantable_some,
      fun k who s => rfl, returns, fun k who s h => execEngineReservationRenew_some, sleeps, wakes⟩,
    fun k value s => rfl, fun k s inRange empty moving => ?_, fun k s occupied => ?_, fun part value holds s request =>
      ⟨fun r hr refused => ?_, execBoostRequest_granted request⟩, fun part value s cancel held => ?_,
    fun part s => execBoostRevoke_held, fun part s held ended => ?_, fun k s inRange stopped due => ?_,
    fun k s => execClockRestart_early⟩
  · refine ⟨_, execPoolMove_eq.trans (by rw [empty]; exact if_neg Bool.false_ne_true), ?_⟩
    dsimp only
    rw [State.cluster_modCluster_self inRange, moving]
    exact (s.cluster k).settle_class _ s.time s.nonce
  · exact execPoolMove_eq.trans (if_pos occupied)
  · subst hr
    exact execBoostRequest_refused request refused
  · exact congrArg Host.Outcome.next (if_pos ⟨cancel, held⟩)
  · exact congrArg Host.Outcome.next (if_pos ⟨held, ended⟩)
  · obtain ⟨u, restarts, clusters⟩ := execClockRestart_due stopped due
    refine ⟨u, restarts, ?_⟩
    dsimp only
    rw [State.cluster_congr clusters, State.cluster_modCluster_self inRange]
    exact ⟨rfl, rfl⟩

/-! ## Droops -/

section
variable {k : Nat} {s : State}

/-- An alarm counts, and outside a stretch begins one (R396). -/
def Cluster.alarmed (c : Cluster) : Cluster :=
  let counted := { c with alarms := (c.alarms + 1) % 2 ^ 64 }
  if c.edges ≠ 0 then counted
  else { counted with edges := c.stretch, halfLeft := c.half, droop := if c.stretch = 0 then 2 else 1 }

/-- A dip of more than twice the threshold is an alarm (R396, R397). -/
theorem execDroopAlarm_eq (dip : Nat) : exec (.droopAlarm k dip) s = .next (s.modCluster k (fun c =>
    if c.thresh = 0 ∨ dip ≤ 2 * c.thresh then c else c.alarmed)) := rfl

/-- A change of a cluster that leaves it as it is. -/
theorem State.cluster_modCluster_same {f : Cluster → Cluster} (h : f (s.cluster k) = s.cluster k) :
    (s.modCluster k f).cluster k = s.cluster k := by
  rw [State.cluster_modCluster]
  split
  · exact h
  · rfl

/-! ## The guard-band -/

variable (cluster : Nat) (report : Nat → Option Int)

/-- The margins that the monitors of a cluster report leave the clusters and how many cores there are. -/
theorem State.noteMargins_frame (ps : List Nat) : (s.noteMargins cluster report ps).clusters = s.clusters ∧
    (s.noteMargins cluster report ps).cores.length = s.cores.length := by
  unfold State.noteMargins
  induction ps generalizing s with
  | nil => exact ⟨rfl, rfl⟩
  | cons p ps ih =>
    rw [List.foldl_cons]
    cases report p with
    | none => exact ih
    | some x =>
      exact ⟨ih.1.trans rfl, ih.2.trans (modNth_length _ p s.cores)⟩

/-- Margins that are not negative exhaust no core (R409, R410). -/
theorem State.noteMargins_exhausted {ps : List Nat} (margin : ∀ p ∈ ps, ∀ x, report p = some x → 0 ≤ x) (q : Nat) :
    ((s.noteMargins cluster report ps).core q).exhausted = (s.core q).exhausted := by
  unfold State.noteMargins
  induction ps generalizing s with
  | nil => rfl
  | cons p ps ih =>
    rw [List.foldl_cons, ih (fun r hr => margin r (List.mem_cons_of_mem _ hr))]
    cases reported : report p with
    | none => rfl
    | some x =>
      have positive : decide (x < 0) = false := decide_eq_false (not_lt.2 (margin p (List.mem_cons_self ..) x reported))
      dsimp only
      rw [State.core_modCore]
      split
      · simp [positive]
      · rfl

/-- A margin that is noted stays (R409). -/
theorem State.noteMargins_keeps {q : Nat} {x : Int} (reported : report q = some x) {ps : List Nat}
    (noted : (s.core q).margin = (min 255 (max 0 x)).toNat) :
    ((s.noteMargins cluster report ps).core q).margin = (min 255 (max 0 x)).toNat := by
  unfold State.noteMargins
  induction ps generalizing s with
  | nil => exact noted
  | cons p ps ih =>
    rw [List.foldl_cons]
    refine ih ?_
    cases other : report p with
    | none => exact noted
    | some y =>
      dsimp only
      rw [State.core_modCore]
      split
      · rename_i same
        obtain ⟨rfl, -⟩ := same
        rw [reported] at other
        cases other
        rfl
      · exact noted

/-- The margin that a core's monitor reports stands in its register, saturated (R409). -/
theorem State.noteMargins_margin {q : Nat} {x : Int} (reported : report q = some x) {ps : List Nat} (hq : q ∈ ps)
    (inRange : q < s.cores.length) :
    ((s.noteMargins cluster report ps).core q).margin = (min 255 (max 0 x)).toNat := by
  induction ps generalizing s with
  | nil => cases hq
  | cons p ps ih =>
    have first : s.noteMargins cluster report (p :: ps) =
        (s.noteMargins cluster report [p]).noteMargins cluster report ps := rfl
    rw [first]
    rcases List.mem_cons.1 hq with rfl | later
    · refine State.noteMargins_keeps cluster report reported ?_
      unfold State.noteMargins
      rw [List.foldl_cons, List.foldl_nil, reported]
      dsimp only
      rw [State.core_modCore, if_pos ⟨rfl, inRange⟩]
    · refine ih later ?_
      rw [(State.noteMargins_frame cluster report [p]).2]
      exact inRange

/-- What the monitor of a core reports: the least of its margins (R409). -/
def reportOf (margins : List (Nat × Int)) (p : Nat) : Option Int := leastMargin ((margins.filter (fun m => m.1 == p)).map (·.2))

/-- A recalibration that exhausts no core sets the guard-band and notes the margins (R395, R409). -/
theorem execRecalibration_fresh {margins : List (Nat × Int)} {m : Int}
    (least : leastMargin (((clusterCores k).filter (fun p => (s.core p).inUse)).filterMap (reportOf margins)) = some m)
    (fresh : ∀ p ∈ clusterCores k, (s.core p).exhausted = false)
    (positive : ∀ p ∈ clusterCores k, ∀ x, reportOf margins p = some x → 0 ≤ x) :
    exec (.recalibration k margins) s =
      .next ((s.recalibrate k (some m)).noteMargins k (reportOf margins) (clusterCores k)) := by
  show execRecalibration k margins s = _
  have report : execRecalibration k margins s = .next
      ((((clusterCores k).filter (fun p => (((s.recalibrate k (leastMargin (((clusterCores k).filter
        (fun p => (s.core p).inUse)).filterMap (reportOf margins)))).noteMargins k (reportOf margins)
        (clusterCores k)).core p).exhausted)).foldl State.fence) ((s.recalibrate k (leastMargin (((clusterCores k).filter
        (fun p => (s.core p).inUse)).filterMap (reportOf margins)))).noteMargins k (reportOf margins) (clusterCores k))) := rfl
  rw [report, least]
  have none_exhausted : (clusterCores k).filter (fun p =>
      (((s.recalibrate k (some m)).noteMargins k (reportOf margins) (clusterCores k)).core p).exhausted) = [] := by
    refine List.filter_eq_nil_iff.2 fun p hp => ?_
    rw [State.noteMargins_exhausted k _ positive]
    show ¬ (s.core p).exhausted = true
    rw [fresh p hp]
    exact Bool.false_ne_true
  rw [none_exhausted]
  rfl

end

/-- Settles O50: the alarm by whether edges are withheld, the guard-band by `State.noteMargins`. -/
theorem droopAndGuardBandEvents : Obligations.DroopAndGuardBandEvents := by
  refine ⟨⟨fun k dip s inRange on deep => ⟨_, execDroopAlarm_eq dip, ?_⟩, fun k dip s shallow => ⟨_, execDroopAlarm_eq dip, ?_⟩,
    fun k s inRange withheld stretch => ⟨_, rfl, ?_⟩, fun k s inRange window ended => ⟨_, rfl, ?_⟩⟩, ?_⟩
  · dsimp only
    rw [State.cluster_modCluster_self inRange, if_neg (by omega), Cluster.alarmed]
    split
    · rename_i stretching
      exact ⟨rfl, fun calm => absurd calm stretching, fun _ => ⟨rfl, rfl⟩⟩
    · rename_i calm
      exact ⟨rfl, fun _ => ⟨rfl, rfl⟩, fun stretching => absurd stretching calm⟩
  · exact State.cluster_modCluster_same (if_pos shallow)
  · dsimp only
    rw [State.cluster_modCluster_self inRange, if_pos ⟨stretch, withheld⟩]
    exact ⟨rfl, rfl⟩
  · dsimp only
    rw [State.cluster_modCluster_self inRange, if_pos ⟨window, ended⟩]
  · intro k margins s m at_ inRange least fresh positive
    refine ⟨_, execRecalibration_fresh least fresh positive, ?_⟩
    have clusters := (State.noteMargins_frame (s := s.recalibrate k (some m)) k (reportOf margins) (clusterCores k)).1
    have cluster : (s.recalibrate k (some m)).cluster k =
        { (s.cluster k).stopClock s.time s.nonce with add := (min 60 (max 0 (30 - m))).toNat } :=
      State.cluster_modCluster_self inRange
        (fun c => { c.stopClock s.time s.nonce with add := (min 60 (max 0 (30 - m))).toNat })
    dsimp only
    rw [State.cluster_congr clusters, cluster]
    refine ⟨rfl, rfl, fun p hp present x reported => ?_⟩
    rw [State.noteMargins_margin (s := s.recalibrate k (some m)) k (reportOf margins) reported hp present,
      max_eq_right (positive p hp x reported)]

end Sys2Proof.Machine
end

section
/-! PROOFS. Partners, and the ports and packets of the fabric (R308–R310, R386, R403–R406, R408). -/

namespace Sys2Proof.Machine

/-! ## Partners -/

section
variable {p : Nat} {s : State}

/-- CR_MIRR_CTL after a pairing: the size, CO and the partner (R405, R411). -/
def pairedCtl (same : Bool) (partner size : Nat) : Dword :=
  BitVec.ofNat 64 (size % 2 ^ 32 * 2 ^ 32 + bit same 31 + partner % 2 ^ 18)

/-- Its fields (R411). -/
theorem pairedCtl_fields (same : Bool) (partner size : Nat) :
    bits (pairedCtl same partner size).toNat 63 32 = size % 2 ^ 32 ∧
      bits (pairedCtl same partner size).toNat 17 0 = partner % 2 ^ 18 ∧ (pairedCtl same partner size).getLsbD 31 = same := by
  have co : bit same 31 = 0 ∧ same = false ∨ bit same 31 = 2 ^ 31 ∧ same = true := by cases same <;> simp [bit]
  have value : (pairedCtl same partner size).toNat = size % 2 ^ 32 * 2 ^ 32 + bit same 31 + partner % 2 ^ 18 := by
    rw [pairedCtl, BitVec.toNat_ofNat, Nat.mod_eq_of_lt]
    omega
  rw [← BitVec.testBit_toNat, value, Nat.testBit_eq_decide_div_mod_eq]
  simp only [bits, Nat.shiftRight_eq_div_pow]
  refine ⟨by omega, by omega, ?_⟩
  rcases co with ⟨clear, rfl⟩ | ⟨set, rfl⟩
  · exact decide_eq_false (by omega)
  · exact decide_eq_true (by omega)

/-- A pairing that is taken ends the cut in progress and sets CR_MIRR_CTL (R405, R310). -/
theorem execPartnerPairing_taken {partner : Nat} {feed : Half} {override : Bool} {size : Nat}
    (may : feed.toNat ≠ s.health.feed ∨ override = true) : exec (.partnerPairing p partner feed override size) s =
      .next (s.modPart p (fun x => { x with
        mirrCtl := pairedCtl (feed.toNat == s.health.feed) partner size
        secured := false, cuts := x.cuts.map (fun k => { k with failed := true }) })) := by
  show execPartnerPairing p partner feed override size s = _
  unfold execPartnerPairing
  dsimp only
  rw [if_neg]
  · rfl
  · rcases may with apart | overridden
    · simp [apart]
    · simp [overridden]

/-- A pairing on one feed without an override is refused (R405). -/
theorem execPartnerPairing_refused {partner : Nat} {feed : Half} {size : Nat} (same : feed.toNat = s.health.feed) :
    exec (.partnerPairing p partner feed false size) s = .next s := by
  show execPartnerPairing p partner feed false size s = _
  unfold execPartnerPairing
  dsimp only
  rw [if_pos (by simp [same])]

/-- A restore answers the blocks where each carries the cut, else nothing (R406). -/
theorem execPartnerRestore_eq (first count cut : Nat) : exec (.partnerRestore p first count cut) s =
    let m := s.mirror (bits (s.part p).mirrCtl.toNat 17 0) p
    if (List.range count).all (fun k => Map.get? m.tags (first + k) == some cut) then
      .next { s with reply := (List.range (65536 * count)).map (fun i => Map.get m.bytes (65536 * first + i) 0) }
    else .next { s with reply := [] } := rfl

end

/-! ## Ports -/

section
variable {n : Nat} {s : State} {p : Port}

/-- A port after a change of it. -/
theorem State.modPort_self (h : s.ports[n]? = some p) (f : Port → Port) : (s.modPort n f).ports[n]? = some (f p) := by
  rw [State.modPort, modNth_getElem?, if_pos rfl, h]
  rfl

/-- A command of a device without a route ends with code 5 (R404). -/
theorem State.cutOff_ends {c : Command} (hc : c ∈ s.commands) {d : Nat} (waits : c.state = 2) (dest : c.dest = some d)
    (lost : s.routed d = false) : { c with state := 4, code := 5 } ∈ s.cutOff.commands := by
  unfold State.cutOff
  have cut : c ∈ s.commands.filter (fun c => c.state == 2 && (c.dest.map (fun d => !s.routed d)).getD false) :=
    List.mem_filter.2 ⟨hc, by simp [waits, dest, lost]⟩
  exact List.mem_map.2 ⟨c, hc, if_pos (List.any_eq_true.2 ⟨c, cut, beq_self_eq_true c.id⟩)⟩

/-- A port that has been down for 10,000,000 ticks leaves the routing (R404). -/
def Port.expired (p : Port) (time : Nat) : Port :=
  if (p.mode = 1 ∨ p.mode = 2) ∧ p.since + 10000000 ≤ time then { p with mode := 3 } else p

/-- The events of a port: its failure, its retraining, its removal, and a heartbeat that its neighbour misses (R404, R408). -/
theorem portEvents (h : s.ports[n]? = some p) :
    Answers (.fabricPortFailure n) s (fun u =>
      (p.mode = 0 → u.ports[n]? = some { p with mode := 1, since := s.time }) ∧
      (p.mode = 1 → u.ports[n]? = some { p with mode := 2 })) ∧
    Answers (.portRetrainComplete n) s (fun u => p.mode = 1 → u.ports[n]? = some { p with mode := 0, missed := 0 }) ∧
    Answers (.portRemoval n) s (fun u =>
      ((p.mode = 1 ∨ p.mode = 2) ∧ p.since + 10000000 ≤ s.time → u.ports[n]? = some { p with mode := 3 }) ∧
      (s.time < p.since + 10000000 → u.ports[n]? = some p) ∧
      ∀ c ∈ s.commands, ∀ d, c.state = 2 → c.dest = some d → u.routed d = false →
        { c with state := 4, code := 5 } ∈ u.commands) ∧
    Answers (.missedHeartbeat n) s (fun u => u.ports[n]? = some { p with missed := p.missed + 1 }) := by
  refine ⟨⟨_, rfl, fun used => ?_, fun retrains => ?_⟩, ⟨_, rfl, fun retrains => ?_⟩,
    ⟨(s.modPort n (·.expired s.time)).cutOff, rfl, fun down => ?_, fun early => ?_, fun c hc d waits dest lost => ?_⟩,
    ⟨_, rfl, State.modPort_self h _⟩⟩
  · rw [State.modPort_self h, if_pos used]
  · rw [State.modPort_self h, if_neg (by omega), if_pos retrains]
  · rw [State.modPort_self h, if_pos retrains]
  · exact (State.modPort_self h _).trans (congrArg some (if_pos down))
  · exact (State.modPort_self h _).trans (congrArg some (if_neg (by omega)))
  · exact State.cutOff_ends (s := s.modPort n (·.expired s.time)) hc waits dest lost

end

/-! ## Packets -/

section
variable {n : Nat} {s : State} {p : Packet}

/-- The unit of a packet's command has stopped (R386). -/
def State.senderDown (s : State) (p : Packet) : Bool :=
  ((s.command? p.command).map (fun c => s.unitDown c.part (s.engineUnit c))).getD false

/-- The machine without a packet, whose bytes stand in the mirror region (R310). -/
def State.landed (s : State) (p : Packet) (n : Nat) : State :=
  { s with packets := s.packets.filter (fun x => x.id != n) }.modMirror p.dest p.part
    (fun m => { m with bytes := padPut m.bytes p.off p.data })

/-- A packet that may not arrive, or whose unit has stopped, waits (R386, R403). -/
theorem execFabricPacket_waits (found : s.packets.find? (fun p => p.id == n) = some p)
    (waits : s.mayArrive p = false ∨ s.senderDown p = true) : exec (.fabricPacket (.ours n)) s = .next s := by
  show execFabricPacket (.ours n) s = _
  unfold execFabricPacket State.senderDown at *
  dsimp only
  rw [found]
  dsimp only
  rw [if_pos]
  rcases waits with held | down
  · rw [held]
    rfl
  · rw [down, Bool.or_true]

/-- Another arrives, and after the last the command has finished (R310, R404). -/
theorem execFabricPacket_arrives (found : s.packets.find? (fun p => p.id == n) = some p) (may : s.mayArrive p = true)
    (up : s.senderDown p = false) : exec (.fabricPacket (.ours n)) s = .next ((s.landed p n).packetsDone p.command) := by
  show execFabricPacket (.ours n) s = _
  unfold State.senderDown at up
  unfold execFabricPacket
  dsimp only
  rw [found]
  dsimp only
  rw [if_neg (by rw [may, up]; exact Bool.false_ne_true)]
  rfl

/-- The elements of a rank on another device join those that its collective has (R308, R309). -/
theorem State.rankArrives_joins {part name rank : Nat} {data : List Byte} {x : CollEntry}
    (entry : s.collEntry part name = some x) (inRange : rank < x.p) (away : s.rankAway x rank = true)
    (length : data.length = x.e * (codeBits x.typ / 8)) :
    s.rankArrives part name rank data = { s with collWaits := s.collWaits ++ [⟨part, name, rank, 0,
      (List.range x.e).map (fun j => field data (j * (codeBits x.typ / 8)) (codeBits x.typ / 8))⟩] } := by
  unfold State.rankArrives
  rw [entry]
  dsimp only
  rw [if_pos ⟨inRange, away, length⟩]

end

/-- Settles O52: the pairing by its register, a restore by whether every block carries the cut, ports and packets by their
cases. -/
theorem partnerAndFabricEvents : Obligations.PartnerAndFabricEvents := by
  refine ⟨fun p partner feed size s => execPartnerPairing_refused, fun p partner feed override size s present may =>
      ⟨_, execPartnerPairing_taken may, ?_⟩, fun p first count cut s => ?_, fun n s p => portEvents,
    fun n s => ⟨_, rfl, fun p hp id may => List.mem_map.2 ⟨p, hp, if_pos ⟨id, may⟩⟩⟩, fun n s p found => ?_,
    fun part name rank data s x runs entry inRange away length => ?_⟩
  · obtain ⟨size, partner, co⟩ := pairedCtl_fields (feed.toNat == s.health.feed) partner size
    rw [State.part_modPart, if_pos ⟨rfl, present⟩]
    refine ⟨size, partner, ?_, rfl⟩
    rw [co, beq_iff_eq]
  · intro m carries
    have all : (List.range count).all (fun k => Map.get? m.tags (first + k) == some cut) = true ↔ carries := by
      simp [carries]
    by_cases carried : carries
    · exact ⟨_, (execPartnerRestore_eq first count cut).trans (if_pos (all.2 carried)), fun _ => rfl,
        fun missing => absurd carried missing⟩
    · exact ⟨_, (execPartnerRestore_eq first count cut).trans (if_neg (mt all.1 carried)), fun every => absurd every carried,
        fun _ => rfl⟩
  · refine ⟨execFabricPacket_waits found, fun may up others => ?_, fun may up last => ?_⟩
    · exact (execFabricPacket_arrives found may up).trans (congrArg Host.Outcome.next (if_pos others))
    · exact (execFabricPacket_arrives found may up).trans
        (congrArg Host.Outcome.next (if_neg (Bool.eq_false_iff.1 last)))
  · refine ⟨_, congrArg Host.Outcome.next (if_neg (Bool.eq_false_iff.1 runs)), ?_⟩
    rw [State.rankArrives_joins entry inRange away length]
    exact ⟨rfl, rfl⟩

end Sys2Proof.Machine
end

section
/-! PROOFS. A scrub from its GO to its end, a unit a step, and its interrupt (R402, R415–R417, R468). -/

namespace Sys2Proof.Machine

/-! ## The GO -/

section
variable {p : Nat} {w : Dword} {s : State}

/-- What a GO makes the engine hold: what the registers name, and what is quarantined too (R416, R468). -/
def State.scrubTakes (s : State) (p : Nat) (ctl : Dword) : ScrubSet :=
  if (s.part p).scrubQuar then (s.part p).scrubHeld.union (s.scrubNames p ctl) else s.scrubNames p ctl

/-- The partition whose scrub begins (R415, R468), with the interrupt of a restart (R417). -/
def Partition.scrubStarted (x : Partition) (ctl : Dword) (held : ScrubSet) : Partition :=
  let y := { x with
    scrubCtl := ctl, scrubDone := false, scrubOn := true, scrubPhase := 0, scrubUnits := 0, scrubHeld := held }
  if x.scrubQuar then y.raise 3 else y

/-- Rewriting the health record leaves the partitions. -/
theorem State.rewriteHealth_part (s : State) (p : Nat) : s.rewriteHealth.part p = s.part p := rfl

/-- A GO is ignored while a scrub runs (R468). -/
theorem execScrubGo_ignored (go : w.getLsbD 63 = true) (runs : (s.part p).scrubDone = false)
    (fresh : (s.part p).scrubQuar = false) : exec (.scrubGo p w) s = .next s := by
  show Host.Outcome.next (s.scrubWrite p w) = _
  unfold State.scrubWrite
  simp only [go, runs, fresh, Bool.not_true, Bool.not_false, Bool.false_eq_true, if_false, Bool.true_and, if_true]

/-- Another GO starts the engine (R468). -/
theorem execScrubGo_starts (present : p < s.partitions.length) (go : w.getLsbD 63 = true)
    (may : (s.part p).scrubDone = true ∨ (s.part p).scrubQuar = true) :
    ∃ u, exec (.scrubGo p w) s = .next u ∧ u.part p = (s.part p).scrubStarted (w &&& 0x0000FFFF000FFF03)
      (s.scrubTakes p (w &&& 0x0000FFFF000FFF03)) := by
  have begins : (!(s.part p).scrubDone && !(s.part p).scrubQuar) = false := by
    rcases may with done | again
    · rw [done]
      rfl
    · rw [again, Bool.not_true, Bool.and_false]
  let ctl := w &&& 0x0000FFFF000FFF03
  let held := s.scrubTakes p ctl
  let started := s.modPart p (·.scrubStarted ctl held)
  have part : started.part p = (s.part p).scrubStarted ctl held := by rw [State.part_modPart, if_pos ⟨rfl, present⟩]
  have wrote : s.scrubWrite p w =
      if (s.part p).scrubQuar && held != (s.part p).scrubHeld then started.rewriteHealth else started := by
    unfold State.scrubWrite
    dsimp only
    rw [if_neg (by rw [go]; exact Bool.false_ne_true), if_neg (Bool.eq_false_iff.1 begins)]
    rfl
  refine ⟨s.scrubWrite p w, rfl, ?_⟩
  rw [wrote]
  split
  · exact part
  · exact part

variable (x : Partition) (ctl : Dword) (held : ScrubSet)

/-- What a GO leaves in the scrub registers (R415, R467). -/
theorem Partition.scrubStarted_fields : (x.scrubStarted ctl held).scrubDone = false ∧ (x.scrubStarted ctl held).scrubPhase = 0 ∧
    (x.scrubStarted ctl held).scrubUnits = 0 ∧ (x.scrubStarted ctl held).scrubOn = true ∧
    (x.scrubStarted ctl held).scrubQuar = x.scrubQuar ∧ (x.scrubStarted ctl held).scrubHeld = held ∧
    (x.scrubStarted ctl held).scrubCtl = ctl := by
  unfold Partition.scrubStarted
  dsimp only
  split
  · rw [Partition.raise_eq]
    exact ⟨rfl, rfl, rfl, rfl, rfl, rfl, rfl⟩
  · exact ⟨rfl, rfl, rfl, rfl, rfl, rfl, rfl⟩

/-- A restart raises the scrub interrupt (R417). -/
theorem Partition.scrubStarted_raises (again : x.scrubQuar = true) : 3 ∈ (x.scrubStarted ctl held).irqs := by
  unfold Partition.scrubStarted
  rw [if_pos again]
  exact Partition.mem_raise _ 3

end

/-! ## A unit -/

section
variable {p : Nat} {s : State}

/-- A scrub's unit leaves the partitions. -/
theorem State.scrubUnit_partitions (s : State) (p phase k : Nat) : (s.scrubUnit p phase k).partitions = s.partitions := by
  unfold State.scrubUnit
  dsimp only
  split
  · split <;> rfl
  · split <;> rfl
  · split
    · split
      · exact (State.zeroLines_only ..).partitions
      · rfl
    · rfl

/-- A unit of a core's arrays is zeroed under each team of the core (R415, log entry 68). -/
theorem State.scrubUnit_core {k core : Nat} (h : (s.part p).scrubHeld.cores[k / 24]? = some core) {kt : Nat × Team}
    (team : kt ∈ s.teams) (there : kt.2.core = core) :
    (kt.1, kt.2.zeroUnit (k % 24)) ∈ (s.scrubUnit p 1 k).teams := by
  have unit : s.scrubUnit p 1 k = s.zeroUnit core (k % 24) := by
    unfold State.scrubUnit
    dsimp only
    rw [h]
    rfl
  rw [unit]
  exact List.mem_map.2 ⟨kt, team, if_pos there⟩

/-- A unit of a piece is zeroed (R415). -/
theorem State.scrubUnit_piece {k n die : Nat} (h : (s.part p).scrubHeld.pieces[k / 4]? = some (n, die)) {i : Nat}
    (inUnit : i < 0x10000) :
    Memory.get (s.scrubUnit p 2 k).kpad (p * 2 ^ 26 + 0x40000 * n + 0x10000 * (k % 4) + i) = 0 := by
  let first := p * 2 ^ 26 + 0x40000 * n + 0x10000 * (k % 4)
  have unit : (s.scrubUnit p 2 k).kpad = s.kpad.filter (fun c => !(first ≤ c.1 && c.1 < first + 0x10000)) := by
    unfold State.scrubUnit
    dsimp only
    rw [h]
    rfl
  have inside : (!(decide (first ≤ first + i) && decide (first + i < first + 0x10000))) = false := by
    rw [decide_eq_true (Nat.le_add_right first i), decide_eq_true (Nat.add_lt_add_left inUnit first)]
    rfl
  rw [unit, Memory.get, Map.get, Map.get?_filter (fun a => !(first ≤ a && a < first + 0x10000)), if_neg (by rw [inside]; simp)]
  rfl

/-- A unit of a range is zeroed (R415). -/
theorem State.scrubUnit_range {k base : Nat} (h : unitOf (s.part p).scrubHeld.ranges k = some base) (dram : isDram base = true)
    {i : Nat} (inUnit : i < 0x10000) : Memory.get (s.scrubUnit p 3 k).dram (base + i) = 0 := by
  have unit : s.scrubUnit p 3 k = s.zeroLines base 0x10000 := by
    unfold State.scrubUnit
    dsimp only
    rw [h]
    exact if_pos dram
  rw [unit]
  exact State.zeroLines_zeroes s base 0x10000 i inUnit

/-! ## A step of the engine -/

/-- The engine zeroes the next unit of its phase (R468). -/
theorem execScrubPhaseEnd_unit (on : (s.part p).scrubOn = true)
    (unit : (s.part p).scrubUnits < (s.part p).scrubHeld.work (s.part p).scrubPhase) :
    exec (.scrubPhaseEnd p) s = .next ((s.scrubUnit p (s.part p).scrubPhase (s.part p).scrubUnits).modPart p
      (fun x => { x with scrubUnits := x.scrubUnits + 1 })) := by
  show execScrubPhaseEnd p s = _
  unfold execScrubPhaseEnd
  simp only [on, Bool.not_true, Bool.false_eq_true, if_false, if_pos unit]

/-- The machine after a phase before the last: phase 0 takes the key slots (R415). -/
def State.scrubKeys (s : State) (p : Nat) : State :=
  if (s.part p).scrubPhase ≠ 0 then s
  else { s with keys := (s.part p).scrubHeld.keys.foldl (fun k d => Map.del k (256 * d.1 + d.2)) s.keys }

/-- After the last unit of another phase the next one begins (R468). -/
theorem execScrubPhaseEnd_next (on : (s.part p).scrubOn = true)
    (finished : ¬ (s.part p).scrubUnits < (s.part p).scrubHeld.work (s.part p).scrubPhase) (phase : (s.part p).scrubPhase < 3) :
    exec (.scrubPhaseEnd p) s = .next ((s.scrubKeys p).modPart p
      (fun x => { x with scrubPhase := x.scrubPhase + 1, scrubUnits := 0 })) := by
  show execScrubPhaseEnd p s = _
  unfold execScrubPhaseEnd
  simp only [on, Bool.not_true, Bool.false_eq_true, if_false, if_neg finished, if_pos phase]
  rfl

/-- The partition whose scrub has completed (R415, R417). -/
def Partition.scrubbed (x : Partition) : Partition :=
  ({ x with scrubDone := true, scrubQuar := false, scrubOn := false, scrubHeld := ⟨[], [], [], []⟩ } : Partition).raise 3

/-- After the last unit of phase 3 the scrub has completed (R415, R417). -/
theorem execScrubPhaseEnd_done (present : p < s.partitions.length) (on : (s.part p).scrubOn = true)
    (finished : ¬ (s.part p).scrubUnits < (s.part p).scrubHeld.work (s.part p).scrubPhase) (phase : (s.part p).scrubPhase = 3) :
    ∃ u, exec (.scrubPhaseEnd p) s = .next u ∧ u.part p = (s.part p).scrubbed := by
  show ∃ u, execScrubPhaseEnd p s = .next u ∧ _
  unfold execScrubPhaseEnd
  simp only [on, Bool.not_true, Bool.false_eq_true, if_false, if_neg finished, if_neg (show ¬ (s.part p).scrubPhase < 3 by omega)]
  refine ⟨_, rfl, ?_⟩
  split
  · rw [State.rewriteHealth_part, State.part_modPart, if_pos ⟨rfl, present⟩]
    rfl
  · rw [State.part_modPart, if_pos ⟨rfl, present⟩]
    rfl

/-- Keys that are taken one after another name nothing. -/
theorem Map.get?_foldl_del {α : Type} (ks : List (Nat × Nat)) (m : Map α) {a : Nat}
    (gone : Map.get? m a = none ∨ ∃ d ∈ ks, 256 * d.1 + d.2 = a) :
    Map.get? (ks.foldl (fun k d => Map.del k (256 * d.1 + d.2)) m) a = none := by
  induction ks generalizing m with
  | nil =>
    rcases gone with free | ⟨d, hd, -⟩
    · exact free
    · cases hd
  | cons d ks ih =>
    rw [List.foldl_cons]
    refine ih _ ?_
    rw [Map.get?_del]
    rcases gone with free | ⟨e, he, same⟩
    · left
      split
      · rfl
      · exact free
    · rcases List.mem_cons.1 he with rfl | later
      · exact .inl (if_pos same)
      · exact .inr ⟨e, later, same⟩

/-- The end of phase 0 or of another leaves the partitions. -/
theorem State.scrubKeys_partitions (s : State) (p : Nat) : (s.scrubKeys p).partitions = s.partitions := by
  unfold State.scrubKeys
  split <;> rfl

/-- A partition after a change of it, in a machine with the same partitions. -/
theorem State.part_modPart_of {t : State} (h : t.partitions = s.partitions) (present : p < s.partitions.length)
    (f : Partition → Partition) : (t.modPart p f).part p = f (s.part p) := by
  rw [State.part_modPart, if_pos ⟨rfl, by rw [h]; exact present⟩, State.part, h]
  rfl

end

/-- Settles O55: the GO by `Partition.scrubStarted`, a step of the engine by whether its phase has a unit left, and which it is. -/
theorem scrubEvents : Obligations.ScrubEvents := by
  refine ⟨fun p w s present go may => ?_, fun p w s => execScrubGo_ignored, fun p s present on => ?_, fun p s present => ?_⟩
  · obtain ⟨u, starts, part⟩ := execScrubGo_starts present go may
    refine ⟨u, starts, ?_⟩
    dsimp only
    rw [part]
    obtain ⟨done, phase, units, runs, quar, held, ctl⟩ := (s.part p).scrubStarted_fields (w &&& 0x0000FFFF000FFF03)
      (s.scrubTakes p (w &&& 0x0000FFFF000FFF03))
    refine ⟨done, phase, units, runs, quar, fun fresh => ?_⟩
    rw [held, ctl]
    exact if_neg (Bool.eq_false_iff.1 fresh)
  · intro x unit
    by_cases left : unit
    · refine ⟨_, execScrubPhaseEnd_unit on left, fun _ => ?_, fun _ phase n die piece k inUnit => ?_,
        fun _ phase base range dram k inUnit => ?_, fun _ phase core named kt team there => ?_, fun finished => absurd left finished,
        fun finished => absurd left finished⟩
      · rw [State.part_modPart_of (State.scrubUnit_partitions ..) present]
        exact ⟨rfl, rfl, rfl⟩
      · rw [show (s.part p).scrubPhase = 2 from phase]
        exact State.scrubUnit_piece piece inUnit
      · rw [show (s.part p).scrubPhase = 3 from phase]
        exact State.scrubUnit_range range dram inUnit
      · rw [show (s.part p).scrubPhase = 1 from phase]
        exact State.scrubUnit_core named team there
    · by_cases last : x.scrubPhase = 3
      · obtain ⟨u, done, part⟩ := execScrubPhaseEnd_done present on left last
        refine ⟨u, done, fun more => absurd more left, fun more => absurd more left, fun more => absurd more left,
          fun more => absurd more left, fun _ before => absurd last (by omega), fun _ _ => ?_⟩
        rw [part, Partition.scrubbed, Partition.raise_eq]
        exact ⟨rfl, rfl⟩
      · by_cases before : x.scrubPhase < 3
        · refine ⟨_, execScrubPhaseEnd_next on left before, fun more => absurd more left, fun more => absurd more left,
            fun more => absurd more left, fun more => absurd more left, fun _ _ => ?_, fun _ phase => absurd phase last⟩
          rw [State.part_modPart_of (State.scrubKeys_partitions ..) present]
          refine ⟨rfl, rfl, rfl, fun first d hd => ?_⟩
          rw [State.modPart_keys, State.scrubKeys, if_neg (not_not.2 first)]
          exact Map.get?_foldl_del _ _ (.inr ⟨d, hd, rfl⟩)
        · obtain ⟨u, answers⟩ := exec_isNext (.scrubPhaseEnd p) s
          exact ⟨u, answers, fun more => absurd more left, fun more => absurd more left, fun more => absurd more left,
            fun more => absurd more left, fun _ phase => absurd phase before, fun _ phase => absurd phase last⟩
  · refine ⟨_, rfl, ?_⟩
    dsimp only
    rw [State.part_modPart, if_pos ⟨rfl, present⟩]
    simp [Partition.clear]

/-- Settles O56: at the end of phase 3, and at a GO of a quarantined partition. -/
theorem scrubInterrupt : Obligations.ScrubInterrupt := by
  refine ⟨fun p s present on phase finished => ?_, fun p w s present go again => ?_⟩
  · have none_left : ¬ (s.part p).scrubUnits < (s.part p).scrubHeld.work (s.part p).scrubPhase := by
      rw [phase]
      exact Nat.not_lt.2 finished
    obtain ⟨u, done, part⟩ := execScrubPhaseEnd_done present on none_left phase
    refine ⟨u, done, ?_⟩
    dsimp only
    rw [part]
    exact Partition.mem_raise _ 3
  · obtain ⟨u, starts, part⟩ := execScrubGo_starts present go (.inr again)
    refine ⟨u, starts, ?_⟩
    dsimp only
    rw [part]
    exact Partition.scrubStarted_raises _ _ _ again

end Sys2Proof.Machine
end

section
/-! PROOFS. Resets, and the events of the management core's registers: the flash, the seal, measurements and assignments (R343,
R412, R413, R416, R459–R462, R467). -/

namespace Sys2Proof.Machine

/-! ## Resets -/

section
variable (s : State)

/-- The machine after a device reset, before its numbers are assigned afresh (R1, R416). -/
def State.afterReset : State :=
  { State.reset with
    cores := ((List.range s.cores.length).zip s.cores).map (fun (k, c) =>
      { Core.reset k with
        fenced := c.fenced, deactivated := c.deactivated, demerits := c.demerits
        deadline := if c.demerits = 0 then 0 else 2 ^ 42 })
    partitions := s.partitions.map Partition.afterReset
    dram := s.dram, hostMem := s.hostMem, cipher := s.cipher, errors := s.errors, soft := s.soft, retired := s.retired
    configuration := s.configuration
    mirrors := s.mirrors, health := s.health
    mgmt := s.mgmt.afterReset s.nonce, agenda := s.agenda
    nonce := s.nonce + 1, nextId := s.nextId, issues := s.issues }

/-- What holds after the numbers are assigned, and after the health record is rewritten too, holds after a device reset (R413,
R416). -/
theorem deviceReset_answers {property : State → Prop} (plain : property s.afterReset.renumber)
    (rewritten : property s.afterReset.renumber.rewriteHealth) : Answers .deviceReset s property := by
  refine ⟨if s.partitions.any (·.scrubOn) then s.afterReset.renumber.rewriteHealth else s.afterReset.renumber, rfl, ?_⟩
  split
  · exact rewritten
  · exact plain

/-- A partition after a device reset (R416, R467). -/
theorem State.afterReset_part {p : Nat} (present : p < s.partitions.length) :
    s.afterReset.renumber.part p = (s.part p).afterReset := by
  show ((s.partitions.map Partition.afterReset)[p]?).getD Partition.reset = _
  rw [State.part, List.getElem?_map, List.getElem?_eq_getElem present]
  rfl

/-- What a partition keeps over a device reset (R416, R467). -/
theorem Partition.afterReset_keeps (x : Partition) : x.afterReset.scrubCtl = x.scrubCtl ∧
    x.afterReset.scrubRanges = x.scrubRanges ∧ x.afterReset.scrubQuar = x.scrubHolds ∧ x.afterReset.scrubDone = !x.scrubHolds ∧
    (x.scrubHolds = true → x.afterReset.scrubHeld = x.scrubHeld) :=
  ⟨rfl, rfl, rfl, rfl, fun held => if_pos held⟩

/-- What a core keeps over a device reset, and whether it takes a number (R1, R343, R410). -/
theorem State.afterReset_core {c : Nat} (present : c < s.cores.length) :
    let x := s.afterReset.renumber.core c
    x.fenced = (s.core c).fenced ∧ x.deactivated = (s.core c).deactivated ∧ x.demerits = (s.core c).demerits ∧
      x.active = (!(s.core c).fenced && !(s.core c).deactivated) := by
  have before : s.core c = s.cores[c] := by
    rw [State.core, List.getElem?_eq_getElem present]
    rfl
  unfold State.renumber
  rw [State.core]
  dsimp only
  rw [getElem?_map_zip_range, State.afterReset, getElem?_map_zip_range, List.getElem?_eq_getElem present, before]
  exact ⟨rfl, rfl, rfl, rfl⟩

end

/-- Settles O57: a device reset as `State.afterReset`, a reset of the management core by what it keeps. -/
theorem resets : Obligations.Resets := by
  refine ⟨fun s => ?_, fun s c present => ?_, fun s => ⟨_, rfl, rfl, rfl, rfl, rfl, rfl, rfl, rfl, rfl⟩⟩
  · have parts (p : Nat) (present : p < s.partitions.length) :
        let x := s.afterReset.renumber.part p
        x.scrubCtl = (s.part p).scrubCtl ∧ x.scrubRanges = (s.part p).scrubRanges ∧ x.scrubQuar = (s.part p).scrubHolds ∧
          x.scrubDone = !(s.part p).scrubHolds ∧ ((s.part p).scrubHolds = true → x.scrubHeld = (s.part p).scrubHeld) := by
      rw [s.afterReset_part present]
      exact (s.part p).afterReset_keeps
    exact deviceReset_answers s ⟨rfl, rfl, rfl, rfl, rfl, parts⟩ ⟨rfl, rfl, rfl, rfl, rfl, parts⟩
  · exact deviceReset_answers s (s.afterReset_core present) (s.afterReset_core present)

/-! ## Registers -/

section
variable {s : State}

/-- A doubleword is programmed after the jump (R460). -/
theorem execFlashProgram_programs {a : Nat} (w : Dword) (jumped : s.mgmt.jumped = true) (aligned : a % 8 = 0)
    (low : 0x20000000 ≤ a) (high : a < 0x22000000) : exec (.flashProgram a w) s =
      .next (s.modMgmt (fun m => { m with flash := Memory.putBytes m.flash (a - 0x20000000) (leBytes w.toNat 8) })) := by
  show execFlashProgram a w s = _
  rw [execFlashProgram, if_pos ⟨jumped, aligned, low, high⟩]

/-- Before the jump nothing is programmed (R460). -/
theorem execFlashProgram_closed {a : Nat} (w : Dword) (closed : s.mgmt.jumped = false) :
    exec (.flashProgram a w) s = .next s := by
  show execFlashProgram a w s = _
  rw [execFlashProgram, if_neg]
  rintro ⟨jumped, -⟩
  rw [closed] at jumped
  cases jumped

/-- The seal passes where there is a key under which the signature verifies (R462). -/
theorem Mgmt.sealPasses_iff (m : Mgmt) : m.sealPasses = true ↔ ∃ q, m.imageKey = some q ∧
    ecdsaVerify q (beNumber m.sealDig) (beNumber (m.sealSig.take 6)) (beNumber (m.sealSig.drop 6)) = true := by
  unfold Mgmt.sealPasses
  cases m.imageKey <;> simp

/-- A busy seal ends in pass or fail (R462). -/
theorem execSealResult_busy (busy : s.mgmt.sealState = 1) :
    exec .sealResult s = .next (s.modMgmt (fun m => { m with sealState := if m.sealPasses then 2 else 3 })) := by
  show execSealResult s = _
  rw [execSealResult, if_pos busy]

/-- A write with EXTEND extends one measurement (R462). -/
theorem execMeasExtend_extends {w : Dword} (extend : w.getLsbD 63 = true) : exec (.measExtend w) s =
    .next (s.modMgmt (fun m => { m with
      meas := modNth (fun x => sha384 (dwordBytes x ++ dwordBytes m.measExt)) (bits w.toNat 2 0) m.meas })) := by
  show execMeasExtend w s = _
  rw [execMeasExtend, extend]
  rfl

/-- A load of a measurement register latches it (R462). -/
theorem execMeasLatch_latches {n : Nat} (inRange : n < 8) : exec (.measLatch n) s = .next (s.latch n) := by
  show execMeasLatch n s = _
  rw [execMeasLatch, if_pos inRange]

/-- The CODE for a core that no scrub holds: 3 out of use, 0 else (R461). -/
theorem State.assignCode_free {core : Nat} (free : s.partitions.all (fun p => !p.scrubHeld.cores.contains core) = true) :
    s.assignCode core = if (s.core core).fenced || (s.core core).deactivated then 3 else 0 := by
  have unheld (p : Partition → Bool) : s.partitions.any (fun x => x.scrubHeld.cores.contains core && p x) = false := by
    refine List.any_eq_false.2 fun x hx => ?_
    have none_held := List.all_eq_true.1 free x hx
    rw [Bool.not_eq_true'] at none_held
    rw [none_held]
    exact Bool.false_ne_true
  unfold State.assignCode
  simp only [unheld, Bool.false_eq_true, if_false]

/-- An assignment takes a core where its CODE is 0 (R461). -/
theorem execAssign_eq (w : Dword) : exec (.assign w) s = .next (
    let core := bits w.toNat 6 0
    let coded := s.modMgmt (fun m => { m with assignCode := s.assignCode core })
    if s.assignCode core = 0 then coded.modCore core (fun c => { c with context := some (bits w.toNat 15 8) }) else coded) := rfl

end

/-- Settles O58: the flash by its bytes, the seal by `Mgmt.sealPasses`, measurements by their register, and an assignment by its
CODE. -/
theorem managementEvents : Obligations.ManagementEvents := by
  refine ⟨fun a w s jumped aligned low high => ⟨_, execFlashProgram_programs w jumped aligned low high, fun i inWord => ?_,
      fun b outside => ?_⟩, fun a w s => execFlashProgram_closed w, fun w s => ⟨_, rfl, rfl⟩,
    fun s busy => ⟨_, execSealResult_busy busy, ?_⟩, fun w s x extend measured => ⟨_, execMeasExtend_extends extend, ?_⟩,
    fun n s x measured inRange => ⟨_, execMeasLatch_latches inRange, ?_⟩, ?_⟩
  · show Memory.get (Memory.putBytes s.mgmt.flash (a - 0x20000000) (leBytes w.toNat 8)) _ = _
    rw [Memory.get_putBytes, length_leBytes, if_pos (by omega), Nat.add_sub_cancel_left]
    rfl
  · show Memory.get (Memory.putBytes s.mgmt.flash (a - 0x20000000) (leBytes w.toNat 8)) b = _
    rw [Memory.get_putBytes, length_leBytes, if_neg (by omega)]
  · have passes := s.mgmt.sealPasses_iff
    show ((if s.mgmt.sealPasses then 2 else 3) = 2 ∨ (if s.mgmt.sealPasses then 2 else 3) = 3) ∧
      ((if s.mgmt.sealPasses then 2 else 3) = 2 ↔ _) ∧ (_ → (if s.mgmt.sealPasses then 2 else 3) = 3)
    rw [← passes]
    cases verdict : s.mgmt.sealPasses
    · simp
    · refine ⟨.inl rfl, by simp, fun keyless => ?_⟩
      obtain ⟨q, key, -⟩ := passes.1 verdict
      rw [keyless] at key
      cases key
  · refine ⟨?_, fun n other => ?_⟩
    · show (modNth _ _ s.mgmt.meas)[bits w.toNat 2 0]? = _
      rw [modNth_getElem?, if_pos rfl, measured]
      rfl
    · show (modNth _ _ s.mgmt.meas)[n]? = _
      rw [modNth_getElem?, if_neg other]
  · show Map.get? (Map.put s.mgmt.latches n (s.mgmt.meas.getD n (List.replicate 6 0))) n = some x
    rw [Map.get?_put, if_pos rfl, List.getD_eq_getElem?_getD, measured]
    rfl
  · intro w s core present free
    refine ⟨_, execAssign_eq w, fun fenced deactivated => ?_, fun unused => ?_⟩
    · dsimp only
      rw [State.assignCode_free free, fenced, deactivated, Bool.or_false, if_neg Bool.false_ne_true, if_pos rfl, State.core_modCore,
        if_pos ⟨rfl, present⟩]
      exact ⟨rfl, rfl⟩
    · have out : ((s.core core).fenced || (s.core core).deactivated) = true := by simpa using unused
      dsimp only
      rw [State.assignCode_free free, out, if_pos rfl, if_neg (by decide)]
      exact ⟨rfl, rfl⟩

end Sys2Proof.Machine
end

section
/-! PROOFS. One instruction of the management core (R459, R460, R463). -/

namespace Sys2Proof.Machine

/-! ## Registers and traps -/

/-- A control and status register after a write of one. -/
theorem Mgmt.csr_setCsr (m : Mgmt) {n k : Nat} (other : n ≠ k) (x : Nat) : (m.setCsr k x).csr n = m.csr n := by
  show (Map.get (Map.put m.csrs k (BitVec.ofNat 64 x)) n 0).toNat = _
  rw [Map.get_put, if_neg other]
  rfl

/-- A trap goes to the vector (RISC-V privileged architecture). -/
theorem Mgmt.trap_pc (m : Mgmt) (cause tval : Nat) : (m.trap cause tval).pc = BitVec.ofNat 64 (m.csr 0x305 / 4 * 4) := by
  show BitVec.ofNat 64 (_ / 4 * 4) = _
  rw [Mgmt.csr_setCsr _ (by decide), Mgmt.csr_setCsr _ (by decide), Mgmt.csr_setCsr _ (by decide), Mgmt.csr_setCsr _ (by decide)]

/-- A register after its write holds the number modulo 2^64; x0 takes nothing. -/
theorem Mgmt.reg64_setReg (m : Mgmt) {n : Nat} (nonzero : n ≠ 0) (x : Nat) : (m.setReg n x).reg64 n = x % 2 ^ 64 := by
  rw [Mgmt.setReg, if_neg nonzero, Mgmt.reg64, if_neg nonzero, Map.get_put, if_pos rfl, BitVec.toNat_ofNat]

/-! ## The outcomes of an instruction -/

section
variable {s : State} {w n : Nat}

/-- An instruction that goes on. -/
theorem execMgmtCoreInstruction_goes {t : State} {pc : Nat} (fetched : s.rvFetch = .ok (w, n)) (goes : s.rvExec w n = .ok (t, pc)) :
    exec .mgmtCoreInstruction s = .next (t.modMgmt (·.advance s.mgmt.pc.toNat pc)) := by
  show execMgmtCoreInstruction s = _
  rw [execMgmtCoreInstruction, fetched]
  dsimp only
  rw [goes]

/-- An instruction that faults. -/
theorem execMgmtCoreInstruction_traps {cause tval : Nat} (fetched : s.rvFetch = .ok (w, n))
    (faults : s.rvExec w n = .error (cause, tval)) :
    exec .mgmtCoreInstruction s = .next { s with mgmt := s.mgmt.trap cause tval } := by
  show execMgmtCoreInstruction s = _
  rw [execMgmtCoreInstruction, fetched]
  dsimp only
  rw [faults]
  rfl

/-- A fetch that faults. -/
theorem execMgmtCoreInstruction_unfetched {a : Nat} (faults : s.rvFetch = .error a) :
    exec .mgmtCoreInstruction s = .next { s with mgmt := s.mgmt.trap 1 a } := by
  show execMgmtCoreInstruction s = _
  rw [execMgmtCoreInstruction, faults]
  rfl

/-! ## Instructions -/

/-- ADDI adds its immediate. -/
theorem State.rvExec_addi (op : bits w 6 0 = 0x13) (f3 : bits w 14 12 = 0) : s.rvExec w n = .ok
    (s.modMgmt (·.setReg (bits w 11 7) (s.mgmt.reg64 (bits w 19 15) + wrap 64 (sext (bits w 31 20) 12))),
      (s.mgmt.pc.toNat + n) % 2 ^ 64) := by
  unfold State.rvExec
  dsimp only
  rw [op, f3]
  rfl

/-- A load is of the address that its base and immediate give. -/
theorem State.rvExec_load (op : bits w 6 0 = 0x03) : s.rvExec w n =
    (s.rvLoad (bits w 11 7) (wrap 64 (s.mgmt.reg64 (bits w 19 15) + sext (bits w 31 20) 12)) (bits w 14 12)).map
      (fun t => (t, (s.mgmt.pc.toNat + n) % 2 ^ 64)) := by
  unfold State.rvExec
  dsimp only
  rw [op]
  rfl

/-- A store is to the address that its base and immediate give. -/
theorem State.rvExec_store (op : bits w 6 0 = 0x23) : s.rvExec w n =
    (s.rvStore (wrap 64 (s.mgmt.reg64 (bits w 19 15) + sext (bits w 31 25 * 32 + bits w 11 7) 12)) (bits w 14 12)
      (s.mgmt.reg64 (bits w 24 20))).map (fun t => (t, (s.mgmt.pc.toNat + n) % 2 ^ 64)) := by
  unfold State.rvExec
  dsimp only
  rw [op]
  rfl

/-- A doubleword store that is off its alignment faults with the cause of its range, else where the range takes none. -/
theorem State.rvStore_double_faults {a x : Nat} (cause : storeCause a = 7)
    (refused : a % 8 ≠ 0 ∨ ∀ y, s.mgmtStore a 8 y = none) : s.rvStore a 3 x = .error (7, a) := by
  unfold State.rvStore
  dsimp only
  rw [if_neg (by decide)]
  split
  · rw [cause]
  · rename_i aligned
    rcases refused with off | none_there
    · exact absurd off aligned
    · rw [show 2 ^ 3 = 8 from rfl, none_there]

/-- So does a doubleword load. -/
theorem State.rvLoad_double_faults {rd a : Nat} (cause : loadCause a = 5) (refused : s.mgmtLoad a 8 = none) :
    s.rvLoad rd a 3 = .error (5, a) := by
  unfold State.rvLoad
  dsimp only
  rw [if_neg (by decide)]
  split
  · rw [cause]
  · rw [show 2 ^ (3 % 4) = 8 from rfl, refused]

/-- An address of the plain flash window. -/
theorem mgmtRange_flash {a : Nat} (low : 0x20000000 ≤ a) (high : a < 0x22000000) :
    mgmtRange a = .flash (a - 0x20000000) := by
  unfold mgmtRange
  rw [if_neg (by omega), if_neg (by omega), if_pos ⟨low, high⟩]

/-- Before the jump the flash window takes no store (R460). -/
theorem State.mgmtStore_closed {a : Nat} (low : 0x20000000 ≤ a) (high : a < 0x22000000) (closed : s.mgmt.jumped = false)
    (y : Nat) : s.mgmtStore a 8 y = none := by
  unfold State.mgmtStore
  rw [mgmtRange_flash low high]
  dsimp only
  rw [if_neg]
  rintro ⟨-, jumped⟩
  rw [closed] at jumped
  cases jumped

/-- Outside every range a store finds nothing (R459). -/
theorem State.mgmtStore_nowhere {a : Nat} (outside : mgmtRange a = .nowhere) (k y : Nat) : s.mgmtStore a k y = none := by
  unfold State.mgmtStore
  rw [outside]

/-- So does a load (R459). -/
theorem State.mgmtLoad_nowhere {a : Nat} (outside : mgmtRange a = .nowhere) (k : Nat) : s.mgmtLoad a k = none := by
  unfold State.mgmtLoad State.mgmtFetch
  rw [outside]
  rfl

end

/-- Settles O59: the outcomes of an instruction, and the four instructions by what they decode to. -/
theorem managementCoreExecutes : Obligations.ManagementCoreExecutes := by
  refine ⟨fun s w n t pc fetched goes inRange => ?_, fun s cause tval a faults => ?_, fun s w rd fetched op f3 dest nonzero inRange => ?_,
    fun s w n fetched op f3 => ?_, fun s w n fetched f3 => ?_⟩
  · refine ⟨_, execMgmtCoreInstruction_goes fetched goes, ?_, rfl, rfl, rfl, rfl, rfl, rfl, rfl⟩
    exact BitVec.toNat_ofNat pc 64 ▸ Nat.mod_eq_of_lt inRange
  · refine ⟨{ s with mgmt := s.mgmt.trap cause tval }, ?_, rfl, s.mgmt.trap_pc cause tval⟩
    rcases faults with ⟨unfetched, rfl, rfl⟩ | ⟨w, n, fetched, faults⟩
    · exact execMgmtCoreInstruction_unfetched unfetched
    · exact execMgmtCoreInstruction_traps fetched faults
  · subst dest
    refine ⟨_, execMgmtCoreInstruction_goes fetched (State.rvExec_addi op f3), ?_, Mgmt.reg64_setReg s.mgmt nonzero _⟩
    show (BitVec.ofNat 64 ((s.mgmt.pc.toNat + 4) % 2 ^ 64)).toNat = _
    rw [BitVec.toNat_ofNat, Nat.mod_mod, Nat.mod_eq_of_lt inRange]
  · intro a low high closed
    refine ⟨_, execMgmtCoreInstruction_traps fetched ?_, rfl⟩
    have cause : storeCause a = 7 := by
      unfold storeCause inFlash
      rw [mgmtRange_flash low high]
      rfl
    have faults : s.rvStore a 3 (s.mgmt.reg64 (bits w 24 20)) = .error (7, a) :=
      State.rvStore_double_faults cause (closed.symm.imp_right (State.mgmtStore_closed low high))
    rw [State.rvExec_store op, f3, faults]
    rfl
  · intro base from' target
    refine ⟨fun op outside => ⟨_, execMgmtCoreInstruction_traps fetched ?_, rfl⟩,
      fun op outside => ⟨_, execMgmtCoreInstruction_traps fetched ?_, rfl⟩⟩
    · have faults : s.rvLoad (bits w 11 7) from' 3 = .error (5, from') :=
        State.rvLoad_double_faults (if_pos outside) (State.mgmtLoad_nowhere outside 8)
      rw [State.rvExec_load op, f3, faults]
      rfl
    · have faults : s.rvStore target 3 (s.mgmt.reg64 (bits w 24 20)) = .error (7, target) :=
        State.rvStore_double_faults (if_pos (.inl outside)) (.inr (State.mgmtStore_nowhere outside 8))
      rw [State.rvExec_store op, f3, faults]
      rfl

end Sys2Proof.Machine
end

section
/-! PROOFS. What Gritus answers: responses and errors, measurements, sessions, and key slots (R413, R414, R466). -/

namespace Sys2Proof.Machine

/-! ## Responses -/

section
variable {s : State}

/-- Before the first stage has entered Gritus there is no response (R466). -/
theorem State.gritus_silent (before : s.mgmt.jumped = false) (act : State → State) :
    s.gritus act = .next { s with reply := [] } := by
  rw [State.gritus, before]
  rfl

/-- After it a request acts (R466). -/
theorem State.gritus_acts (jumped : s.mgmt.jumped = true) (act : State → State) : s.gritus act = .next (act s) := by
  rw [State.gritus, jumped]
  rfl

/-- A request that acts has what its act has. -/
theorem answers_of_gritus {i : Instr} {act : State → State} {property : State → Prop} (hx : exec i s = s.gritus act)
    (jumped : s.mgmt.jumped = true) (holds : property (act s)) : Answers i s property :=
  ⟨act s, hx.trans (State.gritus_acts jumped act), holds⟩

/-- A response has the version of its request and the request's code without the high bit (R413). -/
theorem State.respond_code (s : State) (v : Byte) (rest : List Byte) (code : Nat) : ∃ body,
    s.respond (v :: rest) code = { s with reply := v :: BitVec.ofNat 8 (code - 0x80) :: body, nonce := s.nonce + 1 } :=
  ⟨Config.spdmBody s.nonce, rfl⟩

/-! ## Measurements -/

/-- The answer to a measurement request before its nonce: the header with the number of blocks, then the record (R466). -/
def measAnswer (none_selected : Bool) (blocks : List (List Byte)) (tail : List Byte) : List Byte :=
  [0x13#8, 0x60#8, if none_selected then 9#8 else 0#8, 0#8] ++ leBytes blocks.length 1 ++
    leBytes blocks.flatten.length 3 ++ blocks.flatten ++ tail

/-- Its first five bytes (R466). -/
theorem measAnswer_head (none_selected : Bool) (blocks : List (List Byte)) (tail : List Byte) :
    (measAnswer none_selected blocks tail).take 5 =
      [0x13#8, 0x60#8, if none_selected then 9#8 else 0#8, 0#8] ++ leBytes blocks.length 1 := by
  unfold measAnswer
  rw [List.append_assoc, List.append_assoc]
  exact List.take_left' (by simp [length_leBytes])

/-- The length of the record and the record follow (R466). -/
theorem measAnswer_record (none_selected : Bool) (blocks : List (List Byte)) (tail : List Byte) :
    ((measAnswer none_selected blocks tail).drop 5).take (3 + blocks.flatten.length) =
      leBytes blocks.flatten.length 3 ++ blocks.flatten := by
  unfold measAnswer
  rw [List.append_assoc, List.append_assoc, List.drop_left' (by simp [length_leBytes]), ← List.append_assoc]
  exact List.take_left' (by simp [length_leBytes])

/-- The machine whose measurements the request latches (R462, R466). -/
def State.latched (s : State) (k : Nat) : State :=
  if 1 ≤ k ∧ k ≤ 8 then s.latch (k - 1) else if k = 0xFF then (List.range 8).foldl State.latch s else s

/-- A measurement request that selects blocks answers them (R466). -/
theorem execGetMeasurements_selects {k : Nat} {blocks : List (List Byte)} (sig : Bool) (context : List Byte)
    (jumped : s.mgmt.jumped = true) (selects : s.measurements k = some blocks) :
    ∃ tail, exec (.getMeasurements sig k context) s = .next ((s.latched k).answer (measAnswer (decide (k = 0)) blocks tail)) := by
  show ∃ tail, execGetMeasurements sig k context s = _
  unfold execGetMeasurements
  rw [State.gritus_acts jumped]
  dsimp only
  rw [selects]
  refine ⟨(List.range 32).map (Config.spdmByte (s.latched k).nonce) ++ leBytes 0 2 ++ context ++
    (if sig then (List.range 96).map (fun j => Config.spdmByte (s.latched k).nonce (32 + j)) else []), ?_⟩
  simp only [measAnswer, State.latched, decide_eq_true_eq, List.append_assoc]

/-- Another is answered with ERROR 1 (R466). -/
theorem execGetMeasurements_invalid {k : Nat} (sig : Bool) (context : List Byte) (jumped : s.mgmt.jumped = true)
    (invalid : s.measurements k = none) : exec (.getMeasurements sig k context) s = .next (s.answer (spdmError 1)) := by
  show execGetMeasurements sig k context s = _
  unfold execGetMeasurements
  rw [State.gritus_acts jumped]
  dsimp only
  rw [invalid]

/-- The bytes of the answer that R466 gives, for blocks of a request that selects some. -/
theorem measured {k : Nat} {blocks : List (List Byte)} {bytes : List Byte} (sig : Bool) (context : List Byte)
    (jumped : s.mgmt.jumped = true) (selects : s.measurements k = some blocks) (flat : blocks.flatten = bytes) (nonzero : k ≠ 0) :
    Answers (.getMeasurements sig k context) s (fun u =>
      u.reply.take 5 = [0x13#8, 0x60#8, 0#8, 0#8] ++ leBytes blocks.length 1 ∧
        (u.reply.drop 5).take (3 + bytes.length) = leBytes bytes.length 3 ++ bytes) := by
  subst flat
  obtain ⟨tail, answer⟩ := execGetMeasurements_selects sig context jumped selects
  rw [decide_eq_false nonzero] at answer
  exact ⟨_, answer, measAnswer_head false blocks tail, measAnswer_record false blocks tail⟩

/-- What Param2 selects (R466). -/
theorem State.measurements_cases (s : State) (k : Nat) : s.measurements 0 = some [] ∧
    (1 ≤ k ∧ k ≤ 8 ∨ k = 0x10 → s.measurements k = some [s.measurement k]) ∧
    (s.measurements 0xFF = some ([1, 2, 3, 4, 5, 6, 7, 8, 0x10].map s.measurement)) ∧
    (8 < k ∧ k ≠ 0x10 ∧ k ≠ 0xFF → s.measurements k = none) := by
  unfold State.measurements
  refine ⟨rfl, fun one => ?_, rfl, fun ⟨above, health, all⟩ => ?_⟩
  · rw [if_neg (by omega), if_pos (by omega)]
  · rw [if_neg (by omega), if_neg (by omega), if_neg all]

/-- A measurement request by its Param2 (R466). -/
theorem measurementRequests (sig : Bool) (k : Nat) (context : List Byte) (jumped : s.mgmt.jumped = true) :
    Answers (.getMeasurements sig k context) s (fun u =>
      (k = 0 → u.reply.take 8 = [0x13, 0x60, 0x09, 0x00, 0x00, 0x00, 0x00, 0x00] ∧ u.mgmt = s.mgmt) ∧
      (1 ≤ k ∧ k ≤ 8 → u.reply.take 5 = [0x13, 0x60, 0x00, 0x00, 0x01] ∧
        (u.reply.drop 5).take (3 + (s.measurement k).length) =
          leBytes (s.measurement k).length 3 ++ s.measurement k) ∧
      (k = 0x10 → u.reply.take 5 = [0x13, 0x60, 0x00, 0x00, 0x01] ∧
        (u.reply.drop 5).take (3 + (s.measurement k).length) =
          leBytes (s.measurement k).length 3 ++ s.measurement k) ∧
      (k = 0xFF →
        let all := ([1, 2, 3, 4, 5, 6, 7, 8, 0x10].map s.measurement).flatten
        u.reply.take 5 = [0x13, 0x60, 0x00, 0x00, 0x09] ∧
          (u.reply.drop 5).take (3 + all.length) = leBytes all.length 3 ++ all) ∧
      (8 < k ∧ k ≠ 0x10 ∧ k ≠ 0xFF → u = { s with reply := [0x13, 0x7F, 0x01, 0x00], nonce := s.nonce + 1 })) := by
  obtain ⟨none_selected, one_selected, all_selected, invalid⟩ := s.measurements_cases k
  by_cases zero : k = 0
  · subst zero
    obtain ⟨tail, answer⟩ := execGetMeasurements_selects sig context jumped none_selected
    exact ⟨_, answer, fun _ => ⟨rfl, rfl⟩, fun h => by omega, fun h => by omega, fun h => by omega, fun h => by omega⟩
  · by_cases one : 1 ≤ k ∧ k ≤ 8 ∨ k = 0x10
    · obtain ⟨u, answer, bytes⟩ := measured sig context jumped (one_selected one) List.flatten_singleton zero
      exact ⟨u, answer, fun h => absurd h zero, fun _ => bytes, fun _ => bytes, fun h => by omega, fun h => by omega⟩
    · by_cases all : k = 0xFF
      · subst all
        obtain ⟨u, answer, bytes⟩ := measured sig context jumped all_selected rfl zero
        exact ⟨u, answer, fun h => by omega, fun h => by omega, fun h => by omega, fun _ => bytes, fun h => by omega⟩
      · refine ⟨_, execGetMeasurements_invalid sig context jumped (invalid (by omega)), fun h => absurd h zero, fun h => by omega,
          fun h => by omega, fun h => absurd h all, fun _ => rfl⟩

/-! ## Sessions -/

/-- A request of a session that is established, or need not be, acts on it (R413). -/
theorem State.sessionRequest_session {x : Session} (open_ : s.session = some x) (request : List Byte) (code : Nat)
    {needs : Bool} (may : needs = true → x.established = true) (f : Session → Option Session) :
    (s.sessionRequest request code needs f).session = f x := by
  unfold State.sessionRequest
  rw [open_]
  dsimp only
  rw [if_neg]
  intro barred
  obtain ⟨needed, missing⟩ := Bool.and_eq_true_iff.1 barred
  rw [may needed] at missing
  cases missing

/-- So does the instruction of such a request, after the jump (R413). -/
theorem sessionRequests {i : Instr} {x : Session} (jumped : s.mgmt.jumped = true) (open_ : s.session = some x)
    {request : List Byte} {code : Nat} {needs : Bool} (may : needs = true → x.established = true) {f : Session → Option Session}
    (hx : exec i s = s.gritus (·.sessionRequest request code needs f)) : Answers i s (fun u => u.session = f x) :=
  answers_of_gritus hx jumped (State.sessionRequest_session open_ request code may f)

/-! ## Key slots -/

/-- The partition of an established session (R414). -/
theorem State.sessionPart_established {x : Session} (open_ : s.session = some x) (established : x.established = true) :
    s.sessionPart true = some x.part := by
  rw [State.sessionPart, open_]
  dsimp only
  rw [established]
  rfl

/-- Outside an established session a vendor request has none (R414). -/
theorem State.sessionPart_outside {inSession : Bool}
    (outside : inSession = false ∨ ∀ x, s.session = some x → x.established = false) : s.sessionPart inSession = none := by
  unfold State.sessionPart
  cases open_ : s.session with
  | none => rfl
  | some x =>
    dsimp only
    rw [if_neg]
    intro inside
    obtain ⟨flagged, established⟩ := Bool.and_eq_true_iff.1 inside
    rcases outside with unflagged | unestablished
    · rw [unflagged] at flagged
      cases flagged
    · rw [unestablished x open_] at established
      cases established

/-- What a key-slot request does for a partition: ERROR 7 for another form, the status that bars it, or its act (R414). -/
def State.slotRequest (s : State) (part opcode length : Nat) (payload : List Byte) (act : Nat → State) : State :=
  let bar := s.slotStatus part (field payload 1 1) (field payload 2 1)
  if field payload 0 1 ≠ opcode ∨ payload.length ≠ length ∨ field payload 3 1 ≠ 0 then s.answer (spdmError 7)
  else if bar ≠ 0 then s.answer [BitVec.ofNat 8 bar]
  else act (256 * field payload 1 1 + field payload 2 1)

/-- A load of a key takes a slot that is free (R414). -/
def State.loadKey (s : State) (key : Nat) (slot : Nat) : State :=
  if (Map.get? s.keys slot).isSome then s.answer [1#8] else { s.answer [0#8] with keys := Map.put s.keys slot (key + 1) }

/-- A zeroise takes the slot's key away (R414). -/
def State.zeroiseKey (s : State) (slot : Nat) : State := { s.answer [0#8] with keys := Map.del s.keys slot }

/-- The two vendor requests act in a session, and are errors outside one (R414). -/
theorem vendorRequests (inSession : Bool) (payload : List Byte) (jumped : s.mgmt.jumped = true) :
    exec (.vendorKeyLoad inSession payload) s = .next ((s.sessionPart inSession).elim (s.answer (spdmError 7))
      (s.slotRequest · 1 68 payload (s.loadKey (field payload 4 64)))) ∧
    exec (.vendorKeyZeroise inSession payload) s = .next ((s.sessionPart inSession).elim (s.answer (spdmError 7))
      (s.slotRequest · 2 4 payload s.zeroiseKey)) := by
  constructor
  · show execVendorKeyLoad inSession payload s = _
    unfold execVendorKeyLoad
    rw [State.gritus_acts jumped]
    cases s.sessionPart inSession <;> rfl
  · show execVendorKeyZeroise inSession payload s = _
    unfold execVendorKeyZeroise
    rw [State.gritus_acts jumped]
    cases s.sessionPart inSession <;> rfl

variable {part opcode length : Nat} {payload : List Byte} {act : Nat → State}

/-- A request of another form changes no slot (R414, log entry 72). -/
theorem State.slotRequest_refused (other : field payload 3 1 ≠ 0 ∨ field payload 0 1 ≠ opcode ∨ payload.length ≠ length) :
    s.slotRequest part opcode length payload act = s.answer (spdmError 7) := by
  unfold State.slotRequest
  exact if_pos (by tauto)

/-- A request of its form answers what bars it, or acts (R414). -/
theorem State.slotRequest_formed (code : field payload 0 1 = opcode) (size : payload.length = length)
    (zero : field payload 3 1 = 0) : s.slotRequest part opcode length payload act =
      if s.slotStatus part (field payload 1 1) (field payload 2 1) ≠ 0
      then s.answer [BitVec.ofNat 8 (s.slotStatus part (field payload 1 1) (field payload 2 1))]
      else act (256 * field payload 1 1 + field payload 2 1) := by
  unfold State.slotRequest
  exact if_neg (by tauto)

end

/-- Before the jump every request is silent (R466). -/
theorem silentRequests (s : State) (request : List Byte) (part : Nat) (sig : Bool) (k : Nat) (context : List Byte)
    (inSession : Bool) (before : s.mgmt.jumped = false) :
    let silent := fun (i : Instr) => exec i s = .next { s with reply := [] }
    silent (.getVersion request) ∧ silent (.getCapabilities request) ∧ silent (.negotiateAlgorithms request) ∧
    silent (.getDigests request) ∧ silent (.getCertificate request) ∧ silent (.challenge request) ∧
    silent (.getMeasurements sig k context) ∧ silent (.keyExchange request part) ∧ silent (.finish request) ∧
    silent (.keyUpdate request) ∧ silent (.heartbeat request) ∧ silent (.endSession request) ∧
    silent (.vendorKeyLoad inSession request) ∧ silent (.vendorKeyZeroise inSession request) ∧
    silent (.spdmUnsupportedRequest k) := by
  have quiet {i : Instr} {act : State → State} (hx : exec i s = s.gritus act) : exec i s = .next { s with reply := [] } :=
    hx.trans (State.gritus_silent before act)
  have plain {i : Instr} (code : Nat) (hx : exec i s = s.gritus (·.respond request code)) := quiet hx
  have session {i : Instr} (code : Nat) (needs : Bool) (f : Session → Option Session)
      (hx : exec i s = s.gritus (·.sessionRequest request code needs f)) := quiet hx
  have measures : exec (.getMeasurements sig k context) s = .next { s with reply := [] } := by
    show execGetMeasurements sig k context s = _
    rw [execGetMeasurements, State.gritus_silent before]
  have loads : exec (.vendorKeyLoad inSession request) s = .next { s with reply := [] } := by
    show execVendorKeyLoad inSession request s = _
    rw [execVendorKeyLoad, State.gritus_silent before]
  have zeroises : exec (.vendorKeyZeroise inSession request) s = .next { s with reply := [] } := by
    show execVendorKeyZeroise inSession request s = _
    rw [execVendorKeyZeroise, State.gritus_silent before]
  exact ⟨plain 0x84 rfl, plain 0xE1 rfl, plain 0xE3 rfl, plain 0x81 rfl, plain 0x82 rfl, plain 0x83 rfl, measures,
    quiet (act := fun s => { s.respond request 0xE4 with session := some ⟨part, false, 0⟩ }) rfl,
    session 0xE5 false (fun x => some { x with established := true }) rfl,
    session 0xE9 true (fun x => some { x with updates := x.updates + 1 }) rfl, session 0xE8 true some rfl,
    session 0xEC true (fun _ => none) rfl, loads, zeroises, quiet (act := (·.answer (spdmError 7))) rfl⟩

/-- Settles O54: silence and responses through `State.gritus`, sessions by `State.sessionRequest`, key slots by
`State.slotRequest`. -/
theorem spdmEvents : Obligations.SpdmEvents := by
  refine ⟨⟨fun s request part sig k context inSession => silentRequests s request part sig k context inSession,
    fun s v rest jumped => ?_, fun s k jumped =>
      answers_of_gritus (act := (·.answer (spdmError 7))) rfl jumped rfl, fun s sig k context =>
      measurementRequests sig k context, fun s request part jumped =>
      answers_of_gritus (act := fun s => { s.respond request 0xE4 with session := some ⟨part, false, 0⟩ }) rfl jumped rfl,
    fun s request x jumped open_ => ⟨?_, fun established => ⟨?_, ?_, ?_⟩⟩⟩, fun s x payload jumped open_ established => ?_,
    fun s inSession payload jumped => ?_⟩
  · have responds {i : Instr} (code : Nat) (hx : exec i s = s.gritus (·.respond (v :: rest) code)) : Answers i s (fun u =>
        ∃ body, u = { s with reply := v :: BitVec.ofNat 8 (code - 0x80) :: body, nonce := s.nonce + 1 }) :=
      answers_of_gritus hx jumped (s.respond_code v rest code)
    exact ⟨responds 0x84 rfl, responds 0xE1 rfl, responds 0xE3 rfl, responds 0x81 rfl, responds 0x82 rfl, responds 0x83 rfl⟩
  · exact sessionRequests jumped open_ (code := 0xE5) (needs := false) (fun needs => by cases needs)
      (f := fun x => some { x with established := true }) rfl
  · exact sessionRequests jumped open_ (code := 0xE9) (needs := true) (fun _ => established)
      (f := fun x => some { x with updates := x.updates + 1 }) rfl
  · exact sessionRequests jumped open_ (code := 0xE8) (needs := true) (fun _ => established) (f := some) rfl
  · exact sessionRequests jumped open_ (code := 0xEC) (needs := true) (fun _ => established) (f := fun _ => none) rfl
  · intro die slot bar zero
    obtain ⟨loads, zeroises⟩ := vendorRequests (s := s) true payload jumped
    rw [State.sessionPart_established open_ established, Option.elim_some] at loads zeroises
    refine ⟨fun code size => ⟨_, loads, ?_⟩, fun code size => ⟨_, zeroises, ?_⟩⟩
    · dsimp only
      rw [State.slotRequest_formed code size zero]
      refine ⟨fun free unused => ?_, fun free used => ?_, fun barred => ?_⟩
      · have slot_free : Map.get? s.keys (256 * field payload 1 1 + field payload 2 1) = none := unused
        rw [if_neg (not_not.2 free), State.loadKey, slot_free]
        exact ⟨rfl, (Map.get?_put ..).trans (if_pos rfl)⟩
      · rw [if_neg (not_not.2 free), State.loadKey, if_pos (Option.isSome_iff_ne_none.2 used)]
        exact ⟨rfl, rfl⟩
      · rw [if_pos barred]
        exact ⟨rfl, rfl⟩
    · dsimp only
      rw [State.slotRequest_formed code size zero]
      refine ⟨fun free => ?_, fun barred => ?_⟩
      · rw [if_neg (not_not.2 free)]
        exact ⟨rfl, rfl⟩
      · rw [if_pos barred]
        exact ⟨rfl, rfl⟩
  · intro refuses outside
    obtain ⟨loads, zeroises⟩ := vendorRequests (s := s) inSession payload jumped
    have not_outside {part : Nat} (session : s.sessionPart inSession = some part) : ¬ outside := fun out => by
      rw [State.sessionPart_outside out] at session
      cases session
    refine ⟨fun barred => ⟨_, loads, ?_⟩, fun barred => ⟨_, zeroises, ?_⟩⟩
    · cases session : s.sessionPart inSession with
      | none => exact ⟨rfl, rfl⟩
      | some part =>
        have other := barred.resolve_left (not_outside session)
        rw [Option.elim_some, State.slotRequest_refused other]
        exact ⟨rfl, rfl⟩
    · cases session : s.sessionPart inSession with
      | none => exact ⟨rfl, rfl⟩
      | some part =>
        have other := barred.resolve_left (not_outside session)
        rw [Option.elim_some, State.slotRequest_refused other]
        exact ⟨rfl, rfl⟩

end Sys2Proof.Machine
end
